-- ==== Sys2Proof/Word.lean ====
section
/-! DEFINITION. The word types of the Z16 and their plainest arithmetic: a byte, a 32-bit lane word, a 64-bit
scalar, a 128-bit lane mask. -/

namespace Sys2Proof

/-- A byte of memory (02 R12). -/
abbrev Byte := BitVec 8
/-- A lane word, or an order-code immediate (03 R32). -/
abbrev Word := BitVec 32
/-- A scalar register, an address, an instruction word (03 R32, 05 R68). -/
abbrev DWord := BitVec 64
/-- One bit for each lane of a wave, lane i at bit i (03 R39, EXEC). -/
abbrev Mask := BitVec 128

/-- A table that holds a default value at every index it does not list: (index, value) pairs, the indices strictly
rising and no listed value equal to the default (the form of `Table.wf` in Machine/Tables.lean). -/
abbrev Tbl (α : Type) := List (Nat × α)

end Sys2Proof
end

