-- ==== Sys2Proof/Syntax.lean ====
section
/-! DEFINITION. The syntax of the machine's steps: one constructor of `Instr` for each row of spec/opcode_table.json,
153 encoded Idoth instructions with their operands (05 R79 to R86) and 94 events of the part with theirs
(95_what_each_step_holds.md). -/

namespace Sys2Proof

/-! ## Operands (05 Table 5.3) -/

abbrev VReg := BitVec 8
abbrev SReg := BitVec 6
abbrev PReg := BitVec 3
abbrev AReg := BitVec 3
abbrev FReg := BitVec 3
abbrev FcReg := BitVec 4
abbrev TileNo := BitVec 6
abbrev WinNo := BitVec 4
/-- An inline integer: selector minus 0x180, so the value is the number minus 32 (05 R72). -/
abbrev Inl := BitVec 6
/-- An inline float: selector minus 0x1C0, an index of Table 5.4 (05 R73). -/
abbrev Flt := BitVec 5

/-- The guard of bits [54:51]: lanes with pGP set, or clear when `neg` (05 R69). -/
structure Guard where
  neg : Bool
  p : PReg
deriving DecidableEq, Repr

/-- A source that is an s register or an inline integer. -/
inductive SSrc where
  | s (r : SReg)
  | int (i : Inl)
deriving DecidableEq, Repr

/-- The source of SMOV (05 Table 5.10). -/
inductive SMovSrc where
  | s (r : SReg)
  | fc (r : FcReg)
  | int (i : Inl)
  | flt (i : Flt)
deriving DecidableEq, Repr

/-- An integer lane source: v, s or inline integer (05 Table 5.11). -/
inductive VSrc where
  | v (r : VReg)
  | s (r : SReg)
  | int (i : Inl)
deriving DecidableEq, Repr

/-- The source of VMOV and the fallback of VSHFL. -/
inductive VMovSrc where
  | v (r : VReg)
  | s (r : SReg)
  | int (i : Inl)
  | flt (i : Flt)
deriving DecidableEq, Repr

/-- A float lane source: v, s or inline float (05 R81). -/
inductive FSrc where
  | v (r : VReg)
  | s (r : SReg)
  | flt (i : Flt)
deriving DecidableEq, Repr

/-- The source of VCVT: v (or the even pair it names), or s (05 Table 5.12). -/
inductive CvtSrc where
  | v (r : VReg)
  | s (r : SReg)
deriving DecidableEq, Repr

/-- A destination that is an s register or a v register (SGET, VREDUCE). -/
inductive SVDst where
  | s (r : SReg)
  | v (r : VReg)
deriving DecidableEq, Repr

/-- The base of a load or a PREF: an s register, an even pair, or a window (07 R119). -/
inductive LdBase where
  | s (r : SReg)
  | v (r : VReg)
  | w (n : WinNo)
deriving DecidableEq, Repr

/-- The base of a store. -/
inductive StBase where
  | s (r : SReg)
  | v (r : VReg)
deriving DecidableEq, Repr

/-- The offset of an M-format instruction: v, or an unsigned inline integer. -/
inductive Off where
  | v (r : VReg)
  | int (i : Inl)
deriving DecidableEq, Repr

/-- The source of CPIN: a global address, or a window (07 R156). -/
inductive CpSrc where
  | s (r : SReg)
  | w (n : WinNo)
deriving DecidableEq, Repr

/-- A grate operand: a tile or a fibre (09 R216). -/
inductive GSrc where
  | tile (n : TileNo)
  | fib (n : FReg)
deriving DecidableEq, Repr

/-- The vote of VVOTE with its source (06 R116). -/
inductive Vote where
  | all (p : PReg)
  | any (p : PReg)
  | uni (v : VReg)
deriving DecidableEq, Repr

/-- Access sizes (05 Table 5.7). -/
inductive Size where
  | b8 | b16 | b32 | b64 | b128 | b4
deriving DecidableEq, Repr

/-- Spaces (07 Table 7.2). -/
inductive Space where
  | global | stash | priv | window
deriving DecidableEq, Repr

/-- Collision rules (05 Table 5.7). -/
inductive Rule where
  | lo | any | sum | flt
deriving DecidableEq, Repr

/-- Allocation hints of loads (13 R278). -/
inductive Hint where
  | normal | stream | keep
deriving DecidableEq, Repr

/-- Rounding modes (02 Table 2.5). -/
inductive Rnd where
  | rne | rz | ru | rd | sr
deriving DecidableEq, Repr

/-- Element types of VCVT (05 Table 5.6). -/
inductive ETy where
  | f32 | i32 | u32 | f16 | bf16 | e4m3 | e5m2 | e2m1 | i8 | i4
deriving DecidableEq, Repr

/-- Integer compare conditions (05 Table 5.6). -/
inductive Cond where
  | eq | ne | lt | le | gt | ge
deriving DecidableEq, Repr

/-- Float compare conditions (05 Table 5.6). -/
inductive FCond where
  | eq | ne | lt | le | gt | ge | un | ord
deriving DecidableEq, Repr

/-- Operations of VSCAN and VREDUCE. -/
inductive RedOp where
  | add | min | max | and | or | xor
deriving DecidableEq, Repr

/-- Types of VSCAN and VREDUCE. -/
inductive RedTy where
  | i32 | u32 | f32
deriving DecidableEq, Repr

/-- Dataflows (03 Table 3.4); `fmt` takes FMT.DF (05 Table 5.8). -/
inductive Flow where
  | ip | op | rw | fmt
deriving DecidableEq, Repr

/-- Special registers (03 Table 3.3). -/
inductive Spr where
  | exec | faultmask | fmt | laneid | waveix | groupix | gkey | stepno | icount | clock | time | dieid | hearthid
  | width | ember | trapcause | trappc | trapaddr | karg | seed | fpflags | eject
deriving DecidableEq, Repr

/-- Context registers (08 Table 8.5). -/
inductive Csr where
  | tba | tsp | tscratch | fpolicy | ctxcfg | ctxid | steplimit | hanglimit | dtbase | dtsize | rlbase | rlsize
  | elbase | elsize | clbase | clsize
deriving DecidableEq, Repr

/-- What a peer line brings: its bytes, the sender's name of its transfer, and whether it is the transfer's last line (22 R339). -/
structure PeerData where
  bytes : List Byte
  transfer : Nat
  last : Bool
deriving DecidableEq, Repr

/-- An outbound peer line that is not acknowledged, and whether its peer has refused it (22 R341). -/
structure PeerEnd where
  line : Nat
  refused : Bool
deriving DecidableEq, Repr

/-- A host command: the eight words of CMDBUF (22 R345). -/
structure Cmd where
  w0 : DWord
  w1 : DWord
  w2 : DWord
  w3 : DWord
  w4 : DWord
  w5 : DWord
  w6 : DWord
  w7 : DWord
deriving DecidableEq, Repr

/-- TDISP states of a function (22 R333). -/
inductive Tdisp where
  | configUnlocked | configLocked | run | error
deriving DecidableEq, Repr

/-- The machine's steps, in the order of spec/opcode_table.json. An encoded instruction carries the operands of its
word; an event carries what it acts on: a wave or ember lane `t`, one of its outstanding operations `op`, a hearth
`h` (die x 128 + hearth), a copy `c` of that hearth, a grid `g`, a group `p`, a context, a die with the command its
function runs. -/
inductive Instr where
  /-- CLAUSE_START (R66). -/
  | clauseStart (t : Nat)
  /-- SMOV (R93). -/
  | smov (d : SReg) (a : SMovSrc)
  /-- SMOVI (R93). -/
  | smovi (d : SReg) (imm : Word)
  /-- SMOVHI (R93). -/
  | smovhi (d : SReg) (imm : Word)
  /-- SADD (R94). -/
  | sadd (d : SReg) (a b : SSrc)
  /-- SADDI (R94). -/
  | saddi (d a : SReg) (imm : Word)
  /-- SSUB (R94). -/
  | ssub (d : SReg) (a b : SSrc)
  /-- SMUL (R94). -/
  | smul (d : SReg) (a b : SSrc)
  /-- SMULH (R94). -/
  | smulh (d : SReg) (a b : SSrc)
  /-- SMULHU (R94). -/
  | smulhu (d : SReg) (a b : SSrc)
  /-- SAND (R94). -/
  | sand (d : SReg) (a b : SSrc)
  /-- SOR (R94). -/
  | sor (d : SReg) (a b : SSrc)
  /-- SXOR (R94). -/
  | sxor (d : SReg) (a b : SSrc)
  /-- SNOT (R94). -/
  | snot (d : SReg) (a : SSrc)
  /-- SSHL (R94). -/
  | sshl (d : SReg) (a b : SSrc)
  /-- SSHR (R94). -/
  | sshr (d : SReg) (a b : SSrc)
  /-- SSAR (R94). -/
  | ssar (d : SReg) (a b : SSrc)
  /-- SMIN (R94). -/
  | smin (d : SReg) (a b : SSrc)
  /-- SMAX (R94). -/
  | smax (d : SReg) (a b : SSrc)
  /-- SMINU (R94). -/
  | sminu (d : SReg) (a b : SSrc)
  /-- SMAXU (R94). -/
  | smaxu (d : SReg) (a b : SSrc)
  /-- SCMP (R94). -/
  | scmp (c : Cond) (d : SReg) (a b : SSrc)
  /-- SCMPU (R94). -/
  | scmpu (c : Cond) (d : SReg) (a b : SSrc)
  /-- SSEL (R94). -/
  | ssel (d : SReg) (a b c : SSrc)
  /-- SPOPC (R94). -/
  | spopc (d a : SReg)
  /-- SCLZ (R94). -/
  | sclz (d a : SReg)
  /-- SLD (R95). -/
  | sld (priv wide : Bool) (d a : SReg) (b : SSrc)
  /-- SLDK (R96). -/
  | sldk (d : SReg) (mode : BitVec 2) (off : BitVec 12)
  /-- SGET (R97). -/
  | sget (g : Guard) (d : SVDst) (r : Spr)
  /-- SSET (R98). -/
  | sset (r : Spr) (a : SSrc)
  /-- SETFMT (R99). -/
  | setfmt (f : BitVec 13)
  /-- SREADLANE (R100). -/
  | sreadlane (d : SReg) (a : VReg) (lane : SSrc)
  /-- VMOV (R101). -/
  | vmov (g : Guard) (d : VReg) (a : VMovSrc)
  /-- VMOVI (R101). -/
  | vmovi (g : Guard) (d : VReg) (imm : Word)
  /-- VADD (R101). -/
  | vadd (g : Guard) (d : VReg) (a b : VSrc)
  /-- VADDI (R101). -/
  | vaddi (g : Guard) (d a : VReg) (imm : Word)
  /-- VSUB (R101). -/
  | vsub (g : Guard) (d : VReg) (a b : VSrc)
  /-- VMUL (R101). -/
  | vmul (g : Guard) (d : VReg) (a b : VSrc)
  /-- VMULH (R101). -/
  | vmulh (g : Guard) (d : VReg) (a b : VSrc)
  /-- VMULHU (R101). -/
  | vmulhu (g : Guard) (d : VReg) (a b : VSrc)
  /-- VMAD (R101). -/
  | vmad (g : Guard) (d : VReg) (a b c : VSrc)
  /-- VAND (R101). -/
  | vand (g : Guard) (d : VReg) (a b : VSrc)
  /-- VOR (R101). -/
  | vor (g : Guard) (d : VReg) (a b : VSrc)
  /-- VXOR (R101). -/
  | vxor (g : Guard) (d : VReg) (a b : VSrc)
  /-- VNOT (R101). -/
  | vnot (g : Guard) (d : VReg) (a : VSrc)
  /-- VSHL (R101). -/
  | vshl (g : Guard) (d : VReg) (a b : VSrc)
  /-- VSHR (R101). -/
  | vshr (g : Guard) (d : VReg) (a b : VSrc)
  /-- VSAR (R101). -/
  | vsar (g : Guard) (d : VReg) (a b : VSrc)
  /-- VMIN (R101). -/
  | vmin (g : Guard) (d : VReg) (a b : VSrc)
  /-- VMAX (R101). -/
  | vmax (g : Guard) (d : VReg) (a b : VSrc)
  /-- VMINU (R101). -/
  | vminu (g : Guard) (d : VReg) (a b : VSrc)
  /-- VMAXU (R101). -/
  | vmaxu (g : Guard) (d : VReg) (a b : VSrc)
  /-- VABS (R101). -/
  | vabs (g : Guard) (d a : VReg)
  /-- VNEG (R101). -/
  | vneg (g : Guard) (d a : VReg)
  /-- VCMP (R104). -/
  | vcmp (c : Cond) (g : Guard) (d : PReg) (a b : VSrc)
  /-- VCMPU (R104). -/
  | vcmpu (c : Cond) (g : Guard) (d : PReg) (a b : VSrc)
  /-- VSEL (R101). -/
  | vsel (g : Guard) (d : VReg) (p : PReg) (b c : VSrc)
  /-- VPOPC (R101). -/
  | vpopc (g : Guard) (d a : VReg)
  /-- VCLZ (R101). -/
  | vclz (g : Guard) (d a : VReg)
  /-- VBREV (R101). -/
  | vbrev (g : Guard) (d a : VReg)
  /-- VBFE (R102). -/
  | vbfe (uns : Bool) (g : Guard) (d a : VReg) (off width : VSrc)
  /-- VBFI (R102). -/
  | vbfi (g : Guard) (d a : VReg) (off width : VSrc)
  /-- VADD64 (R103). -/
  | vadd64 (g : Guard) (d : VReg) (a b : VSrc)
  /-- VSUB64 (R103). -/
  | vsub64 (g : Guard) (d : VReg) (a b : VSrc)
  /-- VMUL64 (R103). -/
  | vmul64 (g : Guard) (d : VReg) (a b : VSrc)
  /-- VSHL64 (R103). -/
  | vshl64 (g : Guard) (d a : VReg) (b : VSrc)
  /-- PAND (R104). -/
  | pand (g : Guard) (d a b : PReg)
  /-- POR (R104). -/
  | por (g : Guard) (d a b : PReg)
  /-- PXOR (R104). -/
  | pxor (g : Guard) (d a b : PReg)
  /-- PNOT (R104). -/
  | pnot (g : Guard) (d a : PReg)
  /-- VFADD (R106). -/
  | vfadd (rnd : Rnd) (g : Guard) (d : VReg) (a b : FSrc)
  /-- VFSUB (R106). -/
  | vfsub (rnd : Rnd) (g : Guard) (d : VReg) (a b : FSrc)
  /-- VFMUL (R106). -/
  | vfmul (rnd : Rnd) (g : Guard) (d : VReg) (a b : FSrc)
  /-- VFFMA (R106). -/
  | vffma (rnd : Rnd) (g : Guard) (d : VReg) (a b c : FSrc)
  /-- VFMIN (R107). -/
  | vfmin (g : Guard) (d : VReg) (a b : FSrc)
  /-- VFMAX (R107). -/
  | vfmax (g : Guard) (d : VReg) (a b : FSrc)
  /-- VFABS (R106). -/
  | vfabs (g : Guard) (d a : VReg)
  /-- VFNEG (R106). -/
  | vfneg (g : Guard) (d a : VReg)
  /-- VFCMP (R108). -/
  | vfcmp (c : FCond) (g : Guard) (d : PReg) (a b : FSrc)
  /-- VFCLASS (R109). -/
  | vfclass (g : Guard) (d a : VReg)
  /-- VFDIV (R110). -/
  | vfdiv (rnd : Rnd) (g : Guard) (d : VReg) (a b : FSrc)
  /-- VFSQRT (R110). -/
  | vfsqrt (rnd : Rnd) (g : Guard) (d : VReg) (a : FSrc)
  /-- VFRCP (R110). -/
  | vfrcp (rnd : Rnd) (g : Guard) (d : VReg) (a : FSrc)
  /-- VFRSQ (R110). -/
  | vfrsq (rnd : Rnd) (g : Guard) (d : VReg) (a : FSrc)
  /-- VFEXP2 (R110). -/
  | vfexp2 (rnd : Rnd) (g : Guard) (d : VReg) (a : FSrc)
  /-- VFLOG2 (R110). -/
  | vflog2 (rnd : Rnd) (g : Guard) (d : VReg) (a : FSrc)
  /-- VFSINPI (R110). -/
  | vfsinpi (rnd : Rnd) (g : Guard) (d : VReg) (a : FSrc)
  /-- VFCOSPI (R110). -/
  | vfcospi (rnd : Rnd) (g : Guard) (d : VReg) (a : FSrc)
  /-- VFRND (R111). -/
  | vfrnd (rnd : Rnd) (g : Guard) (d a : VReg)
  /-- VHADD (R106). -/
  | vhadd (rnd : Rnd) (g : Guard) (d : VReg) (a b : FSrc)
  /-- VHMUL (R106). -/
  | vhmul (rnd : Rnd) (g : Guard) (d : VReg) (a b : FSrc)
  /-- VHFMA (R106). -/
  | vhfma (rnd : Rnd) (g : Guard) (d : VReg) (a b c : FSrc)
  /-- VBADD (R106). -/
  | vbadd (rnd : Rnd) (g : Guard) (d : VReg) (a b : FSrc)
  /-- VBMUL (R106). -/
  | vbmul (rnd : Rnd) (g : Guard) (d : VReg) (a b : FSrc)
  /-- VBFMA (R106). -/
  | vbfma (rnd : Rnd) (g : Guard) (d : VReg) (a b c : FSrc)
  /-- VCVT (R112). -/
  | vcvt (rnd : Rnd) (dt st : ETy) (g : Guard) (d : VReg) (a : CvtSrc)
  /-- VSHFL (R115). -/
  | vshfl (g : Guard) (d a : VReg) (lane : VSrc) (fb : VMovSrc)
  /-- VBCAST (R115). -/
  | vbcast (g : Guard) (d a : VReg) (lane : SSrc)
  /-- VVOTE (R116). -/
  | vvote (g : Guard) (d : PReg) (v : Vote)
  /-- VBALLOT (R116). -/
  | vballot (g : Guard) (d : SReg) (a : PReg)
  /-- VSCAN (R117). -/
  | vscan (op : RedOp) (ty : RedTy) (excl : Bool) (g : Guard) (d a : VReg)
  /-- VREDUCE (R117). -/
  | vreduce (op : RedOp) (ty : RedTy) (g : Guard) (d : SVDst) (a : VReg)
  /-- VCOMPACT (R118). -/
  | vcompact (g : Guard) (d a : VReg) (p : PReg)
  /-- LD (R123). -/
  | ld (sz : Size) (sp : Space) (h : Hint) (home : Option (BitVec 4)) (q : Bool) (g : Guard) (d : VReg) (a : LdBase) (b : Off)
  /-- LDU (R127). -/
  | ldu (stash wide : Bool) (h : Hint) (home : Option (BitVec 4)) (q : Bool) (d a : SReg) (b : SSrc)
  /-- LOAD_DATA_ARRIVES (R38). -/
  | loadDataArrives (t op : Nat)
  /-- ST (R129). -/
  | st (sz : Size) (sp : Space) (rule : Rule) (fsum : Bool) (g : Guard) (a : StBase) (b : Off) (c : VReg)
  /-- STF (R134). -/
  | stf (sz : Size) (stash : Bool) (rule : Rule) (q : Bool) (g : Guard) (d : VReg) (a : StBase) (b : Off) (c : VReg)
  /-- STL (R136). -/
  | stl (rule : Rule) (g : Guard) (a : StBase) (b : Off) (c : VReg)
  /-- PREF (R137). -/
  | pref (h : Hint) (home : Option (BitVec 4)) (g : Guard) (a : LdBase) (b : Off)
  /-- STEPW (R142). -/
  | stepw
  /-- STEPG (R142). -/
  | stepg
  /-- PAUSE (R147). -/
  | pause (n : Word)
  /-- TDEF (R149). -/
  | tdef (t : TileNo) (lo hi : SReg)
  /-- TFREE (R150). -/
  | tfree (t : TileNo)
  /-- TSTATE (R151). -/
  | tstate (d : SReg) (t : TileNo)
  /-- CPIN (R156). -/
  | cpin (t : TileNo) (a : CpSrc) (b : SSrc) (fc : FcReg)
  /-- CPOUT (R158). -/
  | cpout (rule : Rule) (free zero : Bool) (a : SReg) (t : TileNo) (fc : FcReg)
  /-- CPTT (R161). -/
  | cptt (d s : TileNo) (fc : FcReg)
  /-- COPY_LINE_LANDS (R274). -/
  | copyLineLands (h c line : Nat)
  /-- CWAIT (R162). -/
  | cwait (fc : FcReg) (n : SSrc)
  /-- WBIND (R164). -/
  | wbind (w : WinNo) (a : SReg)
  /-- WUNBIND (R165). -/
  | wunbind (w : WinNo)
  /-- PIN (R166). -/
  | pin (d base bytes : SReg)
  /-- UNPIN (R167). -/
  | unpin (a : SReg)
  /-- MMIP (R216). -/
  | mmip (q : Bool) (d : AReg) (a b : GSrc) (ri : Option FReg)
  /-- MMOP (R216). -/
  | mmop (q : Bool) (d : TileNo) (a b : GSrc) (ri : Option FReg)
  /-- MMRW (R216). -/
  | mmrw (q : Bool) (d : TileNo) (a : GSrc) (ri : Option FReg)
  /-- MMLDB (R217). -/
  | mmldb (q : Bool) (a : GSrc)
  /-- MMZERO (R215). -/
  | mmzero (q : Bool) (d : AReg)
  /-- MMLDA (R218). -/
  | mmlda (df : Flow) (q : Bool) (a : GSrc) (ri : Option FReg)
  /-- MMDRAIN (R219). -/
  | mmdrain (rnd : Rnd) (relu : Bool) (bias : Option SReg) (q : Bool) (d : TileNo) (a : AReg) (sa sb : Option SReg)
  /-- VQLUT (R221). -/
  | vqlut (tbl : Bool) (q : Bool) (a : SReg)
  /-- SPDG (R222). -/
  | spdg (q : Bool) (m w g : TileNo) (n : SSrc)
  /-- GRATE_START (R198). -/
  | grateStart (h : Nat)
  /-- GRATE_COMPLETION (R202). -/
  | grateCompletion (h : Nat)
  /-- FBOPEN (R223). -/
  | fbopen (wide stash : Bool) (vt : BitVec 4) (d : FReg) (c v l : SReg)
  /-- FBADV (R224). -/
  | fbadv (upTo : Bool) (d : FReg) (n : SSrc)
  /-- FBEND (R225). -/
  | fbend (d : PReg) (a : FReg)
  /-- FBCLOSE (R226). -/
  | fbclose (d : FReg)
  /-- FBRD (R227). -/
  | fbrd (val q : Bool) (d : VReg) (a : FReg)
  /-- FBRD_DATA_ARRIVES (R227). -/
  | fbrdDataArrives (t op : Nat)
  /-- BR (R177). -/
  | br (tgt : BitVec 20)
  /-- BRC (R178). -/
  | brc (g : Guard) (tgt jn : BitVec 20) (ej : Bool)
  /-- JT (R179). -/
  | jt (a : VReg) (tgt jn : BitVec 20) (ej : Bool)
  /-- JOIN (R181). -/
  | join
  /-- CALL (R182). -/
  | call (l : SReg) (tgt : BitVec 20)
  /-- RET (R182). -/
  | ret (l : SReg)
  /-- EXIT (R183). -/
  | exit (g : Guard)
  /-- TRAP (R185). -/
  | trap (g : Guard) (code : BitVec 16)
  /-- BKPT (R186). -/
  | bkpt (g : Guard) (tag : BitVec 16)
  /-- RTE (R187). -/
  | rte
  /-- LIVE (R188). -/
  | live (n : BitVec 8)
  /-- NOP (R191). -/
  | nop
  /-- MARK (R192). -/
  | mark (v : Word)
  /-- LAUNCH (R193). -/
  | launch (a : SReg)
  /-- EVSIG (R194). -/
  | evsig (e : BitVec 16)
  /-- CSRR (R196). -/
  | csrr (d : SReg) (r : Csr)
  /-- CSRW (R196). -/
  | csrw (r : Csr) (a : SSrc)
  /-- HANDOVER_COMPLETE (R234). -/
  | handoverComplete (t : Nat) (target : DWord)
  /-- EMBER_REJOIN (R237). -/
  | emberRejoin (t : Nat)
  /-- GRID_STEP_CLOSE (R144). -/
  | gridStepClose (g : Nat)
  /-- GROUP_STEP_CLOSE (R144). -/
  | groupStepClose (p : Nat)
  /-- STEP_WATCHDOG (R245). -/
  | stepWatchdog (grid : Bool) (n : Nat)
  /-- HANG_WATCHDOG (R246). -/
  | hangWatchdog (c : Nat)
  /-- REJOIN_TIMEOUT (R238). -/
  | rejoinTimeout (t : Nat)
  /-- QUEUE_DOORBELL (R344). -/
  | queueDoorbell (die page q : Nat) (val : DWord)
  /-- EVENT_CLEAR_DOORBELL (R296). -/
  | eventClearDoorbell (die page : Nat) (val : DWord)
  /-- PACKET_TAKE (R292). -/
  | packetTake
  /-- GRID_PLACE (R298). -/
  | gridPlace
  /-- GROUP_PLACE_DEFERRED (R299). -/
  | groupPlaceDeferred
  /-- GRID_COMPLETE (R302). -/
  | gridComplete (g : Nat)
  /-- CTX_CREATE (R347). -/
  | ctxCreate (die : Nat) (c : Cmd)
  /-- CTX_DESTROY (R367). -/
  | ctxDestroy (die : Nat) (c : Cmd)
  /-- QUEUE_SET (R291). -/
  | queueSet (die : Nat) (c : Cmd)
  /-- PREEMPT (R310). -/
  | preempt (die : Nat) (c : Cmd)
  /-- SAVE_BEGIN (R311). -/
  | saveBegin (c : Nat)
  /-- SAVE_DONE (R311). -/
  | saveDone (c : Nat)
  /-- PRETMO_EXPIRY (R310). -/
  | pretmoExpiry (c : Nat)
  /-- CPYTMO_EXPIRY (R314). -/
  | cpytmoExpiry (c : Nat)
  /-- SAVETMO_EXPIRY (R314). -/
  | savetmoExpiry (c : Nat)
  /-- RESTORE (R313). -/
  | restore (die : Nat) (c : Cmd)
  /-- RESTORE_START (R312). -/
  | restoreStart (base : Nat)
  /-- RESTORE_DONE (R313). -/
  | restoreDone (base : Nat)
  /-- INVALIDATE (R319). -/
  | invalidate (die : Nat) (c : Cmd)
  /-- INVALIDATE_COMPLETE (R319). -/
  | invalidateComplete (die : Nat)
  /-- WAVE_RESUME (R308). -/
  | waveResume (die : Nat) (c : Cmd)
  /-- CONN_DOWN (R337). -/
  | connDown (die : Nat) (c : Cmd)
  /-- CONN_UP (R337). -/
  | connUp (die : Nat) (c : Cmd)
  /-- CONN_SET_WL (R337). -/
  | connSetWl (die : Nat) (c : Cmd)
  /-- CIRCUIT_DRAINED (R337). -/
  | circuitDrained (f peer : Nat)
  /-- CIRCUIT_UP (R337). -/
  | circuitUp (f peer : Nat)
  /-- POWER_PSTATE (R365). -/
  | powerPstate (die : Nat) (c : Cmd)
  /-- PSTATE_CHANGE_DONE (R365). -/
  | pstateChangeDone (die : Nat)
  /-- POWER_BUDGET (R365). -/
  | powerBudget (die : Nat) (c : Cmd)
  /-- POWER_IDLE (R365). -/
  | powerIdle (die : Nat) (c : Cmd)
  /-- CFG_DTBASE (R322). -/
  | cfgDtbase (die : Nat) (c : Cmd)
  /-- CFG_DTSIZE (R322). -/
  | cfgDtsize (die : Nat) (c : Cmd)
  /-- CFG_RLBASE (R322). -/
  | cfgRlbase (die : Nat) (c : Cmd)
  /-- CFG_RLSIZE (R322). -/
  | cfgRlsize (die : Nat) (c : Cmd)
  /-- CFG_ELBASE (R322). -/
  | cfgElbase (die : Nat) (c : Cmd)
  /-- CFG_ELSIZE (R322). -/
  | cfgElsize (die : Nat) (c : Cmd)
  /-- CFG_CPYTMO (R348). -/
  | cfgCpytmo (die : Nat) (c : Cmd)
  /-- CFG_SAVETMO (R348). -/
  | cfgSavetmo (die : Nat) (c : Cmd)
  /-- CFG_PRETMO (R348). -/
  | cfgPretmo (die : Nat) (c : Cmd)
  /-- CFG_CXLTMO (R348). -/
  | cfgCxltmo (die : Nat) (c : Cmd)
  /-- CFG_PEERTMO (R348). -/
  | cfgPeertmo (die : Nat) (c : Cmd)
  /-- CFG_ACTMAX (R348). -/
  | cfgActmax (die : Nat) (c : Cmd)
  /-- CFG_STEPLIMIT (R348). -/
  | cfgSteplimit (die : Nat) (c : Cmd)
  /-- CFG_HANGLIMIT (R348). -/
  | cfgHanglimit (die : Nat) (c : Cmd)
  /-- CFG_CTXCFG (R348). -/
  | cfgCtxcfg (die : Nat) (c : Cmd)
  /-- CFG_TBA (R348). -/
  | cfgTba (die : Nat) (c : Cmd)
  /-- CFG_FPOLICY (R348). -/
  | cfgFpolicy (die : Nat) (c : Cmd)
  /-- COUNTS_READ (R350). -/
  | countsRead (die : Nat) (c : Cmd)
  /-- DIE_RESET (R334). -/
  | dieReset (die : Nat) (c : Cmd)
  /-- FUNCTION_LEVEL_RESET (R334). -/
  | functionLevelReset (die : Nat)
  /-- MODULE_RESET (R361). -/
  | moduleReset (die : Nat) (c : Cmd)
  /-- NOTIFY_SET (R349). -/
  | notifySet (die : Nat) (c : Cmd)
  /-- INBOX_SET (R341). -/
  | inboxSet (die : Nat) (c : Cmd)
  /-- PEER_ID (R340). -/
  | peerId (die : Nat) (c : Cmd)
  /-- FLASH_WRITE (R364). -/
  | flashWrite (die : Nat) (c : Cmd)
  /-- BAR0_WRITE_OTHER (R343). -/
  | bar0WriteOther (die off : Nat) (val : DWord)
  /-- HOST_MEMORY_REQUEST (R333). -/
  | hostMemoryRequest (die : Nat) (write : Bool) (addr : Nat) (data : List Byte)
  /-- PEER_LINE_ARRIVES (R341). -/
  | peerLineArrives (port : Nat) (o : BitVec 44) (data : PeerData)
  /-- PEER_LINE_ACK (R338). -/
  | peerLineAck (h c line : Nat)
  /-- PEER_LINE_TIMEOUT (R338). -/
  | peerLineTimeout (h c : Nat) (line : PeerEnd)
  /-- CXL_TIMEOUT (R335). -/
  | cxlTimeout (t op : Nat)
  /-- CXL_LINK_DOWN (R335). -/
  | cxlLinkDown (port : Nat)
  /-- PAGE_WALK (R318). -/
  | pageWalk (die c : Nat) (va : DWord)
  /-- PIN_FADE_PERIOD (R342). -/
  | pinFadePeriod (c pin : Nat)
  /-- HBM_ACCESS (R357). -/
  | hbmAccess (stack bank row : Nat) (write : Bool)
  /-- HBM_REFRESH (R358), with the wait hints in ns that the base die gives its RETRYs, the first first. -/
  | hbmRefresh (stack bank : Nat) (hints : List Nat)
  /-- RETRY_REISSUE (R358). -/
  | retryReissue (stack bank : Nat)
  /-- DIE_TRIP (R366). -/
  | dieTrip (die : Nat) (overTemp : Bool)
  /-- FLUE_DIE_TRIP (R366). -/
  | flueDieTrip (f : Nat) (overTemp : Bool)
  /-- CXL_LINK_UP (R335). -/
  | cxlLinkUp (port : Nat)
  /-- PEER_LINK_PORT_DOWN (R340). -/
  | peerLinkPortDown (f : Nat)
  /-- PEER_LINK_PORT_UP (R340). -/
  | peerLinkPortUp (f : Nat)
  /-- TDISP_STATE_CHANGE (R333). -/
  | tdispStateChange (die : Nat) (st : Tdisp)
  /-- IDE_STREAM_KEYED (R333). -/
  | ideStreamKeyed (die : Nat)
  /-- UNKNOWN_COMMAND_CODE (R346). -/
  | unknownCommandCode (die : Nat) (c : Cmd)
  /-- CMDDB_WRITE_WHILE_BUSY (R345). -/
  | cmddbWriteWhileBusy (die : Nat)
  /-- PAUSE_END (R147). -/
  | pauseEnd (t : Nat)
  /-- REFRESH_END (R358). -/
  | refreshEnd (stack bank : Nat)
  /-- POWER_ON (R361). -/
  | powerOn
  /-- POWER_GOOD_TIMEOUT (R361). -/
  | powerGoodTimeout
  /-- POWER_GOOD (R361). -/
  | powerGood
deriving DecidableEq, Repr

end Sys2Proof
end

