-- ==== Sys2Proof/Config.lean ====
section
/-! DEFINITION. What the part fixes for every run, and the free values: opaque constants with no body, so that no
proof can see what they are. -/

namespace Sys2Proof.Config

/-! ## Free values (log 2): each is applied to State's counter `tick`, or to what the value belongs to -/

/-- The content of a register that the manual calls undefined: a register outside the live set after a rejoin or a
restore (08 R190, 10 R237). -/
opaque freeWord : Nat → Nat → BitVec 32
/-- The content of an accumulator word that no grate instruction has written (09 R204). -/
opaque freeAcc : Nat → Nat → BitVec 32
/-- The order in which a home takes a line's ANY writers in normal mode: a rank for each writer (11 R253). -/
opaque freeRank : Nat → Nat → Nat → Nat
/-- Clocks that one step of the machine takes on a die (03 R42, CLOCK). -/
opaque freeClocks : Nat → Nat → Nat
/-- Nanoseconds that one step of the machine takes (03 R42, TIME). -/
opaque freeNanos : Nat → Nat
/-- Whether a start stage passes (25 R361): the tick and the stage. -/
opaque stagePasses : Nat → Nat → Bool
/-- A byte of a save area, whose layout the manual does not give (19 Table 19.2), and of the stash outside the ranges that
a save covers, after its restore (08 R190): the tick and the byte's place. -/
opaque freeByte : Nat → Nat → BitVec 8

/-- An integer converted into an integer type that is no narrower and has no such value: destination bits, source bits,
source (02 R17, log 15). -/
opaque freeConv : Nat → Nat → Nat → BitVec 32

/-- Where the decoded weights of a VQ2 fibre's element stand (02 R19, 09 R206, log 22): the coordinate stored with the element
and the number of the weight, 0 to 7. -/
opaque vqPlace : Nat → Nat → Nat

/-- Bytes of the expander that a CXL port finds as its link comes up (01 R368, 22 R335): the port. What stands on a port is the
module's own, so it is free. -/
opaque expander : Nat → Nat
/-- Whether an expander completes an interlocked read within CXLTMO (06 R95): the tick and the physical address. -/
opaque cxlAnswers : Nat → Nat → Bool

/-- The wait hint of a RETRY, in nanoseconds, less one and modulo 1,000 (24 R358): the tick, the stack and the bank. -/
opaque freeHint : Nat → Nat → Nat → Nat

/-- Firmware version in IDENT (22 Table 22.4): each image has its own, so it is free. -/
opaque firmware : BitVec 32

end Sys2Proof.Config
end

