-- ==== Sys2Proof/Machine/State.lean ====
section
/-! DEFINITION. The state of the module as plain data: every piece the manual names, one record for each unit, and
`State.reset`. INVENTORY.md lists each field with its rule and its value at reset. -/

namespace Sys2Proof.Machine

/-- Why the machine stops. -/
inductive Fault where
  /-- An encoded instruction was executed with no wave or ember lane issuing it: raised by the meanings of encoded
  instructions when `State.cur` names no thread. `step` never does so. Safe: nothing runs. -/
  | noThread
deriving DecidableEq, Repr

/-- Why an instruction has no meaning. -/
inductive Refusal where
  /-- The instruction has no meaning yet: raised by its arm of `exec` alone. Safe: nothing runs. -/
  | notModelled (mnemonic : String)
deriving DecidableEq, Repr

/-! ## Traps and writers -/

/-- Trap causes (23 Table 23.2). -/
inductive Cause where
  | illegalOp | reservedEnc | hazard | priv | align | page | prot | memerr | collide | ruleMix | logfull | rlogFull
  | twinPartial | tileBusy | tileState | copyRights | windowRange | fibreRange | jtRange | emberIllegal
  | rejoinTimeout | stepWatchdog | trap | bkpt
deriving DecidableEq, Repr

/-- A trap about to be taken: cause, TRAPADDR, and the lanes FAULTMASK names. -/
structure TrapInfo where
  cause : Cause
  addr : DWord
  mask : Mask
deriving DecidableEq, Repr

/-- Where an owed trap falls due (23 R355). -/
inductive Due where
  /-- At the next clause start of the path, or on a trap path (10 R243). -/
  | wave
  /-- At a clause that waits on the flag, else at a STEP or EXIT (07 R126, R128). -/
  | flag (q : Nat)
  /-- At a CWAIT on the counter, else at a STEP (07 R155). -/
  | cwait (fc : Nat)
  /-- At the next grate instruction, a clause that waits on the flag, a STEP or an EXIT (09 R201). -/
  | grate (q : Nat)
  /-- At the next STEP of the domain, true for the grid's, on account of the close of a step of it (07 R145). -/
  | step (grid : Bool) (n : Word)
deriving DecidableEq, Repr

/-- A trap that a wave or ember lane owes. -/
structure Owed where
  info : TrapInfo
  due : Due
deriving DecidableEq, Repr

/-- The lowest failed region that a thread wrote in a closed step in which no unit of its own failed: a trap that a rejoined lane
owes for that step names it too (14 R286). -/
structure LowFail where
  grid : Bool
  step : Word
  addr : Nat
deriving DecidableEq, Repr

/-- The tuple that orders a write's writer (11 R250). -/
structure Writer where
  key : Nat
  kind : Nat
  seq : Nat
deriving DecidableEq, Repr

/-- Types of a SUM cell (11 R254). -/
inductive SumTy where
  | i32 | i64 | f32
deriving DecidableEq, Repr

/-- A write that waits for the close of its step (07 R129, 11 R252). For a nibble store, `nib` holds which nibble of
the byte at `va` it writes. -/
structure PWrite where
  step : Word
  va : Nat
  pa : Nat
  nib : Option Bool
  data : List Byte
  rule : Rule
  sum : Option SumTy
  w : Writer
  /-- The STF operation whose result the close computes (07 R134). -/
  stf : Option Nat
  /-- Order of issue (07 R131). -/
  order : Nat
  die : Nat
  /-- The access is STRICT (19 R317). -/
  strict : Bool := false
  /-- Its cell in the commit log cannot be read (23 Table 23.1, SRC 8). -/
  lost : Bool := false
deriving DecidableEq, Repr

/-- A whole-line write to a TWIN page (11 R260). -/
structure TWrite where
  grid : Nat
  step : Word
  va : Nat
  data : List Byte
  rule : Rule
  w : Writer
  die : Nat
deriving DecidableEq, Repr

/-- One TWIN line: its tag (11 Table 11.5), the copy that is not committed, the pending write, every write made to the
line in the pending step, whether two of them carried different rules, and the writes held for other steps. The committed
copy is in `State.mem`. -/
structure TwinLine where
  cur : Bool
  step : BitVec 16
  wh : BitVec 15
  other : List Byte
  pend : Option TWrite
  writers : List TWrite
  mix : Bool
  held : List TWrite
deriving DecidableEq, Repr

/-- A fault record that its ring had no room for (11 R257): its die, its 32 bytes, the keys of its writers, the lowest first, and
whether a grid step's close wrote it. -/
structure HeldRec where
  die : Nat
  bytes : List Byte
  keys : List Nat
  grid : Bool
deriving DecidableEq, Repr

/-! ## Threads: waves and ember lanes -/

/-- ST of a stack entry (03 Table 3.5). -/
inductive PathState where
  | waiting | running | arrived | parked
deriving DecidableEq, Repr

/-- A reconvergence stack entry (03 Table 3.5); PC and JOIN hold address bits [58:3]. -/
structure Entry where
  mask : Mask
  icnt : DWord
  pc : BitVec 56
  join : BitVec 56
  gstep : Word
  wstep : Word
  fmt : Word
  flg : BitVec 5
  st : PathState
  ej : Bool
  /-- What PAUSE has left the path, clocks or issue rounds, and CLOCK of its die when it was executed (07 R147); no part of
  the image in memory (log 74). -/
  pause : Nat := 0
  pausedAt : DWord := 0#64
deriving DecidableEq, Repr

/-- The clause a path is running: the header's address and fields, and the position of the next instruction (05 R61,
R62). -/
structure Clause where
  hdr : DWord
  cnt : Nat
  ix : Nat
  eng : Nat
  wait : BitVec 12
  sa : Bool
  qa : BitVec 4
  sb : Bool
  qb : BitVec 4
deriving DecidableEq, Repr

/-- What an outstanding LD, LDU, STF or FBRD still has to do. -/
inductive OpKind where
  /-- Words that the data brings, by (register x 128 + lane) (07 R123). -/
  | load (words : List (Nat × Word))
  /-- The s register that LDU writes (07 R127). -/
  | loadS (d : Nat) (val : DWord)
  /-- The destinations of an STF: the domain and step whose close writes them, D, and whether D is a pair (07 R134). -/
  | stf (grid : Bool) (step : Word) (d : Nat) (pair : Bool) (lanes : Mask)
deriving DecidableEq, Repr

/-- An access that an outstanding load made to memory: its lane, physical and virtual address, the address as the
instruction formed it, its length, whether it is STRICT (19 R317), and whether its circuit was UP when it was issued (22 R337). -/
structure Far where
  lane : Nat
  pa : Nat
  va : DWord
  addr : DWord
  len : Nat
  strict : Bool
  sent : Bool
deriving DecidableEq, Repr

/-- An outstanding operation of a thread: its flag and pending registers (03 R38). -/
structure Op where
  uid : Nat
  flag : Nat
  regs : List Nat
  sreg : Option Nat
  kind : OpKind
  far : List Far
  /-- TIME at its issue (22 R335). -/
  since : DWord
deriving DecidableEq, Repr

/-- What an ember context is doing for its lane (10 R234, R237): before hand-over it may wait for the lane's pending
registers. -/
inductive EPhase where
  | waiting | handover | running | rejoining
deriving DecidableEq, Repr

/-- An ejected lane's place: cluster (die x 16 + cluster), context 0 to 127, its group, the wave and lane it came from. -/
structure Ember where
  cluster : Nat
  ctxno : Nat
  /-- The name of the ejected group, whose lanes are handed over at once (10 R234). -/
  batch : Nat
  parent : Nat
  lane : Nat
  phase : EPhase
  /-- v registers that the hand-over waits for (10 R234). -/
  awaited : List Nat
  /-- Standing at the boundary of a STEPG it executed last (07 R142). -/
  atStepg : Bool
deriving DecidableEq, Repr

/-- The live set (08 R188): none is every declared register and no stash range. -/
structure LiveSet where
  vmap : BitVec 256
  ranges : List (Nat × Nat)
deriving DecidableEq, Repr

/-- A suspended stack: the wave's own, while its handler runs on a trap path (10 R243). -/
structure Susp where
  stack : List Entry
  spilled : Nat
deriving DecidableEq, Repr

/-- A wave on a hearth, or an ejected lane on an ember (10 R229, R234). -/
structure Thread where
  ctx : Nat
  grid : Nat
  group : Nat
  wix : Nat
  die : Nat
  hearth : Nat
  pipe : Nat
  slot : Nat
  ember : Option Ember
  launched : Mask
  exited : Mask
  /-- v registers by (register x 128 + lane), 0 where not listed (03 R32, R43). -/
  v : Tbl Word
  s : Tbl DWord
  /-- p1 to p7 (03 R34). -/
  p : Tbl Mask
  /-- Accumulator words by (register x 4096 + 64 i + j): those written since the launch (09 R204). -/
  acc : List (Nat × Word)
  f : Tbl (BitVec 256)
  fc : Tbl (BitVec 48)
  /-- Held stack entries, the top first (03 R44). -/
  stack : List Entry
  /-- Entries in the spill area of memory (03 R44). -/
  spilled : Nat
  susp : Option Susp
  gcnt : Word
  wcnt : Word
  clause : Option Clause
  faultmask : Mask
  trapcause : DWord
  trappc : DWord
  trapaddr : DWord
  eject : BitVec 4
  tsp : DWord
  tscratch : DWord
  handler : Bool
  /-- The cause whose handler runs, while in handler mode (10 R245, R354). -/
  hcause : Option Cause
  live : Option LiveSet
  ops : List Op
  owed : List Owed
  low : List LowFail := []
  held : List HeldRec
  /-- Stalled at issue until another step of the machine ends the stall (07 R125, R143, R153). -/
  stalled : Bool
  /-- Stopped on PAGE until the host resumes it (19 R308). -/
  halted : Bool
  /-- Stopped at a save point (19 R310), or because its context is faulted (19 R307). -/
  stopped : Bool
  /-- Stopped by PRETMO: its save covers every declared register and its group's whole stash (19 R310). -/
  whole : Bool
  promo : Bool
  ready : Option Nat
  cpoutNo : Nat
  cpoutStep : Word
  /-- REJOIN's count (10 R238) and the normal-mode step watchdog counts, grid and group (10 R245). -/
  rejoinCount : Nat
  gwatch : Nat
  wwatch : Nat
  /-- Uncorrectable v words by (register x 128 + lane), s registers, and accumulator words (23 Table 23.1). -/
  badV : List Nat
  badS : List Nat
  badAcc : List Nat
  /-- Its control state cannot be read (23 Table 23.1, SRC 13). -/
  badCtl : Bool := false
deriving DecidableEq, Repr

/-! ## Groups and grids -/

/-- Tile states (07 R151). -/
inductive TileState where
  | empty | filling | ready | draining
deriving DecidableEq, Repr

/-- An entry of the tile table (07 R138, R148 to R153). -/
structure Tile where
  defined : Bool
  desc : BitVec 128
  actual : TileState
  published : TileState
  owner : Option Nat
  /-- The wave that changed the actual state in the current group step. -/
  changedBy : Option Nat
deriving DecidableEq, Repr

structure Group where
  grid : Nat
  gix : Nat
  die : Nat
  hearth : Nat
  /-- Stash bytes, 0 where not listed (11 R248). -/
  stash : Tbl Byte
  tiles : List (Nat × Tile)
  /-- Group steps closed, and the largest group count that a lane has reached (07 R142, R144). -/
  closed : Word
  reached : Word
  /-- The largest group count that a lane has reached by a STEPG (07 R142). -/
  edge : Word := 0#32
  pend : List PWrite
  /-- Resolution-ring records reserved by stash stores, by step and die (11 R253). -/
  rlRes : List (Word × Nat × Nat)
  /-- Instructions retired since the first arrival at the open group step: the deterministic step watchdog (10 R245). -/
  watch : Nat
  badStash : List Nat
deriving DecidableEq, Repr

/-- A kernel descriptor's fields (18 Table 18.1), as its 256 bits name them. -/
structure KDesc where
  code : DWord
  ltab : DWord
  csize : Nat
  arglen : Nat
  lcount : Nat
  width : Nat
  vregs : Nat
  sregs : Nat
  stash : Nat
  tiles : Nat
  accs : Nat
  copywave : Nat
  eject : Nat
  rejoin : Nat
  stepping : Bool
deriving DecidableEq, Repr

/-- A launch packet's fields (18 Table 18.2). -/
structure Packet where
  kdesc : DWord
  karg : DWord
  seed : DWord
  pbase : DWord
  cpladdr : DWord
  n : Nat
  dtsel : Nat
  diemask : BitVec 16
  privsz : Nat
  vm1 : Nat
  queue : Nat
  prio : Nat
  det : Bool
  step : Bool
  ovr : Bool
  copywave : Nat
  e : Nat
  rejoin : Nat
  wait0 : BitVec 16
  wait1 : BitVec 16
  sigev : BitVec 16
  sigv : Bool
  w1v : Bool
  w0v : Bool
  spilln : Nat
deriving DecidableEq, Repr

/-- An effect that a close brings about for the context (08 R193 to R195, 07 R164, R165). -/
inductive CloseOp where
  | launch (pkt : List Byte) (addr : DWord) (queue : Nat) (reserved : Bool)
  | evsig (e : BitVec 16)
  | wbind (w : Nat) (desc : BitVec 256)
  | wunbind (w : Nat)
deriving DecidableEq, Repr

/-- A close effect with the step that issued it, its writer key and its order of issue. -/
structure SysOp where
  step : Word
  key : Nat
  order : Nat
  op : CloseOp
deriving DecidableEq, Repr

/-- Where a group is placed (20 Table 20.5): its hearth by die x 128 + hearth, its order among the grid's groups there,
and pipe x 16 + slot of each wave that is placed. -/
structure Place where
  gix : Nat
  home : Nat
  seq : Nat
  slots : List Nat
deriving DecidableEq, Repr

structure Grid where
  ctx : Nat
  desc : KDesc
  pkt : Packet
  pktAddr : DWord
  queue : Nat
  /-- Copy wave, E and REJOIN after OVR (18 Table 18.2). -/
  copywave : Nat
  e : Nat
  rejoin : Nat
  /-- The argument block as committed at launch (06 R96). -/
  args : List Byte
  order : Nat
  nextGroup : Nat
  lastHearth : Option Nat
  /-- The waves of the first placement round have started (18 R298). -/
  started : Bool
  /-- The dispatch trace that binds the grid's placement (20 R325). -/
  trace : Option (List Place)
  /-- Groups placed so far, in order (20 R324). -/
  placed : List Place
  traceWritten : Bool
  /-- Grid steps closed, and the largest grid count that a lane has reached (07 R142, R144). -/
  closed : Word
  reached : Word
  pend : List PWrite
  sysops : List SysOp
  /-- Commit-log entries reserved, by step (11 R259). -/
  logRes : List (Word × Nat)
  /-- Resolution-ring records reserved, by step and die (11 R253). -/
  rlRes : List (Word × Nat × Nat)
  commitFault : Bool
  watch : Nat
  /-- The boundary a pre-emption stops the grid at (19 R310); none with `stopLive` for a non-stepping grid. -/
  stopAt : Option Word
  stopLive : Bool
  /-- PRETMO has expired: waves stop at their next clause boundary (19 R310). -/
  stopNow : Bool
deriving DecidableEq, Repr

/-! ## Hearths -/

/-- A read of global memory behind an operand of a grate instruction: its slot, the bytes of the slot that it supplies, and
the access. -/
structure GrateRead where
  slot : Nat
  start : Nat
  len : Nat
  far : Far
deriving DecidableEq, Repr

/-- A captured grate instruction (09 R198): what issued it, the instruction, FMT, the flag, the fibre descriptors, the
s values it read, the path's EXEC, key of lane 0 and ICOUNT. -/
structure GrateOp where
  uid : Nat
  /-- JOIN of the path that issued it (09 R202). -/
  join : BitVec 56
  /-- TIME at issue. -/
  since : DWord
  /-- The reads of global memory behind its operands. -/
  far : List GrateRead
  t : Nat
  i : Instr
  fmt : Word
  flag : Nat
  fa : Option (BitVec 256)
  fb : Option (BitVec 256)
  fr : Option (BitVec 256)
  sv : List DWord
  exec : Mask
  icnt : DWord
  gstep : Word
  wstep : Word
  /-- Bytes of the operands by slot, read when the instruction starts (09 R199); those of global operands at issue. -/
  bytes : List (List Byte)
  /-- Stash ranges of the slots, as offset and length; length 0 where a slot is not read from the stash. -/
  stash : List (Nat × Nat)
  /-- Destination tile states before issue (09 R201). -/
  prior : List (Nat × TileState)
  /-- It may meet an error after issue (09 R201). -/
  mayErr : Bool
  /-- The error met after issue (09 R201). -/
  fail : Option TrapInfo
deriving DecidableEq, Repr

/-- The resident B (09 R217). -/
structure ResB where
  t : Nat
  bf : Nat
  kb : Nat
  sparse : Bool
  /-- Stored elements by 64 k + j, as bit patterns. -/
  elems : List (Nat × Word)
deriving DecidableEq, Repr

/-- Kinds of copies (07 R156, R158, R161); a line whose physical address is a peer's goes to that peer (22 R338). -/
inductive CopyKind where
  | cpin | cpout (rule : Rule) (free : Bool) | cptt (src : Nat)
deriving DecidableEq, Repr

/-- A copy in flight (07 R154, 13 R274): lines not yet landed, by number, with their address, physical address and
bytes. -/
structure Copy where
  uid : Nat
  t : Nat
  group : Nat
  kind : CopyKind
  tile : Nat
  fc : Nat
  w : Writer
  gstep : Word
  wstep : Word
  lines : List (Nat × Nat × Nat × List Byte)
  /-- CPOUT lines landed at their homes' shadow: they become writes of a step when the copy has completed (07 R160). -/
  landed : List (Nat × Nat × List Byte)
  /-- The reads of a CPIN's lines and the writes of a CPOUT's, each with its line's number. -/
  far : List Far
  /-- The lanes of the path that issued it. -/
  mask : Mask
  /-- Virtual addresses of the CPOUT lines that lay on TWIN pages as it issued (07 R158, 19 R319). -/
  twins : List Nat
  /-- TIME at its issue (22 R335, R338). -/
  since : DWord
deriving DecidableEq, Repr

structure Hearth where
  grate : List GrateOp
  running : Bool
  resB : Option ResB
  /-- VQ2 tables 0 and 1 by table x 4096 + entry (09 R221). -/
  vq : Tbl (BitVec 32)
  vqUsers : List Nat
  latch : Option (Nat × Instr)
  copies : List Copy
  /-- The copy that moved a line last (13 R274). -/
  copyTurn : Nat
deriving DecidableEq, Repr

/-! ## Contexts -/

/-- A packet that a LAUNCH enqueued (08 R193), with the queue's write index at that moment: it follows the packets below
that index. -/
structure Enq where
  mark : Word
  bytes : List Byte
  addr : DWord
deriving DecidableEq, Repr

structure Queue where
  prio : Nat
  base : DWord
  log2 : Nat
  widx : Word
  ridx : Word
  /-- Slots that LAUNCHes have reserved (08 R193). -/
  reserved : Nat
  enq : List Enq
deriving DecidableEq, Repr

/-- A granted pin (07 R166, 22 R342). -/
structure Pin where
  base : DWord
  bytes : Nat
  fade : Nat
  count : Nat
  touched : Bool
  /-- TIME at the beginning of the period. -/
  since : DWord
deriving DecidableEq, Repr

inductive CtxStatus where
  | running | faulted | lost
deriving DecidableEq, Repr

/-- A save in progress (19 R310, R311). -/
structure Saving where
  area : DWord
  bytes : Nat
  dies : BitVec 16
  grids : List Nat
  begun : Bool
  /-- TIME of the request, and once it has begun of its beginning (19 R310, R314). -/
  since : DWord
deriving DecidableEq, Repr

structure Context where
  dieset : BitVec 16
  dbpage : Nat
  root : DWord
  tba : DWord
  fpolicy : DWord
  ctxcfg : DWord
  steplimit : DWord
  hanglimit : DWord
  clbase : DWord
  clsize : DWord
  queues : List (Nat × Queue)
  windows : List (Nat × BitVec 256)
  pins : List (Nat × Pin)
  pinRel : Nat
  pinRef : Nat
  status : CtxStatus
  saving : Option Saving
  restoring : Bool
  /-- TIME at the last retirement in the context (10 R246). -/
  lastRetire : DWord
deriving DecidableEq, Repr

/-- A save image (19 R311, Table 19.2) as plain data. -/
structure SaveImage where
  ctx : Nat
  dies : BitVec 16
  bytes : Nat
  grids : List (Nat × Grid)
  groups : List (Nat × Group)
  threads : List (Nat × Thread)
  hearths : List (Nat × Hearth)
  queued : Bool
  started : Bool
deriving DecidableEq, Repr

/-! ## Dies -/

inductive DieMode where
  | run | gated | off | tripped | inReset
deriving DecidableEq, Repr

/-- A ring's base and size as commanded (20 R322). -/
structure Ring where
  base : DWord
  size : DWord
deriving DecidableEq, Repr

/-- A last-level TLB entry (19 R318): the leaf found by a walk, with its context, level and virtual base. -/
structure TlbEntry where
  ctx : Nat
  level : Nat
  vbase : Nat
  leaf : DWord
deriving DecidableEq, Repr

/-- An INVALIDATE that has not ended (19 R319): context, base, bytes, and the writes it waits for. -/
structure Inval where
  ctx : Nat
  base : DWord
  bytes : DWord
  /-- Names of operations and writes below it were in use when the command was accepted. -/
  mark : Nat
deriving DecidableEq, Repr

/-- The four rings of a die. -/
inductive RingId where
  | dispatch | resolution | error | notify
deriving DecidableEq, Repr

/-- What a die has yet to write, since the memory that it stands in is not reached (22 R337). -/
inductive Post where
  /-- A record for a ring. -/
  | record (k : RingId) (bytes : List Byte)
  /-- A record of the resolution ring whose room is reserved. -/
  | spend (bytes : List Byte)
  /-- A trace block, whose TRACEID is its place in the ring. -/
  | trace (bytes : List Byte)
  /-- A notification: its TYPE, CTXID, word 0 [31:0], and words 1 and 2. -/
  | notice (ty ctx info : Nat) (w1 w2 : DWord)
  /-- Records to count in a ring's LOST. -/
  | lost (k : RingId) (n : Nat)
  /-- Bytes of the resolution ring that are reserved no longer. -/
  | release (n : Nat)
  /-- A completion record: context, CPLADDR, grid count and status. -/
  | complete (ctx : Nat) (cpladdr : DWord) (gsteps : Word) (status : Nat)
  /-- A command of the die's function whose memory operand is not reached. -/
  | command (c : Cmd)
deriving DecidableEq, Repr

structure Die where
  mode : DieMode
  tripOver : Bool
  pstate : BitVec 2
  pstateNext : Option (BitVec 2)
  budget : Nat
  tdisp : Tdisp
  keyed : Bool
  clock : DWord
  dring : Ring
  rring : Ring
  ering : Ring
  nring : Ring
  dlost : Nat
  rlost : Nat
  elost : Nat
  nlost : Nat
  cpytmo : Nat
  savetmo : Nat
  pretmo : Nat
  cmdbuf : Cmd
  busy : Bool
  inval : Option Inval
  cmdsts : BitVec 16
  cmdres : List DWord
  msix : List DWord
  msixPend : BitVec 4
  corrected : Tbl Nat
  uncorrected : Tbl Nat
  refused : Nat
  dropped : Nat
  sumDropped : Nat
  tlb : List TlbEntry
  /-- Sources of single-bit errors that are yet to be corrected in place (23 R351). -/
  soft : List Nat
  posted : List Post
deriving DecidableEq, Repr

/-- STATE of a connection entry (22 Table 22.1). -/
inductive ConnState where
  | down | setup | up | drain
deriving DecidableEq, Repr

structure Conn where
  state : ConnState
  wl : Nat
deriving DecidableEq, Repr

structure Flue where
  mode : DieMode
  /-- Entries by far flue die (22 R336). -/
  conn : List (Nat × Conn)
  cxltmo : Nat
  peertmo : Nat
  actmax : Nat
  peerUp : Bool
deriving DecidableEq, Repr

/-- A CXL port: link and expander capacity (22 R335, 01 R368). -/
structure CxlPort where
  up : Bool
  cap : Nat
deriving DecidableEq, Repr

/-- A row buffer (24 R357): row, dirty, LRU rank. -/
structure RowBuf where
  row : Nat
  dirty : Bool
  rank : Nat
deriving DecidableEq, Repr

/-- A request that waits at its bank, and TIME at which it may be issued again (24 R358). -/
structure Retry where
  row : Nat
  write : Bool
  due : DWord
deriving DecidableEq, Repr

structure Bank where
  bufs : List RowBuf
  act : Tbl (BitVec 12)
  /-- Rows whose counter's check bits fail (24 R359). -/
  corrupt : List Nat
  refreshing : Bool
  /-- The wait hints of the refresh that are yet to be given, in ns. -/
  hints : List Nat
  waiting : List Retry
deriving DecidableEq, Repr

structure Stack where
  banks : List (Nat × Bank)
  retries : Nat
  corruptCount : Nat
  neighbour : Nat
deriving DecidableEq, Repr

/-- An entry of the inbox table (22 Table 22.3), when its V is set. -/
structure Inbox where
  vbase : DWord
  ctx : Nat
  blk : Nat
deriving DecidableEq, Repr

/-- An arrived peer line (22 R339). -/
structure PeerLine where
  ctx : Nat
  va : Nat
  pa : Nat
  twin : Bool
  data : List Byte
  /-- The sender's name of its transfer, and whether the transfer's last line has arrived. -/
  transfer : Nat
  whole : Bool
deriving DecidableEq, Repr

/-- A packet taken and not yet placed (18 R292, R295), with its queue, so that it can be returned untaken (19 R310). -/
structure Taken where
  grid : Nat
  ctx : Nat
  queue : Nat
  bytes : List Byte
  addr : DWord
deriving DecidableEq, Repr

/-! ## Caches (13 Table 13.2) -/

/-- A granule of private memory that an L1 has yet to write back (13 R281): its address, whose it is, the grid step of its last
write, and the sixteen bytes that memory holds in its stead. -/
structure Dirty where
  pa : Nat
  va : DWord
  ctx : Nat
  grid : Nat
  key : Nat
  step : Word
  old : List Byte
deriving DecidableEq, Repr

/-- A line of an L1, by its address / 128. `bytes` holds a global line as it was committed when it was read; the bytes of a private
line stand in `State.mem`, as its lanes see them (log 97). -/
structure L1Line where
  line : Nat
  priv : Bool
  bytes : List Byte
  dirty : List Dirty
  /-- Words, by address / 8, that cannot be corrected (23 Table 23.1, SRC 9 and 10). -/
  bad : List Nat
deriving DecidableEq, Repr

/-- A line of an L2, retained or not (13 R278), with its words that cannot be corrected (23 Table 23.1, SRC 7). -/
structure L2Line where
  line : Nat
  kept : Bool
  bad : List Nat
deriving DecidableEq, Repr

/-- A page of 64 KiB that a pin holds in L3 (22 R342), and those of its lines that it could not fetch. -/
structure PinPage where
  ctx : Nat
  pin : Nat
  page : Nat
  missing : List Nat
deriving DecidableEq, Repr

/-- The lines that caches hold, the one used last first: each L1 by the place of its hearth or ember core, each L2 by its die, each
L3 by its flue die. -/
structure Caches where
  l1 : List (Nat × List L1Line)
  l2 : List (Nat × List L2Line)
  l3 : List (Nat × List Nat)
  pinned : List PinPage
deriving DecidableEq, Repr

/-! ## The module -/

structure State where
  /-- The events that come next (log 1). -/
  agenda : List Instr
  /-- The wave or ember lane that issues next within its clause. -/
  cur : Option Nat
  /-- The free-value counter (log 2). -/
  tick : Nat
  /-- Turns of the default order of events (log 1). -/
  turn : Nat
  /-- The next unused name of a grid, group, thread, operation or order of issue. -/
  uid : Nat
  time : DWord
  /-- Committed memory by 52-bit physical address, 0 where not listed (01 R368, log 4). -/
  mem : List Host.Cell
  hostMem : List Host.Cell
  flash : List Host.Cell
  /-- Memory words (address / 8) that cannot be corrected, and words of L3 lines, each with whether its line is dirty (23 Table
  23.1, SRC 0 and 1). -/
  badMem : List Nat
  badL3 : List (Nat × Bool)
  caches : Caches
  /-- Fault records held at their homes whose writers' waves have ended (11 R257). -/
  heldRecs : List HeldRec
  bootAttempts : Nat
  bootcause : Word
  bootStage : Nat
  minimal : Bool
  bootStopped : Bool
  moduleId : Option (BitVec 7)
  inbox : List (Nat × Inbox)
  peersIn : List PeerLine
  peerRefused : Nat
  events : List (Nat × Nat)
  evSpill : List (Nat × Nat)
  /-- Entries of events that are not SET and that queue heads wait on: in the table, and in the spill list (18 R297). -/
  evWaits : List (Nat × Nat)
  evWaitSpill : List (Nat × Nat)
  evSpills : Nat
  cplDropped : Nat
  rotation : Option (Nat × Nat)
  taken : Option Taken
  twins : List (Nat × TwinLine)
  saves : List (Nat × SaveImage)
  dies : List Die
  flues : List Flue
  ports : List CxlPort
  hbm : List Stack
  hearths : List (Nat × Hearth)
  /-- The rotation pointer of each pipe in deterministic mode, by hearth x 4 + pipe (18 R301). -/
  pipes : Tbl Nat
  /-- The context of each ember core that issued last, by cluster x 16 + core (10 R242). -/
  cores : Tbl Nat
  /-- The first-level TLBs of hearths and ember cores, by place (19 R318). -/
  tlbs : List (Nat × List TlbEntry)
  contexts : List (Nat × Context)
  grids : List (Nat × Grid)
  groups : List (Nat × Group)
  threads : List (Nat × Thread)
deriving DecidableEq, Repr

/-! ## Reset -/

def Ring.off : Ring := ⟨0#64, 0#64⟩
def Cmd.zero : Cmd := ⟨0#64, 0#64, 0#64, 0#64, 0#64, 0#64, 0#64, 0#64⟩

/-- A compute die before stage 5 of a start (25 Table 25.1). -/
def Die.reset : Die where
  mode := .inReset
  tripOver := false
  pstate := 3#2
  pstateNext := none
  budget := 64
  tdisp := .configUnlocked
  keyed := false
  clock := 0#64
  dring := Ring.off
  rring := Ring.off
  ering := Ring.off
  nring := Ring.off
  dlost := 0
  rlost := 0
  elost := 0
  nlost := 0
  cpytmo := 1000
  savetmo := 2000
  pretmo := 1000
  cmdbuf := Cmd.zero
  busy := false
  inval := none
  cmdsts := 0#16
  cmdres := List.replicate 6 0#64
  msix := [0#64, 0x100000000#64, 0#64, 0x100000000#64, 0#64, 0x100000000#64, 0#64, 0x100000000#64]
  msixPend := 0#4
  corrected := []
  uncorrected := []
  refused := 0
  dropped := 0
  sumDropped := 0
  tlb := []
  soft := []
  posted := []

/-- A flue die at power-on: its circuits come UP at stage 4 (25 Table 25.1). -/
def Flue.reset (f : Nat) : Flue where
  mode := .run
  conn := ([0, 1, 2, 3].filter (· != f)).map fun p => (p, ⟨.down, 16⟩)
  cxltmo := 4
  peertmo := 10
  actmax := 2048
  peerUp := true

def Stack.reset : Stack where
  banks := []
  retries := 0
  corruptCount := 0
  neighbour := 0

def Hearth.idle : Hearth where
  grate := []
  running := false
  resB := none
  vq := []
  vqUsers := []
  latch := none
  copies := []
  copyTurn := 0

/-- The module at power-on, stage 1 of the start under way (25 R361). -/
def State.reset : State where
  agenda := []
  cur := none
  tick := 0
  turn := 0
  uid := 0
  time := 0#64
  mem := []
  hostMem := []
  flash := []
  badMem := []
  badL3 := []
  caches := ⟨[], [], [], []⟩
  heldRecs := []
  bootAttempts := 0
  bootcause := 0#32
  bootStage := 1
  minimal := false
  bootStopped := false
  moduleId := none
  inbox := []
  peersIn := []
  peerRefused := 0
  events := []
  evSpill := []
  evWaits := []
  evWaitSpill := []
  evSpills := 0
  cplDropped := 0
  rotation := none
  taken := none
  twins := []
  saves := []
  dies := List.replicate 16 Die.reset
  flues := [Flue.reset 0, Flue.reset 1, Flue.reset 2, Flue.reset 3]
  ports := List.replicate 8 ⟨false, 0⟩
  hbm := List.replicate 16 Stack.reset
  hearths := []
  pipes := []
  cores := []
  tlbs := []
  contexts := []
  grids := []
  groups := []
  threads := []

end Sys2Proof.Machine
end

