-- ==== Sys2Proof/Machine/Tables.lean ====
section
/-! DEFINITION. Tables in canonical form (`Tbl`, memory) and keyed lists (contexts, grids, threads). -/

namespace Sys2Proof.Machine

/-- The value of a table at an index: the default `d` where the index is not listed. -/
def tget {α : Type} (d : α) : List (Nat × α) → Nat → α
  | [], _ => d
  | (i, x) :: r, k => if k = i then x else tget d r k

/-- Enter a value at its place in a table, in the stead of what stood there. -/
def tput {α : Type} : List (Nat × α) → Nat → α → List (Nat × α)
  | [], k, v => [(k, v)]
  | (i, x) :: r, k, v => if k = i then (k, v) :: r else if k < i then (k, v) :: (i, x) :: r else (i, x) :: tput r k v

/-- Write a table, keeping its canonical form: an entry equal to the default is not listed. -/
def tset {α : Type} [DecidableEq α] (d : α) (t : List (Nat × α)) (k : Nat) (v : α) : List (Nat × α) :=
  if v = d then t.filter fun x => x.1 != k else tput t k v

/-- The indices rise strictly from `lo`, and no listed value is the default. -/
def twfFrom {α : Type} [DecidableEq α] (d : α) (lo : Nat) : List (Nat × α) → Bool
  | [] => true
  | (i, x) :: r => decide (lo ≤ i) && decide (x ≠ d) && twfFrom d (i + 1) r

/-- The canonical form of a table. -/
def twf {α : Type} [DecidableEq α] (d : α) (t : List (Nat × α)) : Bool := twfFrom d 0 t

/-- Write several entries of a table. -/
def tsets {α : Type} [DecidableEq α] (d : α) (t : List (Nat × α)) : List (Nat × α) → List (Nat × α)
  | [] => t
  | (k, v) :: r => tsets d (tset d t k v) r

/-- The entry of a keyed list. -/
def aget? {α : Type} : List (Nat × α) → Nat → Option α
  | [], _ => none
  | (i, x) :: r, k => if k = i then some x else aget? r k

/-- Write an entry of a keyed list, in ascending order of keys. -/
def aset {α : Type} : List (Nat × α) → Nat → α → List (Nat × α)
  | [], k, v => [(k, v)]
  | (i, x) :: r, k, v =>
    if k = i then (k, v) :: r
    else if k < i then (k, v) :: (i, x) :: r
    else (i, x) :: aset r k v

/-- Remove an entry of a keyed list. -/
def adel {α : Type} (l : List (Nat × α)) (k : Nat) : List (Nat × α) := l.filter fun x => x.1 != k

/-- Insert into a list ordered by `le`, after the members that `le` puts before or level with it. -/
def insertBy {α : Type} (le : α → α → Bool) (a : α) : List α → List α
  | [] => [a]
  | b :: r => if le b a then b :: insertBy le a r else a :: b :: r

/-- Sort, keeping the order of members that are level. -/
def sortBy {α : Type} (le : α → α → Bool) (l : List α) : List α := l.foldl (fun acc a => insertBy le a acc) []

/-- The members of a list without repeats, each at its first place. -/
def nub {α : Type} [DecidableEq α] : List α → List α
  | [] => []
  | a :: r => a :: (nub r).filter (· ≠ a)

/-- The least of a list of numbers; 0 of an empty one. -/
def leastOf : List Nat → Nat
  | [] => 0
  | a :: r => r.foldl min a

/-! ## Numbers and bytes -/

/-- The number that bytes name, the first at the lowest address (02 R12). -/
def leNat : List Byte → Nat
  | [] => 0
  | b :: r => b.toNat + 256 * leNat r

/-- The low `n` bytes of a number, the lowest first. -/
def leBytes : Nat → Nat → List Byte
  | 0, _ => []
  | n + 1, x => BitVec.ofNat 8 x :: leBytes n (x / 256)

/-- Bits [lo + n - 1 : lo] of a number. -/
def bits (x lo n : Nat) : Nat := (x >>> lo) % 2 ^ n

/-- Set bits of a number's low n, counted. -/
def popcount : Nat → Nat → Nat
  | 0, _ => 0
  | n + 1, x => x % 2 + popcount n (x / 2)

/-- The lowest set bit among the low n; n if there is none. -/
def lowestBit : Nat → Nat → Nat
  | 0, _ => 0
  | n + 1, x => if x % 2 = 1 then 0 else 1 + lowestBit n (x / 2)

/-- The lanes of a mask, in ascending order. -/
def lanesOf (m : Mask) : List Nat := (List.range 128).filter fun i => m.getLsbD i

/-- The mask of one lane. -/
def laneBit (i : Nat) : Mask := BitVec.ofNat 128 (2 ^ i)

/-- The mask of a list of lanes. -/
def maskOf (l : List Nat) : Mask := l.foldl (fun m i => m ||| laneBit i) 0#128

def laneCount (m : Mask) : Nat := popcount 128 m.toNat
/-- The lowest lane of a mask; 128 when it is empty. -/
def lowestLane (m : Mask) : Nat := lowestBit 128 m.toNat

/-- Join two optional values, the first where it is there. -/
def isPow2 (x : Nat) : Bool := x != 0 && x == 2 ^ Nat.log2 x

end Sys2Proof.Machine
end

