-- ==== Sys2Proof/Machine/Memory.lean ====
section
/-! DEFINITION. Units of the module by number, physical memory (01 R368), the page walk (19 R315 to R317) and the
private address map (13 R280). -/

namespace Sys2Proof.Machine

/-! ## Units -/

def State.thread? (s : State) (t : Nat) : Option Thread := aget? s.threads t
def State.setThread (s : State) (t : Nat) (w : Thread) : State := { s with threads := aset s.threads t w }
def State.modThread (s : State) (t : Nat) (f : Thread → Thread) : State :=
  match s.thread? t with
  | some w => s.setThread t (f w)
  | none => s
def State.context? (s : State) (c : Nat) : Option Context := aget? s.contexts c
def State.setContext (s : State) (c : Nat) (x : Context) : State := { s with contexts := aset s.contexts c x }
def State.modContext (s : State) (c : Nat) (f : Context → Context) : State :=
  match s.context? c with
  | some x => s.setContext c (f x)
  | none => s
def State.grid? (s : State) (g : Nat) : Option Grid := aget? s.grids g
def State.setGrid (s : State) (g : Nat) (x : Grid) : State := { s with grids := aset s.grids g x }
def State.modGrid (s : State) (g : Nat) (f : Grid → Grid) : State :=
  match s.grid? g with
  | some x => s.setGrid g (f x)
  | none => s
def State.group? (s : State) (p : Nat) : Option Group := aget? s.groups p
def State.setGroup (s : State) (p : Nat) (x : Group) : State := { s with groups := aset s.groups p x }
def State.modGroup (s : State) (p : Nat) (f : Group → Group) : State :=
  match s.group? p with
  | some x => s.setGroup p (f x)
  | none => s
def State.die (s : State) (d : Nat) : Die := s.dies.getD d Die.reset
def State.setDie (s : State) (d : Nat) (x : Die) : State := { s with dies := s.dies.set d x }
def State.modDie (s : State) (d : Nat) (f : Die → Die) : State := s.setDie d (f (s.die d))
def State.flue (s : State) (f : Nat) : Flue := s.flues.getD f (Flue.reset f)
def State.modFlue (s : State) (f : Nat) (k : Flue → Flue) : State := { s with flues := s.flues.set f (k (s.flue f)) }
/-- A hearth by die x 128 + hearth. -/
def State.hearth (s : State) (h : Nat) : Hearth := (aget? s.hearths h).getD Hearth.idle
def State.setHearth (s : State) (h : Nat) (x : Hearth) : State := { s with hearths := aset s.hearths h x }
def State.modHearth (s : State) (h : Nat) (f : Hearth → Hearth) : State := s.setHearth h (f (s.hearth h))

/-- A compute die that can hold work: in RUN (25 R365, R366). -/
def Die.live (d : Die) : Bool := d.mode == .run

/-- A thread's hearth by die x 128 + hearth. -/
def Thread.home (w : Thread) : Nat := w.die * 128 + w.hearth

/-- The ember core of a context, by cluster x 16 + core (15 R288). -/
def Ember.core (e : Ember) : Nat := e.cluster * 16 + e.ctxno / 8

/-- The place from which a thread translates: its hearth or ember core, with its die modulo 16. A die's own agents translate
from the die's number, which has no first-level TLB (19 R318). -/
def Thread.mmu (w : Thread) : Nat :=
  match w.ember with
  | none => w.die + 16 * (1 + w.home)
  | some e => w.die + 16 * (2049 + e.core)

/-! ## Physical memory -/

/-- The CXL port whose window holds an address (01 Table 1.5). -/
def cxlPortOf (pa : Nat) : Option Nat :=
  if 2 ^ 45 ≤ pa ∧ pa < 9 * 2 ^ 45 then some (pa / 2 ^ 45 - 1) else none

/-- An address that names a peer inbox aperture (01 R368). -/
def isPeer (pa : Nat) : Bool := decide (2 ^ 51 ≤ pa)

/-- Memory stands at the address: an HBM4E stack, or an expander within its capacity (01 R368). -/
def State.holdsMemory (s : State) (pa : Nat) : Bool :=
  decide (pa < 2 ^ 40) ||
    match cxlPortOf pa with
    | some p => decide (pa % 2 ^ 45 < (s.ports.getD p ⟨false, 0⟩).cap)
    | none => false

/-- The flue die that is home to an address (01 Table 1.5). -/
def homeFlue (pa : Nat) : Nat :=
  match cxlPortOf pa with
  | some p => p / 2
  | none => pa / 2 ^ 38 % 4

/-- The flue die works: one that has tripped has stopped, until a module reset (25 R366, Table 25.4). -/
def State.flueRuns (s : State) (f : Nat) : Bool := (s.flue f).mode == .run

/-- The circuit between two flue dies that work is UP at both ends (22 R336). -/
def State.circuitUp (s : State) (f k : Nat) : Bool :=
  let up := fun a b => ((s.flue a).conn.find? fun e => e.1 == b).any fun e => e.2.state == .up
  s.flueRuns f && s.flueRuns k && (f == k || (up f k && up k f))

/-- A die reaches the home of an address: an access that needs a circuit which is not UP waits (22 R337), and so does one that
needs a flue die which has stopped (log 76). -/
def State.reaches (s : State) (die pa : Nat) : Bool := isPeer pa || s.circuitUp (die / 4) (homeFlue pa)

/-- The port of a peer link that the transfers of a flue die leave through: its own, or where that is down the next one that is up,
in ascending number (22 R340). -/
def State.egress (s : State) (f : Nat) : Option Nat := ((List.range 4).map fun i => (f + i) % 4).find? fun p => (s.flue p).peerUp && s.flueRuns p

/-- The way that an access of a die takes is open: to a peer through the flue die of its port, else to its home (22 R337, R340). -/
def State.carries (s : State) (die pa : Nat) : Bool :=
  if isPeer pa then (s.egress (die / 4)).any (s.circuitUp (die / 4)) else s.reaches die pa

/-- The home L3 slice of an address, 64 to a flue die (13 Table 13.2). -/
def homeSlice (pa : Nat) : Nat := homeFlue pa * 64 + (bits pa 7 6 ^^^ bits pa 13 6)

/-- The canonical form of a memory: addresses rise strictly, and no listed byte is 0, what an unlisted one reads as
(log 4). -/
def Memory.wf (m : List Host.Cell) : Bool := twf 0#8 m

/-- The committed byte at a physical address. A byte never written reads 0 (25 Table 25.4, log 4), and so does an address at which
no memory stands, where a walk, a ring or an operand of a command may look: the model's choice (log 75). -/
def State.readByte (s : State) (pa : Nat) : Byte := tget 0#8 s.mem pa

/-- Write a committed byte; an address that holds no memory takes nothing (01 R368, log 75). -/
def State.writeByte (s : State) (pa : Nat) (b : Byte) : State :=
  if s.holdsMemory pa then { s with mem := tset 0#8 s.mem pa b } else s

def State.readBytes (s : State) (pa : Nat) : Nat → List Byte
  | 0 => []
  | n + 1 => s.readByte pa :: s.readBytes (pa + 1) n

def State.writeBytes (s : State) (pa : Nat) : List Byte → State
  | [] => s
  | b :: r => (s.writeByte pa b).writeBytes (pa + 1) r

def State.read64 (s : State) (pa : Nat) : DWord := BitVec.ofNat 64 (leNat (s.readBytes pa 8))

/-- A downed CXL link cuts the address off (22 R335). -/
def State.linkDown (s : State) (pa : Nat) : Bool :=
  match cxlPortOf pa with
  | some p => !(s.ports.getD p ⟨false, 0⟩).up
  | none => false

/-- The line of an address is held in the L3 of its home, as one that a read has fetched or as one of a pin (13 Table 13.2). -/
def State.l3Holds (s : State) (pa : Nat) : Bool :=
  ((aget? s.caches.l3 (homeFlue pa)).getD []).contains (pa / 128)
    || s.caches.pinned.any fun p => p.page == pa / 65536 && !p.missing.contains (pa / 128)

/-- SRC of a word that the home does not deliver: one of an L3 line that cannot be corrected; and where L3 does not hold the line,
one behind a downed link, or one of memory that cannot be corrected (23 Table 23.1). -/
def State.wordLost (s : State) (pa : Nat) : Option Nat :=
  if (s.badL3.any fun w => w.1 == pa / 8) = true then some 1
  else if s.linkDown pa then (if s.l3Holds pa then none else some 3)
  else if s.badMem.contains (pa / 8) then (if s.l3Holds pa then none else some 0)
  else none

/-- The words of eight bytes that a range meets, by their addresses. -/
def wordsIn (pa n : Nat) : List Nat := (List.range ((pa % 8 + n + 7) / 8)).map fun i => pa / 8 * 8 + 8 * i

/-- SRC of the first word of a range that a read does not get. -/
def State.rangeLost (s : State) (pa n : Nat) : Option Nat := (wordsIn pa n).findSome? s.wordLost

/-- A read has found a word of an L3 line lost: a clean line is dropped, and fetched again on the next miss (23 Table 23.1). -/
def State.dropL3 (s : State) (pa n : Nat) : State :=
  let met := fun (w : Nat × Bool) => !w.2 && decide (pa < 8 * w.1 + 8 ∧ 8 * w.1 < pa + n)
  if s.badL3.any met then
    let lines := (s.badL3.filter met).map fun w => w.1 / 16
    { s with badL3 := s.badL3.filter fun w => !met w
             caches := { s.caches with l3 := s.caches.l3.map fun x => (x.1, x.2.filter fun l => !lines.contains l) } }
  else s

/-- Bytes as a read delivers them: those of a lost word are zeros (23 Table 23.1). -/
def State.cleanBytes (s : State) (pa : Nat) : Nat → List Byte
  | 0 => []
  | n + 1 => (if (s.wordLost pa).isSome then 0#8 else s.readByte pa) :: s.cleanBytes (pa + 1) n

/-- A word of eight bytes as a read delivers it. -/
def State.clean64 (s : State) (pa : Nat) : DWord := if (s.wordLost pa).isSome then 0#64 else s.read64 pa

/-- The part's own memory operands: bit 63 set names host memory (22 R345). -/
def State.readAt (s : State) (a : DWord) (n : Nat) : List Byte :=
  if a.getLsbD 63 then (List.range n).map fun i => tget 0#8 s.hostMem (a.toNat % 2 ^ 63 + i)
  else s.cleanBytes a.toNat n

def State.writeAt (s : State) (a : DWord) (bs : List Byte) : State :=
  if a.getLsbD 63 then
    { s with hostMem := tsets 0#8 s.hostMem ((List.range bs.length).zip bs |>.map fun (i, b) => (a.toNat % 2 ^ 63 + i, b)) }
  else s.writeBytes a.toNat bs

/-! ## Translation (19 R315 to R317) -/

/-- A translated address with its leaf, or why the walk ends. -/
inductive Xlat where
  | ok (pa : Nat) (leaf : DWord)
  | page
  | malformed (level : Nat)
  | prot
deriving DecidableEq, Repr

/-- Bits that an entry of the level covers (19 Table 19.5). -/
def levelBits : Nat → Nat
  | 0 => 39
  | 1 => 26
  | 2 => 21
  | _ => 16

/-- Index of a virtual address at a level. -/
def levelIndex (va : Nat) : Nat → Nat
  | 0 => bits va 39 13
  | 1 => bits va 26 13
  | 2 => bits va 21 5
  | _ => bits va 16 5

def leafBit (e : DWord) : Bool := e.getLsbD 62
def leafTwin (e : DWord) : Bool := e.getLsbD 61
def leafRo (e : DWord) : Bool := e.getLsbD 60
def leafStrict (e : DWord) : Bool := e.getLsbD 58
def leafCxl (e : DWord) : Bool := e.getLsbD 52
/-- ADDR of an entry, as a physical address. -/
def entryAddr (e : DWord) : Nat := bits e.toNat 8 44 * 256

/-- What a leaf of a level gives for an address: PROT where its CXL bit disagrees with the region of its ADDR, or where
no memory stands (19 R316). -/
def State.leafXlat (s : State) (va level : Nat) (e : DWord) : Xlat :=
  let a := entryAddr e
  let pa := a + va % 2 ^ levelBits level
  if leafCxl e != (cxlPortOf a).isSome then .prot
  else if isPeer a then .ok pa e
  else if s.holdsMemory pa then .ok pa e
  else .prot

/-- The walk from a table at `level`, with `fuel` levels left below (19 R315, R316). -/
def State.walk (s : State) (va table level : Nat) : Nat → Xlat × Nat × DWord
  | 0 => (.malformed 3, level, 0#64)
  | fuel + 1 =>
    let e := s.clean64 (table + 8 * levelIndex va level)
    if !e.getLsbD 63 then (.page, level, e)
    else if bits e.toNat 0 8 ≠ 0 then (.malformed level, level, e)
    else if leafBit e then
      if level = 0 then (.malformed level, level, e)
      else if entryAddr e % 2 ^ levelBits level ≠ 0 then (.malformed level, level, e)
      else (s.leafXlat va level e, level, e)
    else if bits e.toNat 52 10 ≠ 0 then (.malformed level, level, e)
    else if level = 3 then (.malformed level, level, e)
    else if level = 0 ∧ entryAddr e % 65536 ≠ 0 then (.malformed level, level, e)
    else s.walk va (entryAddr e) (level + 1) fuel

/-- Addresses of the table entries that the walk reads. -/
def State.walkReads (s : State) (va table level : Nat) : Nat → List Nat
  | 0 => []
  | fuel + 1 =>
    let a := table + 8 * levelIndex va level
    let e := s.clean64 a
    if e.getLsbD 63 && !leafBit e && level < 3 then a :: s.walkReads va (entryAddr e) (level + 1) fuel else [a]

/-- A TLB entry that covers the address. -/
def TlbEntry.covers (e : TlbEntry) (c va : Nat) : Bool :=
  e.ctx == c && e.vbase == va / 2 ^ levelBits e.level * 2 ^ levelBits e.level

/-- The TLB entry that a place finds for an address: its first-level TLB's, else its die's last-level one's (19 R318). -/
def State.tlbHit (s : State) (place c va : Nat) : Option TlbEntry :=
  (((aget? s.tlbs place).getD []).find? (·.covers c va)) <|> ((s.die (place % 16)).tlb.find? (·.covers c va))

/-- Translation of a global virtual address for a context, as a place finds it (19 R315, R318). -/
def State.translate (s : State) (place c : Nat) (va : DWord) : Xlat :=
  if va.toNat ≥ 2 ^ 52 then .page
  else match s.tlbHit place c va.toNat with
    | some e => s.leafXlat va.toNat e.level e.leaf
    | none =>
      match s.context? c with
      | some x => (s.walk va.toNat x.root.toNat 0 4).1
      | none => .page

/-- What an access wants of its page. -/
inductive Access where
  | read | write
deriving DecidableEq, Repr

/-- Translate an access: PAGE, or PROT where the page forbids it (19 R316, R317, 22 R338). -/
def State.access (s : State) (place c : Nat) (va : DWord) (k : Access) : Except Cause (Nat × DWord) :=
  match s.translate place c va with
  | .page => .error .page
  | .malformed _ => .error .page
  | .prot => .error .prot
  | .ok pa e =>
    if isPeer pa then .error .prot
    else if k == .write && leafRo e then .error .prot
    else .ok (pa, e)

/-- The translation of an address can be had: a TLB holds it, or the walkers of the die's flue die reach the tables (19 R318,
22 R337). -/
def State.walkReached (s : State) (place c : Nat) (va : DWord) : Bool :=
  decide (2 ^ 52 ≤ va.toNat) || (s.tlbHit place c va.toNat).isSome ||
    match s.context? c with
    | some x => (s.walkReads va.toNat x.root.toNat 0 4).all (s.reaches (place % 16))
    | none => true

/-- A die reaches the home of a virtual address, and its tables; one that does not translate needs no circuit to a home (22
R337). -/
def State.pageReached (s : State) (place c : Nat) (a : DWord) : Bool :=
  s.walkReached place c a && match s.translate place c a with
    | .ok pa _ => s.reaches (place % 16) pa
    | .page => true
    | .malformed _ => true
    | .prot => true

/-- A page of a pin's range stands at one of the physical ranges. -/
def State.pinMeets (s : State) (c : Nat) (x : Context) (p : Pin) (l : List (Nat × Nat)) : Bool :=
  (List.range (p.bytes / 65536)).any fun i =>
    match s.translate (((List.range 16).find? fun d => x.dieset.getLsbD d).getD 0) c (p.base + BitVec.ofNat 64 (65536 * i)) with
    | .ok a _ => l.any fun r => decide (a < r.1 + r.2 ∧ r.1 < a + 65536)
    | .page => false
    | .malformed _ => false
    | .prot => false

/-- Accesses to physical ranges touch the pins, of every context, whose pages they fall in (22 R342). -/
def State.touchPas (s : State) (l : List (Nat × Nat)) : State :=
  if s.contexts.all fun c => c.2.pins.isEmpty then s
  else { s with contexts := s.contexts.map fun c => (c.1, { c.2 with pins := c.2.pins.map fun p =>
      (p.1, { p.2 with touched := p.2.touched || s.pinMeets c.1 c.2 p.2 l }) }) }

def State.touchPa (s : State) (pa n : Nat) : State := s.touchPas [(pa, n)]

/-- Virtual ranges, cut at the boundaries of pages. -/
def pageSpans (l : List (Nat × Nat)) : List (Nat × Nat) := l.flatMap fun a =>
  (List.range ((a.1 % 65536 + a.2 + 65535) / 65536)).map fun i =>
    let lo := max a.1 (a.1 / 65536 * 65536 + 65536 * i)
    (lo, min (a.1 + a.2) (a.1 / 65536 * 65536 + 65536 * i + 65536) - lo)

/-- The physical ranges at which virtual ranges stand. -/
def State.spansAt (s : State) (place c : Nat) (l : List (Nat × Nat)) : List (Nat × Nat) :=
  (pageSpans l).filterMap fun a => match s.translate place c (BitVec.ofNat 64 a.1) with
    | .ok pa _ => some (pa, a.2)
    | .page => none
    | .malformed _ => none
    | .prot => none

/-- Accesses of a place to virtual ranges of a context touch pins. -/
def State.touch (s : State) (place c : Nat) (l : List (Nat × Nat)) : State :=
  if s.contexts.all fun c => c.2.pins.isEmpty then s else s.touchPas (s.spansAt place c l)

/-- A TLB takes an entry, and the oldest of more than `n` gives way. -/
def tlbPut (n : Nat) (l : List TlbEntry) (e : TlbEntry) : List TlbEntry := (l ++ [e]).drop (l.length + 1 - n)

/-- A place's first-level TLB takes an entry. -/
def State.putFirst (s : State) (place : Nat) (e : TlbEntry) : State :=
  if place < 16 then s else { s with tlbs := aset s.tlbs place (tlbPut 64 ((aget? s.tlbs place).getD []) e) }

/-- The die's last-level TLB takes an entry. -/
def State.putLast (s : State) (die : Nat) (e : TlbEntry) : State :=
  { s with dies := s.dies.modify die fun d => { d with tlb := tlbPut 12288 d.tlb e } }

/-- An address that translates fills the TLBs that miss it: the first-level one from the last-level one, and that from the walk,
which is over before the instruction goes on (19 R318, log 84). -/
def State.fillTlb (s : State) (place c va : Nat) : State :=
  if 2 ^ 52 ≤ va ∨ (((aget? s.tlbs place).getD []).any (·.covers c va)) = true then s
  else match (s.die (place % 16)).tlb.find? (·.covers c va), s.context? c with
    | some e, _ => s.putFirst place e
    | none, none => s
    | none, some x =>
      match s.walk va x.root.toNat 0 4 with
      | (.ok _ _, level, leaf) =>
        let e : TlbEntry := { ctx := c, level := level, vbase := va / 2 ^ levelBits level * 2 ^ levelBits level, leaf := leaf }
        (s.putLast (place % 16) e).putFirst place e
      | _ => s

/-- What a thread's accesses to global memory bring about besides their values: the touch of pinned ranges and the filling of
TLBs, for addresses and lengths. -/
def State.touched (s : State) (w : Thread) (l : List (Nat × Nat)) : State :=
  (nub ((pageSpans l).map fun a => a.1 / 65536 * 65536)).foldl
    (fun s va => s.fillTlb w.mmu w.ctx va) (s.touch w.mmu w.ctx l)

/-- A word, by address / 8, that the home cannot read: one of an L3 line that cannot be corrected, or one of memory whose line L3 does
not hold. -/
def State.wordBad (s : State) (k : Nat) : Bool :=
  (s.badL3.any fun w => w.1 == k) || (s.badMem.contains k && !s.l3Holds (8 * k))

/-- A word is marked as one that cannot be corrected. -/
def State.wordMarked (s : State) (k : Nat) : Bool := s.badMem.contains k || s.badL3.any fun w => w.1 == k

/-- Words of a range have fresh check bits: their marks are gone. -/
def State.freshWords (s : State) (pa n : Nat) : State :=
  { s with badMem := s.badMem.filter fun k => !(wordsIn pa n).contains (8 * k)
           badL3 := s.badL3.filter fun w => !(wordsIn pa n).contains (8 * w.1) }

/-- Write a committed byte: a word that the home cannot read is taken as zero, and is written with fresh check bits (23 R352). -/
def State.commitByte (s : State) (pa : Nat) (b : Byte) : State :=
  if s.wordMarked (pa / 8) then
    (((if s.wordBad (pa / 8) then s.writeBytes (pa / 8 * 8) (List.replicate 8 0#8) else s).writeByte pa b).freshWords (pa / 8 * 8) 8)
  else s.writeByte pa b

/-- Commit bytes. -/
def State.commitBytes (s : State) (pa : Nat) (bs : List Byte) : State :=
  ((List.range bs.length).zip bs).foldl (fun s x => s.commitByte (pa + x.1) x.2) s

/-- A committed byte as a merge reads it: one of a lost word is zero (23 R352). -/
def State.oldByte (s : State) (pa : Nat) : Byte := if s.wordBad (pa / 8) then 0#8 else s.readByte pa

/-! ## Shapes of a grid -/

def KDesc.lanes (d : KDesc) : Nat := 32 * 2 ^ d.width
def Packet.waves (p : Packet) : Nat := p.vm1 + 1
/-- The grid runs in deterministic mode. -/
def State.detGrid (s : State) (g : Nat) : Bool :=
  match s.grid? g with
  | some x => x.pkt.det
  | none => false

/-- Lanes of a group (10 R228). -/
def Grid.groupLanes (g : Grid) : Nat := g.pkt.waves * g.desc.lanes
/-- G (10 R228). -/
def Grid.groupCount (g : Grid) : Nat := (g.pkt.n + g.groupLanes - 1) / g.groupLanes
def Grid.width (g : Grid) : Nat := g.desc.lanes
/-- PRIVSZ in bytes (18 Table 18.2). -/
def Grid.privBytes (g : Grid) : Nat := g.pkt.privsz * 16
def Grid.stashBytes (g : Grid) : Nat := g.desc.stash * 128

/-- GKEY of lane 0 of a wave (03 R41). -/
def waveKey (g : Grid) (gix wix : Nat) : Nat := gix * g.groupLanes + wix * g.width

/-- The virtual address of a private offset of the lane with key k (13 R280). -/
def privateVa (g : Grid) (k o : Nat) : DWord :=
  let w := g.width
  BitVec.ofNat 64 (g.pkt.pbase.toNat + k / w * g.privBytes * w + (o / 16 * w + k % w) * 16 + o % 16)

/-- The virtual address of spilled entry j of a wave (03 R44). -/
def spillVa (g : Grid) (gix wix j : Nat) : DWord :=
  let v := g.pkt.waves
  BitVec.ofNat 64 (g.pkt.pbase.toNat + g.groupCount * v * g.width * g.privBytes
    + 64 * g.pkt.spilln * (gix * v + wix) + 64 * j)

end Sys2Proof.Machine
end

