-- ==== Sys2Proof/Machine/Rings.lean ====
section
/-! DEFINITION. The rings of each die (20 R322, R323), notifications and MSI-X (22 R349), and error records (20 R328). -/

namespace Sys2Proof.Machine

def Die.ring (d : Die) : RingId → Ring
  | .dispatch => d.dring
  | .resolution => d.rring
  | .error => d.ering
  | .notify => d.nring

/-- The largest size a ring may have (20 R322, 22 Table 22.5). -/
def RingId.maxSize : RingId → Nat
  | .notify => 2 ^ 20
  | .dispatch | .resolution | .error => 2 ^ 40

/-- Ring numbers in notification records (22 Table 22.9). -/
def RingId.code : RingId → Nat
  | .dispatch => 0
  | .resolution => 1
  | .error => 2
  | .notify => 3

/-- BASE and SIZE enable the ring (20 R322). -/
def Ring.enabled (r : Ring) (k : RingId) : Bool :=
  bits r.base.toNat 0 12 == 0 && isPow2 r.size.toNat && decide (8192 ≤ r.size.toNat) && decide (r.size.toNat ≤ k.maxSize)

/-- Header words of a ring: 0 WIDX, 1 RIDX, 2 LOST, 3 RSVD (20 Table 20.2). -/
def State.ringWord (s : State) (r : Ring) (i : Nat) : Nat := leNat (s.readAt (r.base + BitVec.ofNat 64 (8 * i)) 8)
def State.setRingWord (s : State) (r : Ring) (i x : Nat) : State :=
  s.writeAt (r.base + BitVec.ofNat 64 (8 * i)) (leBytes 8 x)

/-- Free space of a ring in bytes (20 Table 20.2). -/
def State.ringFree (s : State) (r : Ring) : Nat :=
  r.size.toNat - ((s.ringWord r 0 - s.ringWord r 1) + s.ringWord r 3)

/-- Add to the die's lost count of a ring (20 R322). -/
def Die.lose (d : Die) (k : RingId) (n : Nat) : Die :=
  match k with
  | .dispatch => { d with dlost := d.dlost + n }
  | .resolution => { d with rlost := d.rlost + n }
  | .error => { d with elost := d.elost + n }
  | .notify => { d with nlost := d.nlost + n }

/-- The ring that something yet to be written is for. -/
def Post.ring : Post → Option RingId
  | .record k _ => some k
  | .spend _ => some .resolution
  | .trace _ => some .dispatch
  | .notice _ _ _ _ _ => some .notify
  | .lost k _ => some k
  | .release _ => some .resolution
  | .complete _ _ _ _ => none
  | .command _ => none

/-- Raise an MSI-X vector: a masked one stays pending, an unmasked one writes its message data at its message address
(22 R349; the layout of the table is PCIe's, log 12). -/
def State.raise (s : State) (die v : Nat) : State :=
  let d := s.die die
  let ctl := d.msix.getD (2 * v + 1) 0#64
  if ctl.getLsbD 32 then s.setDie die { d with msixPend := d.msixPend ||| BitVec.ofNat 4 (2 ^ v) }
  else s.writeAt (d.msix.getD (2 * v) 0#64 ||| 0x8000000000000000#64) (leBytes 4 ctl.toNat)

/-- Append bytes to an enabled ring that has room for them, with no look at what stays free. -/
def State.ringAppend (s : State) (r : Ring) (bs : List Byte) : State :=
  let w := s.ringWord r 0
  let s := s.writeAt (r.base + BitVec.ofNat 64 (64 + w % r.size.toNat)) bs
  s.setRingWord r 0 (w + bs.length)

/-- The die writes to a ring at once: it reaches the memory that the ring stands in (22 R337), and nothing for the ring waits. -/
def State.ringOpen (s : State) (die : Nat) (k : RingId) : Bool :=
  let d := s.die die
  let r := d.ring k
  (!r.enabled k || r.base.getLsbD 63 || s.reaches die r.base.toNat) && d.posted.all fun p => p.ring != some k

/-- What a die has yet to write. -/
def State.post (s : State) (die : Nat) (p : Post) : State := s.modDie die fun d => { d with posted := d.posted ++ [p] }

/-- Count records that an enabled or a disabled ring did not take (20 R322, Table 20.2). -/
def State.loseNow (s : State) (die : Nat) (k : RingId) (n : Nat) : State :=
  let r := (s.die die).ring k
  if r.enabled k then s.setRingWord r 2 (s.ringWord r 2 + n) else s.modDie die (·.lose k n)

/-- A notification record: words 0 to 2, with TIME in word 3, and vector 1 (22 R349, Table 22.9). -/
def State.noticeNow (s : State) (die ty ctx info : Nat) (w1 w2 : DWord) : State :=
  let r := (s.die die).nring
  let rec4 := leBytes 8 (ty * 2 ^ 56 + ctx % 65536 * 2 ^ 32 + info % 2 ^ 32) ++ leBytes 8 w1.toNat ++ leBytes 8 w2.toNat
    ++ leBytes 8 s.time.toNat
  if r.enabled .notify && decide (32 ≤ s.ringFree r) then
    let s := s.ringAppend r rec4
    if ty = 0x0A then s else s.raise die 1
  else s.loseNow die .notify 1

/-- A notification: its record, and the vectors of a trip and of a ring below a quarter, which are raised whether or not the
record finds room (22 R349). -/
def State.notify (s : State) (die ty ctx info : Nat) (w1 w2 : DWord) : State :=
  let s := if s.ringOpen die .notify then s.noticeNow die ty ctx info w1 w2 else s.post die (.notice ty ctx info w1 w2)
  if ty = 0x0A then s.raise die 3 else if ty = 0x08 then s.raise die 2 else s

/-- The context's interrupt: a record on each die of the context (22 R349). -/
def State.notifyCtx (s : State) (c ty info : Nat) (w1 w2 : DWord) : State :=
  match s.context? c with
  | some x => ((List.range 16).filter fun d => x.dieset.getLsbD d).foldl (fun s d => s.notify d ty c info w1 w2) s
  | none => s

/-- Tell the host when the free space of a ring has first fallen below a quarter (20 R322). -/
def State.ringCheck (s : State) (die : Nat) (k : RingId) (before : Nat) : State :=
  let r := (s.die die).ring k
  let free := s.ringFree r
  if k ≠ .notify ∧ 4 * free < r.size.toNat ∧ r.size.toNat ≤ 4 * before then
    s.notify die 0x0A 0 k.code r.base (BitVec.ofNat 64 free)
  else s

/-- The ring is enabled and has n bytes free. -/
def State.ringRoom (s : State) (die : Nat) (k : RingId) (n : Nat) : Bool :=
  let r := (s.die die).ring k
  r.enabled k && decide (n ≤ s.ringFree r)

/-- Write a record to a ring, or count it lost (20 R322). -/
def State.putNow (s : State) (die : Nat) (k : RingId) (bs : List Byte) : State :=
  let r := (s.die die).ring k
  if s.ringRoom die k bs.length then
    let before := s.ringFree r
    (s.ringAppend r bs).ringCheck die k before
  else s.loseNow die k 1

/-- A record for a ring, which waits while the ring is not reached. -/
def State.ringPut (s : State) (die : Nat) (k : RingId) (bs : List Byte) : State :=
  if s.ringOpen die k then s.putNow die k bs else s.post die (.record k bs)

/-- Padding before a block: it never wraps (20 R324). -/
def State.blockPad (s : State) (r : Ring) (n : Nat) : Nat :=
  let off := s.ringWord r 0 % r.size.toNat
  if r.size.toNat < off + n then r.size.toNat - off else 0

/-- Write a trace block, whose TRACEID names its data offset; a disabled ring counts it (20 R324). -/
def State.traceNow (s : State) (die : Nat) (bs : List Byte) : State :=
  let r := (s.die die).dring
  if !r.enabled .dispatch then s.putNow die .dispatch bs
  else
    let pad := s.blockPad r bs.length
    let s := if pad = 0 then s else s.putNow die .dispatch (List.replicate pad 0#8)
    s.putNow die .dispatch (leBytes 4 (s.ringWord r 0 % r.size.toNat / 32) ++ bs.drop 4)

def State.ringTrace (s : State) (die : Nat) (bs : List Byte) : State :=
  if s.ringOpen die .dispatch then s.traceNow die bs else s.post die (.trace bs)

/-- Reserve n bytes of the resolution ring, which is reached (20 R329). -/
def State.ringReserve (s : State) (die n : Nat) : State :=
  let r := (s.die die).rring
  if r.enabled .resolution then
    let before := s.ringFree r
    (s.setRingWord r 3 (s.ringWord r 3 + n)).ringCheck die .resolution before
  else s

def State.releaseNow (s : State) (die n : Nat) : State :=
  let r := (s.die die).rring
  if r.enabled .resolution then s.setRingWord r 3 (s.ringWord r 3 - n) else s

/-- Bytes of the resolution ring are reserved no longer. -/
def State.ringRelease (s : State) (die n : Nat) : State :=
  if s.ringOpen die .resolution then s.releaseNow die n else s.post die (.release n)

/-- Write a record whose room a reservation holds: its bytes are reserved no longer (20 R329). -/
def State.spendNow (s : State) (die : Nat) (bs : List Byte) : State :=
  let r := (s.die die).rring
  if r.enabled .resolution && decide (bs.length ≤ s.ringWord r 3) then
    let s := s.ringAppend r bs
    s.setRingWord r 3 (s.ringWord r 3 - bs.length)
  else s.putNow die .resolution bs

/-- A record of the resolution ring whose room a reservation holds. -/
def State.ringSpend (s : State) (die : Nat) (bs : List Byte) : State :=
  if s.ringOpen die .resolution then s.spendNow die bs else s.post die (.spend bs)

/-- A record whose reservation does not fit: only an enabled ring can lack room; a disabled ring drops and counts (20
R322, R329). -/
def State.ringFull (s : State) (die n : Nat) : Bool :=
  let r := (s.die die).rring
  r.enabled .resolution && decide (s.ringFree r < n)

/-- The 32 bytes of a record in the layout of a fault record (11 Table 11.3). -/
def faultRec (addr : Nat) (step : Word) (key wcount umask ctx ty lowBits : Nat) : List Byte :=
  leBytes 8 (ty * 2 ^ 56 + lowBits) ++ leBytes 8 (min wcount 0xFFFFFFFF * 2 ^ 32 + umask % 65536 * 2 ^ 16 + ctx % 65536)
    ++ leBytes 8 (step.toNat * 2 ^ 32 + key % 2 ^ 32) ++ leBytes 8 addr

/-- An error record written outside a close (20 R328, Table 20.8). -/
def State.errRec (s : State) (die ty src : Nat) (addr : DWord) (step : Word) (key count ctx : Nat) : State :=
  s.ringPut die .error (faultRec addr.toNat step key count 0 ctx ty (src * 2 ^ 48))

/-- An uncorrectable error: the die's count of its source, and its record (23 R351). -/
def State.uncorrected (s : State) (die src : Nat) (addr : DWord) (step : Word) (key count ctx : Nat) : State :=
  (s.modDie die fun d => { d with uncorrected := tset 0 d.uncorrected src (tget 0 d.uncorrected src + 1) }).errRec die 0x10 src
    addr step key count ctx

/-- Record the lost words of a range that something other than a load reads (23 R351). -/
def State.noteLostAt (s : State) (die c : Nat) (step : Word) (key : Nat) (va : DWord) (pa n : Nat) : State :=
  ((wordsIn pa n).foldl (fun s a =>
    match s.wordLost a with
    | some src => s.uncorrected die src (va + BitVec.ofNat 64 (a - pa)) step key 1 c
    | none => s) s).dropL3 pa n

/-- Write bytes of memory outside a close: on a downed link they are dropped and logged (22 R335), and a lost word of which
they leave a part is merged as zero and logged (23 R352). -/
def State.storeMem (s : State) (die : Nat) (step : Word) (key c : Nat) (va : DWord) (pa : Nat) (bs : List Byte) : State :=
  if s.linkDown pa then s.uncorrected die 3 va step key 1 c
  else
    let part := (wordsIn pa bs.length).filter fun a => s.wordBad (a / 8) && !decide (pa ≤ a ∧ a + 8 ≤ pa + bs.length)
    (part.foldl (fun s a => s.uncorrected die ((s.wordLost a).getD 0) (va - BitVec.ofNat 64 pa + BitVec.ofNat 64 a) step key 1 c)
      s).commitBytes pa bs

/-- The error ring of a die takes a fault record now: it is reached, and is disabled or has room (11 R257, 22 R337). -/
def State.ringTakes (s : State) (die n : Nat) : Bool :=
  s.ringOpen die .error && (!((s.die die).ering).enabled .error || s.ringRoom die .error n)

/-- The fault records that their homes hold are written as their rings get room (11 R257). -/
def State.flushHomes (s : State) : State :=
  if s.heldRecs.isEmpty then s
  else s.heldRecs.foldl (fun s h =>
    if s.ringTakes h.die h.bytes.length then s.ringPut h.die .error h.bytes
    else { s with heldRecs := s.heldRecs ++ [h] }) { s with heldRecs := [] }

/-- The lowest live die; 0 when there is none (22 R341). -/
def State.lowestLive (s : State) : Nat := ((List.range 16).find? fun d => (s.die d).live).getD 0

/-- The lowest live die of a mask (20 R324). -/
def State.lowestLiveIn (s : State) (m : BitVec 16) : Option Nat :=
  (List.range 16).find? fun d => m.getLsbD d && (s.die d).live

end Sys2Proof.Machine
end

