-- ==== Sys2Proof/Machine/Caches.lean ====
section
/-! DEFINITION. The caches on the way of an access: L1, L2 and L3 (13 R275 to R281), what they answer, what they allocate, evict and
drop (11 R262), and the private lines that an L1 writes back. The replacement that the manual leaves open is the model's choice (log 98). -/

namespace Sys2Proof.Machine

/-! ## An access on its way -/

/-- An access to memory, and the caches that it goes through: whether it is to a private line, whether it looks in the L1 of its
place and may allocate there, the die whose L2 it looks in and whether it marks the line retained, and whether its page is cacheable
in L3 (13 R276 to R279). -/
structure LineUse where
  place : Nat
  pa : Nat
  va : DWord
  n : Nat
  priv : Bool
  looks : Bool
  puts : Bool
  l2 : Option Nat
  kept : Bool
  l3 : Bool
deriving DecidableEq, Repr

def LineUse.line (u : LineUse) : Nat := u.pa / 128

/-- The access meets one of the words. -/
def LineUse.meets (u : LineUse) (bad : List Nat) : Bool := (wordsIn u.pa u.n).any fun a => bad.contains (a / 8)

/-- A leaf's page is cacheable in L3, and the die that it prefers for L2 (19 Table 19.6). -/
def leafL3 (e : DWord) : Bool := e.getLsbD 59
def leafDie (e : DWord) : Option Nat := if e.getLsbD 57 then some (bits e.toNat 53 4) else none

/-- A die's L2 can be looked in by another: it is live (13 R279), and over a circuit that is UP, the model's choice (log 98). -/
def State.hintOk (s : State) (die d : Nat) : Bool := (s.die d).live && s.circuitUp (die / 4) (d / 4)

/-- The die in whose L2 a global read looks: that of `.HOMEd`, else the one that the page prefers, else its own (13 R279). -/
def State.l2Of (s : State) (die : Nat) (home : Option (BitVec 4)) (leaf : DWord) : Nat :=
  match (home.map (·.toNat)).filter (s.hintOk die) with
  | some d => d
  | none => ((leafDie leaf).filter (s.hintOk die)).getD die

/-- The way of a read of global space; `puts` says that it may allocate in L1. -/
def State.globalUse (s : State) (w : Thread) (puts kept : Bool) (home : Option (BitVec 4)) (va : DWord) (pa : Nat) (leaf : DWord)
    (n : Nat) : LineUse :=
  { place := w.mmu, pa := pa, va := va, n := n, priv := false, looks := true, puts := puts, l2 := some (s.l2Of w.die home leaf)
    kept := kept, l3 := leafL3 leaf }

/-- The way of an access to private space. -/
def privUse (w : Thread) (puts : Bool) (va : DWord) (pa : Nat) (leaf : DWord) (n : Nat) : LineUse :=
  { place := w.mmu, pa := pa, va := va, n := n, priv := true, looks := true, puts := puts, l2 := none, kept := false
    l3 := leafL3 leaf }

/-- The way of a read that passes L1 by and goes through its die's L2: of a window's index words and of a CPIN's lines (13 R275, R276). -/
def throughL2 (w : Thread) (va : DWord) (pa : Nat) (leaf : DWord) (n : Nat) : LineUse :=
  { place := w.mmu, pa := pa, va := va, n := n, priv := false, looks := false, puts := false, l2 := some w.die, kept := false
    l3 := leafL3 leaf }

/-- The way of a read of a window's source, which its home carries out (13 R276). -/
def atHome (w : Thread) (va : DWord) (pa : Nat) (leaf : DWord) (n : Nat) : LineUse :=
  { place := w.mmu, pa := pa, va := va, n := n, priv := false, looks := false, puts := false, l2 := none, kept := false
    l3 := leafL3 leaf }

/-! ## Lines held -/

def Caches.l1At (c : Caches) (place : Nat) : List L1Line := (aget? c.l1 place).getD []
def Caches.l2At (c : Caches) (die : Nat) : List L2Line := (aget? c.l2 die).getD []
def Caches.l3At (c : Caches) (flue : Nat) : List Nat := (aget? c.l3 flue).getD []

def State.setL1 (s : State) (place : Nat) (l : List L1Line) : State := { s with caches := { s.caches with l1 := aset s.caches.l1 place l } }
def State.setL2 (s : State) (die : Nat) (l : List L2Line) : State := { s with caches := { s.caches with l2 := aset s.caches.l2 die l } }
def State.setL3 (s : State) (flue : Nat) (l : List Nat) : State := { s with caches := { s.caches with l3 := aset s.caches.l3 flue l } }

def L1Line.is (l : L1Line) (line : Nat) (priv : Bool) : Bool := l.line == line && l.priv == priv

/-- The line that an L1 holds for an access. -/
def State.l1Line? (s : State) (u : LineUse) : Option L1Line :=
  if u.looks then (s.caches.l1At u.place).find? fun l => l.is u.line u.priv else none

/-- An access meets an error of a global or clean private line, which is dropped and read again (23 Table 23.1, SRC 9). -/
def L1Line.spoilt (l : L1Line) (u : LineUse) : Bool := l.dirty.isEmpty && u.meets l.bad

/-- The line with which an L1 answers. -/
def State.l1Hit (s : State) (u : LineUse) : Option L1Line := (s.l1Line? u).filter fun l => !l.spoilt u

/-- The line that an L2 holds for an access. -/
def State.l2Line? (s : State) (u : LineUse) : Option L2Line := u.l2.bind fun d => (s.caches.l2At d).find? (·.line == u.line)

/-- The line with which an L2 answers: one in which the access meets an error is dropped and reread (23 Table 23.1, SRC 7). -/
def State.l2Hit (s : State) (u : LineUse) : Option L2Line := (s.l2Line? u).filter fun l => !u.meets l.bad

/-- An L1 or L2 answers, and the access does not reach its home. -/
def State.near (s : State) (u : LineUse) : Bool := (s.l1Hit u).isSome || (s.l2Hit u).isSome

/-! ## What a read finds -/

/-- Bytes of committed memory as their home delivers them: a lost word or a downed link delivers zeros, with the SRC of its record (07
R126, 23 Table 23.1). -/
def State.loadBytes (s : State) (pa n : Nat) : List Byte × Option Nat :=
  match s.rangeLost pa n with
  | some src => (List.replicate n 0#8, some src)
  | none => (s.readBytes pa n, none)

/-- Bytes of memory, with those of the words of `bad` as zeros. -/
def State.bytesBut (s : State) (bad : List Nat) (pa n : Nat) : List Byte :=
  (List.range n).map fun i => if bad.contains ((pa + i) / 8) then 0#8 else s.readByte (pa + i)

/-- What the first level that holds the line answers (13 R277), with the SRC of a loss: of a dirty private line that cannot be corrected the
lost bytes are zeros (23 Table 23.1, SRC 10). -/
def State.serve (s : State) (u : LineUse) : List Byte × Option Nat :=
  match s.l1Hit u with
  | some l =>
    if !l.priv then ((l.bytes.drop (u.pa % 128)).take u.n, none)
    else if u.meets l.bad then (s.bytesBut l.bad u.pa u.n, some 10)
    else (s.readBytes u.pa u.n, none)
  | none => if (s.l2Hit u).isSome then (s.readBytes u.pa u.n, none) else s.loadBytes u.pa u.n

/-- Bytes of private memory that the part itself reads, those of lost words as zeros. -/
def State.privRead (s : State) (w : Thread) (pa n : Nat) : List Byte :=
  match s.l1Hit (privUse w true 0#64 pa 0#64 n) with
  | some l => s.bytesBut l.bad pa n
  | none => s.cleanBytes pa n

/-- A private address is reached: its tables are, and its home is, or the L1 holds the line (13 R281, 22 R337). -/
def State.privReached (s : State) (w : Thread) (a : DWord) (n : Nat) : Bool :=
  s.walkReached w.mmu w.ctx a && match s.translate w.mmu w.ctx a with
    | .ok pa _ => s.reaches w.die pa || (s.l1Hit (privUse w true a pa 0#64 n)).isSome
    | .page => true
    | .malformed _ => true
    | .prot => true

/-! ## Write-back (13 R281) -/

/-- Write back a granule from a line: behind a downed link it is dropped and logged (22 R335), and memory has what it held; else its
words are written whole, those that the L1 has lost as zeros with their record. -/
def State.writeBack (s : State) (die : Nat) (bad : List Nat) (d : Dirty) : State :=
  if s.linkDown d.pa then (s.writeBytes d.pa d.old).uncorrected die 3 d.va d.step d.key 1 d.ctx
  else
    let lost := (wordsIn d.pa 16).filter fun a => bad.contains (a / 8)
    let s := lost.foldl (fun s a => s.writeBytes a (List.replicate 8 0#8)) s
    let s := if lost.isEmpty then s else s.uncorrected die 10 d.va d.step d.key 1 d.ctx
    s.freshWords d.pa 16

/-- Write back granules of a line, which are dirty no longer. -/
def State.cleanLine (s : State) (place : Nat) (l : L1Line) (mine : Dirty → Bool) : State × L1Line :=
  ((l.dirty.filter mine).foldl (fun s d => s.writeBack (place % 16) l.bad d) s,
    { l with
      dirty := l.dirty.filter fun d => !mine d
      bad := l.bad.filter fun k => !((l.dirty.filter mine).any fun d => d.pa / 16 == k / 2) })

/-- Write back the granules of an L1 that `mine` names. -/
def State.cleanPlace (s : State) (place : Nat) (mine : Dirty → Bool) : State :=
  let r := (s.caches.l1At place).foldl (fun (a : State × List L1Line) l =>
    let x := a.1.cleanLine place l mine
    (x.1, a.2 ++ [x.2])) (s, [])
  r.1.setL1 place r.2

/-- Granules that `mine` names, by place, are written back. -/
def State.writeBacks (s : State) (mine : Nat → Dirty → Bool) : State :=
  ((s.caches.l1.filter fun x => x.2.any fun l => l.dirty.any (mine x.1)).map (·.1)).foldl (fun s p => s.cleanPlace p (mine p)) s

/-- The granules of a lane that a place has yet to write back. -/
def Dirty.of (d : Dirty) (grid key : Nat) : Bool := d.grid == grid && d.key == key

/-- The homes of the granules that a place holds for a lane are reached (22 R337). -/
def State.lanesReached (s : State) (place grid key : Nat) : Bool :=
  (s.caches.l1At place).all fun l => l.dirty.all fun d => !d.of grid key || s.reaches (place % 16) d.pa

/-! ## Allocation -/

/-- An L1 takes a line, and the one of more than 512 that was used longest ago gives way: its granules are written back. -/
def State.putL1 (s : State) (place : Nat) (l : L1Line) : State :=
  let ls := l :: s.caches.l1At place
  (ls.drop 512).foldl (fun s x => (s.cleanLine place x fun _ => true).1) (s.setL1 place (ls.take 512))

/-- The slice of an L2 in which a line stands (13 Table 13.2). -/
def l2Slice (line : Nat) : Nat := bits line 0 5 ^^^ bits line 5 5

/-- An L2 takes a line, and one of more than 24,576 in its slice gives way: of those that are not retained the one used longest ago, and
a retained one only where there is no other (13 R278). -/
def putL2 (l : L2Line) (ls : List L2Line) : List L2Line :=
  let mine := ls.filter fun x => l2Slice x.line == l2Slice l.line
  if mine.length < 24576 then l :: ls
  else match (mine.filter fun x => !x.kept).getLast? <|> mine.getLast? with
    | some v => l :: ls.filter fun x => x.line != v.line
    | none => l :: ls

/-- An L3 takes a line, and of more than 57,344 in its slice, beside the 1 MiB of its step lines (11 R258), the one used longest ago gives
way. -/
def putL3 (line : Nat) (ls : List Nat) : List Nat :=
  let mine := ls.filter fun x => homeSlice (128 * x) == homeSlice (128 * line)
  if mine.length < 57344 then line :: ls
  else match mine.getLast? with
    | some v => line :: ls.filter (· != v)
    | none => line :: ls

/-- The error of a clean line of an L1 that an access meets: the line is dropped, with its record (23 Table 23.1, SRC 9). -/
def State.dropSpoiltL1 (s : State) (die c : Nat) (step : Word) (key : Nat) (u : LineUse) : State :=
  if ((s.l1Line? u).filter fun l => l.spoilt u).isSome then
    (s.setL1 u.place ((s.caches.l1At u.place).filter fun l => !l.is u.line u.priv)).uncorrected die 9 u.va step key 1 c
  else s

/-- The error of a line of an L2 that an access meets which no L1 answers: as above (SRC 7). -/
def State.dropSpoiltL2 (s : State) (die c : Nat) (step : Word) (key : Nat) (u : LineUse) : State :=
  if (s.l1Hit u).isNone && ((s.l2Line? u).filter fun l => u.meets l.bad).isSome then
    let d := u.l2.getD 0
    (s.setL2 d ((s.caches.l2At d).filter (·.line != u.line))).uncorrected die 7 u.va step key 1 c
  else s

/-- The line stands first in its L1. -/
def State.firstL1 (s : State) (u : LineUse) (l : L1Line) : State :=
  s.setL1 u.place (l :: (s.caches.l1At u.place).filter fun x => !x.is u.line u.priv)

/-- The line comes from its home whole, since none of its words is lost; a line with a lost word is allocated nowhere: the model's choice
(log 98). -/
def State.lineWhole (s : State) (u : LineUse) : Bool := (s.rangeLost (128 * u.line) 128).isNone

/-- L3 on the way of an access: a line that it holds is used, and one of a cacheable page is allocated (13 Table 13.2). -/
def State.useL3 (s : State) (u : LineUse) : State :=
  let f := homeFlue u.pa
  let ls := s.caches.l3At f
  if ls.contains u.line then s.setL3 f (u.line :: ls.filter (· != u.line))
  else if u.l3 && s.lineWhole u then s.setL3 f (putL3 u.line ls) else s

/-- L2 on the way of an access, and what lies behind it. -/
def State.useL2 (s : State) (u : LineUse) : State :=
  match s.l2Line? u, u.l2 with
  | some l, some d => s.setL2 d ({ l with kept := l.kept || u.kept } :: (s.caches.l2At d).filter (·.line != u.line))
  | none, some d =>
    let s' := s.useL3 u
    if s.lineWhole u then s'.setL2 d (putL2 ⟨u.line, u.kept, []⟩ (s'.caches.l2At d)) else s'
  | _, none => s.useL3 u

/-- A read that passes L1 by has found the line as it stands now: an older copy in the L1 of its place is dropped, so that no later
read there returns it (11 R263; log 99). -/
def State.passL1 (s : State) (u : LineUse) : State :=
  if u.priv then s
  else
    let old := fun (l : L1Line) => l.is u.line false && l.bytes != s.readBytes (128 * l.line) 128
    if (s.caches.l1At u.place).any old then s.setL1 u.place ((s.caches.l1At u.place).filter fun l => !old l) else s

/-- The L1 of an access takes its line, as it is committed. -/
def State.allocL1 (s : State) (u : LineUse) : State :=
  s.putL1 u.place ⟨u.line, u.priv, if u.priv then [] else s.readBytes (128 * u.line) 128, [], []⟩

/-- What an access brings about in the caches. -/
def State.useLine (s : State) (die c : Nat) (step : Word) (key : Nat) (u : LineUse) : State :=
  let s := (s.dropSpoiltL1 die c step key u).dropSpoiltL2 die c step key u
  match s.l1Hit u with
  | some l => s.firstL1 u l
  | none =>
    let whole := (s.l2Line? u).isSome || s.lineWhole u
    let s' := s.useL2 u
    if u.looks then (if u.puts && whole then s'.allocL1 u else s') else s'.passL1 u

/-- What the accesses of a thread bring about in the caches, each with the key of its lane. -/
def State.fills (s : State) (w : Thread) (step : Word) (l : List (Nat × LineUse)) : State :=
  l.foldl (fun s x => s.useLine w.die w.ctx step x.1 x.2) s

/-- Lines that accesses of a thread asked an expander for and that did not come: no cache takes them. -/
def State.dropLate (s : State) (w : Thread) (pas : List Nat) : State :=
  let late := fun (line : Nat) => pas.any fun pa => pa / 128 == line
  { s with caches := { s.caches with
      l1 := s.caches.l1.map fun x => (x.1, if x.1 = w.mmu then x.2.filter fun l => !l.dirty.isEmpty || !late l.line else x.2)
      l2 := s.caches.l2.map fun x => (x.1, x.2.filter fun l => !late l.line)
      l3 := s.caches.l3.map fun x => (x.1, x.2.filter fun l => !late l) } }

/-! ## Private stores (07 R129, 13 R281) -/

/-- Write bytes of one granule into a private line of an L1: the granule is dirty, and of a word that was lost the rest is zero (23
Table 23.1). -/
def State.dirtyLine (s : State) (w : Thread) (step : Word) (key : Nat) (u : LineUse) (l : L1Line) (bs : List Byte) : State :=
  let g := u.pa / 16 * 16
  let old := match l.dirty.find? (·.pa == g) with
    | some d => d.old
    | none => s.readBytes g 16
  let d : Dirty := ⟨g, u.va - BitVec.ofNat 64 (u.pa - g), w.ctx, w.grid, key, step, old⟩
  let lost := (wordsIn u.pa u.n).filter fun a => l.bad.contains (a / 8)
  let s := s.firstL1 u { l with
    dirty := l.dirty.filter (fun x => x.pa != g) ++ [d]
    bad := l.bad.filter fun k => !lost.contains (8 * k) }
  (lost.foldl (fun s a => s.writeBytes a (List.replicate 8 0#8)) s).writeBytes u.pa bs

/-- Write bytes of one granule: into the line that the L1 holds or takes, or, where the line has a lost word or its link is down, into
memory at once. -/
def State.storeGranule (s : State) (w : Thread) (step : Word) (key : Nat) (va : DWord) (pa : Nat) (leaf : DWord) (bs : List Byte) :
    State :=
  let u := privUse w true va pa leaf bs.length
  let s := s.useLine w.die w.ctx step key u
  match s.l1Line? u with
  | some l => s.dirtyLine w step key u l bs
  | none => s.storeMem w.die step key w.ctx va pa bs

/-- A range of bytes cut at the granules of memory: the offset and the length of each piece. -/
def granulesOf (pa n : Nat) : List (Nat × Nat) :=
  (List.range ((pa % 16 + n + 15) / 16)).map fun i =>
    let lo := max pa (pa / 16 * 16 + 16 * i)
    (lo - pa, min (pa + n) (pa / 16 * 16 + 16 * i + 16) - lo)

/-- The leaf of a thread's address; 0 where it does not translate. -/
def State.leafOf (s : State) (w : Thread) (va : DWord) : DWord :=
  match s.translate w.mmu w.ctx va with
  | .ok _ e => e
  | .page => 0#64
  | .malformed _ => 0#64
  | .prot => 0#64

/-- Write bytes of private memory, of a trap frame or of a spilled entry (07 R129, 13 R281). -/
def State.storePrivate (s : State) (w : Thread) (step : Word) (key : Nat) (va : DWord) (pa : Nat) (bs : List Byte) : State :=
  let leaf := s.leafOf w va
  (granulesOf pa bs.length).foldl (fun s g =>
    s.storeGranule w step key (va + BitVec.ofNat 64 g.1) (pa + g.1) leaf ((bs.drop g.1).take g.2)) s

/-- What a read of private memory by the part itself brings about: the line is used, and the lost words are recorded (23 R351). -/
def State.notePrivate (s : State) (w : Thread) (step : Word) (key : Nat) (va : DWord) (pa : Nat) (n : Nat) : State :=
  let u := privUse w true va pa (s.leafOf w va) n
  let s' := s.useLine w.die w.ctx step key u
  match s.l1Hit u with
  | some l => ((wordsIn pa n).filter fun a => l.bad.contains (a / 8)).foldl (fun s a =>
      s.uncorrected w.die 10 (va + BitVec.ofNat 64 (a / 16 * 16) - BitVec.ofNat 64 pa) step key 1 w.ctx) s'
  | none => s'.noteLostAt w.die w.ctx step key va pa n

/-! ## What drops lines -/

/-- The close of a grid step: the global lines leave every hearth's L1, and those of the ember cores in the grid's clusters (11 R262). A
place below 32,784 is a hearth's. -/
def State.dropGlobals (s : State) (clusters : List Nat) : State :=
  { s with caches := { s.caches with l1 := s.caches.l1.map fun x =>
      (x.1, if x.1 / 16 < 2049 ∨ clusters.contains ((x.1 / 16 - 2049) / 16) then x.2.filter (·.priv) else x.2) } }

/-- Homes give notice of lines that they have committed: every L2 drops its copies (11 R262). -/
def State.noticeLines (s : State) (lines : List Nat) : State :=
  { s with caches := { s.caches with l2 := s.caches.l2.map fun x => (x.1, x.2.filter fun l => !lines.contains l.line) } }

/-- The lines that a range of bytes meets. -/
def linesIn (pa n : Nat) : List Nat := (List.range ((pa % 128 + n + 127) / 128)).map fun i => pa / 128 + i

/-- Commit bytes, and give notice of their lines. -/
def State.commitLines (s : State) (pa : Nat) (bs : List Byte) : State := (s.commitBytes pa bs).noticeLines (linesIn pa bs.length)

/-- A read of global memory that no cache takes part in has found its lines as they stand now: as `State.passL1` (log 99). -/
def State.readPast (s : State) (w : Thread) (va : DWord) (pa n : Nat) : State :=
  (linesIn pa n).foldl (fun s l => s.passL1 (atHome w va (128 * l) 0#64 128)) s

/-- Global lines of the L1s that `at'` names which have been committed anew are dropped, where the manual has a reader find no older
version than it has found or than was committed before it began (11 R249, R263; log 99). -/
def State.freshen (s : State) (at' : Nat → Bool) : State :=
  { s with caches := { s.caches with l1 := s.caches.l1.map fun x =>
      (x.1, if at' x.1 then x.2.filter fun l => l.priv || l.bytes == s.readBytes (128 * l.line) 128 else x.2) } }

/-- The caches of a die are cleared (25 Table 25.4): what its L1s have not written back is lost. -/
def State.clearCaches (s : State) (die : Nat) : State :=
  let gone := s.caches.l1.filter fun x => x.1 % 16 == die
  let s := gone.foldl (fun s x => x.2.foldl (fun s l => l.dirty.foldl (fun s d => s.writeBytes d.pa d.old) s) s) s
  { s with caches := { s.caches with l1 := s.caches.l1.filter fun x => x.1 % 16 != die, l2 := adel s.caches.l2 die } }

/-! ## Pins (22 R342) -/

/-- A pin brings its pages into L3, but for the lines that have a lost word; a page behind a downed link is not held. -/
def State.pinPages (s : State) (c k : Nat) (pas : List Nat) : State :=
  let held := (pas.filter fun pa => !s.linkDown pa).map fun pa =>
    (⟨c, k, pa / 65536, (nub ((s.badMem.filter fun b => b / 8192 == pa / 65536).map (· / 16))).filter fun l => !s.l3Holds (128 * l)⟩ : PinPage)
  { s with caches := { s.caches with pinned := s.caches.pinned ++ held } }

/-- Pins that `gone` names, by context and number, hold nothing in L3 any more. -/
def State.unpinPages (s : State) (gone : Nat → Nat → Bool) : State :=
  { s with caches := { s.caches with pinned := s.caches.pinned.filter fun p => !gone p.ctx p.pin } }

end Sys2Proof.Machine
end

