-- ==== Sys2Proof/Machine/Paths.lean ====
section
/-! DEFINITION. The reconvergence stack: entries and their images in the spill area (03 R44), branch, park, select and
arrive (08 R169 to R173), as functions of a list of entries, the top first. -/

namespace Sys2Proof.Machine

/-- Address of a 56-bit PC or JOIN field (03 Table 3.5). -/
def addrOf (f : BitVec 56) : DWord := 0#5 ++ f ++ 0#3
/-- The field of an address: bits [58:3]. DEDUCED: RET to an address with any of bits [63:59] set drops them (log 94). -/
def fieldOf (a : DWord) : BitVec 56 := a.extractLsb' 3 56

def Entry.addr (e : Entry) : DWord := addrOf e.pc

/-! ## Images (03 Table 3.5) -/

def PathState.code : PathState → Nat
  | .waiting => 0
  | .running => 1
  | .arrived => 2
  | .parked => 3

def PathState.ofCode : Nat → PathState
  | 0 => .waiting
  | 1 => .running
  | 2 => .arrived
  | _ => .parked

/-- The 64 bytes of an entry. -/
def Entry.image (e : Entry) : List Byte :=
  leBytes 64 (e.mask.toNat * 2 ^ 384 + e.icnt.toNat * 2 ^ 320 + e.pc.toNat * 2 ^ 264 + e.join.toNat * 2 ^ 208
    + e.gstep.toNat * 2 ^ 176 + e.wstep.toNat * 2 ^ 144 + e.fmt.toNat * 2 ^ 112 + e.flg.toNat * 2 ^ 107
    + e.st.code * 2 ^ 105 + (if e.ej then 2 ^ 104 else 0))

/-- The entry of 64 bytes. -/
def Entry.ofImage (bs : List Byte) : Entry :=
  let x := leNat bs
  { mask := BitVec.ofNat 128 (bits x 384 128), icnt := BitVec.ofNat 64 (bits x 320 64)
    pc := BitVec.ofNat 56 (bits x 264 56), join := BitVec.ofNat 56 (bits x 208 56)
    gstep := BitVec.ofNat 32 (bits x 176 32), wstep := BitVec.ofNat 32 (bits x 144 32)
    fmt := BitVec.ofNat 32 (bits x 112 32), flg := BitVec.ofNat 5 (bits x 107 5)
    st := PathState.ofCode (bits x 105 2), ej := decide (bits x 104 1 = 1) }

/-! ## Merging and parking (08 R171) -/

/-- A step count has passed step n: counts wrap modulo 2 ^ 32 (03 R41), and no two that are compared lie 2 ^ 31 apart (log 96). -/
def passed (n c : Word) : Bool := decide (0 < (c - n).toInt)

/-- The later of two step counts. -/
def maxWord (a b : Word) : Word := if passed a b then b else a
def maxDWord (a b : DWord) : DWord := if a.toNat < b.toNat then b else a

/-- A path's mask, ICNT and FLG merge into its join entry. -/
def Entry.absorb (j e : Entry) : Entry :=
  { j with mask := j.mask ||| e.mask, icnt := maxDWord j.icnt e.icnt, flg := j.flg ||| e.flg }

/-- Merge a path into its join entry: the nearest parked entry beneath that stands at the path's JOIN. -/
def mergeDown (e : Entry) : List Entry → List Entry
  | [] => []
  | j :: r => if j.st = .parked ∧ j.pc = e.join then j.absorb e :: r else j :: mergeDown e r

/-- The path has a join entry among the entries beneath it. -/
def hasJoin (e : Entry) (es : List Entry) : Bool := es.any fun j => j.st == .parked && j.pc == e.join

/-- A path whose lanes have all left it: no lane of it can run. A parked entry, which is a join, waits for its paths. With
`keep` the running path stays, as while its handler runs. -/
def Entry.spent (keep : Bool) (e : Entry) : Bool :=
  e.mask == 0#128 && e.st != .parked && !(keep && e.st == .running)

/-- Remove the spent entries wherever they stand, each merged as R171 states; the base entry stays. -/
def sweep (keep : Bool) : Nat → List Entry → List Entry
  | 0, es => es
  | _ + 1, [] => []
  | n + 1, e :: r => if e.spent keep && !r.isEmpty then sweep keep n (mergeDown e r) else e :: sweep keep n r

/-- Remove empty entries from the top, each merged as R171 states; the base entry stays. -/
def dropEmpty : Nat → List Entry → List Entry
  | 0, es => es
  | n + 1, e :: r => if e.mask = 0#128 ∧ r ≠ [] then dropEmpty n (mergeDown e r) else e :: r
  | _ + 1, [] => []

/-- Set the topmost waiting entry that is not ejected and not empty running. -/
def runWaiting : List Entry → Option (List Entry)
  | [] => none
  | e :: r =>
    if e.st = .waiting ∧ e.ej = false ∧ e.mask ≠ 0#128 then some ({ e with st := .running } :: r)
    else (runWaiting r).map (e :: ·)

/-- The stack with the wave's counts. -/
structure PathSet where
  es : List Entry
  gcnt : Word
  wcnt : Word
deriving DecidableEq, Repr

/-- A parked top entry resumes with the wave's counts, which a rejoin may have raised (10 R232). -/
def PathSet.resume (p : PathSet) (e : Entry) (r : List Entry) : PathSet :=
  let g := maxWord p.gcnt e.gstep
  let w := maxWord p.wcnt e.wstep
  { es := { e with st := .running, gstep := g, wstep := w } :: r, gcnt := g, wcnt := w }

/-- The wave arrives (08 R173). -/
def PathSet.arrive (p : PathSet) : PathSet :=
  let w := p.wcnt + 1
  let arrived := p.es.filter fun e => e.st == .arrived
  let g := if arrived.all (fun e => e.gstep == p.gcnt + 1) then p.gcnt + 1 else p.gcnt
  { es := p.es.map fun e =>
      if e.st = .arrived ∧ e.gstep = g then { e with st := .waiting, gstep := g, wstep := w } else e
    gcnt := g, wcnt := w }

/-- select() once its empty top entries are gone (08 R172): resume a parked top, else run a waiting entry, else none. -/
def PathSet.choose (p : PathSet) : Option PathSet :=
  match p.es with
  | [] => none
  | e :: r =>
    if e.st = .parked then some (p.resume e r)
    else (runWaiting p.es).map fun es => { p with es := es }

/-- select() (08 R172). Where no entry can run and none has arrived, the wave waits for its ejected lanes. -/
def PathSet.select (p : PathSet) : PathSet :=
  let es := sweep false p.es.length p.es
  let p := { p with es := dropEmpty es.length es }
  match p.choose with
  | some q => q
  | none =>
    if p.es.any fun e => e.st == .arrived then
      let a := p.arrive
      (a.choose).getD a
    else p

/-- The running entry, with its depth from the top. -/
def running? (es : List Entry) : Option Entry := es.find? fun e => e.st == .running

/-- Change the running entry. -/
def onRunning (f : Entry → Entry) : List Entry → List Entry
  | [] => []
  | e :: r => if e.st = .running then f e :: r else e :: onRunning f r

/-- The running path parks at its join entry (08 R171); a path with none, as on the base entry, stays. The entries above
it, which are ejected or arrived, stay too. -/
def parkRunning : List Entry → List Entry
  | [] => []
  | e :: r => if e.st = .running then (if hasJoin e r then mergeDown e r else e :: r) else e :: parkRunning r

/-- The running path has a join entry. -/
def canPark : List Entry → Bool
  | [] => false
  | e :: r => if e.st = .running then hasJoin e r else canPark r

/-! ## Branching (08 R169) -/

/-- The lanes of each target, in ascending target. -/
structure Arm where
  target : BitVec 56
  mask : Mask
deriving DecidableEq, Repr

/-- Group lanes by target, in ascending target. -/
def armsOf (l : List (Nat × BitVec 56)) : List Arm :=
  (sortBy (fun a b => decide (a.toNat ≤ b.toNat)) (nub (l.map (·.2)))).map fun t =>
    ⟨t, maskOf ((l.filter fun x => x.2 == t).map (·.1))⟩

/-- The member with most lanes; ties to the lower target. -/
def firstArm : List Arm → Option Arm
  | [] => none
  | a :: r => some (r.foldl (fun m x => if laneCount m.mask < laneCount x.mask then x else m) a)

/-- A new entry of a branch, with the copies that it takes from the branching entry. -/
def Entry.child (t : Entry) (a : Arm) (jn : BitVec 56) (st : PathState) (ej : Bool) : Entry :=
  { mask := a.mask, icnt := t.icnt, pc := a.target, join := jn, gstep := t.gstep, wstep := t.wstep, fmt := t.fmt
    flg := t.flg, st := st, ej := ej, pause := t.pause, pausedAt := t.pausedAt }

/-- The entry that the branching entry becomes: the join entry, with the lanes whose target is the join (08 R169). -/
def Entry.asJoin (t : Entry) (arms : List Arm) (jn : BitVec 56) : Entry :=
  { t with mask := ((arms.find? fun a => a.target == jn).map (·.mask)).getD 0#128, pc := jn, st := .parked }

/-- The entries that a divergent branch pushes, the first path on top, the waiting ones beneath it in ascending target
(08 R169). -/
def branchPushes (t : Entry) (arms : List Arm) (jn : BitVec 56) (ejected : List (BitVec 56)) : List Entry :=
  let rest := arms.filter fun a => a.target != jn
  match firstArm rest with
  | none => []
  | some f =>
    t.child f jn .running false ::
      (rest.filter fun a => a.target != f.target).map fun a => t.child a jn .waiting (ejected.contains a.target)

/-- A divergent branch of the running entry. -/
def branchStack (es : List Entry) (t : Entry) (arms : List Arm) (jn : BitVec 56) (ejected : List (BitVec 56)) :
    List Entry :=
  branchPushes t arms jn ejected ++ onRunning (fun e => e.asJoin arms jn) es

/-- Take lanes out of every entry (08 R183). -/
def removeLanes (m : Mask) (es : List Entry) : List Entry := es.map fun e => { e with mask := e.mask &&& ~~~m }

/-- An ejected lane that exits leaves its ICOUNT and FPFLAGS copies to its group's entry, as the path of a lane that the
stack serves keeps them (02 R24, R31, 08 R171). -/
def creditExit (lane : Nat) (x : Entry) (es : List Entry) : List Entry :=
  es.map fun e => if e.ej && e.mask.getLsbD lane then { e with icnt := maxDWord e.icnt x.icnt, flg := e.flg ||| x.flg } else e

/-- The entries after lanes have left for good: `out` holds those that were on embers, with their paths. -/
def leaveEntries (keep : Bool) (m : Mask) (out : List (Nat × Entry)) (es : List Entry) : List Entry :=
  let es := removeLanes m (out.foldl (fun es x => creditExit x.1 x.2 es) es)
  sweep keep es.length es

end Sys2Proof.Machine
end

