-- ==== Sys2Proof/Machine/Ops.lean ====
section
/-! DEFINITION. The named operations over registers, the stack and memory that the instructions share; the end of a
grid, of a wave and of a context; taking a trap (08 R184, 19 R306 to R308) and returning from one (08 R187). -/

namespace Sys2Proof.Machine

/-! ## Registers (03) -/

/-- An s register; a word that cannot be corrected reads 0 (23 Table 23.1). -/
def Thread.sreg (w : Thread) (r : Nat) : DWord := if w.badS.contains r then 0#64 else tget 0#64 w.s r
def Thread.setS (w : Thread) (r : Nat) (x : DWord) : Thread :=
  { w with s := tset 0#64 w.s r x, badS := w.badS.filter (· ≠ r) }

/-- The index of a v register's lane. -/
def vix (r lane : Nat) : Nat := r * 128 + lane

/-- A v register in a lane. -/
def Thread.vreg (w : Thread) (r lane : Nat) : Word :=
  if w.badV.contains (vix r lane) then 0#32 else tget 0#32 w.v (vix r lane)
def Thread.setV (w : Thread) (r lane : Nat) (x : Word) : Thread :=
  { w with v := tset 0#32 w.v (vix r lane) x, badV := w.badV.filter (· ≠ vix r lane) }
/-- An even pair in a lane, the low half in the even register (03 R33). -/
def Thread.vpair (w : Thread) (r lane : Nat) : DWord := w.vreg (r + 1) lane ++ w.vreg r lane
def Thread.setPair (w : Thread) (r lane : Nat) (x : DWord) : Thread :=
  (w.setV r lane (x.extractLsb' 0 32)).setV (r + 1) lane (x.extractLsb' 32 32)

/-- Write (index, word) pairs of v registers. -/
def Thread.setWords (w : Thread) : List (Nat × Word) → Thread
  | [] => w
  | (k, x) :: r => Thread.setWords (w.setV (k / 128) (k % 128) x) r

/-- A predicate: p0 reads 1 in every launched lane (03 R34). -/
def Thread.preg (w : Thread) (p : Nat) : Mask := if p = 0 then w.launched else tget 0#128 w.p p &&& w.launched
/-- Write a predicate in the lanes of `act`; a write to p0 is discarded (03 R34). -/
def Thread.setPred (w : Thread) (p : Nat) (act x : Mask) : Thread :=
  if p = 0 then w else { w with p := tset 0#128 w.p p ((tget 0#128 w.p p &&& ~~~act) ||| (x &&& act)) }

def Thread.freg (w : Thread) (f : Nat) : BitVec 256 := tget 0#256 w.f f
def Thread.setF (w : Thread) (f : Nat) (x : BitVec 256) : Thread := { w with f := tset 0#256 w.f f x }
def Thread.fcount (w : Thread) (f : Nat) : Nat := (tget 0#48 w.fc f).toNat
def Thread.setFc (w : Thread) (f n : Nat) : Thread := { w with fc := tset 0#48 w.fc f (BitVec.ofNat 48 n) }

/-- An accumulator word: one that nothing has written since the launch is a free value (09 R204, log 10). -/
def Thread.accWord (w : Thread) (t a e : Nat) : Word :=
  if w.badAcc.contains (a * 4096 + e) then 0#32 else (aget? w.acc (a * 4096 + e)).getD (Config.freeAcc t (a * 4096 + e))
/-- Write every word of an accumulator tile. -/
def Thread.setAcc (w : Thread) (a : Nat) (f : Nat → Word) : Thread :=
  { w with acc := w.acc.filter (·.1 < a * 4096) ++ ((List.range 4096).map fun k => (a * 4096 + k, f k))
                    ++ w.acc.filter (a * 4096 + 4096 ≤ ·.1)
           badAcc := w.badAcc.filter fun k => k / 4096 ≠ a }

/-- Every launched lane has exited. -/
def Thread.ended (w : Thread) : Bool := w.launched &&& ~~~w.exited == 0#128

/-- The flag is held by an outstanding LD, LDU, STF or FBRD of the thread (03 R38). -/
def Thread.flagOp (w : Thread) (q : Nat) : Bool := w.ops.any fun o => o.flag == q

/-! ## The stack (03 R44) -/

/-- Depth of the first spilled entry of the stack in use. A trap path's own stack has 16 held entries of its own, and its
spilled ones stand above those of the suspended stack: the model's choice (log 73). -/
def Thread.spillBase (w : Thread) : Nat :=
  match w.susp with
  | some u => u.spilled
  | none => 0

/-- Virtual address of spilled entry j. -/
def State.spillAddr (s : State) (w : Thread) (j : Nat) : DWord :=
  match s.grid? w.grid, s.group? w.group with
  | some g, some p => spillVa g p.gix w.wix j
  | _, _ => 0#64

/-- Physical address of spilled entry j, if its page is mapped. -/
def State.spillPa (s : State) (w : Thread) (j : Nat) (k : Access) : Except Cause Nat :=
  match s.grid? w.grid, s.group? w.group with
  | some g, some p =>
    if g.pkt.spilln ≤ j then .error .prot
    else (s.access w.mmu w.ctx (spillVa g p.gix w.wix j) k).map (·.1)
  | _, _ => .error .page

/-- Spilled entries at depths below n, the top first. One whose page can no longer be read is an entry of zeros: the model's
choice (log 73). -/
def State.spilledFrom (s : State) (w : Thread) : Nat → List Entry
  | 0 => []
  | n + 1 =>
    (match s.spillPa w (w.spillBase + n) .read with
      | .ok pa => Entry.ofImage (s.privRead w pa 64)
      | .error _ => Entry.ofImage []) :: s.spilledFrom w n

/-- The thread's whole stack, the top first. -/
def State.entries (s : State) (w : Thread) : List Entry := w.stack ++ s.spilledFrom w w.spilled

/-- Write the images of spilled entries, the top first, where they differ from those of `old`, the entries that stand there. -/
def State.writeSpill (s : State) (w : Thread) (old : List Entry) : List Entry → State
  | [] => s
  | e :: r =>
    if old.reverse[r.length]?.map Entry.image = some e.image then s.writeSpill w old r
    else
      (match s.spillPa w (w.spillBase + r.length) .write with
        | .ok pa => s.storePrivate w e.gstep 0 (s.spillAddr w (w.spillBase + r.length)) pa e.image
        | .error _ => s).writeSpill w old r

/-- Give a thread its stack: the top 16 entries are held, the rest stand in the spill area. -/
def State.putEntries (s : State) (t : Nat) (w : Thread) (es : List Entry) : State :=
  (s.writeSpill w (s.spilledFrom w w.spilled) (es.drop 16)).setThread t { w with stack := es.take 16, spilled := es.length - 16 }

/-- Why a stack of n entries cannot be held: the cause and address of the entry that has no place (03 R44). -/
def State.spillTrap (s : State) (w : Thread) (n : Nat) : Option (Cause × DWord) :=
  ((List.range (n - 16)).drop w.spilled).findSome? fun j =>
    match s.spillPa w (w.spillBase + j) .write with
    | .ok _ => none
    | .error c => some (c, s.spillAddr w (w.spillBase + j))

/-- Entries that move between the hearth and the spill area as the stack comes to n entries, by depth. -/
def Thread.spillMoves (w : Thread) (n : Nat) : List Nat := (List.range (max (n - 16) w.spilled)).drop (min (n - 16) w.spilled)

/-- The entries that a stack of n entries pushes into the spill area, or that it refills, are reached (22 R337). -/
def State.spillReached (s : State) (w : Thread) (n : Nat) : Bool :=
  (w.spillMoves n).all fun j => s.privReached w (s.spillAddr w (w.spillBase + j)) 64

/-- The running path of a thread. -/
def State.path? (s : State) (w : Thread) : Option Entry := running? (s.entries w)

/-- What PAUSE has left the thread's running path (07 R147). -/
def State.pauseOf (s : State) (w : Thread) : Nat :=
  match s.path? w with
  | some e => e.pause
  | none => 0

/-- Change the running path of a thread. -/
def State.setPath (s : State) (t : Nat) (w : Thread) (f : Entry → Entry) : State :=
  s.putEntries t w (onRunning f (s.entries w))

/-! ## Keys -/

/-- GKEY of a lane of a thread (03 R41). -/
def State.gkey (s : State) (w : Thread) (lane : Nat) : Nat :=
  match s.grid? w.grid, s.group? w.group with
  | some g, some p => waveKey g p.gix w.wix + lane
  | _, _ => 0

/-- The lane whose segment holds the trap frames: the lowest launched lane, or the ember's own (19 R306). -/
def Thread.frameLane (w : Thread) : Nat := lowestLane w.launched

/-- A thread's place, coded as WAVE_RESUME names it (22 Table 22.5). -/
def Thread.place (w : Thread) : DWord :=
  match w.ember with
  | none => BitVec.ofNat 64 (w.die + w.hearth * 2 ^ 5 + w.pipe * 2 ^ 12 + w.slot * 2 ^ 14)
  | some e => BitVec.ofNat 64 (w.die + 2 ^ 4 + e.cluster % 16 * 2 ^ 5 + e.ctxno * 2 ^ 9)

/-! ## Private memory (07 Table 7.2, 13 R280) -/

/-- Physical address of n bytes of a lane's private segment that lie in one granule. -/
def State.privPa (s : State) (w : Thread) (lane off n : Nat) (k : Access) : Except Cause (Nat × DWord) :=
  match s.grid? w.grid with
  | some g =>
    if g.privBytes < off + n then .error .prot
    else s.access w.mmu w.ctx (privateVa g (s.gkey w lane) off) k
  | none => .error .page

/-- Virtual address of a private offset of a lane. -/
def State.privAddr (s : State) (w : Thread) (lane off : Nat) : DWord :=
  match s.grid? w.grid with
  | some g => privateVa g (s.gkey w lane) off
  | none => 0#64

/-- Offsets of a trap frame's four granules. -/
def granules (off : Nat) : List Nat := [off, off + 16, off + 32, off + 48]

/-- Physical addresses of the four granules of a trap frame. -/
def State.framePas (s : State) (w : Thread) (off : Nat) (k : Access) : Except Cause (List Nat) :=
  (granules off).mapM fun o => (s.privPa w w.frameLane o 16 k).map (·.1)

/-- A trap frame's granules are reached (22 R337). -/
def State.frameReached (s : State) (w : Thread) (off : Nat) : Bool :=
  (granules off).all fun o => s.privReached w (s.privAddr w w.frameLane o) 16

/-- Write the bytes of a frame at its granules, from offset `off` on. -/
def State.writeGranules (s : State) (w : Thread) (step : Word) : Nat → List Nat → List Byte → State
  | _, [], _ => s
  | off, pa :: r, bs =>
    (s.storePrivate w step (s.gkey w w.frameLane) (s.privAddr w w.frameLane off) pa (bs.take 16)).writeGranules w step (off + 16) r (bs.drop 16)

/-! ## Ends of grids, waves and contexts -/

/-- The malformed entry that ends the walk for an address: its level and where it stands. -/
def State.malformed? (s : State) (place c : Nat) (va : DWord) : Option (Nat × Nat) :=
  match s.translate place c va, s.context? c with
  | .malformed l, some x => (s.walkReads va.toNat x.root.toNat 0 4).getLast?.map fun a => (l, a)
  | _, _ => none

/-- The lost words that the walk for an address reads. -/
def State.walkLost (s : State) (place c : Nat) (va : DWord) : List Nat :=
  match s.context? c with
  | none => []
  | some x =>
    if 2 ^ 52 ≤ va.toNat ∨ (s.tlbHit place c va.toNat).isSome = true then []
    else (s.walkReads va.toNat x.root.toNat 0 4).filter fun a => (s.wordLost a).isSome

/-- The first of the elements that agree on a key. -/
def firstBy {α β : Type} [BEq β] (f : α → β) (l : List α) : List α :=
  l.foldl (fun r x => if r.any fun y => f y == f x then r else r ++ [x]) []

/-- What the walks for addresses, each with the key of its lane, bring about where they end in PAGE: one record for each malformed
entry (19 R316, 20 R328), and one for each lost word that they read as zero (23 Table 23.1, 24 R360). -/
def State.noteWalks (s : State) (place c : Nat) (step : Word) (l : List (Nat × DWord)) : State :=
  let bad := firstBy (fun x => x.2) (l.filterMap fun x => (s.malformed? place c x.2).map fun m => (x, m))
  let lost := firstBy (fun x => x.2) (l.flatMap fun x => (s.walkLost place c x.2).map fun a => (x, a))
  let s := bad.foldl (fun s x => s.errRec (place % 16) 0x12 x.2.1 x.1.2 step x.1.1 1 c) s
  lost.foldl (fun s x => (s.uncorrected (place % 16) ((s.wordLost x.2).getD 0) x.1.2 step x.1.1 1 c).dropL3 x.2 8) s

def State.noteWalk (s : State) (place c : Nat) (va : DWord) (step : Word) (key : Nat) : State := s.noteWalks place c step [(key, va)]

/-- A completion record that is dropped is counted and logged. -/
def State.completeLost (s : State) (die c : Nat) (cpladdr : DWord) (gsteps : Word) (status : Nat) : State :=
  ({ s with cplDropped := s.cplDropped + 1 }).errRec die 0x13 0 cpladdr gsteps 0 status c

/-- The completion record of a grid (18 R303): an address that cannot be written, or whose memory is behind a downed link,
drops it. -/
def State.completeNow (s : State) (die c : Nat) (cpladdr : DWord) (gsteps : Word) (status : Nat) : State :=
  match s.access die c cpladdr .write with
  | .ok (pa, _) =>
    if s.linkDown pa then s.completeLost die c cpladdr gsteps status
    else (s.touchPa pa 16).commitLines pa (leBytes 8 (gsteps.toNat * 2 ^ 32 + status) ++ leBytes 8 s.time.toNat)
  | .error _ => (s.noteWalk die c cpladdr gsteps 0).completeLost die c cpladdr gsteps status

/-- A completion record waits while the memory that it stands in is not reached (22 R337). -/
def State.complete (s : State) (c : Nat) (cpladdr : DWord) (gsteps : Word) (status : Nat) : State :=
  if cpladdr = 0#64 then s
  else
    let die := match s.context? c with
      | some x => (s.lowestLiveIn x.dieset).getD 0
      | none => 0
    if s.pageReached die c cpladdr then s.completeNow die c cpladdr gsteps status
    else s.post die (.complete c cpladdr gsteps status)

/-- Drop what hearths hold of the threads that `gone` names: copies, grate instructions, resident B (07 R154, 09 R217). -/
def State.purgeHearths (s : State) (gone : Nat → Bool) : State :=
  { s with hearths := s.hearths.map fun (k, h) =>
      (k, { h with
        grate := h.grate.filter fun o => !gone o.t
        running := h.running && (match h.grate with | o :: _ => !gone o.t | [] => false)
        resB := h.resB.filter fun b => !gone b.t
        copies := h.copies.filter fun c => !gone c.t }) }

/-- Drop the writes that grids had pending to TWIN lines (11 R260). -/
def State.purgeTwins (s : State) (gone : Nat → Bool) : State :=
  { s with twins := s.twins.map fun (k, l) =>
      let p := l.pend.filter fun x => !gone x.grid
      (k, { l with
        pend := p
        wh := if p.isSome then l.wh else 0x7FFF#15
        writers := l.writers.filter fun x => !gone x.grid
        held := l.held.filter fun x => !gone x.grid }) }

/-- Release the resolution-ring reservations of a grid (20 R329). -/
def State.releaseRing (s : State) (l : List (Word × Nat × Nat)) : State :=
  l.foldl (fun s r => s.ringRelease r.2.1 (32 * r.2.2)) s

/-- Release those of the groups of a grid. -/
def State.releaseGroups (s : State) (g : Nat) : State :=
  s.groups.foldl (fun s p => if p.2.grid = g then s.releaseRing p.2.rlRes else s) s

/-- Nothing of the group waits for the close of a step. -/
def Group.settled (q : Group) : Bool := q.pend.isEmpty && q.rlRes.isEmpty

/-- Slots of device queues that the pending LAUNCHes of a grid have reserved are free again. -/
def State.releaseSlots (s : State) (c : Nat) (ops : List SysOp) : State :=
  ops.foldl (fun s o =>
    match o.op with
    | .launch _ _ q true => s.modContext c fun x =>
        match aget? x.queues q with
        | some u => { x with queues := aset x.queues q { u with reserved := u.reserved - 1 } }
        | none => x
    | .launch _ _ _ false => s
    | .evsig _ => s
    | .wbind _ _ => s
    | .wunbind _ => s) s

/-- Take a grid, its groups and its threads out of the machine. -/
def State.dropGrid (s : State) (g : Nat) : State :=
  let gone := fun t => match s.thread? t with
    | some w => w.grid == g
    | none => false
  let s' := ((s.purgeHearths gone).purgeTwins (· == g)).writeBacks fun _ d => d.grid == g
  { s' with
    heldRecs := s'.heldRecs ++ (s'.threads.filter fun x => x.2.grid == g).flatMap fun x => x.2.held
    threads := s'.threads.filter fun x => x.2.grid != g
    groups := s'.groups.filter fun x => x.2.grid != g
    grids := adel s'.grids g
    cur := s'.cur.filter fun t => !gone t
    taken := s'.taken.filter fun k => k.grid != g }

/-- End a grid with a status: its record, the notification of a status that is not 0, and its release (18 R302, R303). -/
def State.endGrid (s : State) (g : Nat) (status : Nat) : State :=
  match s.grid? g with
  | none => s
  | some x =>
    let s := (s.releaseRing x.rlRes).releaseGroups g
    let s := s.releaseSlots x.ctx x.sysops
    let s := s.complete x.ctx x.pkt.cpladdr x.closed status
    let s := if status = 0 then s else s.notifyCtx x.ctx 0x09 status x.pkt.kdesc x.pkt.cpladdr
    s.dropGrid g

/-- The grids of a context's save images stand with its other grids, and the images are gone. -/
def State.recallGrids (s : State) (c : Nat) : State :=
  { s with
    grids := (s.saves.filter fun i => i.2.ctx == c).foldl (fun l i => i.2.grids.foldl (fun l g => aset l g.1 g.2) l) s.grids
    saves := s.saves.filter fun i => i.2.ctx != c }

/-- End every grid of a context, those of its save images too (19 R307, R314). -/
def State.endGrids (s : State) (c status : Nat) : State :=
  let s := s.recallGrids c
  ((s.grids.filter fun x => x.2.ctx == c).map (·.1)).foldl (fun s g => s.endGrid g status) s

/-- What the context reset clears besides its waves and pending writes: queues, events, pins (25 Table 25.4). -/
def State.clearContext (s : State) (c : Nat) : State :=
  let s := s.modContext c fun x => { x with queues := [], pins := [] }
  { s with events := s.events.filter fun e => e.1 != c, evSpill := s.evSpill.filter fun e => e.1 != c }.unpinPages fun c' _ => c' == c

/-- Mark a context lost: its grids end with 0x0021 (19 R314, 22 R334). -/
def State.loseContext (s : State) (c reason die : Nat) : State :=
  let s := s.endGrids c 0x0021
  let s := s.modContext c fun x => { x with status := .lost, saving := none, restoring := false }
  s.notifyCtx c 0x05 reason 0#64 (BitVec.ofNat 64 die)

/-- Fault a context under its fault policy (19 R307), on account of thread `w`. -/
def State.faultContext (s : State) (w : Thread) : State :=
  match s.context? w.ctx with
  | none => s
  | some x =>
    let s := s.modContext w.ctx fun x => { x with status := .faulted }
    let s := s.notifyCtx w.ctx 0x02 (w.trapcause.toNat % 65536) w.trappc w.place
    if x.fpolicy.getLsbD 0 then (s.endGrids w.ctx 0x0020).clearContext w.ctx else s

/-- The context is faulted by a thread, which stops where it is; the others stop at their next clause boundary. -/
def State.faultBy (s : State) (t : Nat) (w : Thread) : State :=
  (s.setThread t { w with stopped := true }).faultContext w

/-! ## Taking a trap -/

/-- TRAPCAUSE codes (23 Table 23.2). -/
def Cause.code : Cause → Nat
  | .illegalOp => 0x01
  | .reservedEnc => 0x02
  | .hazard => 0x03
  | .priv => 0x04
  | .align => 0x10
  | .page => 0x11
  | .prot => 0x12
  | .memerr => 0x13
  | .collide => 0x20
  | .ruleMix => 0x21
  | .logfull => 0x22
  | .rlogFull => 0x23
  | .twinPartial => 0x24
  | .tileBusy => 0x30
  | .tileState => 0x31
  | .copyRights => 0x32
  | .windowRange => 0x33
  | .fibreRange => 0x34
  | .jtRange => 0x40
  | .emberIllegal => 0x41
  | .rejoinTimeout => 0x42
  | .stepWatchdog => 0x50
  | .trap => 0x60
  | .bkpt => 0x61

/-- The trap registers after a trap at `pc` (08 R184). -/
def Thread.trapRegs (w : Thread) (i : TrapInfo) (pc : DWord) : Thread :=
  { w with trapcause := BitVec.ofNat 64 i.cause.code, trappc := pc, trapaddr := i.addr, faultmask := i.mask }

/-- SA, QA, SB and QB of a header at their places in a trap frame (19 Table 19.1): a clause under way, else the header at
the address, where one can be read there. -/
def State.frameFlags (s : State) (w : Thread) (hdr : DWord) : Nat :=
  match w.clause with
  | some k => k.sa.toNat * 2 ^ 21 + k.qa.toNat * 2 ^ 17 + k.sb.toNat * 2 ^ 16 + k.qb.toNat * 2 ^ 12
  | none =>
    match s.access w.mmu w.ctx hdr .read with
    | .ok (pa, _) =>
      let h := (s.clean64 pa).toNat
      if bits h 55 9 = 0x1FF then bits h 35 1 * 2 ^ 21 + bits h 31 4 * 2 ^ 17 + bits h 30 1 * 2 ^ 16 + bits h 26 4 * 2 ^ 12
      else 0
    | .error _ => 0

/-- The 64 bytes of a trap frame (19 Table 19.1). -/
def frameBytes (hdr : DWord) (exec : Mask) (fmt : Word) (flg : BitVec 5) (q : Nat) (emb wpath : Bool) : List Byte :=
  leBytes 8 hdr.toNat ++ leBytes 16 exec.toNat ++ leBytes 8 (fmt.toNat * 2 ^ 32 + q + flg.toNat)
    ++ leBytes 8 (emb.toNat * 2 + wpath.toNat) ++ leBytes 24 0

/-- Tell the host that a thread met RLOG_FULL (20 R322). -/
def State.rlogNotice (s : State) (w : Thread) (i : TrapInfo) : State :=
  if i.cause = .rlogFull then
    let d := s.die w.die
    let k := if i.addr = d.ering.base && i.addr != d.rring.base then RingId.error else RingId.resolution
    s.notify w.die 0x07 w.ctx k.code i.addr (BitVec.ofNat 64 (s.ringFree (d.ring k)))
  else s

/-- The grid count that the records of a thread name. -/
def State.stepOf (s : State) (w : Thread) : Word := ((s.path? w).map (·.gstep)).getD w.gcnt

/-- What the walks of a thread bring about where they end in PAGE: their lanes and addresses. -/
def State.noteMalformed (s : State) (w : Thread) (l : List (Nat × DWord)) : State :=
  s.noteWalks w.mmu w.ctx (s.stepOf w) (l.map fun x => (s.gkey w x.1, x.2))

/-- Those of the frame at a private offset. -/
def State.noteFrame (s : State) (w : Thread) (off : Nat) : State :=
  s.noteMalformed w ((granules off).map fun o => (w.frameLane, s.privAddr w w.frameLane o))

/-- What the read of a frame brings about: its lines are used, and its lost words are recorded (23 R351). -/
def State.noteFrameLost (s : State) (w : Thread) : Nat → List Nat → State
  | _, [] => s
  | off, pa :: r => (s.notePrivate w (s.stepOf w) (s.gkey w w.frameLane) (s.privAddr w w.frameLane off) pa 16).noteFrameLost w
      (off + 16) r

/-- What the transfers between the hearth and the spill area bring about besides their values, as the stack comes to n entries:
the touch of pinned ranges (22 R342), the use of lines, and the records of the lost words and malformed entries that a refill meets (23
R351). -/
def State.noteSpill (s : State) (w : Thread) (n : Nat) : State :=
  (w.spillMoves n).foldl (fun s j =>
    let va := s.spillAddr w (w.spillBase + j)
    match s.spillPa w (w.spillBase + j) .read with
    | .ok pa =>
      let s := s.touchPa pa 64
      if n - 16 ≤ j then s.notePrivate w (s.stepOf w) 0 va pa 64 else s
    | .error _ => s.noteWalk w.mmu w.ctx va (s.stepOf w) 0) s

/-- The frame of a trap can be written, or the trap writes none: it halts the thread or faults its context (22 R337). -/
def State.trapReached (s : State) (w : Thread) (c : Cause) : Bool :=
  match s.context? w.ctx with
  | none => true
  | some x => w.handler || x.tba == 0#64 || c == .page || decide (w.tsp.toNat < 64) || s.frameReached w (w.tsp.toNat - 64)

/-- Stall: nothing has happened, and another step of the machine may end the stall. -/
def State.stallHere (s : State) (t : Nat) (w : Thread) : State :=
  { s.setThread t { w with stalled := true } with cur := none }

/-- A PAGE trap: the thread halts until the host resumes it, or its context is faulted (19 R308). -/
def State.takePage (s : State) (t : Nat) (w : Thread) (x : Context) : State :=
  if x.fpolicy.getLsbD 0 then s.faultBy t w
  else (s.setThread t { w with halted := true }).notifyCtx w.ctx 0x03 0x11 w.trapaddr w.place

/-- Enter the handler: write the frame at TSP - 64 and start the clause at TBA on the running path (19 R306). A frame
that cannot be written faults the context. `hdr` is the address of the trapped clause's header. -/
def State.enterHandler (s : State) (t : Nat) (w : Thread) (x : Context) (hdr : DWord) (cause : Cause) : State :=
  let off := w.tsp.toNat - 64
  match s.path? w, (if w.tsp.toNat < 64 then .error .prot else s.framePas w off .write) with
  | some e, .ok pas =>
    let s := (s.touchPas (pas.map fun pa => (pa, 16))).writeGranules w e.gstep off pas (frameBytes hdr e.mask e.fmt e.flg (s.frameFlags w hdr) w.ember.isSome w.susp.isSome)
    let w := { w with tsp := w.tsp - 64#64, handler := true, hcause := some cause, clause := none, stalled := false }
    s.setPath t w fun e => { e with pc := fieldOf x.tba }
  | _, _ => (s.noteFrame w off).faultBy t w

/-- Take a trap (08 R184): set the trap registers and enter the handler, halt on PAGE, or fault the context where the
thread is in handler mode or the context has no handler, on PAGE too (log 81). `l` holds the lanes and addresses whose
translations failed. -/
def State.takeTrapAt (s : State) (t : Nat) (w : Thread) (i : TrapInfo) (pc hdr : DWord) (l : List (Nat × DWord)) : State :=
  let w := { w.trapRegs i pc with stalled := false }
  let s := { s with cur := none }.rlogNotice w i
  let s := if i.cause = .page then s.noteMalformed w l else s
  match s.context? w.ctx with
  | none => s.setThread t w
  | some x =>
    if w.handler || x.tba == 0#64 then s.faultBy t w
    else if i.cause = .page then s.takePage t w x
    else s.enterHandler t w x hdr i.cause

/-- Take a trap whose TRAPADDR is the address that did not translate, if any. -/
def State.takeTrap (s : State) (t : Nat) (w : Thread) (i : TrapInfo) (pc hdr : DWord) : State :=
  s.takeTrapAt t w i pc hdr [(lowestLane i.mask, i.addr)]

/-- A trap that concerns the wave, which has no running path: the handler runs on a trap path of the hearth lanes that
FAULTMASK names (10 R243). The path's copies are the model's choice (log 72): the largest ICOUNT of the wave's entries, the
FMT of its top entry, FPFLAGS of 0. -/
def State.takeTrapPath (s : State) (t : Nat) (w : Thread) (i : TrapInfo) : State :=
  let es := s.entries w
  let pc := match es.find? fun e => !e.ej && e.mask != 0#128 with
    | some e => e.addr
    | none => 0#64
  let away := es.foldl (fun m e => if e.ej then m ||| e.mask else m) 0#128
  let fmt := match es with
    | e :: _ => e.fmt
    | [] => 0#32
  let e : Entry := { mask := i.mask &&& ~~~away &&& ~~~w.exited, icnt := (es.foldl (fun m e => maxDWord m e.icnt) 0#64)
                     pc := 0#56, join := BitVec.allOnes 56, gstep := w.gcnt, wstep := w.wcnt, fmt := fmt, flg := 0#5
                     st := .running, ej := false }
  s.takeTrap t { w with susp := some ⟨w.stack, w.spilled⟩, stack := [e], spilled := 0, clause := none } i pc pc

/-! ## Traps that a wave owes (23 R355) -/

/-- Rank of a trap owed at one place (23 R355). -/
def Cause.rank : Cause → Nat
  | .stepWatchdog => 0
  | .rejoinTimeout => 1
  | .rlogFull => 2
  | .memerr => 3
  | .fibreRange => 4
  | .windowRange => 5
  | .ruleMix => 6
  | .collide => 7
  | _ => 8

/-- Due at the next STEP of the grid. -/
def Due.isGrid : Due → Bool
  | .step g _ => g
  | .wave => false
  | .flag _ => false
  | .cwait _ => false
  | .grate _ => false

/-- The first trap of a list to take: by cause, and for one cause the grid step's before the group step's. -/
def firstOwed : List Owed → Option Owed
  | [] => none
  | o :: r => some (r.foldl (fun m x => if x.info.cause.rank < m.info.cause.rank
      || (x.info.cause.rank == m.info.cause.rank && x.due.isGrid && !m.due.isGrid) then x else m) o)

/-- A watchdog's trap speaks for the grid step's count: its own, or that of the hang watchdog, whose handler is a
STEP_WATCHDOG handler too (10 R245, 23 R354). -/
def forGrid (addr : DWord) : Bool := addr == 0#64 || addr == 1#64
/-- A watchdog's trap speaks for the group step's count. -/
def forGroup (addr : DWord) : Bool := addr == 2#64 || addr == 1#64

/-- The domain's one count of deterministic mode starts again with the wave's trap and with its RTE (10 R245). -/
def State.restartDomain (s : State) (w : Thread) (addr : DWord) : State :=
  let s := if forGrid addr then s.modGrid w.grid fun g => { g with watch := 0 } else s
  if forGroup addr then s.modGroup w.group fun p => { p with watch := 0 } else s

/-- The wave's own counts that a watchdog's trap starts again. -/
def Thread.restartWatch (w : Thread) (addr : DWord) : Thread :=
  { w with gwatch := if forGrid addr then 0 else w.gwatch, wwatch := if forGroup addr then 0 else w.wwatch }

/-- A trap that is taken is owed no longer, and the count that fired starts again (10 R238, R245). -/
def Thread.unowe (w : Thread) (o : Owed) : Thread :=
  let w := { w with owed := w.owed.erase o }
  match o.info.cause with
  | .stepWatchdog => w.restartWatch o.info.addr
  | .rejoinTimeout => { w with rejoinCount := 0 }
  | _ => w

/-- The domain's counts as a trap is taken. -/
def State.unowe (s : State) (w : Thread) (o : Owed) : State :=
  if o.info.cause == .stepWatchdog then s.restartDomain w o.info.addr else s

/-- Take an owed trap, once its frame can be written. -/
def State.takeOwed (s : State) (t : Nat) (w : Thread) (o : Owed) (pc hdr : DWord) : State :=
  if s.trapReached w o.info.cause then (s.unowe w o).takeTrap t (w.unowe o) o.info pc hdr else s.stallHere t w

/-- A wave in which no path runs takes the first trap that it owes as a whole, on a trap path (10 R243). -/
def State.takeWaiting (s : State) (t : Nat) : State :=
  match s.thread? t with
  | none => s
  | some w =>
    if w.handler || w.ended || w.halted || w.ember.isSome || (s.path? w).isSome then s
    else match firstOwed (w.owed.filter fun o => o.due == .wave) with
      | some o => if s.trapReached w o.info.cause then (s.unowe w o).takeTrapPath t (w.unowe o) o.info else s
      | none => s

/-- select() on a thread's stack (08 R172); an ember lane has one path and no choice. A path that runs ends the wave's
wait for its ejected lanes, and with it the count of that wait (10 R238); a wave that is left with none takes what it owes
as a whole (10 R243). -/
def State.reselect (s : State) (t : Nat) (w : Thread) (es : List Entry) : State :=
  if w.ember.isSome then s.putEntries t w es
  else
    let p := PathSet.select ⟨es, w.gcnt, w.wcnt⟩
    let n := if (running? p.es).isSome then 0 else w.rejoinCount
    let s := (s.noteSpill w p.es.length).putEntries t { w with gcnt := p.gcnt, wcnt := p.wcnt, rejoinCount := n } p.es
    let s := s.modGrid w.grid fun g => if g.desc.stepping then { g with reached := maxWord g.reached p.gcnt } else g
    -- The wave's arrival at a grid step is one at its group's open step too (07 R142).
    let stepg := p.gcnt != w.gcnt && es.any fun e => e.st == .arrived && e.gstep == p.gcnt
    let s := s.modGroup w.group fun q =>
      { q with reached := maxWord q.reached p.wcnt, edge := if stepg then maxWord q.edge p.wcnt else q.edge }
    s.takeWaiting t

/-! ## Ends of waves -/

/-- A wave that has ended is released once its copies have landed and its grate instructions have completed, and a
group once its waves are released and its last steps have closed (08 R183, 18 R299). -/
def State.reap (s : State) (t : Nat) : State :=
  match s.thread? t with
  | none => s
  | some w =>
    let h := s.hearth w.home
    let busy := h.copies.any (·.t == t) || h.grate.any (·.t == t) || s.threads.any fun x =>
      match x.2.ember with
      | some e => e.parent == t
      | none => false
    if !w.ended || busy then s
    else
      let s := s.modHearth w.home fun h => { h with resB := h.resB.filter fun b => b.t != t }
      { s with threads := adel s.threads t, cur := s.cur.filter (· ≠ t), heldRecs := s.heldRecs ++ w.held }

/-- A group whose waves are gone and whose steps have closed, the last of them with what its waves left pending, leaves its
hearth. -/
def State.reapGroup (s : State) (p : Nat) : State :=
  match s.group? p with
  | none => s
  | some q =>
    if s.threads.any (fun x => x.2.group == p) || q.reached != q.closed || !q.settled then s
    else { s with groups := adel s.groups p }

/-- Exited lanes leave every entry of their wave, of a suspended stack too, and the entries that this empties go (08 R171,
R183). The path that a handler runs on stays until its RTE. `out` holds the lanes that were on embers, with their paths. -/
def State.exitLanes (s : State) (t : Nat) (w : Thread) (m : Mask) (out : List (Nat × Entry)) : State :=
  let w := { w with
    exited := w.exited ||| m
    ops := w.ops.map fun o => match o.kind with
      | .stf g st d pr ls => { o with kind := .stf g st d pr (ls &&& ~~~m) }
      | .load _ => o
      | .loadS _ _ => o }
  let es := leaveEntries w.handler m out (s.entries w)
  match w.susp with
  | none => (s.noteSpill w es.length).putEntries t w es
  | some u =>
    let own := { w with susp := none, stack := u.stack, spilled := u.spilled }
    let os := leaveEntries false m out (s.entries own)
    let s := (s.noteSpill own os.length).writeSpill own (s.spilledFrom own own.spilled) (os.drop 16)
    s.putEntries t { w with susp := some { stack := os.take 16, spilled := os.length - 16 } } es

/-- An ember lane leaves its context for good (08 R183): it leaves its entry, and its wave counts it exited. -/
def State.exitEmber (s : State) (t : Nat) (e : Ember) : State :=
  let out := ((s.thread? t).bind fun x => s.path? x).toList.map fun x => (e.lane, x)
  let s := { s with threads := adel s.threads t, cur := s.cur.filter (· ≠ t) }
  match s.thread? e.parent with
  | some w => s.exitLanes e.parent w (laneBit e.lane) out
  | none => s

/-! ## Returning from a trap -/

/-- The clause that the frame records, if TRAPPC lies inside it (08 R187): it resumes at that instruction with the frame's
QA and QB, and without testing WAIT again (05 R87). -/
def resumeClause (word : DWord) (hdr pc : DWord) (q : Nat) : Option Clause :=
  let h := word
  let cnt := bits h.toNat 48 4
  let off := pc.toNat - hdr.toNat
  if bits h.toNat 55 9 = 0x1FF ∧ hdr.toNat < pc.toNat ∧ off % 8 = 0 ∧ off / 8 ≤ cnt + 1 then
    some { hdr := hdr, cnt := cnt, ix := off / 8 - 1, eng := bits h.toNat 52 3, wait := BitVec.ofNat 12 (bits h.toNat 36 12)
           sa := decide (bits q 21 1 = 1), qa := BitVec.ofNat 4 (bits q 17 4), sb := decide (bits q 16 1 = 1)
           qb := BitVec.ofNat 4 (bits q 12 4) }
  else none

/-- Address of the clause after a clause. -/
def Clause.next (c : Clause) : DWord := c.hdr + BitVec.ofNat 64 (8 * (c.cnt + 2))

/-- Leave handler mode on the trapped path (08 R187, 19 R306): `fr` is the frame. -/
def State.resumePath (s : State) (t : Nat) (w : Thread) (fr : List Byte) : State :=
  let x := leNat fr
  let hdr : DWord := BitVec.ofNat 64 (bits x 0 64)
  let exec : Mask := BitVec.ofNat 128 (bits x 64 128) &&& ~~~w.exited
  let word := match s.access w.mmu w.ctx hdr .read with
    | .ok (pa, _) => s.clean64 pa
    | .error _ => 0#64
  let c := resumeClause word hdr w.trappc (bits x 192 64)
  let pc := match c with
    | some k => fieldOf k.next
    | none => fieldOf w.trappc
  let es := onRunning (fun e => { e with mask := exec, fmt := BitVec.ofNat 32 (bits x 224 32)
                                         flg := BitVec.ofNat 5 (bits x 192 5), pc := pc }) (s.entries w)
  if exec = 0#128 then s.reselect t { w with clause := none } es
  else s.putEntries t { w with clause := c } es

/-- At the RTE of a watchdog's handler, the count that fired starts again from zero (10 R238, R245). -/
def Thread.restartCounts (w : Thread) : Thread :=
  match w.hcause with
  | some .stepWatchdog => w.restartWatch w.trapaddr
  | some .rejoinTimeout => { w with rejoinCount := 0 }
  | some _ => w
  | none => w

/-- RTE (08 R187): read the frame at TSP, restore what it saved, and pop it. On a trap path the wave returns to the stack
it held, less the lanes that have exited, and select() follows (10 R243). A frame that cannot be read faults the context
(log 13). -/
def State.returnFromTrap (s : State) (t : Nat) (w : Thread) : State :=
  match s.framePas w w.tsp.toNat .read with
  | .error _ => (s.noteFrame w w.tsp.toNat).faultBy t w
  | .ok pas =>
    let fr := pas.flatMap fun pa => s.privRead w pa 16
    let s := (s.noteFrameLost w w.tsp.toNat pas).touchPas (pas.map fun pa => (pa, 16))
    let s := if w.hcause == some .stepWatchdog then s.restartDomain w w.trapaddr else s
    let w := { (w.restartCounts) with tsp := w.tsp + 64#64, handler := false, hcause := none }
    match w.susp with
    | some u =>
      let w := { w with susp := none, stack := u.stack, spilled := u.spilled, clause := none }
      s.reselect t w (s.entries w)
    | none => s.resumePath t w fr

end Sys2Proof.Machine
end

