-- ==== Sys2Proof/Machine/Arrive.lean ====
section
/-! DEFINITION. Arrival of lanes at the boundaries of steps (07 R142, 10 R231, R232). -/

namespace Sys2Proof.Machine

/-- The stack that the wave's arrival is judged by: its own while a handler runs on a trap path (10 R243). -/
def State.ownEntries (s : State) (w : Thread) : List Entry :=
  match w.susp with
  | some u => s.entries { w with susp := none, stack := u.stack, spilled := u.spilled }
  | none => s.entries w

/-- The wave waits only for its ejected lanes, and so holds no step open (10 R232). -/
def State.holdsNone (s : State) (w : Thread) : Bool :=
  let es := s.ownEntries w
  !(es.any fun e => e.st == .running || e.st == .arrived || (e.st == .waiting && !e.ej && e.mask != 0#128))

/-- The lanes of a thread have arrived at grid step n. -/
def State.atGridStep (s : State) (w : Thread) (n : Word) : Bool :=
  w.ended || match w.ember with
    | some m => m.phase == .rejoining || (match s.path? w with
      | some e => passed n e.gstep
      | none => true)
    | none => passed n w.gcnt || s.holdsNone w

/-- The lane stands at a STEPG whose grid step has not closed (07 R142). -/
def State.waitsAtStepg (s : State) (w : Thread) : Bool :=
  match w.ember, s.path? w, s.grid? w.grid with
  | some m, some e, some g => m.atStepg && passed g.closed e.gstep
  | _, _, _ => false

/-- The lanes of a thread have arrived at group step n. -/
def State.atGroupStep (s : State) (w : Thread) (n : Word) : Bool :=
  w.ended || match w.ember with
    | some m => m.phase == .rejoining || s.waitsAtStepg w || (match s.path? w with
      | some e => passed n e.wstep
      | none => true)
    | none => passed n w.wcnt || s.holdsNone w

/-- Every live lane of the grid has arrived at its open step, and some lane has reached it. -/
def State.gridArrived (s : State) (g : Nat) : Bool :=
  match s.grid? g with
  | some x => x.reached != x.closed && s.threads.all fun y => y.2.grid != g || s.atGridStep y.2 x.closed
  | none => false

/-- Every live lane of the group has arrived at its open step, and some lane has reached it, or none is left and writes wait for its
close (08 R183, 11 R255). -/
def State.groupArrived (s : State) (p : Nat) : Bool :=
  match s.group? p with
  | some x => (x.reached != x.closed || (!x.settled && s.threads.all fun y => y.2.group != p)) && s.threads.all fun y => y.2.group != p || s.atGroupStep y.2 x.closed
  | none => false

/-! ## Lanes that hold a step open (10 R239, R245) -/

/-- An ember lane of the wave. -/
def Thread.isChild (x : Thread) (t : Nat) : Bool :=
  match x.ember with
  | some e => e.parent == t
  | none => false

/-- Hearth lanes of a wave on entries that still run or wait, or that have arrived at a step before step n of the grid (true) or
the group (10 R245). -/
def State.openLanes (s : State) (w : Thread) (grid : Bool) (n : Word) : Mask :=
  (s.ownEntries w).foldl (fun m e =>
    if !e.ej && (e.st == .running || e.st == .waiting || (e.st == .arrived && !passed n (if grid then e.gstep else e.wstep)))
    then m ||| e.mask else m) 0#128

/-- The lanes of wave t, on its hearth and on embers that `of` admits, that have not arrived at step n of the grid (true) or the
group. -/
def State.unarrivedOf (s : State) (t : Nat) (w : Thread) (grid : Bool) (n : Word) (of : Thread → Bool) : Mask :=
  let at' := fun x => if grid then s.atGridStep x n else s.atGroupStep x n
  let own := if at' w then 0#128 else s.openLanes w grid n
  s.threads.foldl (fun m x => if x.2.isChild t && of x.2 && !at' x.2 then m ||| x.2.launched else m) own

/-- The lanes of wave t that have not arrived at step n. -/
def State.unarrived (s : State) (t : Nat) (w : Thread) (grid : Bool) (n : Word) : Mask := s.unarrivedOf t w grid n fun _ => true

/-- An ember lane whose wave's handler holds it at its next instruction, or would (10 R239). -/
def Thread.heldBy (x w : Thread) : Bool := w.handler && x.ember.any fun m => m.phase == .running

/-- A lane of the grid has arrived at its open step, or counts as arrived: the step watchdog counts (10 R245, R232, Table
10.1). -/
def State.gridWatched (s : State) (n : Nat) (g : Grid) : Bool :=
  g.desc.stepping
    && (g.reached != g.closed || s.threads.any fun x => x.2.grid == n && !x.2.ended && s.atGridStep x.2 g.closed)

/-- A lane of the group has arrived at its open step, or counts as arrived. -/
def State.groupWatched (s : State) (n : Nat) (p : Group) : Bool :=
  p.reached != p.closed || s.threads.any fun x => x.2.group == n && !x.2.ended && s.atGroupStep x.2 p.closed

/-- The wave holds the open step of its grid or group open, after some lane of the domain has arrived, by lanes that no handler
holds: the time of a hold counts toward no limit (10 R239). -/
def State.holdsOpen (s : State) (t : Nat) (w : Thread) (grid : Bool) : Bool :=
  match s.grid? w.grid, s.group? w.group with
  | some g, some p =>
    (if grid then s.gridWatched w.grid g else s.groupWatched w.group p)
      && s.unarrivedOf t w grid (if grid then g.closed else p.closed) (fun x => !x.heldBy w) != 0#128
  | _, _ => false

/-- No path of the wave can run or is at a STEP: it waits for its ejected lanes alone (08 R172). -/
def State.waitsForEmbers (s : State) (w : Thread) : Bool :=
  w.ember.isNone && !w.ended && !w.handler &&
    (let es := s.entries w
     (running? es).isNone && (es.any fun e => e.ej && e.mask != 0#128))

end Sys2Proof.Machine
end

