-- ==== Sys2Proof/WellFormed.lean ====
section
/-! DEFINITION. What makes an instruction well-formed: the conditions on its operands that its type does not already
hold and that the word alone decides (05 R69 to R77 and the entries of 06 to 09). A word whose operands break one of
them traps RESERVED_ENC, so the decoder never answers an ill-formed instruction. The ranges that a launch sizes
(declared registers, tiles, accumulators, 03 R32) are no part of this: Machine/Issue.lean checks them. -/

namespace Sys2Proof

/-- GN = 1 with GP = 0 is reserved (05 R69). -/
def Guard.wf (g : Guard) : Bool := !(g.neg && g.p == 0#3)

/-- The value of an inline integer (05 R72). -/
def Inl.val (i : Inl) : Int := (i.toNat : Int) - 32

/-- A slot marked unsigned takes no negative inline integer (05 R72). -/
def Inl.nonneg (i : Inl) : Bool := decide (32 ≤ i.toNat)

def SSrc.unsignedOk : SSrc → Bool
  | .s _ => true
  | .int i => i.nonneg

def VSrc.unsignedOk : VSrc → Bool
  | .v _ => true
  | .s _ => true
  | .int i => i.nonneg

def Off.wf : Off → Bool
  | .v _ => true
  | .int i => i.nonneg

/-- An even v register, as a 64-bit operand names it (03 R33). -/
def VReg.even (r : VReg) : Bool := r.toNat % 2 == 0
/-- A v register whose number is a multiple of 4, as a quad names it (05 R71). -/
def VReg.quad (r : VReg) : Bool := r.toNat % 4 == 0
def SReg.even (r : SReg) : Bool := r.toNat % 2 == 0

/-- A 64-bit lane source: an even pair, an s register or an inline integer (06 R103). -/
def VSrc.pairOk : VSrc → Bool
  | .v r => VReg.even r
  | .s _ => true
  | .int _ => true

def StBase.wf : StBase → Bool
  | .s _ => true
  | .v r => VReg.even r

/-- The data register that a size asks for (07 Table 7.1). -/
def Size.regOk : Size → VReg → Bool
  | .b64, r => VReg.even r
  | .b128, r => VReg.quad r
  | .b8, _ => true
  | .b16, _ => true
  | .b32, _ => true
  | .b4, _ => true

/-- A load base goes with its space: a window in window space, an address elsewhere (07 R119). -/
def LdBase.fits : LdBase → Space → Bool
  | .w _, .window => true
  | .w _, _ => false
  | .s _, .window => false
  | .s _, _ => true
  | .v _, .window => false
  | .v r, _ => VReg.even r

/-- A home hint is for global space only (05 R76). -/
def homeFits (home : Option (BitVec 4)) (sp : Space) : Bool := home.isNone || sp == .global

/-- SUM takes 4 or 8 bytes, and an F32 sum 4 (05 R76). -/
def ruleFits (rule : Rule) (fsum : Bool) (sz : Size) : Bool :=
  (rule != .sum || sz == .b32 || sz == .b64) && (!fsum || (rule == .sum && sz == .b32))

/-- FMT codes in the 13 bits that SETFMT and SSET write (03 Table 3.4). -/
def fmtOk (f : BitVec 13) : Bool :=
  decide ((f.toNat >>> 11) % 4 ≠ 3) && decide ((f.toNat >>> 8) % 4 < 2) && decide ((f.toNat >>> 4) % 16 < 8)
    && decide (f.toNat % 16 < 8)

/-- The special registers that are 64 bits wide (03 Table 3.3). -/
def Spr.wide : Spr → Bool
  | .stepno | .icount | .clock | .time | .ember | .trapcause | .trappc | .trapaddr | .karg | .seed | .eject => true
  | .exec | .faultmask | .fmt | .laneid | .waveix | .groupix | .gkey | .dieid | .hearthid | .width | .fpflags => false

/-- The special registers that are 128 bits wide (03 R39). -/
def Spr.mask : Spr → Bool
  | .exec | .faultmask => true
  | .fmt | .laneid | .waveix | .groupix | .gkey | .stepno | .icount | .clock | .time | .dieid | .hearthid
  | .width | .ember | .trapcause | .trappc | .trapaddr | .karg | .seed | .fpflags | .eject => false

/-- SGET: an s destination takes no guard and is even for EXEC and FAULTMASK; a v destination is no home for those
two and is even for a 64-bit register (03 R39, 06 R97). -/
def sgetOk (g : Guard) (d : SVDst) (r : Spr) : Bool :=
  match d with
  | .s n => g == ⟨false, 0#3⟩ && (!r.mask || SReg.even n)
  | .v n => g.wf && !r.mask && (!r.wide || VReg.even n)

/-- SSET: the writable registers, and an even s source for FAULTMASK (03 R39, 06 R98). -/
def ssetOk (r : Spr) (a : SSrc) : Bool :=
  match r with
  | .fmt | .fpflags | .eject | .trappc => true
  | .faultmask => match a with
    | .s n => SReg.even n
    | .int _ => false
  | .exec | .laneid | .waveix | .groupix | .gkey | .stepno | .icount | .clock | .time | .dieid | .hearthid
  | .width | .ember | .trapcause | .trapaddr | .karg | .seed => false

/-- Elements of each type in 32 bits (06 R112). -/
def ETy.perWord : ETy → Nat
  | .f32 | .i32 | .u32 => 1
  | .f16 | .bf16 => 2
  | .e4m3 | .e5m2 | .i8 => 4
  | .e2m1 | .i4 => 8

/-- The source of VCVT is an even pair from a 32-bit type to a narrower one, and the destination is an even pair the
other way; between two narrower types it is a v register (06 Table 6.8). -/
def cvtOk (dt st : ETy) (d : VReg) (a : CvtSrc) : Bool :=
  (!(st.perWord == 1 && dt.perWord != 1) || (match a with
    | .v r => VReg.even r
    | .s _ => true))
  && (!(st.perWord != 1 && dt.perWord != 1) || (match a with
    | .v _ => true
    | .s _ => false))
  && (!(dt.perWord == 1 && st.perWord != 1) || VReg.even d)

/-- Compute dies, flue dies and ports are numbered as 01 Table 1.1 numbers them. -/
def dieOk (d : Nat) : Bool := decide (d < 16)
def flueOk (f : Nat) : Bool := decide (f < 4)
def hearthOk (h : Nat) : Bool := decide (h < 2048)
def portOk (p : Nat) : Bool := decide (p < 8)
def stackOk (k : Nat) : Bool := decide (k < 16)

/-- The operand conditions of an instruction that its word alone decides; of an event, that the units it names
exist. Slot A of VADD64, VSUB64 and VMUL64 is a pair, an s register or an inline integer, as 05 Table 5.11 lists it, where 06 R103
speaks of pairs alone (log 80). -/
def Instr.wf : Instr → Bool
  | .smov _ _ => true
  | .smovi _ _ => true
  | .smovhi _ _ => true
  | .sadd _ _ _ => true
  | .saddi _ _ _ => true
  | .ssub _ _ _ => true
  | .smul _ _ _ => true
  | .smulh _ _ _ => true
  | .smulhu _ _ _ => true
  | .sand _ _ _ => true
  | .sor _ _ _ => true
  | .sxor _ _ _ => true
  | .snot _ _ => true
  | .sshl _ _ b => b.unsignedOk
  | .sshr _ _ b => b.unsignedOk
  | .ssar _ _ b => b.unsignedOk
  | .smin _ _ _ => true
  | .smax _ _ _ => true
  | .sminu _ _ _ => true
  | .smaxu _ _ _ => true
  | .scmp _ _ _ _ => true
  | .scmpu _ _ _ _ => true
  | .ssel _ _ _ _ => true
  | .spopc _ _ => true
  | .sclz _ _ => true
  | .sld _ _ _ _ b => b.unsignedOk
  | .sldk _ mode _ => decide (mode.toNat < 3)
  | .sget g d r => sgetOk g d r
  | .sset r a => ssetOk r a
  | .setfmt f => fmtOk f
  | .sreadlane _ _ lane => lane.unsignedOk
  | .vmov g _ _ => g.wf
  | .vmovi g _ _ => g.wf
  | .vadd g _ _ _ => g.wf
  | .vaddi g _ _ _ => g.wf
  | .vsub g _ _ _ => g.wf
  | .vmul g _ _ _ => g.wf
  | .vmulh g _ _ _ => g.wf
  | .vmulhu g _ _ _ => g.wf
  | .vmad g _ _ _ _ => g.wf
  | .vand g _ _ _ => g.wf
  | .vor g _ _ _ => g.wf
  | .vxor g _ _ _ => g.wf
  | .vnot g _ _ => g.wf
  | .vshl g _ _ b => g.wf && b.unsignedOk
  | .vshr g _ _ b => g.wf && b.unsignedOk
  | .vsar g _ _ b => g.wf && b.unsignedOk
  | .vmin g _ _ _ => g.wf
  | .vmax g _ _ _ => g.wf
  | .vminu g _ _ _ => g.wf
  | .vmaxu g _ _ _ => g.wf
  | .vabs g _ _ => g.wf
  | .vneg g _ _ => g.wf
  | .vcmp _ g _ _ _ => g.wf
  | .vcmpu _ g _ _ _ => g.wf
  | .vsel g _ _ _ _ => g.wf
  | .vpopc g _ _ => g.wf
  | .vclz g _ _ => g.wf
  | .vbrev g _ _ => g.wf
  | .vbfe _ g _ _ off width => g.wf && off.unsignedOk && width.unsignedOk
  | .vbfi g _ _ off width => g.wf && off.unsignedOk && width.unsignedOk
  | .vadd64 g d a b => g.wf && VReg.even d && a.pairOk && b.pairOk
  | .vsub64 g d a b => g.wf && VReg.even d && a.pairOk && b.pairOk
  | .vmul64 g d a b => g.wf && VReg.even d && a.pairOk && b.pairOk
  | .vshl64 g d a b => g.wf && VReg.even d && VReg.even a && b.unsignedOk
  | .pand g _ _ _ => g.wf
  | .por g _ _ _ => g.wf
  | .pxor g _ _ _ => g.wf
  | .pnot g _ _ => g.wf
  | .vfadd _ g _ _ _ => g.wf
  | .vfsub _ g _ _ _ => g.wf
  | .vfmul _ g _ _ _ => g.wf
  | .vffma _ g _ _ _ _ => g.wf
  | .vfmin g _ _ _ => g.wf
  | .vfmax g _ _ _ => g.wf
  | .vfabs g _ _ => g.wf
  | .vfneg g _ _ => g.wf
  | .vfcmp _ g _ _ _ => g.wf
  | .vfclass g _ _ => g.wf
  | .vfdiv _ g _ _ _ => g.wf
  | .vfsqrt _ g _ _ => g.wf
  | .vfrcp _ g _ _ => g.wf
  | .vfrsq _ g _ _ => g.wf
  | .vfexp2 _ g _ _ => g.wf
  | .vflog2 _ g _ _ => g.wf
  | .vfsinpi _ g _ _ => g.wf
  | .vfcospi _ g _ _ => g.wf
  | .vfrnd _ g _ _ => g.wf
  | .vhadd _ g _ _ _ => g.wf
  | .vhmul _ g _ _ _ => g.wf
  | .vhfma _ g _ _ _ _ => g.wf
  | .vbadd _ g _ _ _ => g.wf
  | .vbmul _ g _ _ _ => g.wf
  | .vbfma _ g _ _ _ _ => g.wf
  | .vcvt _ dt sty g d a => g.wf && cvtOk dt sty d a
  | .vshfl g _ _ lane _ => g.wf && lane.unsignedOk
  | .vbcast g _ _ lane => g.wf && lane.unsignedOk
  | .vvote g _ _ => g.wf
  | .vballot g d _ => g.wf && SReg.even d
  | .vscan op ty _ g _ _ => g.wf && !(ty == .f32 && (op == .and || op == .or || op == .xor))
  | .vreduce op ty g _ _ => g.wf && !(ty == .f32 && (op == .and || op == .or || op == .xor))
  | .vcompact g _ _ _ => g.wf
  | .ld sz sp _ home _ g d a b => g.wf && a.fits sp && b.wf && sz.regOk d && homeFits home sp
  | .ldu stash _ _ home _ _ _ b => b.unsignedOk && (home.isNone || !stash)
  | .st sz sp rule fsum g a b c =>
      g.wf && a.wf && b.wf && sz.regOk c && sp != .window && ruleFits rule fsum sz && (sp != .priv || rule == .lo)
  | .stf sz _ rule _ g d a b c =>
      g.wf && a.wf && b.wf && sz.regOk c && sz.regOk d && sz != .b4 && sz != .b128 && ruleFits rule false sz
  | .stl rule g a b c => g.wf && a.wf && b.wf && VReg.quad c && rule != .sum
  | .pref _ home g a b => g.wf && b.wf && (match a with
    | .w _ => home.isNone
    | .s _ => true
    | .v r => VReg.even r)
  | .stepw => true
  | .stepg => true
  | .pause _ => true
  | .tdef _ _ _ => true
  | .tfree _ => true
  | .tstate _ _ => true
  | .cpin _ _ b _ => b.unsignedOk
  | .cpout rule _ _ _ _ _ => rule != .sum
  | .cptt _ _ _ => true
  | .cwait _ n => n.unsignedOk
  | .wbind _ _ => true
  | .wunbind _ => true
  | .pin _ _ _ => true
  | .unpin _ => true
  | .mmip _ _ _ _ _ => true
  | .mmop _ _ _ _ _ => true
  | .mmrw _ _ _ _ => true
  | .mmldb _ _ => true
  | .mmzero _ _ => true
  | .mmlda _ _ _ _ => true
  | .mmdrain _ _ _ _ _ _ _ _ => true
  | .vqlut _ _ _ => true
  | .spdg _ _ _ _ n => n.unsignedOk
  | .fbopen _ _ vt _ _ _ _ => decide (vt.toNat < 10)
  | .fbadv _ _ n => n.unsignedOk
  | .fbend _ _ => true
  | .fbclose _ => true
  | .fbrd _ _ _ _ => true
  | .br _ => true
  | .brc g _ jn _ => g.wf && jn != 0#20
  | .jt _ _ jn _ => jn != 0#20
  | .join => true
  | .call _ _ => true
  | .ret _ => true
  | .exit g => g.wf
  | .trap g _ => g.wf
  | .bkpt g _ => g.wf
  | .rte => true
  | .live _ => true
  | .nop => true
  | .mark _ => true
  | .launch _ => true
  | .evsig _ => true
  | .csrr _ _ => true
  | .csrw _ _ => true
  | .clauseStart _ => true
  | .loadDataArrives _ _ => true
  | .copyLineLands h _ _ => hearthOk h
  | .grateStart h => hearthOk h
  | .grateCompletion h => hearthOk h
  | .fbrdDataArrives _ _ => true
  | .handoverComplete _ _ => true
  | .emberRejoin _ => true
  | .gridStepClose _ => true
  | .groupStepClose _ => true
  | .stepWatchdog _ _ => true
  | .hangWatchdog _ => true
  | .rejoinTimeout _ => true
  | .queueDoorbell die page q _ => dieOk die && decide (page < 4096) && decide (q < 64)
  | .eventClearDoorbell die page _ => dieOk die && decide (page < 4096)
  | .packetTake => true
  | .gridPlace => true
  | .groupPlaceDeferred => true
  | .gridComplete _ => true
  | .ctxCreate die _ => dieOk die
  | .ctxDestroy die _ => dieOk die
  | .queueSet die _ => dieOk die
  | .preempt die _ => dieOk die
  | .saveBegin _ => true
  | .saveDone _ => true
  | .pretmoExpiry _ => true
  | .cpytmoExpiry _ => true
  | .savetmoExpiry _ => true
  | .restore die _ => dieOk die
  | .restoreStart _ => true
  | .restoreDone _ => true
  | .invalidate die _ => dieOk die
  | .invalidateComplete die => dieOk die
  | .waveResume die _ => dieOk die
  | .connDown die _ => dieOk die
  | .connUp die _ => dieOk die
  | .connSetWl die _ => dieOk die
  | .circuitDrained f peer => flueOk f && flueOk peer && f != peer
  | .circuitUp f peer => flueOk f && flueOk peer && f != peer
  | .powerPstate die _ => dieOk die
  | .pstateChangeDone die => dieOk die
  | .powerBudget die _ => dieOk die
  | .powerIdle die _ => dieOk die
  | .cfgDtbase die _ => dieOk die
  | .cfgDtsize die _ => dieOk die
  | .cfgRlbase die _ => dieOk die
  | .cfgRlsize die _ => dieOk die
  | .cfgElbase die _ => dieOk die
  | .cfgElsize die _ => dieOk die
  | .cfgCpytmo die _ => dieOk die
  | .cfgSavetmo die _ => dieOk die
  | .cfgPretmo die _ => dieOk die
  | .cfgCxltmo die _ => dieOk die
  | .cfgPeertmo die _ => dieOk die
  | .cfgActmax die _ => dieOk die
  | .cfgSteplimit die _ => dieOk die
  | .cfgHanglimit die _ => dieOk die
  | .cfgCtxcfg die _ => dieOk die
  | .cfgTba die _ => dieOk die
  | .cfgFpolicy die _ => dieOk die
  | .countsRead die _ => dieOk die
  | .dieReset die _ => dieOk die
  | .functionLevelReset die => dieOk die
  | .moduleReset die _ => dieOk die
  | .notifySet die _ => dieOk die
  | .inboxSet die _ => dieOk die
  | .peerId die _ => dieOk die
  | .flashWrite die _ => dieOk die
  | .bar0WriteOther die _ _ => dieOk die
  | .hostMemoryRequest die _ _ _ => dieOk die
  | .peerLineArrives port _ _ => flueOk port
  | .peerLineAck h _ _ => hearthOk h
  | .peerLineTimeout h _ _ => hearthOk h
  | .cxlTimeout _ _ => true
  | .cxlLinkDown port => portOk port
  | .pageWalk die _ _ => dieOk die
  | .pinFadePeriod _ pn => decide (pn < 32)
  | .hbmAccess stack _ _ _ => stackOk stack
  | .hbmRefresh stack _ hints => stackOk stack && hints.all fun h => decide (1 ≤ h ∧ h ≤ 1000)
  | .retryReissue stack _ => stackOk stack
  | .dieTrip die _ => dieOk die
  | .flueDieTrip f _ => flueOk f
  | .powerOn => true
  | .powerGoodTimeout => true
  | .powerGood => true
  | .cxlLinkUp port => portOk port
  | .peerLinkPortDown f => flueOk f
  | .peerLinkPortUp f => flueOk f
  | .tdispStateChange die _ => dieOk die
  | .ideStreamKeyed die => dieOk die
  | .unknownCommandCode die _ => dieOk die
  | .cmddbWriteWhileBusy die => dieOk die
  | .pauseEnd _ => true
  | .refreshEnd stack _ => stackOk stack

end Sys2Proof
end

