-- ==== Sys2Proof/Decode.lean ====
section
/-! DEFINITION. The decoder of Idoth words and clause headers, total on any bytes and rejecting by name, and the
encoder, both written from the tables of 05 (R61 to R86). -/

namespace Sys2Proof

/-! ## Fields of a word (05 Table 5.2) -/

/-- The fields of the V, M and X formats; I and J words are read through the same seven fields. -/
structure Fields where
  opc : BitVec 9
  g : Guard
  d : BitVec 9
  a : BitVec 9
  b : BitVec 9
  c : BitVec 9
  m : BitVec 15
deriving DecidableEq, Repr

/-- Bits [63:0] of a word, from its fields. -/
def Fields.word (f : Fields) : DWord :=
  f.opc ++ BitVec.ofBool f.g.neg ++ f.g.p ++ f.d ++ f.a ++ f.b ++ f.c ++ f.m

/-- The fields of a word. -/
def Fields.ofWord (w : DWord) : Fields where
  opc := w.extractLsb' 55 9
  g := ⟨w.getLsbD 54, w.extractLsb' 51 3⟩
  d := w.extractLsb' 42 9
  a := w.extractLsb' 33 9
  b := w.extractLsb' 24 9
  c := w.extractLsb' 15 9
  m := w.extractLsb' 0 15

/-- The selector of a slot that the instruction does not use (05 Table 5.3). -/
def noSel : BitVec 9 := 0x1FF#9

/-- The guard of an unguarded instruction. -/
def noGuard : Guard := ⟨false, 0#3⟩

/-- IMM32 of the I format, whose bit [32] is reserved (05 R68). -/
def Fields.imm (f : Fields) : Option Word :=
  if f.b.getLsbD 8 then none else some (f.b.extractLsb' 0 8 ++ f.c ++ f.m)

/-- TGT of the J format, bits [41:22]. -/
def Fields.tgt (f : Fields) : BitVec 20 := f.a ++ f.b ++ f.c.extractLsb' 7 2
/-- JOIN of the J format, bits [21:2]. -/
def Fields.jn (f : Fields) : BitVec 20 := f.c.extractLsb' 0 7 ++ f.m.extractLsb' 2 13
/-- EJ of the J format. -/
def Fields.ej (f : Fields) : Bool := f.m.getLsbD 1

/-! ## Operand selectors (05 Table 5.3) -/

def encV (r : VReg) : BitVec 9 := BitVec.ofNat 9 r.toNat
def encS (r : SReg) : BitVec 9 := BitVec.ofNat 9 (0x100 + r.toNat)
def encP (r : PReg) : BitVec 9 := BitVec.ofNat 9 (0x140 + r.toNat)
def encA (r : AReg) : BitVec 9 := BitVec.ofNat 9 (0x148 + r.toNat)
def encF (r : FReg) : BitVec 9 := BitVec.ofNat 9 (0x150 + r.toNat)
def encFc (r : FcReg) : BitVec 9 := BitVec.ofNat 9 (0x158 + r.toNat)
def encInt (i : Inl) : BitVec 9 := BitVec.ofNat 9 (0x180 + i.toNat)
def encFlt (i : Flt) : BitVec 9 := BitVec.ofNat 9 (0x1C0 + i.toNat)
def encT (t : TileNo) : BitVec 9 := BitVec.ofNat 9 t.toNat
def encW (w : WinNo) : BitVec 9 := BitVec.ofNat 9 w.toNat

/-- The register number of a selector of the class that starts at `lo` and holds 2^n numbers. -/
def decCls (lo n : Nat) (x : BitVec 9) : Option (BitVec n) :=
  if lo ≤ x.toNat && decide (x.toNat < lo + 2 ^ n) then some (BitVec.ofNat n (x.toNat - lo)) else none

def decV (x : BitVec 9) : Option VReg := decCls 0 8 x
def decS (x : BitVec 9) : Option SReg := decCls 0x100 6 x
def decP (x : BitVec 9) : Option PReg := decCls 0x140 3 x
def decA (x : BitVec 9) : Option AReg := decCls 0x148 3 x
def decF (x : BitVec 9) : Option FReg := decCls 0x150 3 x
def decFc (x : BitVec 9) : Option FcReg := decCls 0x158 4 x
def decInt (x : BitVec 9) : Option Inl := decCls 0x180 6 x
def decFlt (x : BitVec 9) : Option Flt := decCls 0x1C0 5 x
/-- A tile slot holds the tile number itself (05 R74). -/
def decT (x : BitVec 9) : Option TileNo := decCls 0 6 x
/-- A window slot holds the window number itself (05 R74). -/
def decW (x : BitVec 9) : Option WinNo := decCls 0 4 x

def encSSrc : SSrc → BitVec 9
  | .s r => encS r
  | .int i => encInt i
def decSSrc (x : BitVec 9) : Option SSrc := (decS x).map .s <|> (decInt x).map .int

def encSMovSrc : SMovSrc → BitVec 9
  | .s r => encS r
  | .fc r => encFc r
  | .int i => encInt i
  | .flt i => encFlt i
def decSMovSrc (x : BitVec 9) : Option SMovSrc :=
  (decS x).map .s <|> (decFc x).map .fc <|> (decInt x).map .int <|> (decFlt x).map .flt

def encVSrc : VSrc → BitVec 9
  | .v r => encV r
  | .s r => encS r
  | .int i => encInt i
def decVSrc (x : BitVec 9) : Option VSrc := (decV x).map .v <|> (decS x).map .s <|> (decInt x).map .int

def encVMovSrc : VMovSrc → BitVec 9
  | .v r => encV r
  | .s r => encS r
  | .int i => encInt i
  | .flt i => encFlt i
def decVMovSrc (x : BitVec 9) : Option VMovSrc :=
  (decV x).map .v <|> (decS x).map .s <|> (decInt x).map .int <|> (decFlt x).map .flt

def encFSrc : FSrc → BitVec 9
  | .v r => encV r
  | .s r => encS r
  | .flt i => encFlt i
def decFSrc (x : BitVec 9) : Option FSrc := (decV x).map .v <|> (decS x).map .s <|> (decFlt x).map .flt

def encCvtSrc : CvtSrc → BitVec 9
  | .v r => encV r
  | .s r => encS r
def decCvtSrc (x : BitVec 9) : Option CvtSrc := (decV x).map .v <|> (decS x).map .s

def encSVDst : SVDst → BitVec 9
  | .s r => encS r
  | .v r => encV r
def decSVDst (x : BitVec 9) : Option SVDst := (decS x).map .s <|> (decV x).map .v

def encStBase : StBase → BitVec 9
  | .s r => encS r
  | .v r => encV r
def decStBase (x : BitVec 9) : Option StBase := (decS x).map .s <|> (decV x).map .v

/-- In window space the A slot of a load is a window slot (05 R76). -/
def encLdBase : LdBase → BitVec 9
  | .s r => encS r
  | .v r => encV r
  | .w n => encW n
def decLdBase (win : Bool) (x : BitVec 9) : Option LdBase :=
  if win then (decW x).map .w else (decS x).map .s <|> (decV x).map .v

def encOff : Off → BitVec 9
  | .v r => encV r
  | .int i => encInt i
def decOff (x : BitVec 9) : Option Off := (decV x).map .v <|> (decInt x).map .int

def encCpSrc : CpSrc → BitVec 9
  | .s r => encS r
  | .w n => encW n
def decCpSrc (win : Bool) (x : BitVec 9) : Option CpSrc := if win then (decW x).map .w else (decS x).map .s

def encGSrc : GSrc → BitVec 9
  | .tile n => encT n
  | .fib n => encF n
def decGSrc (x : BitVec 9) : Option GSrc := (decT x).map .tile <|> (decF x).map .fib

/-- An optional slot: 0x1FF is none. -/
def encOpt {α : Type} (e : α → BitVec 9) : Option α → BitVec 9
  | none => noSel
  | some x => e x
def decOpt {α : Type} (d : BitVec 9 → Option α) (x : BitVec 9) : Option (Option α) :=
  if x = noSel then some none else (d x).map some

def encSpr : Spr → BitVec 9
  | .exec => 0x168#9
  | .faultmask => 0x169#9
  | .fmt => 0x16A#9
  | .laneid => 0x16B#9
  | .waveix => 0x16C#9
  | .groupix => 0x16D#9
  | .gkey => 0x16E#9
  | .stepno => 0x16F#9
  | .icount => 0x170#9
  | .clock => 0x171#9
  | .time => 0x172#9
  | .dieid => 0x173#9
  | .hearthid => 0x174#9
  | .width => 0x175#9
  | .ember => 0x176#9
  | .trapcause => 0x177#9
  | .trappc => 0x178#9
  | .trapaddr => 0x179#9
  | .karg => 0x17A#9
  | .seed => 0x17B#9
  | .fpflags => 0x17C#9
  | .eject => 0x17D#9
def decSpr (x : BitVec 9) : Option Spr :=
  match x with
  | 0x168#9 => some .exec
  | 0x169#9 => some .faultmask
  | 0x16A#9 => some .fmt
  | 0x16B#9 => some .laneid
  | 0x16C#9 => some .waveix
  | 0x16D#9 => some .groupix
  | 0x16E#9 => some .gkey
  | 0x16F#9 => some .stepno
  | 0x170#9 => some .icount
  | 0x171#9 => some .clock
  | 0x172#9 => some .time
  | 0x173#9 => some .dieid
  | 0x174#9 => some .hearthid
  | 0x175#9 => some .width
  | 0x176#9 => some .ember
  | 0x177#9 => some .trapcause
  | 0x178#9 => some .trappc
  | 0x179#9 => some .trapaddr
  | 0x17A#9 => some .karg
  | 0x17B#9 => some .seed
  | 0x17C#9 => some .fpflags
  | 0x17D#9 => some .eject
  | _ => none

def encCsr : Csr → BitVec 12
  | .tba => 0x0#12
  | .tsp => 0x1#12
  | .tscratch => 0x2#12
  | .fpolicy => 0x3#12
  | .ctxcfg => 0x4#12
  | .ctxid => 0x5#12
  | .steplimit => 0x6#12
  | .hanglimit => 0x7#12
  | .dtbase => 0x10#12
  | .dtsize => 0x11#12
  | .rlbase => 0x12#12
  | .rlsize => 0x13#12
  | .elbase => 0x14#12
  | .elsize => 0x15#12
  | .clbase => 0x16#12
  | .clsize => 0x17#12
/-- The context registers; a number not in 08 Table 8.5 names none (08 R196). -/
def decCsr (x : BitVec 12) : Option Csr :=
  match x with
  | 0x0#12 => some .tba
  | 0x1#12 => some .tsp
  | 0x2#12 => some .tscratch
  | 0x3#12 => some .fpolicy
  | 0x4#12 => some .ctxcfg
  | 0x5#12 => some .ctxid
  | 0x6#12 => some .steplimit
  | 0x7#12 => some .hanglimit
  | 0x10#12 => some .dtbase
  | 0x11#12 => some .dtsize
  | 0x12#12 => some .rlbase
  | 0x13#12 => some .rlsize
  | 0x14#12 => some .elbase
  | 0x15#12 => some .elsize
  | 0x16#12 => some .clbase
  | 0x17#12 => some .clsize
  | _ => none

/-! ## Field codes (05 Tables 5.6 to 5.8) -/

def encRnd : Rnd → BitVec 3
  | .rne => 0#3
  | .rz => 1#3
  | .ru => 2#3
  | .rd => 3#3
  | .sr => 4#3
def decRnd (x : BitVec 3) : Option Rnd :=
  match x with
  | 0#3 => some .rne
  | 1#3 => some .rz
  | 2#3 => some .ru
  | 3#3 => some .rd
  | 4#3 => some .sr
  | _ => none

def encCond : Cond → BitVec 4
  | .eq => 0#4
  | .ne => 1#4
  | .lt => 2#4
  | .le => 3#4
  | .gt => 4#4
  | .ge => 5#4
def decCond (x : BitVec 4) : Option Cond :=
  match x with
  | 0#4 => some .eq
  | 1#4 => some .ne
  | 2#4 => some .lt
  | 3#4 => some .le
  | 4#4 => some .gt
  | 5#4 => some .ge
  | _ => none

def encFCond : FCond → BitVec 4
  | .eq => 0#4
  | .ne => 1#4
  | .lt => 2#4
  | .le => 3#4
  | .gt => 4#4
  | .ge => 5#4
  | .un => 6#4
  | .ord => 7#4
def decFCond (x : BitVec 4) : Option FCond :=
  match x with
  | 0#4 => some .eq
  | 1#4 => some .ne
  | 2#4 => some .lt
  | 3#4 => some .le
  | 4#4 => some .gt
  | 5#4 => some .ge
  | 6#4 => some .un
  | 7#4 => some .ord
  | _ => none

def encRedOp : RedOp → BitVec 4
  | .add => 0#4
  | .min => 1#4
  | .max => 2#4
  | .and => 3#4
  | .or => 4#4
  | .xor => 5#4
def decRedOp (x : BitVec 4) : Option RedOp :=
  match x with
  | 0#4 => some .add
  | 1#4 => some .min
  | 2#4 => some .max
  | 3#4 => some .and
  | 4#4 => some .or
  | 5#4 => some .xor
  | _ => none

def encETy : ETy → BitVec 4
  | .f32 => 1#4
  | .i32 => 2#4
  | .u32 => 3#4
  | .f16 => 4#4
  | .bf16 => 5#4
  | .e4m3 => 6#4
  | .e5m2 => 7#4
  | .e2m1 => 8#4
  | .i8 => 9#4
  | .i4 => 10#4
def decETy (x : BitVec 4) : Option ETy :=
  match x with
  | 1#4 => some .f32
  | 2#4 => some .i32
  | 3#4 => some .u32
  | 4#4 => some .f16
  | 5#4 => some .bf16
  | 6#4 => some .e4m3
  | 7#4 => some .e5m2
  | 8#4 => some .e2m1
  | 9#4 => some .i8
  | 10#4 => some .i4
  | _ => none

def encSize : Size → BitVec 3
  | .b8 => 0#3
  | .b16 => 1#3
  | .b32 => 2#3
  | .b64 => 3#3
  | .b128 => 4#3
  | .b4 => 5#3
def decSize (x : BitVec 3) : Option Size :=
  match x with
  | 0#3 => some .b8
  | 1#3 => some .b16
  | 2#3 => some .b32
  | 3#3 => some .b64
  | 4#3 => some .b128
  | 5#3 => some .b4
  | _ => none

def encHint : Hint → BitVec 2
  | .normal => 0#2
  | .stream => 1#2
  | .keep => 2#2
def decHint (x : BitVec 2) : Option Hint :=
  match x with
  | 0#2 => some .normal
  | 1#2 => some .stream
  | 2#2 => some .keep
  | _ => none

def encSpace : Space → BitVec 2
  | .global => 0#2
  | .stash => 1#2
  | .priv => 2#2
  | .window => 3#2
def decSpace (x : BitVec 2) : Space :=
  match x with
  | 0#2 => .global
  | 1#2 => .stash
  | 2#2 => .priv
  | _ => .window

def encRule : Rule → BitVec 2
  | .lo => 0#2
  | .any => 1#2
  | .sum => 2#2
  | .flt => 3#2
def decRule (x : BitVec 2) : Rule :=
  match x with
  | 0#2 => .lo
  | 1#2 => .any
  | 2#2 => .sum
  | _ => .flt

def encFlow : Flow → BitVec 2
  | .ip => 0#2
  | .op => 1#2
  | .rw => 2#2
  | .fmt => 3#2
def decFlow (x : BitVec 2) : Flow :=
  match x with
  | 0#2 => .ip
  | 1#2 => .op
  | 2#2 => .rw
  | _ => .fmt

/-- TYPE of VSCAN and VREDUCE, where 0 means I32 too (05 R82). -/
def encRedTy : RedTy → BitVec 4
  | .f32 => 1#4
  | .i32 => 2#4
  | .u32 => 3#4
def decRedTy (x : BitVec 4) : Option RedTy :=
  match x with
  | 0#4 => some .i32
  | 1#4 => some .f32
  | 2#4 => some .i32
  | 3#4 => some .u32
  | _ => none

/-! ## MOD layouts -/

/-- MOD of the V format: RND, TYPE, SEL, XS (05 Table 5.5). -/
def vMod (rnd : BitVec 3) (ty sel xs : BitVec 4) : BitVec 15 := rnd ++ ty ++ sel ++ xs
def modRnd (m : BitVec 15) : BitVec 3 := m.extractLsb' 12 3
def modTy (m : BitVec 15) : BitVec 4 := m.extractLsb' 8 4
def modSel (m : BitVec 15) : BitVec 4 := m.extractLsb' 4 4
def modXs (m : BitVec 15) : BitVec 4 := m.extractLsb' 0 4

/-- MOD of the M format (05 Table 5.7). -/
def mMod (size : BitVec 3) (space rule : BitVec 2) (fetch : Bool) (home : Option (BitVec 4)) (fsum q : Bool) : BitVec 15 :=
  size ++ space ++ rule ++ BitVec.ofBool fetch ++ home.getD 0#4 ++ BitVec.ofBool home.isSome ++ BitVec.ofBool fsum
    ++ BitVec.ofBool q
def modSize (m : BitVec 15) : BitVec 3 := m.extractLsb' 12 3
def modSpace (m : BitVec 15) : BitVec 2 := m.extractLsb' 10 2
def modRule (m : BitVec 15) : BitVec 2 := m.extractLsb' 8 2
def modFetch (m : BitVec 15) : Bool := m.getLsbD 7
/-- HOMEV = 0 with HOME ≠ 0 is reserved (05 R76). -/
def modHome (m : BitVec 15) : Option (Option (BitVec 4)) :=
  if m.getLsbD 2 then some (some (m.extractLsb' 3 4)) else if m.extractLsb' 3 4 = 0#4 then some none else none
def modFsum (m : BitVec 15) : Bool := m.getLsbD 1
def modQ (m : BitVec 15) : Bool := m.getLsbD 0

/-- A MOD whose bits other than `mask` are zero. -/
def modOnly (m mask : BitVec 15) : Bool := m &&& ~~~mask == 0#15

/-! ## Decoding by shape: each helper answers none where a slot or field of the word is reserved -/

/-- V and X words without a guard. -/
def Fields.plain (f : Fields) (mask : BitVec 15) : Bool := f.g == noGuard && modOnly f.m mask
def Fields.okB (f : Fields) : Bool := f.b == noSel
def Fields.okC (f : Fields) : Bool := f.c == noSel
def Fields.okA (f : Fields) : Bool := f.a == noSel
def Fields.okD (f : Fields) : Bool := f.d == noSel

def Fields.sss (f : Fields) (k : SReg → SSrc → SSrc → Instr) : Option Instr := do
  guard (f.plain 0#15 && f.okC)
  some (k (← decS f.d) (← decSSrc f.a) (← decSSrc f.b))

def Fields.scmp (f : Fields) (k : Cond → SReg → SSrc → SSrc → Instr) : Option Instr := do
  guard (f.plain 0x0F0#15 && f.okC)
  some (k (← decCond (modSel f.m)) (← decS f.d) (← decSSrc f.a) (← decSSrc f.b))

def Fields.ss (f : Fields) (k : SReg → SReg → Instr) : Option Instr := do
  guard (f.plain 0#15 && f.okB && f.okC)
  some (k (← decS f.d) (← decS f.a))

def Fields.vvv (f : Fields) (k : Guard → VReg → VSrc → VSrc → Instr) : Option Instr := do
  guard (f.m == 0#15 && f.okC)
  some (k f.g (← decV f.d) (← decVSrc f.a) (← decVSrc f.b))

def Fields.vv (f : Fields) (k : Guard → VReg → VReg → Instr) : Option Instr := do
  guard (f.m == 0#15 && f.okB && f.okC)
  some (k f.g (← decV f.d) (← decV f.a))

def Fields.vcmp (f : Fields) (k : Cond → Guard → PReg → VSrc → VSrc → Instr) : Option Instr := do
  guard (modOnly f.m 0x0F0#15 && f.okC)
  some (k (← decCond (modSel f.m)) f.g (← decP f.d) (← decVSrc f.a) (← decVSrc f.b))

def Fields.ppp (f : Fields) (k : Guard → PReg → PReg → PReg → Instr) : Option Instr := do
  guard (f.m == 0#15 && f.okC)
  some (k f.g (← decP f.d) (← decP f.a) (← decP f.b))

def Fields.fff (f : Fields) (k : Rnd → Guard → VReg → FSrc → FSrc → Instr) : Option Instr := do
  guard (modOnly f.m 0x7000#15 && f.okC)
  some (k (← decRnd (modRnd f.m)) f.g (← decV f.d) (← decFSrc f.a) (← decFSrc f.b))

def Fields.ffff (f : Fields) (k : Rnd → Guard → VReg → FSrc → FSrc → FSrc → Instr) : Option Instr := do
  guard (modOnly f.m 0x7000#15)
  some (k (← decRnd (modRnd f.m)) f.g (← decV f.d) (← decFSrc f.a) (← decFSrc f.b) (← decFSrc f.c))

def Fields.ff (f : Fields) (k : Rnd → Guard → VReg → FSrc → Instr) : Option Instr := do
  guard (modOnly f.m 0x7000#15 && f.okB && f.okC)
  some (k (← decRnd (modRnd f.m)) f.g (← decV f.d) (← decFSrc f.a))

def Fields.minmax (f : Fields) (k : Guard → VReg → FSrc → FSrc → Instr) : Option Instr := do
  guard (f.m == 0#15 && f.okC)
  some (k f.g (← decV f.d) (← decFSrc f.a) (← decFSrc f.b))

/-- I words: the immediate with the D and A slots that the instruction does not use. -/
def Fields.immOnly (f : Fields) (k : Word → Option Instr) : Option Instr := do
  guard (f.g == noGuard && f.okD && f.okA)
  k (← f.imm)

/-- TRAP and BKPT: a guard, and 16 bits of immediate. -/
def Fields.code16 (f : Fields) (k : Guard → BitVec 16 → Instr) : Option Instr := do
  guard (f.okD && f.okA)
  let i ← f.imm
  if i.extractLsb' 16 16 = 0#16 then some (k f.g (i.extractLsb' 0 16)) else none

def Fields.imm0 (f : Fields) (i : Instr) : Option Instr := f.immOnly fun w => if w = 0#32 then some i else none

/-- STEPW and STEPG. -/
def Fields.bare (f : Fields) (i : Instr) : Option Instr :=
  if f.plain 0#15 && f.okD && f.okA && f.okB && f.okC then some i else none

/-- MOD of a load: size, space, hint, home and QSEL. -/
def loadMod (m : BitVec 15) (k : Size → Space → Hint → Option (BitVec 4) → Bool → Option Instr) : Option Instr := do
  guard (!modFetch m && !modFsum m)
  k (← decSize (modSize m)) (decSpace (modSpace m)) (← decHint (modRule m)) (← modHome m) (modQ m)

/-- MOD of a store: HOMEV and HOME are zero. -/
def storeMod (m : BitVec 15) (fetch : Bool) (k : Size → Space → Rule → Bool → Bool → Option Instr) : Option Instr := do
  guard (modFetch m == fetch && modOnly m 0x7F83#15)
  k (← decSize (modSize m)) (decSpace (modSpace m)) (decRule (modRule m)) (modFsum m) (modQ m)

def Fields.jump (f : Fields) (tgt jn ej : Bool) : Bool :=
  (tgt || f.tgt == 0#20) && (jn || f.jn == 0#20) && (ej || !f.ej) && !f.m.getLsbD 0

/-- VVOTE: the SEL code with the source that it asks for (05 R82). -/
def decVote (m : BitVec 15) (a : BitVec 9) : Option Vote :=
  match m with
  | 0x00#15 => (decP a).map .all
  | 0x10#15 => (decP a).map .any
  | 0x20#15 => (decV a).map .uni
  | _ => none
def encVoteMod : Vote → BitVec 15
  | .all _ => 0x00#15
  | .any _ => 0x10#15
  | .uni _ => 0x20#15
def encVoteSrc : Vote → BitVec 9
  | .all p => encP p
  | .any p => encP p
  | .uni v => encV v

/-- 05 Table 5.10. -/
def Fields.decScalar (f : Fields) : Option Instr :=
  match f.opc.toNat with
  | 0x000 => do
    guard (f.plain 0#15 && f.okB && f.okC)
    some (.smov (← decS f.d) (← decSMovSrc f.a))
  | 0x001 => do
    guard (f.g == noGuard && f.okA)
    some (.smovi (← decS f.d) (← f.imm))
  | 0x002 => do
    guard (f.g == noGuard && f.okA)
    some (.smovhi (← decS f.d) (← f.imm))
  | 0x003 => f.sss .sadd
  | 0x004 => do
    guard (f.g == noGuard)
    some (.saddi (← decS f.d) (← decS f.a) (← f.imm))
  | 0x005 => f.sss .ssub
  | 0x006 => f.sss .smul
  | 0x007 => f.sss .smulh
  | 0x008 => f.sss .smulhu
  | 0x009 => f.sss .sand
  | 0x00A => f.sss .sor
  | 0x00B => f.sss .sxor
  | 0x00C => do
    guard (f.plain 0#15 && f.okB && f.okC)
    some (.snot (← decS f.d) (← decSSrc f.a))
  | 0x00D => f.sss .sshl
  | 0x00E => f.sss .sshr
  | 0x00F => f.sss .ssar
  | 0x010 => f.sss .smin
  | 0x011 => f.sss .smax
  | 0x012 => f.sss .sminu
  | 0x013 => f.sss .smaxu
  | 0x014 => f.scmp .scmp
  | 0x015 => f.scmp .scmpu
  | 0x016 => do
    guard (f.plain 0#15)
    some (.ssel (← decS f.d) (← decSSrc f.a) (← decSSrc f.b) (← decSSrc f.c))
  | 0x017 => f.ss .spopc
  | 0x018 => f.ss .sclz
  | 0x019 => do
    guard (f.g == noGuard && f.okC && (f.m == 0x2000#15 || f.m == 0x3000#15 || f.m == 0x2800#15 || f.m == 0x3800#15))
    some (.sld (f.m.getLsbD 11) (f.m.getLsbD 12) (← decS f.d) (← decS f.a) (← decSSrc f.b))
  | 0x01A => do
    guard (f.g == noGuard && f.okA)
    let i ← f.imm
    guard (i.extractLsb' 14 18 == 0#18)
    some (.sldk (← decS f.d) (i.extractLsb' 12 2) (i.extractLsb' 0 12))
  | 0x01B => do
    guard (f.m == 0#15 && f.okB && f.okC)
    some (.sget f.g (← decSVDst f.d) (← decSpr f.a))
  | 0x01C => do
    guard (f.plain 0#15 && f.okB && f.okC)
    some (.sset (← decSpr f.d) (← decSSrc f.a))
  | 0x01D => f.immOnly fun i =>
    if i.extractLsb' 13 19 = 0#19 then some (.setfmt (i.extractLsb' 0 13)) else none
  | 0x01E => do
    guard (f.plain 0#15 && f.okC)
    some (.sreadlane (← decS f.d) (← decV f.a) (← decSSrc f.b))
  | _ => none

/-- 05 Table 5.11. -/
def Fields.decVector (f : Fields) : Option Instr :=
  match f.opc.toNat with
  | 0x040 => do
    guard (f.m == 0#15 && f.okB && f.okC)
    some (.vmov f.g (← decV f.d) (← decVMovSrc f.a))
  | 0x041 => do
    guard f.okA
    some (.vmovi f.g (← decV f.d) (← f.imm))
  | 0x042 => f.vvv .vadd
  | 0x043 => do some (.vaddi f.g (← decV f.d) (← decV f.a) (← f.imm))
  | 0x044 => f.vvv .vsub
  | 0x045 => f.vvv .vmul
  | 0x046 => f.vvv .vmulh
  | 0x047 => f.vvv .vmulhu
  | 0x048 => do
    guard (f.m == 0#15)
    some (.vmad f.g (← decV f.d) (← decVSrc f.a) (← decVSrc f.b) (← decVSrc f.c))
  | 0x049 => f.vvv .vand
  | 0x04A => f.vvv .vor
  | 0x04B => f.vvv .vxor
  | 0x04C => do
    guard (f.m == 0#15 && f.okB && f.okC)
    some (.vnot f.g (← decV f.d) (← decVSrc f.a))
  | 0x04D => f.vvv .vshl
  | 0x04E => f.vvv .vshr
  | 0x04F => f.vvv .vsar
  | 0x050 => f.vvv .vmin
  | 0x051 => f.vvv .vmax
  | 0x052 => f.vvv .vminu
  | 0x053 => f.vvv .vmaxu
  | 0x054 => f.vv .vabs
  | 0x055 => f.vv .vneg
  | 0x056 => f.vcmp .vcmp
  | 0x057 => f.vcmp .vcmpu
  | 0x058 => do
    guard (f.m == 0#15)
    some (.vsel f.g (← decV f.d) (← decP f.a) (← decVSrc f.b) (← decVSrc f.c))
  | 0x059 => f.vv .vpopc
  | 0x05A => f.vv .vclz
  | 0x05B => f.vv .vbrev
  | 0x05C => do
    guard (f.m == 0#15 || f.m == 0x200#15 || f.m == 0x300#15)
    some (.vbfe (f.m == 0x300#15) f.g (← decV f.d) (← decV f.a) (← decVSrc f.b) (← decVSrc f.c))
  | 0x05D => do
    guard (f.m == 0#15)
    some (.vbfi f.g (← decV f.d) (← decV f.a) (← decVSrc f.b) (← decVSrc f.c))
  | 0x05E => f.vvv .vadd64
  | 0x05F => f.vvv .vsub64
  | 0x060 => f.vvv .vmul64
  | 0x061 => do
    guard (f.m == 0#15 && f.okC)
    some (.vshl64 f.g (← decV f.d) (← decV f.a) (← decVSrc f.b))
  | 0x062 => f.ppp .pand
  | 0x063 => f.ppp .por
  | 0x064 => f.ppp .pxor
  | 0x065 => do
    guard (f.m == 0#15 && f.okB && f.okC)
    some (.pnot f.g (← decP f.d) (← decP f.a))
  | _ => none

/-- 05 Table 5.12. -/
def Fields.decVFloat (f : Fields) : Option Instr :=
  match f.opc.toNat with
  | 0x0C0 => f.fff .vfadd
  | 0x0C1 => f.fff .vfsub
  | 0x0C2 => f.fff .vfmul
  | 0x0C3 => f.ffff .vffma
  | 0x0C4 => f.minmax .vfmin
  | 0x0C5 => f.minmax .vfmax
  | 0x0C6 => f.vv .vfabs
  | 0x0C7 => f.vv .vfneg
  | 0x0C8 => do
    guard (modOnly f.m 0x0F0#15 && f.okC)
    some (.vfcmp (← decFCond (modSel f.m)) f.g (← decP f.d) (← decFSrc f.a) (← decFSrc f.b))
  | 0x0C9 => f.vv .vfclass
  | 0x0CA => f.fff .vfdiv
  | 0x0CB => f.ff .vfsqrt
  | 0x0CC => f.ff .vfrcp
  | 0x0CD => f.ff .vfrsq
  | 0x0CE => f.ff .vfexp2
  | 0x0CF => f.ff .vflog2
  | 0x0D0 => f.ff .vfsinpi
  | 0x0D1 => f.ff .vfcospi
  | 0x0D2 => do
    guard (modOnly f.m 0x7000#15 && f.okB && f.okC)
    some (.vfrnd (← decRnd (modRnd f.m)) f.g (← decV f.d) (← decV f.a))
  | 0x0D3 => f.fff .vhadd
  | 0x0D4 => f.fff .vhmul
  | 0x0D5 => f.ffff .vhfma
  | 0x0D6 => f.fff .vbadd
  | 0x0D7 => f.fff .vbmul
  | 0x0D8 => f.ffff .vbfma
  | 0x0D9 => do
    guard (modOnly f.m 0x7FF0#15 && f.okB && f.okC)
    some (.vcvt (← decRnd (modRnd f.m)) (← decETy (modTy f.m)) (← decETy (modSel f.m)) f.g (← decV f.d) (← decCvtSrc f.a))
  | _ => none

/-- 05 Table 5.13. -/
def Fields.decCross (f : Fields) : Option Instr :=
  match f.opc.toNat with
  | 0x140 => do
    guard (f.m == 0#15)
    some (.vshfl f.g (← decV f.d) (← decV f.a) (← decVSrc f.b) (← decVMovSrc f.c))
  | 0x141 => do
    guard (f.m == 0#15 && f.okC)
    some (.vbcast f.g (← decV f.d) (← decV f.a) (← decSSrc f.b))
  | 0x142 => do
    guard (f.okB && f.okC)
    some (.vvote f.g (← decP f.d) (← decVote f.m f.a))
  | 0x143 => do
    guard (f.m == 0#15 && f.okB && f.okC)
    some (.vballot f.g (← decS f.d) (← decP f.a))
  | 0x144 => do
    guard (modOnly f.m 0x0FF2#15 && f.okB && f.okC)
    some (.vscan (← decRedOp (modSel f.m)) (← decRedTy (modTy f.m)) (f.m.getLsbD 1) f.g (← decV f.d) (← decV f.a))
  | 0x145 => do
    guard (modOnly f.m 0x0FF0#15 && f.okB && f.okC)
    some (.vreduce (← decRedOp (modSel f.m)) (← decRedTy (modTy f.m)) f.g (← decSVDst f.d) (← decV f.a))
  | 0x146 => do
    guard (f.m == 0#15 && f.okC)
    some (.vcompact f.g (← decV f.d) (← decV f.a) (← decP f.b))
  | _ => none

/-- 05 Table 5.14. -/
def Fields.decMemory (f : Fields) : Option Instr :=
  match f.opc.toNat with
  | 0x160 => do
    guard f.okC
    loadMod f.m fun sz sp h home q => do
      some (.ld sz sp h home q f.g (← decV f.d) (← decLdBase (sp == .window) f.a) (← decOff f.b))
  | 0x161 => do
    guard (f.g == noGuard && f.okC)
    loadMod f.m fun sz sp h home q => do
      guard ((sz == .b32 || sz == .b64) && (sp == .global || sp == .stash))
      some (.ldu (sp == .stash) (sz == .b64) h home q (← decS f.d) (← decS f.a) (← decSSrc f.b))
  | 0x162 => do
    guard f.okD
    storeMod f.m false fun sz sp rule fsum q => do
      guard (!q)
      some (.st sz sp rule fsum f.g (← decStBase f.a) (← decOff f.b) (← decV f.c))
  | 0x163 => storeMod f.m true fun sz sp rule fsum q => do
    guard (!fsum && (sp == .global || sp == .stash))
    some (.stf sz (sp == .stash) rule q f.g (← decV f.d) (← decStBase f.a) (← decOff f.b) (← decV f.c))
  | 0x164 => do
    guard f.okD
    storeMod f.m false fun sz sp rule fsum q => do
      guard (sz == .b128 && sp == .global && !fsum && !q)
      some (.stl rule f.g (← decStBase f.a) (← decOff f.b) (← decV f.c))
  | 0x165 => do
    guard (f.okD && f.okC)
    loadMod f.m fun sz sp h home q => do
      guard (sz == .b8 && (sp == .global || sp == .window) && !q)
      some (.pref h home f.g (← decLdBase (sp == .window) f.a) (← decOff f.b))
  | 0x166 => f.bare .stepw
  | 0x167 => f.bare .stepg
  | 0x168 => f.immOnly fun i => some (.pause i)
  | _ => none

/-- 05 Table 5.15. -/
def Fields.decCopy (f : Fields) : Option Instr :=
  match f.opc.toNat with
  | 0x1A0 => do
    guard (f.plain 0#15 && f.okC)
    some (.tdef (← decT f.d) (← decS f.a) (← decS f.b))
  | 0x1A1 => do
    guard (f.plain 0#15 && f.okA && f.okB && f.okC)
    some (.tfree (← decT f.d))
  | 0x1A2 => do
    guard (f.plain 0#15 && f.okB && f.okC)
    some (.tstate (← decS f.d) (← decT f.a))
  | 0x1A3 => do
    guard (f.g == noGuard && (f.m == 0#15 || f.m == 0xC00#15))
    some (.cpin (← decT f.d) (← decCpSrc (f.m == 0xC00#15) f.a) (← decSSrc f.b) (← decFc f.c))
  | 0x1A4 => do
    guard (f.plain 0x330#15 && f.okD)
    some (.cpout (decRule (modRule f.m)) (f.m.getLsbD 5) (f.m.getLsbD 4) (← decS f.a) (← decT f.b) (← decFc f.c))
  | 0x1A5 => do
    guard (f.plain 0#15 && f.okB)
    some (.cptt (← decT f.d) (← decT f.a) (← decFc f.c))
  | 0x1A6 => do
    guard (f.plain 0#15 && f.okD && f.okC)
    some (.cwait (← decFc f.a) (← decSSrc f.b))
  | 0x1A7 => do
    guard (f.plain 0#15 && f.okB && f.okC)
    some (.wbind (← decW f.d) (← decS f.a))
  | 0x1A8 => do
    guard (f.plain 0#15 && f.okA && f.okB && f.okC)
    some (.wunbind (← decW f.d))
  | 0x1A9 => do
    guard (f.plain 0#15 && f.okC)
    some (.pin (← decS f.d) (← decS f.a) (← decS f.b))
  | 0x1AA => do
    guard (f.plain 0#15 && f.okD && f.okB && f.okC)
    some (.unpin (← decS f.a))
  | _ => none

/-- 05 Table 5.16. -/
def Fields.decGrate (f : Fields) : Option Instr :=
  match f.opc.toNat with
  | 0x1C0 => do
    guard (f.plain 1#15)
    some (.mmip (modQ f.m) (← decA f.d) (← decGSrc f.a) (← decGSrc f.b) (← decOpt decF f.c))
  | 0x1C1 => do
    guard (f.plain 1#15)
    some (.mmop (modQ f.m) (← decT f.d) (← decGSrc f.a) (← decGSrc f.b) (← decOpt decF f.c))
  | 0x1C2 => do
    guard (f.plain 1#15 && f.okB)
    some (.mmrw (modQ f.m) (← decT f.d) (← decGSrc f.a) (← decOpt decF f.c))
  | 0x1C3 => do
    guard (f.plain 1#15 && f.okD && f.okB && f.okC)
    some (.mmldb (modQ f.m) (← decGSrc f.a))
  | 0x1C4 => do
    guard (f.plain 1#15 && f.okA && f.okB && f.okC)
    some (.mmzero (modQ f.m) (← decA f.d))
  | 0x1C5 => do
    guard (f.plain 0x6001#15 && f.okD && f.okB)
    some (.mmlda (decFlow (f.m.extractLsb' 13 2)) (modQ f.m) (← decGSrc f.a) (← decOpt decF f.c))
  | 0x1C6 => do
    guard (f.plain 0x7BF9#15)
    let bias ← if f.m.getLsbD 9 then some (some (f.m.extractLsb' 3 6)) else if f.m.extractLsb' 3 6 = 0#6 then some none else none
    some (.mmdrain (← decRnd (modRnd f.m)) (f.m.getLsbD 11) bias (modQ f.m) (← decT f.d) (← decA f.a) (← decOpt decS f.b)
      (← decOpt decS f.c))
  | 0x1C7 => do
    guard (f.plain 3#15 && f.okD && f.okB && f.okC)
    some (.vqlut (f.m.getLsbD 1) (modQ f.m) (← decS f.a))
  | 0x1C8 => do
    guard (f.plain 1#15)
    some (.spdg (modQ f.m) (← decT f.d) (← decT f.a) (← decT f.b) (← decSSrc f.c))
  | 0x1C9 => do
    guard (f.plain 0x5F00#15)
    some (.fbopen (f.m.getLsbD 14) (f.m.getLsbD 12) (f.m.extractLsb' 8 4) (← decF f.d) (← decS f.a) (← decS f.b) (← decS f.c))
  | 0x1CA => do
    guard (f.plain 2#15 && f.okB && f.okC)
    some (.fbadv (f.m.getLsbD 1) (← decF f.d) (← decSSrc f.a))
  | 0x1CB => do
    guard (f.plain 0#15 && f.okB && f.okC)
    some (.fbend (← decP f.d) (← decF f.a))
  | 0x1CC => do
    guard (f.plain 0#15 && f.okA && f.okB && f.okC)
    some (.fbclose (← decF f.d))
  | 0x1CD => do
    guard (f.plain 3#15 && f.okB && f.okC)
    some (.fbrd (f.m.getLsbD 1) (modQ f.m) (← decV f.d) (← decF f.a))
  | _ => none

/-- 05 Table 5.17. -/
def Fields.decControl (f : Fields) : Option Instr :=
  match f.opc.toNat with
  | 0x1E0 => do
    guard (f.g == noGuard && f.okD && f.jump true false false)
    some (.br f.tgt)
  | 0x1E1 => do
    guard (f.okD && f.jump true true true)
    some (.brc f.g f.tgt f.jn f.ej)
  | 0x1E2 => do
    guard (f.g == noGuard && f.jump true true true)
    some (.jt (← decV f.d) f.tgt f.jn f.ej)
  | 0x1E3 => do
    guard (f.g == noGuard && f.okD && f.jump false false false)
    some .join
  | 0x1E4 => do
    guard (f.g == noGuard && f.jump true false false)
    some (.call (← decS f.d) f.tgt)
  | 0x1E5 => do
    guard (f.g == noGuard && f.jump false false false)
    some (.ret (← decS f.d))
  | 0x1E6 => do
    guard (f.okD && f.jump false false false)
    some (.exit f.g)
  | 0x1E7 => f.code16 .trap
  | 0x1E8 => f.imm0 .rte
  | 0x1E9 => f.immOnly fun i => if i.extractLsb' 8 24 = 0#24 then some (.live (i.extractLsb' 0 8)) else none
  | 0x1EA => f.imm0 .nop
  | 0x1EB => f.immOnly fun i => some (.mark i)
  | 0x1EC => do
    guard (f.plain 0#15 && f.okD && f.okB && f.okC)
    some (.launch (← decS f.a))
  | 0x1ED => f.immOnly fun i => if i.extractLsb' 16 16 = 0#16 then some (.evsig (i.extractLsb' 0 16)) else none
  | 0x1EE => do
    guard (f.g == noGuard && f.okA)
    let i ← f.imm
    guard (i.extractLsb' 12 20 == 0#20)
    some (.csrr (← decS f.d) (← decCsr (i.extractLsb' 0 12)))
  | 0x1EF => do
    guard (f.g == noGuard && f.okD)
    let i ← f.imm
    guard (i.extractLsb' 12 20 == 0#20)
    some (.csrw (← decCsr (i.extractLsb' 0 12)) (← decSSrc f.a))
  | 0x1F0 => f.code16 .bkpt
  | _ => none

/-- The engine class of an allocated opcode; none for an unallocated opcode and for the header's marker (05 Table
5.9). -/
def opcodeClass (o : Nat) : Option Nat :=
  if o < 0x1F then some 0
  else if o < 0x40 then none
  else if o < 0x66 then some 1
  else if o < 0xC0 then none
  else if o < 0xDA then some 1
  else if o < 0x140 then none
  else if o < 0x147 then some 1
  else if o < 0x160 then none
  else if o < 0x169 then some 2
  else if o < 0x1A0 then none
  else if o < 0x1AB then some 3
  else if o < 0x1C0 then none
  else if o < 0x1CE then some 4
  else if o < 0x1E0 then none
  else if o < 0x1E7 then some 0
  else if o < 0x1F1 then some 5
  else none

/-- The opcodes that end their clause (05 R65). -/
def endsClause (o : Nat) : Bool :=
  (0x1E0 ≤ o && o ≤ 0x1E8) || o == 0x166 || o == 0x167

/-- The instruction of a word's fields before the conditions of `Instr.wf`. -/
def Fields.raw (f : Fields) : Option Instr :=
  if f.opc.toNat < 0x40 then f.decScalar
  else if f.opc.toNat < 0xC0 then f.decVector
  else if f.opc.toNat < 0x140 then f.decVFloat
  else if f.opc.toNat < 0x160 then f.decCross
  else if f.opc.toNat < 0x1A0 then f.decMemory
  else if f.opc.toNat < 0x1C0 then f.decCopy
  else if f.opc.toNat < 0x1E0 then f.decGrate
  else f.decControl

/-- Why a word is no instruction: its opcode is unallocated or the header's (05 R61, R64), a field or selector of it
is reserved (05 R69 to R77), or the bytes end too early. -/
inductive DecodeError where
  | illegalOp
  | reservedEnc
  | truncated
deriving DecidableEq, Repr

/-- The instruction of a word (05 R87, checks 1 and 2 so far as they read the word alone). -/
def decodeWord (w : DWord) : Except DecodeError Instr :=
  let f := Fields.ofWord w
  match opcodeClass f.opc.toNat with
  | none => .error .illegalOp
  | some _ =>
    match f.raw with
    | some i => if i.wf then .ok i else .error .reservedEnc
    | none => .error .reservedEnc

/-- A 64-bit word from eight bytes, the first at the lowest address (02 R12). -/
def wordOfBytes (b0 b1 b2 b3 b4 b5 b6 b7 : Byte) : DWord :=
  b7 ++ b6 ++ b5 ++ b4 ++ b3 ++ b2 ++ b1 ++ b0

/-- The bytes of a word, the lowest address first. -/
def bytesOfWord (w : DWord) : List Byte :=
  [w.extractLsb' 0 8, w.extractLsb' 8 8, w.extractLsb' 16 8, w.extractLsb' 24 8, w.extractLsb' 32 8,
    w.extractLsb' 40 8, w.extractLsb' 48 8, w.extractLsb' 56 8]

/-- The first instruction of a list of bytes, with the bytes after it. -/
def decode : List Byte → Except DecodeError (Instr × List Byte)
  | b0 :: b1 :: b2 :: b3 :: b4 :: b5 :: b6 :: b7 :: rest =>
    match decodeWord (wordOfBytes b0 b1 b2 b3 b4 b5 b6 b7) with
    | .ok i => .ok (i, rest)
    | .error e => .error e
  | _ => .error .truncated

/-- What the decoder reads from a word of the opcode table, numbered as the table numbers its bits. Every instruction
is one 64-bit word, its first byte at the lowest address. -/
def decodeTableWord (nbits w : Nat) : Option Instr :=
  match decode (bytesOfWord (BitVec.ofNat 64 (w % 2 ^ nbits))) with
  | .ok (i, _) => some i
  | .error _ => none

/-! ## Clause headers (05 R62, R63) -/

/-- The fields of a clause header. -/
structure Header where
  eng : Nat
  cnt : Nat
  wait : BitVec 12
  sa : Bool
  qa : BitVec 4
  sb : Bool
  qb : BitVec 4
  rsv : BitVec 26
deriving DecidableEq, Repr

/-- A word whose bits [63:55] are 0x1FF is a header. -/
def isHeader (w : DWord) : Bool := w.extractLsb' 55 9 == 0x1FF#9

def Header.ofWord (w : DWord) : Header where
  eng := (w.extractLsb' 52 3).toNat
  cnt := (w.extractLsb' 48 4).toNat
  wait := w.extractLsb' 36 12
  sa := w.getLsbD 35
  qa := w.extractLsb' 31 4
  sb := w.getLsbD 30
  qb := w.extractLsb' 26 4
  rsv := w.extractLsb' 0 26

/-- The word of a header. -/
def Header.word (h : Header) : DWord :=
  (0x1FF#9 : BitVec 9) ++ BitVec.ofNat 3 h.eng ++ BitVec.ofNat 4 h.cnt ++ h.wait ++ BitVec.ofBool h.sa ++ h.qa
    ++ BitVec.ofBool h.sb ++ h.qb ++ h.rsv

/-- The headers that do not trap RESERVED_ENC (05 R63). -/
def Header.ok (h : Header) : Bool :=
  decide (h.eng < 6) && h.rsv == 0#26
    && !(h.sa && decide (12 ≤ h.qa.toNat)) && !(h.sb && decide (12 ≤ h.qb.toNat))
    && (h.sa || h.qa == 0#4) && (h.sb || h.qb == 0#4) && (!h.sb || h.sa)
    && !(h.sa && h.sb && h.qa == h.qb)

/-! ## The encoder -/

/-- The fields of a V, M or X word. -/
def fv (o : Nat) (g : Guard) (d a b c : BitVec 9) (m : BitVec 15) : Fields := ⟨BitVec.ofNat 9 o, g, d, a, b, c, m⟩
/-- The fields of an I word. -/
def fi (o : Nat) (g : Guard) (d a : BitVec 9) (i : Word) : Fields :=
  ⟨BitVec.ofNat 9 o, g, d, a, 0#1 ++ i.extractLsb' 24 8, i.extractLsb' 15 9, i.extractLsb' 0 15⟩
/-- The fields of a J word, A in the D slot. -/
def fj (o : Nat) (g : Guard) (a : BitVec 9) (tgt jn : BitVec 20) (ej : Bool) : Fields :=
  ⟨BitVec.ofNat 9 o, g, a, tgt.extractLsb' 11 9, tgt.extractLsb' 2 9, tgt.extractLsb' 0 2 ++ jn.extractLsb' 13 7,
    jn.extractLsb' 0 13 ++ BitVec.ofBool ej ++ 0#1⟩

/-- The fields of an instruction's word; none for an event, which has no encoding. Where two codes mean one thing (TYPE
0 of VSCAN, VREDUCE and VBFE), the encoder takes the one that names the type. -/
def encodeFields : Instr → Option Fields
  | .smov d a => some (fv 0x000 noGuard (encS d) (encSMovSrc a) noSel noSel 0#15)
  | .smovi d i => some (fi 0x001 noGuard (encS d) noSel i)
  | .smovhi d i => some (fi 0x002 noGuard (encS d) noSel i)
  | .saddi d a i => some (fi 0x004 noGuard (encS d) (encS a) i)
  | .sadd d a b => some (fv 0x003 noGuard (encS d) (encSSrc a) (encSSrc b) noSel 0#15)
  | .ssub d a b => some (fv 0x005 noGuard (encS d) (encSSrc a) (encSSrc b) noSel 0#15)
  | .smul d a b => some (fv 0x006 noGuard (encS d) (encSSrc a) (encSSrc b) noSel 0#15)
  | .smulh d a b => some (fv 0x007 noGuard (encS d) (encSSrc a) (encSSrc b) noSel 0#15)
  | .smulhu d a b => some (fv 0x008 noGuard (encS d) (encSSrc a) (encSSrc b) noSel 0#15)
  | .sand d a b => some (fv 0x009 noGuard (encS d) (encSSrc a) (encSSrc b) noSel 0#15)
  | .sor d a b => some (fv 0x00A noGuard (encS d) (encSSrc a) (encSSrc b) noSel 0#15)
  | .sxor d a b => some (fv 0x00B noGuard (encS d) (encSSrc a) (encSSrc b) noSel 0#15)
  | .sshl d a b => some (fv 0x00D noGuard (encS d) (encSSrc a) (encSSrc b) noSel 0#15)
  | .sshr d a b => some (fv 0x00E noGuard (encS d) (encSSrc a) (encSSrc b) noSel 0#15)
  | .ssar d a b => some (fv 0x00F noGuard (encS d) (encSSrc a) (encSSrc b) noSel 0#15)
  | .smin d a b => some (fv 0x010 noGuard (encS d) (encSSrc a) (encSSrc b) noSel 0#15)
  | .smax d a b => some (fv 0x011 noGuard (encS d) (encSSrc a) (encSSrc b) noSel 0#15)
  | .sminu d a b => some (fv 0x012 noGuard (encS d) (encSSrc a) (encSSrc b) noSel 0#15)
  | .smaxu d a b => some (fv 0x013 noGuard (encS d) (encSSrc a) (encSSrc b) noSel 0#15)
  | .snot d a => some (fv 0x00C noGuard (encS d) (encSSrc a) noSel noSel 0#15)
  | .scmp k d a b => some (fv 0x014 noGuard (encS d) (encSSrc a) (encSSrc b) noSel (vMod 0#3 0#4 (encCond k) 0#4))
  | .scmpu k d a b => some (fv 0x015 noGuard (encS d) (encSSrc a) (encSSrc b) noSel (vMod 0#3 0#4 (encCond k) 0#4))
  | .ssel d a b c => some (fv 0x016 noGuard (encS d) (encSSrc a) (encSSrc b) (encSSrc c) 0#15)
  | .spopc d a => some (fv 0x017 noGuard (encS d) (encS a) noSel noSel 0#15)
  | .sclz d a => some (fv 0x018 noGuard (encS d) (encS a) noSel noSel 0#15)
  | .sld pr wide d a b => some (fv 0x019 noGuard (encS d) (encS a) (encSSrc b) noSel
    (mMod (bif wide then 3#3 else 2#3) (bif pr then 2#2 else 0#2) 0#2 false none false false))
  | .sldk d md off => some (fi 0x01A noGuard (encS d) noSel (0#18 ++ md ++ off))
  | .sget g d r => some (fv 0x01B g (encSVDst d) (encSpr r) noSel noSel 0#15)
  | .sset r a => some (fv 0x01C noGuard (encSpr r) (encSSrc a) noSel noSel 0#15)
  | .setfmt x => some (fi 0x01D noGuard noSel noSel (0#19 ++ x))
  | .sreadlane d a b => some (fv 0x01E noGuard (encS d) (encV a) (encSSrc b) noSel 0#15)
  | .vmov g d a => some (fv 0x040 g (encV d) (encVMovSrc a) noSel noSel 0#15)
  | .vmovi g d i => some (fi 0x041 g (encV d) noSel i)
  | .vaddi g d a i => some (fi 0x043 g (encV d) (encV a) i)
  | .vadd g d a b => some (fv 0x042 g (encV d) (encVSrc a) (encVSrc b) noSel 0#15)
  | .vsub g d a b => some (fv 0x044 g (encV d) (encVSrc a) (encVSrc b) noSel 0#15)
  | .vmul g d a b => some (fv 0x045 g (encV d) (encVSrc a) (encVSrc b) noSel 0#15)
  | .vmulh g d a b => some (fv 0x046 g (encV d) (encVSrc a) (encVSrc b) noSel 0#15)
  | .vmulhu g d a b => some (fv 0x047 g (encV d) (encVSrc a) (encVSrc b) noSel 0#15)
  | .vand g d a b => some (fv 0x049 g (encV d) (encVSrc a) (encVSrc b) noSel 0#15)
  | .vor g d a b => some (fv 0x04A g (encV d) (encVSrc a) (encVSrc b) noSel 0#15)
  | .vxor g d a b => some (fv 0x04B g (encV d) (encVSrc a) (encVSrc b) noSel 0#15)
  | .vshl g d a b => some (fv 0x04D g (encV d) (encVSrc a) (encVSrc b) noSel 0#15)
  | .vshr g d a b => some (fv 0x04E g (encV d) (encVSrc a) (encVSrc b) noSel 0#15)
  | .vsar g d a b => some (fv 0x04F g (encV d) (encVSrc a) (encVSrc b) noSel 0#15)
  | .vmin g d a b => some (fv 0x050 g (encV d) (encVSrc a) (encVSrc b) noSel 0#15)
  | .vmax g d a b => some (fv 0x051 g (encV d) (encVSrc a) (encVSrc b) noSel 0#15)
  | .vminu g d a b => some (fv 0x052 g (encV d) (encVSrc a) (encVSrc b) noSel 0#15)
  | .vmaxu g d a b => some (fv 0x053 g (encV d) (encVSrc a) (encVSrc b) noSel 0#15)
  | .vadd64 g d a b => some (fv 0x05E g (encV d) (encVSrc a) (encVSrc b) noSel 0#15)
  | .vsub64 g d a b => some (fv 0x05F g (encV d) (encVSrc a) (encVSrc b) noSel 0#15)
  | .vmul64 g d a b => some (fv 0x060 g (encV d) (encVSrc a) (encVSrc b) noSel 0#15)
  | .vmad g d a b c => some (fv 0x048 g (encV d) (encVSrc a) (encVSrc b) (encVSrc c) 0#15)
  | .vnot g d a => some (fv 0x04C g (encV d) (encVSrc a) noSel noSel 0#15)
  | .vabs g d a => some (fv 0x054 g (encV d) (encV a) noSel noSel 0#15)
  | .vneg g d a => some (fv 0x055 g (encV d) (encV a) noSel noSel 0#15)
  | .vpopc g d a => some (fv 0x059 g (encV d) (encV a) noSel noSel 0#15)
  | .vclz g d a => some (fv 0x05A g (encV d) (encV a) noSel noSel 0#15)
  | .vbrev g d a => some (fv 0x05B g (encV d) (encV a) noSel noSel 0#15)
  | .vfabs g d a => some (fv 0x0C6 g (encV d) (encV a) noSel noSel 0#15)
  | .vfneg g d a => some (fv 0x0C7 g (encV d) (encV a) noSel noSel 0#15)
  | .vfclass g d a => some (fv 0x0C9 g (encV d) (encV a) noSel noSel 0#15)
  | .vcmp k g d a b => some (fv 0x056 g (encP d) (encVSrc a) (encVSrc b) noSel (vMod 0#3 0#4 (encCond k) 0#4))
  | .vcmpu k g d a b => some (fv 0x057 g (encP d) (encVSrc a) (encVSrc b) noSel (vMod 0#3 0#4 (encCond k) 0#4))
  | .vsel g d p b c => some (fv 0x058 g (encV d) (encP p) (encVSrc b) (encVSrc c) 0#15)
  | .vbfe u g d a b c => some (fv 0x05C g (encV d) (encV a) (encVSrc b) (encVSrc c) (bif u then 0x300#15 else 0x200#15))
  | .vbfi g d a b c => some (fv 0x05D g (encV d) (encV a) (encVSrc b) (encVSrc c) 0#15)
  | .vshl64 g d a b => some (fv 0x061 g (encV d) (encV a) (encVSrc b) noSel 0#15)
  | .pand g d a b => some (fv 0x062 g (encP d) (encP a) (encP b) noSel 0#15)
  | .por g d a b => some (fv 0x063 g (encP d) (encP a) (encP b) noSel 0#15)
  | .pxor g d a b => some (fv 0x064 g (encP d) (encP a) (encP b) noSel 0#15)
  | .pnot g d a => some (fv 0x065 g (encP d) (encP a) noSel noSel 0#15)
  | .vfadd r g d a b => some (fv 0x0C0 g (encV d) (encFSrc a) (encFSrc b) noSel (vMod (encRnd r) 0#4 0#4 0#4))
  | .vfsub r g d a b => some (fv 0x0C1 g (encV d) (encFSrc a) (encFSrc b) noSel (vMod (encRnd r) 0#4 0#4 0#4))
  | .vfmul r g d a b => some (fv 0x0C2 g (encV d) (encFSrc a) (encFSrc b) noSel (vMod (encRnd r) 0#4 0#4 0#4))
  | .vfdiv r g d a b => some (fv 0x0CA g (encV d) (encFSrc a) (encFSrc b) noSel (vMod (encRnd r) 0#4 0#4 0#4))
  | .vhadd r g d a b => some (fv 0x0D3 g (encV d) (encFSrc a) (encFSrc b) noSel (vMod (encRnd r) 0#4 0#4 0#4))
  | .vhmul r g d a b => some (fv 0x0D4 g (encV d) (encFSrc a) (encFSrc b) noSel (vMod (encRnd r) 0#4 0#4 0#4))
  | .vbadd r g d a b => some (fv 0x0D6 g (encV d) (encFSrc a) (encFSrc b) noSel (vMod (encRnd r) 0#4 0#4 0#4))
  | .vbmul r g d a b => some (fv 0x0D7 g (encV d) (encFSrc a) (encFSrc b) noSel (vMod (encRnd r) 0#4 0#4 0#4))
  | .vffma r g d a b c => some (fv 0x0C3 g (encV d) (encFSrc a) (encFSrc b) (encFSrc c) (vMod (encRnd r) 0#4 0#4 0#4))
  | .vhfma r g d a b c => some (fv 0x0D5 g (encV d) (encFSrc a) (encFSrc b) (encFSrc c) (vMod (encRnd r) 0#4 0#4 0#4))
  | .vbfma r g d a b c => some (fv 0x0D8 g (encV d) (encFSrc a) (encFSrc b) (encFSrc c) (vMod (encRnd r) 0#4 0#4 0#4))
  | .vfmin g d a b => some (fv 0x0C4 g (encV d) (encFSrc a) (encFSrc b) noSel 0#15)
  | .vfmax g d a b => some (fv 0x0C5 g (encV d) (encFSrc a) (encFSrc b) noSel 0#15)
  | .vfcmp k g d a b => some (fv 0x0C8 g (encP d) (encFSrc a) (encFSrc b) noSel (vMod 0#3 0#4 (encFCond k) 0#4))
  | .vfsqrt r g d a => some (fv 0x0CB g (encV d) (encFSrc a) noSel noSel (vMod (encRnd r) 0#4 0#4 0#4))
  | .vfrcp r g d a => some (fv 0x0CC g (encV d) (encFSrc a) noSel noSel (vMod (encRnd r) 0#4 0#4 0#4))
  | .vfrsq r g d a => some (fv 0x0CD g (encV d) (encFSrc a) noSel noSel (vMod (encRnd r) 0#4 0#4 0#4))
  | .vfexp2 r g d a => some (fv 0x0CE g (encV d) (encFSrc a) noSel noSel (vMod (encRnd r) 0#4 0#4 0#4))
  | .vflog2 r g d a => some (fv 0x0CF g (encV d) (encFSrc a) noSel noSel (vMod (encRnd r) 0#4 0#4 0#4))
  | .vfsinpi r g d a => some (fv 0x0D0 g (encV d) (encFSrc a) noSel noSel (vMod (encRnd r) 0#4 0#4 0#4))
  | .vfcospi r g d a => some (fv 0x0D1 g (encV d) (encFSrc a) noSel noSel (vMod (encRnd r) 0#4 0#4 0#4))
  | .vfrnd r g d a => some (fv 0x0D2 g (encV d) (encV a) noSel noSel (vMod (encRnd r) 0#4 0#4 0#4))
  | .vcvt r dt sty g d a => some (fv 0x0D9 g (encV d) (encCvtSrc a) noSel noSel (vMod (encRnd r) (encETy dt) (encETy sty) 0#4))
  | .vshfl g d a l fb => some (fv 0x140 g (encV d) (encV a) (encVSrc l) (encVMovSrc fb) 0#15)
  | .vbcast g d a l => some (fv 0x141 g (encV d) (encV a) (encSSrc l) noSel 0#15)
  | .vvote g d v => some (fv 0x142 g (encP d) (encVoteSrc v) noSel noSel (encVoteMod v))
  | .vballot g d a => some (fv 0x143 g (encS d) (encP a) noSel noSel 0#15)
  | .vscan o t x g d a => some (fv 0x144 g (encV d) (encV a) noSel noSel (vMod 0#3 (encRedTy t) (encRedOp o) (bif x then 2#4 else 0#4)))
  | .vreduce o t g d a => some (fv 0x145 g (encSVDst d) (encV a) noSel noSel (vMod 0#3 (encRedTy t) (encRedOp o) 0#4))
  | .vcompact g d a p => some (fv 0x146 g (encV d) (encV a) (encP p) noSel 0#15)
  | .ld sz sp h home q g d a b => some (fv 0x160 g (encV d) (encLdBase a) (encOff b) noSel
    (mMod (encSize sz) (encSpace sp) (encHint h) false home false q))
  | .ldu sx wide h home q d a b => some (fv 0x161 noGuard (encS d) (encS a) (encSSrc b) noSel
    (mMod (bif wide then 3#3 else 2#3) (bif sx then 1#2 else 0#2) (encHint h) false home false q))
  | .st sz sp rule fs g a b c => some (fv 0x162 g noSel (encStBase a) (encOff b) (encV c)
    (mMod (encSize sz) (encSpace sp) (encRule rule) false none fs false))
  | .stf sz sx rule q g d a b c => some (fv 0x163 g (encV d) (encStBase a) (encOff b) (encV c)
    (mMod (encSize sz) (bif sx then 1#2 else 0#2) (encRule rule) true none false q))
  | .stl rule g a b c => some (fv 0x164 g noSel (encStBase a) (encOff b) (encV c) (mMod 4#3 0#2 (encRule rule) false none false false))
  | .pref h home g a b => some (fv 0x165 g noSel (encLdBase a) (encOff b) noSel
    (mMod 0#3 (match a with | .w _ => 3#2 | .s _ => 0#2 | .v _ => 0#2) (encHint h) false home false false))
  | .stepw => some (fv 0x166 noGuard noSel noSel noSel noSel 0#15)
  | .stepg => some (fv 0x167 noGuard noSel noSel noSel noSel 0#15)
  | .pause i => some (fi 0x168 noGuard noSel noSel i)
  | .tdef t a b => some (fv 0x1A0 noGuard (encT t) (encS a) (encS b) noSel 0#15)
  | .tfree t => some (fv 0x1A1 noGuard (encT t) noSel noSel noSel 0#15)
  | .tstate d t => some (fv 0x1A2 noGuard (encS d) (encT t) noSel noSel 0#15)
  | .cpin t a b fc => some (fv 0x1A3 noGuard (encT t) (encCpSrc a) (encSSrc b) (encFc fc)
    (match a with | .w _ => 0xC00#15 | .s _ => 0#15))
  | .cpout rule fr z a t fc => some (fv 0x1A4 noGuard noSel (encS a) (encT t) (encFc fc)
    (0#5 ++ encRule rule ++ 0#2 ++ BitVec.ofBool fr ++ BitVec.ofBool z ++ 0#4))
  | .cptt d t fc => some (fv 0x1A5 noGuard (encT d) (encT t) noSel (encFc fc) 0#15)
  | .cwait fc k => some (fv 0x1A6 noGuard noSel (encFc fc) (encSSrc k) noSel 0#15)
  | .wbind w a => some (fv 0x1A7 noGuard (encW w) (encS a) noSel noSel 0#15)
  | .wunbind w => some (fv 0x1A8 noGuard (encW w) noSel noSel noSel 0#15)
  | .pin d a b => some (fv 0x1A9 noGuard (encS d) (encS a) (encS b) noSel 0#15)
  | .unpin a => some (fv 0x1AA noGuard noSel (encS a) noSel noSel 0#15)
  | .mmip q d a b r => some (fv 0x1C0 noGuard (encA d) (encGSrc a) (encGSrc b) (encOpt encF r) (0#14 ++ BitVec.ofBool q))
  | .mmop q d a b r => some (fv 0x1C1 noGuard (encT d) (encGSrc a) (encGSrc b) (encOpt encF r) (0#14 ++ BitVec.ofBool q))
  | .mmrw q d a r => some (fv 0x1C2 noGuard (encT d) (encGSrc a) noSel (encOpt encF r) (0#14 ++ BitVec.ofBool q))
  | .mmldb q a => some (fv 0x1C3 noGuard noSel (encGSrc a) noSel noSel (0#14 ++ BitVec.ofBool q))
  | .mmzero q d => some (fv 0x1C4 noGuard (encA d) noSel noSel noSel (0#14 ++ BitVec.ofBool q))
  | .mmlda df q a r => some (fv 0x1C5 noGuard noSel (encGSrc a) noSel (encOpt encF r) (encFlow df ++ 0#12 ++ BitVec.ofBool q))
  | .mmdrain r relu bias q d a x y => some (fv 0x1C6 noGuard (encT d) (encA a) (encOpt encS x) (encOpt encS y)
    (encRnd r ++ BitVec.ofBool relu ++ 0#1 ++ BitVec.ofBool bias.isSome ++ bias.getD 0#6 ++ 0#2 ++ BitVec.ofBool q))
  | .vqlut tb q a => some (fv 0x1C7 noGuard noSel (encS a) noSel noSel (0#13 ++ BitVec.ofBool tb ++ BitVec.ofBool q))
  | .spdg q m w x k => some (fv 0x1C8 noGuard (encT m) (encT w) (encT x) (encSSrc k) (0#14 ++ BitVec.ofBool q))
  | .fbopen wide sx vt d c v l => some (fv 0x1C9 noGuard (encF d) (encS c) (encS v) (encS l)
    (BitVec.ofBool wide ++ 0#1 ++ BitVec.ofBool sx ++ vt ++ 0#8))
  | .fbadv upTo d k => some (fv 0x1CA noGuard (encF d) (encSSrc k) noSel noSel (0#13 ++ BitVec.ofBool upTo ++ 0#1))
  | .fbend d a => some (fv 0x1CB noGuard (encP d) (encF a) noSel noSel 0#15)
  | .fbclose d => some (fv 0x1CC noGuard (encF d) noSel noSel noSel 0#15)
  | .fbrd vl q d a => some (fv 0x1CD noGuard (encV d) (encF a) noSel noSel (0#13 ++ BitVec.ofBool vl ++ BitVec.ofBool q))
  | .br t => some (fj 0x1E0 noGuard noSel t 0#20 false)
  | .brc g t j ej => some (fj 0x1E1 g noSel t j ej)
  | .jt a t j ej => some (fj 0x1E2 noGuard (encV a) t j ej)
  | .join => some (fj 0x1E3 noGuard noSel 0#20 0#20 false)
  | .call l t => some (fj 0x1E4 noGuard (encS l) t 0#20 false)
  | .ret l => some (fj 0x1E5 noGuard (encS l) 0#20 0#20 false)
  | .exit g => some (fj 0x1E6 g noSel 0#20 0#20 false)
  | .trap g k => some (fi 0x1E7 g noSel noSel (0#16 ++ k))
  | .rte => some (fi 0x1E8 noGuard noSel noSel 0#32)
  | .live k => some (fi 0x1E9 noGuard noSel noSel (0#24 ++ k))
  | .nop => some (fi 0x1EA noGuard noSel noSel 0#32)
  | .mark i => some (fi 0x1EB noGuard noSel noSel i)
  | .launch a => some (fv 0x1EC noGuard noSel (encS a) noSel noSel 0#15)
  | .evsig k => some (fi 0x1ED noGuard noSel noSel (0#16 ++ k))
  | .csrr d r => some (fi 0x1EE noGuard (encS d) noSel (0#20 ++ encCsr r))
  | .csrw r a => some (fi 0x1EF noGuard noSel (encSSrc a) (0#20 ++ encCsr r))
  | .bkpt g k => some (fi 0x1F0 g noSel noSel (0#16 ++ k))
  | .clauseStart _ => none
  | .loadDataArrives _ _ => none
  | .copyLineLands _ _ _ => none
  | .grateStart _ => none
  | .grateCompletion _ => none
  | .fbrdDataArrives _ _ => none
  | .handoverComplete _ _ => none
  | .emberRejoin _ => none
  | .gridStepClose _ => none
  | .groupStepClose _ => none
  | .stepWatchdog _ _ => none
  | .hangWatchdog _ => none
  | .rejoinTimeout _ => none
  | .queueDoorbell _ _ _ _ => none
  | .eventClearDoorbell _ _ _ => none
  | .packetTake => none
  | .gridPlace => none
  | .groupPlaceDeferred => none
  | .gridComplete _ => none
  | .ctxCreate _ _ => none
  | .ctxDestroy _ _ => none
  | .queueSet _ _ => none
  | .preempt _ _ => none
  | .saveBegin _ => none
  | .saveDone _ => none
  | .pretmoExpiry _ => none
  | .cpytmoExpiry _ => none
  | .savetmoExpiry _ => none
  | .restore _ _ => none
  | .restoreStart _ => none
  | .restoreDone _ => none
  | .invalidate _ _ => none
  | .invalidateComplete _ => none
  | .waveResume _ _ => none
  | .connDown _ _ => none
  | .connUp _ _ => none
  | .connSetWl _ _ => none
  | .circuitDrained _ _ => none
  | .circuitUp _ _ => none
  | .powerPstate _ _ => none
  | .pstateChangeDone _ => none
  | .powerBudget _ _ => none
  | .powerIdle _ _ => none
  | .cfgDtbase _ _ => none
  | .cfgDtsize _ _ => none
  | .cfgRlbase _ _ => none
  | .cfgRlsize _ _ => none
  | .cfgElbase _ _ => none
  | .cfgElsize _ _ => none
  | .cfgCpytmo _ _ => none
  | .cfgSavetmo _ _ => none
  | .cfgPretmo _ _ => none
  | .cfgCxltmo _ _ => none
  | .cfgPeertmo _ _ => none
  | .cfgActmax _ _ => none
  | .cfgSteplimit _ _ => none
  | .cfgHanglimit _ _ => none
  | .cfgCtxcfg _ _ => none
  | .cfgTba _ _ => none
  | .cfgFpolicy _ _ => none
  | .countsRead _ _ => none
  | .dieReset _ _ => none
  | .functionLevelReset _ => none
  | .moduleReset _ _ => none
  | .notifySet _ _ => none
  | .inboxSet _ _ => none
  | .peerId _ _ => none
  | .flashWrite _ _ => none
  | .bar0WriteOther _ _ _ => none
  | .hostMemoryRequest _ _ _ _ => none
  | .peerLineArrives _ _ _ => none
  | .peerLineAck _ _ _ => none
  | .peerLineTimeout _ _ _ => none
  | .cxlTimeout _ _ => none
  | .cxlLinkDown _ => none
  | .pageWalk _ _ _ => none
  | .pinFadePeriod _ _ => none
  | .hbmAccess _ _ _ _ => none
  | .hbmRefresh _ _ _ => none
  | .retryReissue _ _ => none
  | .dieTrip _ _ => none
  | .flueDieTrip _ _ => none
  | .powerOn => none
  | .powerGoodTimeout => none
  | .powerGood => none
  | .cxlLinkUp _ => none
  | .peerLinkPortDown _ => none
  | .peerLinkPortUp _ => none
  | .tdispStateChange _ _ => none
  | .ideStreamKeyed _ => none
  | .unknownCommandCode _ _ => none
  | .cmddbWriteWhileBusy _ => none
  | .pauseEnd _ => none
  | .refreshEnd _ _ => none

/-- The word of an instruction. -/
def encode (i : Instr) : Option DWord := (encodeFields i).map Fields.word

/-- The rows of the opcode table that the part fetches; the others are its events. -/
def Instr.encoded (i : Instr) : Bool := (encodeFields i).isSome

end Sys2Proof
end

