-- ==== Sys2Proof/Machine/Operands.lean ====
section
/-! DEFINITION. The values of operands (05 R71 to R73, 06 R90) and the lanes that take part (05 R69, 06 R89). -/

namespace Sys2Proof

open Machine

/-- An inline integer, sign-extended to a lane (05 R72). -/
def inlWord (i : Inl) : Word := BitVec.ofInt 32 i.val
/-- An inline integer, sign-extended to 64 bits (05 R72). -/
def inlDWord (i : Inl) : DWord := BitVec.ofInt 64 i.val

/-- Inline floats (05 Table 5.4), as FP32 bits. -/
def fltBits (i : Flt) : Word :=
  [0x00000000#32, 0x80000000#32, 0x3F000000#32, 0xBF000000#32, 0x3F800000#32, 0xBF800000#32, 0x40000000#32,
   0xC0000000#32, 0x40800000#32, 0xC0800000#32, 0x3E800000#32, 0xBE800000#32, 0x41000000#32, 0x3E000000#32,
   0x3FC00000#32, 0x40400000#32, 0x40C00000#32, 0x41200000#32, 0x41800000#32, 0x3D800000#32, 0x43E00000#32,
   0x47600000#32, 0x477FE000#32, 0x40490FDB#32, 0x3F317218#32, 0x3FB8AA3B#32, 0x00800000#32, 0x7F7FFFFF#32,
   0x7F800000#32, 0xFF800000#32, 0x7FC00000#32, 0x00000001#32].getD i.toNat 0#32

/-- A scalar source. -/
def SSrc.value (x : SSrc) (w : Thread) : DWord :=
  match x with
  | .s r => w.sreg r.toNat
  | .int i => inlDWord i

/-- The source of SMOV: a fill counter is zero-extended, an inline float supplies its FP32 pattern (06 R93). -/
def SMovSrc.value (x : SMovSrc) (w : Thread) : DWord :=
  match x with
  | .s r => w.sreg r.toNat
  | .fc r => BitVec.ofNat 64 (w.fcount r.toNat)
  | .int i => inlDWord i
  | .flt i => (fltBits i).setWidth 64

/-- A 32-bit lane source: an s register supplies its low half (06 R90). -/
def VSrc.value (x : VSrc) (w : Thread) (lane : Nat) : Word :=
  match x with
  | .v r => w.vreg r.toNat lane
  | .s r => (w.sreg r.toNat).extractLsb' 0 32
  | .int i => inlWord i

/-- A 64-bit lane source (06 R90, R103). -/
def VSrc.value64 (x : VSrc) (w : Thread) (lane : Nat) : DWord :=
  match x with
  | .v r => w.vpair r.toNat lane
  | .s r => w.sreg r.toNat
  | .int i => inlDWord i

def VMovSrc.value (x : VMovSrc) (w : Thread) (lane : Nat) : Word :=
  match x with
  | .v r => w.vreg r.toNat lane
  | .s r => (w.sreg r.toNat).extractLsb' 0 32
  | .int i => inlWord i
  | .flt i => fltBits i

/-- An FP32 lane source. -/
def FSrc.value (x : FSrc) (w : Thread) (lane : Nat) : Word :=
  match x with
  | .v r => w.vreg r.toNat lane
  | .s r => (w.sreg r.toNat).extractLsb' 0 32
  | .flt i => fltBits i

/-- The offset of an M-format instruction, zero-extended (07 R119). -/
def Off.value (x : Off) (w : Thread) (lane : Nat) : Nat :=
  match x with
  | .v r => (w.vreg r.toNat lane).toNat
  | .int i => i.val.toNat

/-- The base of a store in a lane. -/
def StBase.value (x : StBase) (w : Thread) (lane : Nat) : DWord :=
  match x with
  | .s r => w.sreg r.toNat
  | .v r => w.vpair r.toNat lane

/-- The base of a load in a lane; a window has none. -/
def LdBase.value (x : LdBase) (w : Thread) (lane : Nat) : DWord :=
  match x with
  | .s r => w.sreg r.toNat
  | .v r => w.vpair r.toNat lane
  | .w _ => 0#64

/-- The lanes whose guard passes (05 R69). -/
def Guard.lanes (g : Guard) (w : Thread) : Mask :=
  if g.neg then ~~~(w.preg g.p.toNat) else w.preg g.p.toNat

/-- The lanes that take part: on the path, with the guard passing (06 R89). -/
def active (w : Thread) (e : Entry) (g : Guard) : Mask := e.mask &&& g.lanes w

/-- Compare conditions (05 Table 5.6) on integers. -/
def Cond.holds (c : Cond) (a b : Int) : Bool :=
  match c with
  | .eq => decide (a = b)
  | .ne => decide (a ≠ b)
  | .lt => decide (a < b)
  | .le => decide (a ≤ b)
  | .gt => decide (b < a)
  | .ge => decide (b ≤ a)

/-- Bytes of an access size; a B4 access uses one byte's nibble. -/
def Size.bytes : Size → Nat
  | .b8 => 1
  | .b16 => 2
  | .b32 => 4
  | .b64 => 8
  | .b128 => 16
  | .b4 => 1

/-- v registers of an access size (07 Table 7.1). -/
def Size.regs : Size → Nat
  | .b8 | .b16 | .b32 | .b4 => 1
  | .b64 => 2
  | .b128 => 4

end Sys2Proof
end

