-- ==== Sys2Proof/Machine/Flags.lean ====
section
/-! DEFINITION. FPFLAGS (02 Table 2.9, R30, R31) and the clause flags q0 to q11 (03 R38, 05 R66, R67). -/

namespace Sys2Proof.Machine

/-- FPFLAGS bits [4:0] (02 Table 2.9). -/
abbrev Fl := BitVec 5
def flNone : Fl := 0#5
/-- Invalid operation. -/
def flNv : Fl := 1#5
/-- Division by zero. -/
def flDz : Fl := 2#5
/-- Overflow. -/
def flOf : Fl := 4#5
/-- Underflow. -/
def flUf : Fl := 8#5
/-- Inexact. -/
def flNx : Fl := 16#5

/-- FPFLAGS as software reads it: reserved bits are zero (02 R30). -/
def flWord (f : Fl) : Word := f.setWidth 32

/-- Conditions that an instruction raises are added to the path's copy; only SSET clears them (02 R30). -/
def Entry.raise (e : Entry) (f : Fl) : Entry := { e with flg := e.flg ||| f }

/-- The flag number that a QSEL bit names, if the header marks it valid (05 R66). -/
def Clause.flag (c : Clause) (q : Bool) : Option Nat :=
  if q then (if c.sb then some c.qb.toNat else none) else (if c.sa then some c.qa.toNat else none)

/-- WAIT names the flag. -/
def Clause.waits (c : Clause) (q : Nat) : Bool := c.wait.getLsbD q

/-- A grate instruction of the thread that has not completed holds the flag (09 R202). -/
def State.grateFlag (s : State) (t : Nat) (w : Thread) (q : Nat) : Bool :=
  (s.hearth w.home).grate.any fun o => o.t == t && o.flag == q

/-- A grate instruction of the thread that has not yet read its operands may still meet an error (09 R201, log 21). -/
def State.grateUnread (s : State) (t : Nat) (w : Thread) : Bool :=
  let h := s.hearth w.home
  (if h.running then h.grate.drop 1 else h.grate).any fun o => o.t == t && o.mayErr

/-- The flag is set: an operation that selected it has not completed (03 R38). -/
def State.flagBusy (s : State) (t : Nat) (w : Thread) (q : Nat) : Bool := w.flagOp q || s.grateFlag t w q

/-- Some flag of WAIT is set (05 R66). -/
def State.waitBusy (s : State) (t : Nat) (w : Thread) (wait : BitVec 12) : Bool :=
  (List.range 12).any fun q => wait.getLsbD q && s.flagBusy t w q

/-- The step of an STF has not been arrived at by the path: the path's own count has not passed that step (05 R67). -/
def OpKind.unarrived (k : OpKind) (e : Entry) : Bool :=
  match k with
  | .stf g st _ _ _ => !passed st (if g then e.gstep else e.wstep)
  | .load _ => false
  | .loadS _ _ => false

/-- A WAIT that names the flag of an STF of a step not yet arrived at (05 R67). -/
def Thread.waitHazard (w : Thread) (e : Entry) (wait : BitVec 12) : Bool :=
  w.ops.any fun o => wait.getLsbD o.flag && o.kind.unarrived e

/-- A v register held pending by an operation whose flag the clause's WAIT does not cover, whatever lanes take part in it (03
R38, 05 R67, log 32). Where the operation was issued within the clause itself and WAIT covers its flag, the register reads as
it stands: the model's choice (log 78). -/
def Thread.pendingV (w : Thread) (c : Clause) (r : Nat) : Bool :=
  w.ops.any fun o => !c.waits o.flag && o.regs.contains r
/-- An s register held pending by an LDU that the clause's WAIT does not cover. -/
def Thread.pendingS (w : Thread) (c : Clause) (r : Nat) : Bool := w.ops.any fun o => !c.waits o.flag && o.sreg == some r

end Sys2Proof.Machine
end

