-- ==== Sys2Proof/Machine/Issue.lean ====
section
/-! DEFINITION. What an instruction names (03 R32) and the checks 2 to 5 of 05 R87 that depend on the state: ranges that
the launch sized, QSEL, EMBER_ILLEGAL, PRIV, HAZARD, and a register word that cannot be corrected; then the ends of an
instruction: it retires, traps or stalls. -/

namespace Sys2Proof.Machine

/-! ## Registers an instruction names -/

/-- Registers and tiles that an instruction names: v read and written, s read and written, accumulators, tiles. -/
structure Uses where
  vr : List Nat
  vw : List Nat
  sr : List Nat
  sw : List Nat
  a : List Nat
  t : List Nat
deriving DecidableEq, Repr

def vrun (r : VReg) (n : Nat) : List Nat := (List.range n).map (r.toNat + ·)
def srun (r : SReg) (n : Nat) : List Nat := (List.range n).map (r.toNat + ·)
def ssrcRegs : SSrc → List Nat
  | .s r => [r.toNat]
  | .int _ => []
/-- An s source of 128 bits: an even register and the next (03 R39). -/
def ssrcRegs2 : SSrc → List Nat
  | .s r => [r.toNat, r.toNat + 1]
  | .int _ => []
def smovRegs : SMovSrc → List Nat
  | .s r => [r.toNat]
  | .fc _ => []
  | .int _ => []
  | .flt _ => []
def vsrcV (x : VSrc) (n : Nat) : List Nat :=
  match x with
  | .v r => vrun r n
  | .s _ => []
  | .int _ => []
def vsrcS : VSrc → List Nat
  | .s r => [r.toNat]
  | .v _ => []
  | .int _ => []
def vmovV : VMovSrc → List Nat
  | .v r => [r.toNat]
  | .s _ => []
  | .int _ => []
  | .flt _ => []
def vmovS : VMovSrc → List Nat
  | .s r => [r.toNat]
  | .v _ => []
  | .int _ => []
  | .flt _ => []
def fsrcV : FSrc → List Nat
  | .v r => [r.toNat]
  | .s _ => []
  | .flt _ => []
def fsrcS : FSrc → List Nat
  | .s r => [r.toNat]
  | .v _ => []
  | .flt _ => []
def cvtV (x : CvtSrc) (n : Nat) : List Nat :=
  match x with
  | .v r => vrun r n
  | .s _ => []
def cvtS : CvtSrc → List Nat
  | .s r => [r.toNat]
  | .v _ => []
def svV (x : SVDst) (n : Nat) : List Nat :=
  match x with
  | .v r => vrun r n
  | .s _ => []
def svS (x : SVDst) (n : Nat) : List Nat :=
  match x with
  | .s r => srun r n
  | .v _ => []
def stV : StBase → List Nat
  | .v r => vrun r 2
  | .s _ => []
def stS : StBase → List Nat
  | .s r => [r.toNat]
  | .v _ => []
def ldV : LdBase → List Nat
  | .v r => vrun r 2
  | .s _ => []
  | .w _ => []
def ldS : LdBase → List Nat
  | .s r => [r.toNat]
  | .v _ => []
  | .w _ => []
def offV : Off → List Nat
  | .v r => [r.toNat]
  | .int _ => []
def cpS : CpSrc → List Nat
  | .s r => [r.toNat]
  | .w _ => []
def gT : GSrc → List Nat
  | .tile n => [n.toNat]
  | .fib _ => []
def optS : Option SReg → List Nat
  | some r => [r.toNat]
  | none => []
def voteV : Vote → List Nat
  | .uni v => [v.toNat]
  | .all _ => []
  | .any _ => []
/-- v registers of VCVT's destination and source (06 Table 6.8). -/
def cvtDst (dt sty : ETy) : Nat := if dt.perWord == 1 && sty.perWord != 1 then 2 else 1
def cvtSrc (dt sty : ETy) : Nat := if sty.perWord == 1 && dt.perWord != 1 then 2 else 1

/-- What each encoded instruction names; an event names nothing. -/
def uses : Instr → Uses
  | .clauseStart _ => ⟨[], [], [], [], [], []⟩
  | .smov d a => ⟨[], [], smovRegs a, srun d 1, [], []⟩
  | .smovi d _ => ⟨[], [], [], srun d 1, [], []⟩
  | .smovhi d _ => ⟨[], [], srun d 1, srun d 1, [], []⟩
  | .sadd d a b => ⟨[], [], ssrcRegs a ++ ssrcRegs b, srun d 1, [], []⟩
  | .saddi d a _ => ⟨[], [], srun a 1, srun d 1, [], []⟩
  | .ssub d a b => ⟨[], [], ssrcRegs a ++ ssrcRegs b, srun d 1, [], []⟩
  | .smul d a b => ⟨[], [], ssrcRegs a ++ ssrcRegs b, srun d 1, [], []⟩
  | .smulh d a b => ⟨[], [], ssrcRegs a ++ ssrcRegs b, srun d 1, [], []⟩
  | .smulhu d a b => ⟨[], [], ssrcRegs a ++ ssrcRegs b, srun d 1, [], []⟩
  | .sand d a b => ⟨[], [], ssrcRegs a ++ ssrcRegs b, srun d 1, [], []⟩
  | .sor d a b => ⟨[], [], ssrcRegs a ++ ssrcRegs b, srun d 1, [], []⟩
  | .sxor d a b => ⟨[], [], ssrcRegs a ++ ssrcRegs b, srun d 1, [], []⟩
  | .snot d a => ⟨[], [], ssrcRegs a, srun d 1, [], []⟩
  | .sshl d a b => ⟨[], [], ssrcRegs a ++ ssrcRegs b, srun d 1, [], []⟩
  | .sshr d a b => ⟨[], [], ssrcRegs a ++ ssrcRegs b, srun d 1, [], []⟩
  | .ssar d a b => ⟨[], [], ssrcRegs a ++ ssrcRegs b, srun d 1, [], []⟩
  | .smin d a b => ⟨[], [], ssrcRegs a ++ ssrcRegs b, srun d 1, [], []⟩
  | .smax d a b => ⟨[], [], ssrcRegs a ++ ssrcRegs b, srun d 1, [], []⟩
  | .sminu d a b => ⟨[], [], ssrcRegs a ++ ssrcRegs b, srun d 1, [], []⟩
  | .smaxu d a b => ⟨[], [], ssrcRegs a ++ ssrcRegs b, srun d 1, [], []⟩
  | .scmp _ d a b => ⟨[], [], ssrcRegs a ++ ssrcRegs b, srun d 1, [], []⟩
  | .scmpu _ d a b => ⟨[], [], ssrcRegs a ++ ssrcRegs b, srun d 1, [], []⟩
  | .ssel d a b c => ⟨[], [], ssrcRegs a ++ ssrcRegs b ++ ssrcRegs c, srun d 1, [], []⟩
  | .spopc d a => ⟨[], [], srun a 1, srun d 1, [], []⟩
  | .sclz d a => ⟨[], [], srun a 1, srun d 1, [], []⟩
  | .sld _ _ d a b => ⟨[], [], srun a 1 ++ ssrcRegs b, srun d 1, [], []⟩
  | .sldk d _ _ => ⟨[], [], [], srun d 1, [], []⟩
  | .sget _ d r => ⟨[], svV d (if r.wide then 2 else 1), [], svS d (if r.mask then 2 else 1), [], []⟩
  | .sset r a => ⟨[], [], (if r.mask then ssrcRegs2 a else ssrcRegs a), [], [], []⟩
  | .setfmt _ => ⟨[], [], [], [], [], []⟩
  | .sreadlane d a lane => ⟨vrun a 1, [], ssrcRegs lane, srun d 1, [], []⟩
  | .vmov _ d a => ⟨vmovV a, vrun d 1, vmovS a, [], [], []⟩
  | .vmovi _ d _ => ⟨[], vrun d 1, [], [], [], []⟩
  | .vadd _ d a b => ⟨vsrcV a 1 ++ vsrcV b 1, vrun d 1, vsrcS a ++ vsrcS b, [], [], []⟩
  | .vaddi _ d a _ => ⟨vrun a 1, vrun d 1, [], [], [], []⟩
  | .vsub _ d a b => ⟨vsrcV a 1 ++ vsrcV b 1, vrun d 1, vsrcS a ++ vsrcS b, [], [], []⟩
  | .vmul _ d a b => ⟨vsrcV a 1 ++ vsrcV b 1, vrun d 1, vsrcS a ++ vsrcS b, [], [], []⟩
  | .vmulh _ d a b => ⟨vsrcV a 1 ++ vsrcV b 1, vrun d 1, vsrcS a ++ vsrcS b, [], [], []⟩
  | .vmulhu _ d a b => ⟨vsrcV a 1 ++ vsrcV b 1, vrun d 1, vsrcS a ++ vsrcS b, [], [], []⟩
  | .vmad _ d a b c => ⟨vsrcV a 1 ++ vsrcV b 1 ++ vsrcV c 1, vrun d 1, vsrcS a ++ vsrcS b ++ vsrcS c, [], [], []⟩
  | .vand _ d a b => ⟨vsrcV a 1 ++ vsrcV b 1, vrun d 1, vsrcS a ++ vsrcS b, [], [], []⟩
  | .vor _ d a b => ⟨vsrcV a 1 ++ vsrcV b 1, vrun d 1, vsrcS a ++ vsrcS b, [], [], []⟩
  | .vxor _ d a b => ⟨vsrcV a 1 ++ vsrcV b 1, vrun d 1, vsrcS a ++ vsrcS b, [], [], []⟩
  | .vnot _ d a => ⟨vsrcV a 1, vrun d 1, vsrcS a, [], [], []⟩
  | .vshl _ d a b => ⟨vsrcV a 1 ++ vsrcV b 1, vrun d 1, vsrcS a ++ vsrcS b, [], [], []⟩
  | .vshr _ d a b => ⟨vsrcV a 1 ++ vsrcV b 1, vrun d 1, vsrcS a ++ vsrcS b, [], [], []⟩
  | .vsar _ d a b => ⟨vsrcV a 1 ++ vsrcV b 1, vrun d 1, vsrcS a ++ vsrcS b, [], [], []⟩
  | .vmin _ d a b => ⟨vsrcV a 1 ++ vsrcV b 1, vrun d 1, vsrcS a ++ vsrcS b, [], [], []⟩
  | .vmax _ d a b => ⟨vsrcV a 1 ++ vsrcV b 1, vrun d 1, vsrcS a ++ vsrcS b, [], [], []⟩
  | .vminu _ d a b => ⟨vsrcV a 1 ++ vsrcV b 1, vrun d 1, vsrcS a ++ vsrcS b, [], [], []⟩
  | .vmaxu _ d a b => ⟨vsrcV a 1 ++ vsrcV b 1, vrun d 1, vsrcS a ++ vsrcS b, [], [], []⟩
  | .vabs _ d a => ⟨vrun a 1, vrun d 1, [], [], [], []⟩
  | .vneg _ d a => ⟨vrun a 1, vrun d 1, [], [], [], []⟩
  | .vcmp _ _ _ a b => ⟨vsrcV a 1 ++ vsrcV b 1, [], vsrcS a ++ vsrcS b, [], [], []⟩
  | .vcmpu _ _ _ a b => ⟨vsrcV a 1 ++ vsrcV b 1, [], vsrcS a ++ vsrcS b, [], [], []⟩
  | .vsel _ d _ b c => ⟨vsrcV b 1 ++ vsrcV c 1, vrun d 1, vsrcS b ++ vsrcS c, [], [], []⟩
  | .vpopc _ d a => ⟨vrun a 1, vrun d 1, [], [], [], []⟩
  | .vclz _ d a => ⟨vrun a 1, vrun d 1, [], [], [], []⟩
  | .vbrev _ d a => ⟨vrun a 1, vrun d 1, [], [], [], []⟩
  | .vbfe _ _ d a off width => ⟨vrun a 1 ++ vsrcV off 1 ++ vsrcV width 1, vrun d 1, vsrcS off ++ vsrcS width, [], [], []⟩
  | .vbfi _ d a off width => ⟨vrun d 1 ++ vrun a 1 ++ vsrcV off 1 ++ vsrcV width 1, vrun d 1, vsrcS off ++ vsrcS width, [], [], []⟩
  | .vadd64 _ d a b => ⟨vsrcV a 2 ++ vsrcV b 2, vrun d 2, vsrcS a ++ vsrcS b, [], [], []⟩
  | .vsub64 _ d a b => ⟨vsrcV a 2 ++ vsrcV b 2, vrun d 2, vsrcS a ++ vsrcS b, [], [], []⟩
  | .vmul64 _ d a b => ⟨vsrcV a 2 ++ vsrcV b 2, vrun d 2, vsrcS a ++ vsrcS b, [], [], []⟩
  | .vshl64 _ d a b => ⟨vrun a 2 ++ vsrcV b 1, vrun d 2, vsrcS b, [], [], []⟩
  | .pand _ _ _ _ => ⟨[], [], [], [], [], []⟩
  | .por _ _ _ _ => ⟨[], [], [], [], [], []⟩
  | .pxor _ _ _ _ => ⟨[], [], [], [], [], []⟩
  | .pnot _ _ _ => ⟨[], [], [], [], [], []⟩
  | .vfadd _ _ d a b => ⟨fsrcV a ++ fsrcV b, vrun d 1, fsrcS a ++ fsrcS b, [], [], []⟩
  | .vfsub _ _ d a b => ⟨fsrcV a ++ fsrcV b, vrun d 1, fsrcS a ++ fsrcS b, [], [], []⟩
  | .vfmul _ _ d a b => ⟨fsrcV a ++ fsrcV b, vrun d 1, fsrcS a ++ fsrcS b, [], [], []⟩
  | .vffma _ _ d a b c => ⟨fsrcV a ++ fsrcV b ++ fsrcV c, vrun d 1, fsrcS a ++ fsrcS b ++ fsrcS c, [], [], []⟩
  | .vfmin _ d a b => ⟨fsrcV a ++ fsrcV b, vrun d 1, fsrcS a ++ fsrcS b, [], [], []⟩
  | .vfmax _ d a b => ⟨fsrcV a ++ fsrcV b, vrun d 1, fsrcS a ++ fsrcS b, [], [], []⟩
  | .vfabs _ d a => ⟨vrun a 1, vrun d 1, [], [], [], []⟩
  | .vfneg _ d a => ⟨vrun a 1, vrun d 1, [], [], [], []⟩
  | .vfcmp _ _ _ a b => ⟨fsrcV a ++ fsrcV b, [], fsrcS a ++ fsrcS b, [], [], []⟩
  | .vfclass _ d a => ⟨vrun a 1, vrun d 1, [], [], [], []⟩
  | .vfdiv _ _ d a b => ⟨fsrcV a ++ fsrcV b, vrun d 1, fsrcS a ++ fsrcS b, [], [], []⟩
  | .vfsqrt _ _ d a => ⟨fsrcV a, vrun d 1, fsrcS a, [], [], []⟩
  | .vfrcp _ _ d a => ⟨fsrcV a, vrun d 1, fsrcS a, [], [], []⟩
  | .vfrsq _ _ d a => ⟨fsrcV a, vrun d 1, fsrcS a, [], [], []⟩
  | .vfexp2 _ _ d a => ⟨fsrcV a, vrun d 1, fsrcS a, [], [], []⟩
  | .vflog2 _ _ d a => ⟨fsrcV a, vrun d 1, fsrcS a, [], [], []⟩
  | .vfsinpi _ _ d a => ⟨fsrcV a, vrun d 1, fsrcS a, [], [], []⟩
  | .vfcospi _ _ d a => ⟨fsrcV a, vrun d 1, fsrcS a, [], [], []⟩
  | .vfrnd _ _ d a => ⟨vrun a 1, vrun d 1, [], [], [], []⟩
  | .vhadd _ _ d a b => ⟨fsrcV a ++ fsrcV b, vrun d 1, fsrcS a ++ fsrcS b, [], [], []⟩
  | .vhmul _ _ d a b => ⟨fsrcV a ++ fsrcV b, vrun d 1, fsrcS a ++ fsrcS b, [], [], []⟩
  | .vhfma _ _ d a b c => ⟨fsrcV a ++ fsrcV b ++ fsrcV c, vrun d 1, fsrcS a ++ fsrcS b ++ fsrcS c, [], [], []⟩
  | .vbadd _ _ d a b => ⟨fsrcV a ++ fsrcV b, vrun d 1, fsrcS a ++ fsrcS b, [], [], []⟩
  | .vbmul _ _ d a b => ⟨fsrcV a ++ fsrcV b, vrun d 1, fsrcS a ++ fsrcS b, [], [], []⟩
  | .vbfma _ _ d a b c => ⟨fsrcV a ++ fsrcV b ++ fsrcV c, vrun d 1, fsrcS a ++ fsrcS b ++ fsrcS c, [], [], []⟩
  | .vcvt _ dt sty _ d a => ⟨cvtV a (cvtSrc dt sty), vrun d (cvtDst dt sty), cvtS a, [], [], []⟩
  | .vshfl _ d a lane fb => ⟨vrun a 1 ++ vsrcV lane 1 ++ vmovV fb, vrun d 1, vsrcS lane ++ vmovS fb, [], [], []⟩
  | .vbcast _ d a lane => ⟨vrun a 1, vrun d 1, ssrcRegs lane, [], [], []⟩
  | .vvote _ _ v => ⟨voteV v, [], [], [], [], []⟩
  | .vballot _ d _ => ⟨[], [], [], srun d 2, [], []⟩
  | .vscan _ _ _ _ d a => ⟨vrun a 1, vrun d 1, [], [], [], []⟩
  | .vreduce _ _ _ d a => ⟨vrun a 1, svV d 1, [], svS d 1, [], []⟩
  | .vcompact _ d a _ => ⟨vrun a 1, vrun d 1, [], [], [], []⟩
  | .ld sz _ _ _ _ _ d a b => ⟨ldV a ++ offV b, vrun d sz.regs, ldS a, [], [], []⟩
  | .ldu _ _ _ _ _ d a b => ⟨[], [], srun a 1 ++ ssrcRegs b, srun d 1, [], []⟩
  | .loadDataArrives _ _ => ⟨[], [], [], [], [], []⟩
  | .st sz _ _ _ _ a b c => ⟨stV a ++ offV b ++ vrun c sz.regs, [], stS a, [], [], []⟩
  | .stf sz _ _ _ _ d a b c => ⟨stV a ++ offV b ++ vrun c sz.regs, vrun d sz.regs, stS a, [], [], []⟩
  | .stl _ _ a b c => ⟨stV a ++ offV b ++ vrun c 4, [], stS a, [], [], []⟩
  | .pref _ _ _ a b => ⟨ldV a ++ offV b, [], ldS a, [], [], []⟩
  | .stepw => ⟨[], [], [], [], [], []⟩
  | .stepg => ⟨[], [], [], [], [], []⟩
  | .pause _ => ⟨[], [], [], [], [], []⟩
  | .tdef t lo hi => ⟨[], [], srun lo 1 ++ srun hi 1, [], [], [t.toNat]⟩
  | .tfree t => ⟨[], [], [], [], [], [t.toNat]⟩
  | .tstate d t => ⟨[], [], [], srun d 1, [], [t.toNat]⟩
  | .cpin t a b _ => ⟨[], [], cpS a ++ ssrcRegs b, [], [], [t.toNat]⟩
  | .cpout _ _ _ a t _ => ⟨[], [], srun a 1, [], [], [t.toNat]⟩
  | .cptt d s _ => ⟨[], [], [], [], [], [d.toNat] ++ [s.toNat]⟩
  | .copyLineLands _ _ _ => ⟨[], [], [], [], [], []⟩
  | .cwait _ n => ⟨[], [], ssrcRegs n, [], [], []⟩
  | .wbind _ a => ⟨[], [], srun a 1, [], [], []⟩
  | .wunbind _ => ⟨[], [], [], [], [], []⟩
  | .pin d base bytes => ⟨[], [], srun base 1 ++ srun bytes 1, srun d 1, [], []⟩
  | .unpin a => ⟨[], [], srun a 1, [], [], []⟩
  | .mmip _ d a b _ => ⟨[], [], [], [], [d.toNat], gT a ++ gT b⟩
  | .mmop _ d a b _ => ⟨[], [], [], [], [], [d.toNat] ++ gT a ++ gT b⟩
  | .mmrw _ d a _ => ⟨[], [], [], [], [], [d.toNat] ++ gT a⟩
  | .mmldb _ a => ⟨[], [], [], [], [], gT a⟩
  | .mmzero _ d => ⟨[], [], [], [], [d.toNat], []⟩
  | .mmlda _ _ a _ => ⟨[], [], [], [], [], gT a⟩
  | .mmdrain _ _ bias _ d a sa sb => ⟨[], [], optS bias ++ optS sa ++ optS sb, [], [a.toNat], [d.toNat]⟩
  | .vqlut _ _ a => ⟨[], [], srun a 1, [], [], []⟩
  | .spdg _ m w g n => ⟨[], [], ssrcRegs n, [], [], [m.toNat] ++ [w.toNat] ++ [g.toNat]⟩
  | .grateStart _ => ⟨[], [], [], [], [], []⟩
  | .grateCompletion _ => ⟨[], [], [], [], [], []⟩
  | .fbopen _ _ _ _ c v l => ⟨[], [], srun c 1 ++ srun v 1 ++ srun l 1, [], [], []⟩
  | .fbadv _ _ n => ⟨[], [], ssrcRegs n, [], [], []⟩
  | .fbend _ _ => ⟨[], [], [], [], [], []⟩
  | .fbclose _ => ⟨[], [], [], [], [], []⟩
  | .fbrd _ _ d _ => ⟨[], vrun d 1, [], [], [], []⟩
  | .fbrdDataArrives _ _ => ⟨[], [], [], [], [], []⟩
  | .br _ => ⟨[], [], [], [], [], []⟩
  | .brc _ _ _ _ => ⟨[], [], [], [], [], []⟩
  | .jt a _ _ _ => ⟨vrun a 1, [], [], [], [], []⟩
  | .join => ⟨[], [], [], [], [], []⟩
  | .call l _ => ⟨[], [], [], srun l 1, [], []⟩
  | .ret l => ⟨[], [], srun l 1, [], [], []⟩
  | .exit _ => ⟨[], [], [], [], [], []⟩
  | .trap _ _ => ⟨[], [], [], [], [], []⟩
  | .bkpt _ _ => ⟨[], [], [], [], [], []⟩
  | .rte => ⟨[], [], [], [], [], []⟩
  | .live _ => ⟨[], [], [], [], [], []⟩
  | .nop => ⟨[], [], [], [], [], []⟩
  | .mark _ => ⟨[], [], [], [], [], []⟩
  | .launch a => ⟨[], [], srun a 1, [], [], []⟩
  | .evsig _ => ⟨[], [], [], [], [], []⟩
  | .csrr d _ => ⟨[], [], [], srun d 1, [], []⟩
  | .csrw _ a => ⟨[], [], ssrcRegs a, [], [], []⟩
  | .handoverComplete _ _ => ⟨[], [], [], [], [], []⟩
  | .emberRejoin _ => ⟨[], [], [], [], [], []⟩
  | .gridStepClose _ => ⟨[], [], [], [], [], []⟩
  | .groupStepClose _ => ⟨[], [], [], [], [], []⟩
  | .stepWatchdog _ _ => ⟨[], [], [], [], [], []⟩
  | .hangWatchdog _ => ⟨[], [], [], [], [], []⟩
  | .rejoinTimeout _ => ⟨[], [], [], [], [], []⟩
  | .queueDoorbell _ _ _ _ => ⟨[], [], [], [], [], []⟩
  | .eventClearDoorbell _ _ _ => ⟨[], [], [], [], [], []⟩
  | .packetTake => ⟨[], [], [], [], [], []⟩
  | .gridPlace => ⟨[], [], [], [], [], []⟩
  | .groupPlaceDeferred => ⟨[], [], [], [], [], []⟩
  | .gridComplete _ => ⟨[], [], [], [], [], []⟩
  | .ctxCreate _ _ => ⟨[], [], [], [], [], []⟩
  | .ctxDestroy _ _ => ⟨[], [], [], [], [], []⟩
  | .queueSet _ _ => ⟨[], [], [], [], [], []⟩
  | .preempt _ _ => ⟨[], [], [], [], [], []⟩
  | .saveBegin _ => ⟨[], [], [], [], [], []⟩
  | .saveDone _ => ⟨[], [], [], [], [], []⟩
  | .pretmoExpiry _ => ⟨[], [], [], [], [], []⟩
  | .cpytmoExpiry _ => ⟨[], [], [], [], [], []⟩
  | .savetmoExpiry _ => ⟨[], [], [], [], [], []⟩
  | .restore _ _ => ⟨[], [], [], [], [], []⟩
  | .restoreStart _ => ⟨[], [], [], [], [], []⟩
  | .restoreDone _ => ⟨[], [], [], [], [], []⟩
  | .invalidate _ _ => ⟨[], [], [], [], [], []⟩
  | .invalidateComplete _ => ⟨[], [], [], [], [], []⟩
  | .waveResume _ _ => ⟨[], [], [], [], [], []⟩
  | .connDown _ _ => ⟨[], [], [], [], [], []⟩
  | .connUp _ _ => ⟨[], [], [], [], [], []⟩
  | .connSetWl _ _ => ⟨[], [], [], [], [], []⟩
  | .circuitDrained _ _ => ⟨[], [], [], [], [], []⟩
  | .circuitUp _ _ => ⟨[], [], [], [], [], []⟩
  | .powerPstate _ _ => ⟨[], [], [], [], [], []⟩
  | .pstateChangeDone _ => ⟨[], [], [], [], [], []⟩
  | .powerBudget _ _ => ⟨[], [], [], [], [], []⟩
  | .powerIdle _ _ => ⟨[], [], [], [], [], []⟩
  | .cfgDtbase _ _ => ⟨[], [], [], [], [], []⟩
  | .cfgDtsize _ _ => ⟨[], [], [], [], [], []⟩
  | .cfgRlbase _ _ => ⟨[], [], [], [], [], []⟩
  | .cfgRlsize _ _ => ⟨[], [], [], [], [], []⟩
  | .cfgElbase _ _ => ⟨[], [], [], [], [], []⟩
  | .cfgElsize _ _ => ⟨[], [], [], [], [], []⟩
  | .cfgCpytmo _ _ => ⟨[], [], [], [], [], []⟩
  | .cfgSavetmo _ _ => ⟨[], [], [], [], [], []⟩
  | .cfgPretmo _ _ => ⟨[], [], [], [], [], []⟩
  | .cfgCxltmo _ _ => ⟨[], [], [], [], [], []⟩
  | .cfgPeertmo _ _ => ⟨[], [], [], [], [], []⟩
  | .cfgActmax _ _ => ⟨[], [], [], [], [], []⟩
  | .cfgSteplimit _ _ => ⟨[], [], [], [], [], []⟩
  | .cfgHanglimit _ _ => ⟨[], [], [], [], [], []⟩
  | .cfgCtxcfg _ _ => ⟨[], [], [], [], [], []⟩
  | .cfgTba _ _ => ⟨[], [], [], [], [], []⟩
  | .cfgFpolicy _ _ => ⟨[], [], [], [], [], []⟩
  | .countsRead _ _ => ⟨[], [], [], [], [], []⟩
  | .dieReset _ _ => ⟨[], [], [], [], [], []⟩
  | .functionLevelReset _ => ⟨[], [], [], [], [], []⟩
  | .moduleReset _ _ => ⟨[], [], [], [], [], []⟩
  | .notifySet _ _ => ⟨[], [], [], [], [], []⟩
  | .inboxSet _ _ => ⟨[], [], [], [], [], []⟩
  | .peerId _ _ => ⟨[], [], [], [], [], []⟩
  | .flashWrite _ _ => ⟨[], [], [], [], [], []⟩
  | .bar0WriteOther _ _ _ => ⟨[], [], [], [], [], []⟩
  | .hostMemoryRequest _ _ _ _ => ⟨[], [], [], [], [], []⟩
  | .peerLineArrives _ _ _ => ⟨[], [], [], [], [], []⟩
  | .peerLineAck _ _ _ => ⟨[], [], [], [], [], []⟩
  | .peerLineTimeout _ _ _ => ⟨[], [], [], [], [], []⟩
  | .cxlTimeout _ _ => ⟨[], [], [], [], [], []⟩
  | .cxlLinkDown _ => ⟨[], [], [], [], [], []⟩
  | .pageWalk _ _ _ => ⟨[], [], [], [], [], []⟩
  | .pinFadePeriod _ _ => ⟨[], [], [], [], [], []⟩
  | .hbmAccess _ _ _ _ => ⟨[], [], [], [], [], []⟩
  | .hbmRefresh _ _ _ => ⟨[], [], [], [], [], []⟩
  | .retryReissue _ _ => ⟨[], [], [], [], [], []⟩
  | .dieTrip _ _ => ⟨[], [], [], [], [], []⟩
  | .flueDieTrip _ _ => ⟨[], [], [], [], [], []⟩
  | .powerOn => ⟨[], [], [], [], [], []⟩
  | .powerGoodTimeout => ⟨[], [], [], [], [], []⟩
  | .powerGood => ⟨[], [], [], [], [], []⟩
  | .cxlLinkUp _ => ⟨[], [], [], [], [], []⟩
  | .peerLinkPortDown _ => ⟨[], [], [], [], [], []⟩
  | .peerLinkPortUp _ => ⟨[], [], [], [], [], []⟩
  | .tdispStateChange _ _ => ⟨[], [], [], [], [], []⟩
  | .ideStreamKeyed _ => ⟨[], [], [], [], [], []⟩
  | .unknownCommandCode _ _ => ⟨[], [], [], [], [], []⟩
  | .cmddbWriteWhileBusy _ => ⟨[], [], [], [], [], []⟩
  | .pauseEnd _ => ⟨[], [], [], [], [], []⟩
  | .refreshEnd _ _ => ⟨[], [], [], [], [], []⟩

/-- The engine class of an instruction (05 Table 5.9); none for an event. -/
def engineOf (i : Instr) : Option Nat := (encodeFields i).bind fun f => opcodeClass f.opc.toNat

/-- QSEL of a flag setter (05 R66). -/
def qselOf : Instr → Option Bool
  | .ld _ _ _ _ q _ _ _ _ => some q
  | .ldu _ _ _ _ q _ _ _ => some q
  | .stf _ _ _ q _ _ _ _ _ => some q
  | .mmip q _ _ _ _ => some q
  | .mmop q _ _ _ _ => some q
  | .mmrw q _ _ _ => some q
  | .mmldb q _ => some q
  | .mmzero q _ => some q
  | .mmlda _ q _ _ => some q
  | .mmdrain _ _ _ q _ _ _ _ => some q
  | .vqlut _ q _ => some q
  | .spdg q _ _ _ _ => some q
  | .fbrd _ q _ _ => some q
  | _ => none

/-! ## Checks before an instruction's own traps (05 R87) -/

/-- An instance outside the range that the launch gave the wave (03 R32, R33). -/
def Uses.outside (u : Uses) (d : KDesc) : Bool :=
  (u.vr ++ u.vw).any (fun r => decide (d.vregs * 8 ≤ r)) || (u.sr ++ u.sw).any (fun r => decide (d.sregs * 8 ≤ r))
    || u.a.any (fun r => decide (d.accs ≤ r)) || u.t.any (fun r => decide (d.tiles ≤ r))

/-- RESERVED_ENC for a range, and for a QSEL whose flag the header does not mark valid (05 R66). -/
def reservedHere (d : KDesc) (c : Clause) (i : Instr) : Bool :=
  (uses i).outside d ||
    match qselOf i with
    | some q => (c.flag q).isNone
    | none => false

/-- EMBER_ILLEGAL (05 R87, check 3; 03 R35): class 3 or 4, or a write of an s register. -/
def emberIllegal (w : Thread) (i : Instr) : Bool :=
  w.ember.isSome && (engineOf i == some 3 || engineOf i == some 4 || !(uses i).sw.isEmpty)

/-- PRIV (05 R87, check 4): SSET of TRAPPC or FAULTMASK, RTE and CSRW outside handler mode, CSRW to a host-owned register
in either mode, a STEP in handler mode (03 R39, 08 R187, R196, 19 R307). -/
def privHere (w : Thread) (i : Instr) : Bool :=
  match i with
  | .sset r _ => !w.handler && (r == .trappc || r == .faultmask)
  | .rte => !w.handler
  | .csrw r _ => !w.handler || !(r == .tsp || r == .tscratch)
  | .stepw => w.handler
  | .stepg => w.handler
  | _ => false

/-- HAZARD (05 R67): a register that the instruction reads or writes is pending and WAIT does not cover its flag. -/
def hazardHere (w : Thread) (c : Clause) (i : Instr) : Bool :=
  ((uses i).vr ++ (uses i).vw).any (w.pendingV c) || ((uses i).sr ++ (uses i).sw).any (w.pendingS c)

/-- The context is STRICT (08 Table 8.5). -/
def State.strict (s : State) (c : Nat) : Bool :=
  match s.context? c with
  | some x => x.ctxcfg.getLsbD 0
  | none => false

/-- Lanes of a path in which a v register that the instruction reads cannot be corrected. -/
def badLanes (w : Thread) (e : Entry) (i : Instr) : Mask :=
  maskOf ((lanesOf e.mask).filter fun l => (uses i).vr.any fun r => w.badV.contains (vix r l))

/-- An s register that the instruction reads cannot be corrected. -/
def badScalar (w : Thread) (i : Instr) : Option Nat := (uses i).sr.find? fun r => w.badS.contains r

/-- MEMERR of a STRICT context at the instruction that reads a lost register word (23 Table 23.1). -/
def State.lostRegister (s : State) (w : Thread) (e : Entry) (i : Instr) : Option TrapInfo :=
  if w.badV.isEmpty && w.badS.isEmpty then none
  else if !s.strict w.ctx then none
  else if badLanes w e i ≠ 0#128 then some ⟨.memerr, 0#64, badLanes w e i⟩
  else (badScalar w i).map fun _ => ⟨.memerr, 0#64, e.mask⟩

/-- The counts and records of the lost register words that an instruction reads (23 R351). -/
def State.recordLost (s : State) (w : Thread) (e : Entry) (i : Instr) : State :=
  let m := badLanes w e i
  let s := if m ≠ 0#128 then
      s.uncorrected w.die 6 (BitVec.ofNat 64 (((uses i).vr.find? fun r => (lanesOf m).any fun l => w.badV.contains (vix r l)).getD 0))
        e.gstep (s.gkey w (lowestLane m)) (laneCount m) w.ctx
    else s
  match badScalar w i with
  | some r => s.uncorrected w.die 11 (BitVec.ofNat 64 (0x100 + r)) e.gstep 0 1 w.ctx
  | none => s

/-- In a plain context a lost register word becomes the zero it reads as, with its record (23 R351). -/
def State.reportLost (s : State) (t : Nat) (w : Thread) (e : Entry) (i : Instr) : State :=
  if w.badV.isEmpty && w.badS.isEmpty then s
  else
    let m := badLanes w e i
    (s.recordLost w e i).setThread t { w with
      badV := w.badV.filter fun k => !((uses i).vr.contains (k / 128) && m.getLsbD (k % 128))
      badS := w.badS.filter fun r => !(uses i).sr.contains r
      v := tsets 0#32 w.v ((w.badV.filter fun k => (uses i).vr.contains (k / 128) && m.getLsbD (k % 128)).map fun k => (k, 0#32))
      s := tsets 0#64 w.s ((w.badS.filter fun r => (uses i).sr.contains r).map fun r => (r, 0#64)) }

/-- The first of checks 2 to 5 that fails, and the lost register words. -/
def State.issueTrap (s : State) (w : Thread) (e : Entry) (c : Clause) (i : Instr) : Option TrapInfo :=
  match s.grid? w.grid with
  | none => none
  | some g =>
    if reservedHere g.desc c i then some ⟨.reservedEnc, 0#64, e.mask⟩
    else if emberIllegal w i then some ⟨.emberIllegal, 0#64, e.mask⟩
    else if privHere w i then some ⟨.priv, 0#64, e.mask⟩
    else if hazardHere w c i then some ⟨.hazard, 0#64, e.mask⟩
    else s.lostRegister w e i

/-! ## Ends of an instruction -/

/-- The outcome of a step of this machine. -/
abbrev Out := Host.Outcome State Fault Refusal

/-- Address of the instruction at the clause's position. -/
def Clause.here (c : Clause) : DWord := c.hdr + BitVec.ofNat 64 (8 * (c.ix + 1))

/-- The thread past its instruction: the next position, or no clause after the last. -/
def Thread.advance (w : Thread) : Thread :=
  { w with clause := w.clause.bind fun c => if c.ix < c.cnt then some { c with ix := c.ix + 1 } else none
           ember := w.ember.map fun e => { e with atStepg := false } }

/-- An instruction retired: the hang watchdog's clock, and the counts of the step watchdog and of REJOIN in deterministic
mode (10 R238, R245, R246). -/
def State.countRetire (s : State) (w : Thread) (e : Entry) : State :=
  let s := s.modContext w.ctx fun x => { x with lastRetire := s.time }
  match s.grid? w.grid with
  | none => s
  | some g =>
    if !g.pkt.det then s
    else
      let halt := fun (p : Thread → Bool) => s.threads.any fun x => x.2.halted && p x.2
      let gh := halt fun x => x.grid == w.grid
      let wh := halt fun x => x.group == w.group
      let gw := e.gstep == g.closed && !gh && !s.atGridStep w g.closed && s.gridWatched w.grid g
      let ww := fun (p : Group) => e.wstep == p.closed && !wh && !s.atGroupStep w p.closed && s.groupWatched w.group p
      let s := s.modGrid w.grid fun g => if gw then { g with watch := g.watch + 1 } else g
      let s := s.modGroup w.group fun p => if ww p then { p with watch := p.watch + 1 } else p
      match w.ember with
      | some m => s.modThread m.parent fun w => if s.waitsForEmbers w then { w with rejoinCount := w.rejoinCount + 1 } else w
      | none => s

/-- Retire: ICOUNT rises by one (03 R42) and the path goes on to its next instruction or clause. `w` is the thread with
the instruction's own effect. -/
def State.retire (s : State) (t : Nat) (w : Thread) (e : Entry) : State :=
  let s := s.countRetire w e
  let w := w.advance
  let s := s.setPath t w fun e => { e with icnt := e.icnt + 1 }
  if w.clause.isNone then { s with cur := none } else s

/-- Retire with flags raised on the path (02 R30). -/
def State.retireFl (s : State) (t : Nat) (w : Thread) (e : Entry) (f : Fl) : State :=
  let s := s.countRetire w e
  let w := w.advance
  let s := s.setPath t w fun e => { e.raise f with icnt := e.icnt + 1 }
  if w.clause.isNone then { s with cur := none } else s

/-- Retire with a change of the path's own copies: FMT, FPFLAGS, PC, counts. -/
def State.retirePath (s : State) (t : Nat) (w : Thread) (e : Entry) (f : Entry → Entry) : State :=
  let s := s.countRetire w e
  let w := w.advance
  let s := s.setPath t w fun e => f { e with icnt := e.icnt + 1 }
  if w.clause.isNone then { s with cur := none } else s

/-- Trap at the instruction, which has not issued (05 R87), for lanes whose addresses `l` did not translate; a trap waits until
its frame's home is reached (22 R337). -/
def State.trapAt (s : State) (t : Nat) (w : Thread) (c : Clause) (i : TrapInfo) (l : List (Nat × DWord)) : State :=
  if s.trapReached w i.cause then s.takeTrapAt t w i c.here c.hdr l else s.stallHere t w

/-- Trap at the instruction. -/
def State.trapHere (s : State) (t : Nat) (w : Thread) (c : Clause) (i : TrapInfo) : State :=
  s.trapAt t w c i [(lowestLane i.mask, i.addr)]

/-- Trap at the instruction, where `s'` is `s` with what the reads that found the trap bring about; while the trap waits for its frame
the reads have not been made. -/
def State.trapOver (s s' : State) (t : Nat) (w : Thread) (c : Clause) (i : TrapInfo) : State :=
  if s.trapReached w i.cause then s'.takeTrap t w i c.here c.hdr else s.stallHere t w

/-- A trap of the checks before an instruction issues; MEMERR for a lost register word comes with its count and its record (23
R351). -/
def State.trapIssue (s : State) (t : Nat) (w : Thread) (e : Entry) (c : Clause) (i : Instr) (k : TrapInfo) : State :=
  s.trapOver (if k.cause = .memerr then s.recordLost w e i else s) t w c k

/-- An instruction of the current thread: the checks of 05 R87, then `k` with the thread, its path and its clause. -/
def issue (i : Instr) (s : State) (k : State → Nat → Thread → Entry → Clause → Out) : Out :=
  match s.cur with
  | none => .fault .noThread
  | some t =>
    match s.thread? t with
    | none => .fault .noThread
    | some w =>
      match s.path? w, w.clause with
      | some e, some c =>
        match s.issueTrap w e c i with
        | some tr => .next (s.trapIssue t w e c i tr)
        | none =>
          let s := s.reportLost t w e i
          match s.thread? t with
          | some w => k s t w e c
          | none => .fault .noThread
      | _, _ => .fault .noThread

/-! ## Step rules of shared reads and STEPs (07 R125, R143) -/

/-- A shared read of global or window space waits for the close of the previous grid step. -/
def State.gridReadWaits (s : State) (w : Thread) (e : Entry) : Bool :=
  match s.grid? w.grid with
  | some g => g.desc.stepping && g.closed != e.gstep
  | none => false

/-- A read of stash space waits for the close of the previous group step. -/
def State.groupReadWaits (s : State) (w : Thread) (e : Entry) : Bool :=
  match s.group? w.group with
  | some p => p.closed != e.wstep
  | none => false

/-! ## Committed memory as a load finds it -/

/-- Record the lost words of a read that is no load: of code, of a table, of a packet (23 R351). `lane` is the lowest lane
concerned. -/
def State.noteLost (s : State) (w : Thread) (step : Word) (lane : Nat) (va : DWord) (pa n : Nat) : State :=
  s.noteLostAt w.die w.ctx step (s.gkey w lane) va pa n

/-- What a read of code, of a table, of a packet or of a window's descriptor brings about besides its value: the records of lost
words, the touch of pinned ranges (22 R342), and the end of older copies of its lines in the thread's L1 (11 R263; log 99). DEDUCED:
such a read reads a lost word as 0, logs it and owes no MEMERR (log 82). -/
def State.noteRead (s : State) (w : Thread) (e : Entry) (a : DWord) (n : Nat) : State :=
  match s.access w.mmu w.ctx a .read with
  | .ok (pa, _) => ((s.noteLost w e.gstep (lowestLane e.mask % 128) a pa n).touched w [(a.toNat, n)]).readPast w a pa n
  | .error _ => s

/-- The control state of a thread that cannot be read faults its context (23 Table 23.1). -/
def State.ctlLost (s : State) (t : Nat) (w : Thread) : State :=
  (s.uncorrected w.die 13 0#64 w.gcnt (s.gkey w w.frameLane) 1 w.ctx).faultBy t { w with badCtl := false }

/-- An access is STRICT by its context or its page (19 R317). -/
def State.strictAt (s : State) (w : Thread) (leaf : DWord) : Bool := s.strict w.ctx || leafStrict leaf

end Sys2Proof.Machine
end

