-- ==== Sys2Proof/Machine/Fetch.lean ====
section
/-! DEFINITION. Fetching an instruction of a clause (05 R61, R64, R65, R87), starting a clause (05 R61 to R67, 08 R171,
23 R355), and what the passing of time changes (03 R42, 10 R238, R245). -/

namespace Sys2Proof.Machine

/-- The 64-bit word at a virtual address of a thread's context, or why it cannot be read. -/
def State.codeWord (s : State) (w : Thread) (a : DWord) : Except Cause DWord :=
  match s.access w.mmu w.ctx a .read with
  | .ok (pa, _) => .ok (s.clean64 pa)
  | .error c => .error c

/-- What stands at a clause's position: an instruction of the clause's class, the trap it raises, or a word that its die
cannot reach yet. -/
inductive Fetched where
  | instr (i : Instr)
  | trap (i : TrapInfo)
  | wait
deriving DecidableEq, Repr

/-- A word at position `ix` of a clause of class `eng` that holds `cnt + 1` instructions (05 R61, R64, R65, R87). -/
def fetchedWord (w : DWord) (eng ix cnt : Nat) (m : Mask) : Fetched :=
  let o := bits w.toNat 55 9
  match opcodeClass o with
  | none => .trap ⟨.illegalOp, 0#64, m⟩
  | some k =>
    if k ≠ eng then .trap ⟨.illegalOp, 0#64, m⟩
    else if endsClause o ∧ ix ≠ cnt then .trap ⟨.reservedEnc, 0#64, m⟩
    else match decodeWord w with
      | .ok i => .instr i
      | .error _ => .trap ⟨.reservedEnc, 0#64, m⟩

/-- Fetch the instruction at the clause's position; a fetch waits for the circuit that it needs (22 R337). -/
def State.fetch (s : State) (w : Thread) (e : Entry) (c : Clause) : Fetched :=
  if !s.pageReached w.mmu w.ctx c.here then .wait
  else match s.codeWord w c.here with
  | .error k => .trap ⟨k, c.here, e.mask⟩
  | .ok x => fetchedWord x c.eng c.ix c.cnt e.mask

/-! ## Which thread may start a clause (18 R300) -/

/-- An ember lane is held while its wave is in handler mode (10 R239). -/
def State.emberHeld (s : State) (w : Thread) : Bool :=
  match w.ember with
  | none => false
  | some e => e.phase != .running || (match s.thread? e.parent with
    | some p => p.handler
    | none => false)

/-- The thread's grid has started, and its context runs. -/
def State.mayRun (s : State) (w : Thread) : Bool :=
  (match s.grid? w.grid with
    | some g => g.started
    | none => false)
  && (match s.context? w.ctx with
    | some x => x.status == .running
    | none => false)
  && (s.die w.die).live

/-- A pre-emption holds the thread: its path has arrived at the grid step that the grid stops at, or its save is under way
(19 R310, R311). A thread in handler mode runs until its RTE. -/
def State.saveHeld (s : State) (w : Thread) : Bool :=
  !w.handler &&
    ((match s.grid? w.grid, s.path? w with
      | some g, some e => g.stopAt.any fun b => passed b e.gstep
      | _, _ => false)
    || match s.context? w.ctx with
      | some x => x.saving.any fun v => v.begun && v.grids.contains w.grid
      | none => false)

/-- At a clause boundary with a path to run, neither halted nor stopped nor held. -/
def State.atBoundary (s : State) (w : Thread) : Bool :=
  w.clause.isNone && !w.halted && !w.stopped && !w.ended && (s.path? w).isSome && s.mayRun w && !s.emberHeld w
    && !s.saveHeld w

/-- The pipe of a wave, the ember core of an ejected lane. -/
def Thread.lineOf (w : Thread) : Nat × Nat :=
  match w.ember with
  | none => (0, w.home * 4 + w.pipe)
  | some e => (1, e.core)

/-- A thread in the middle of a clause that is free to go on. -/
def Thread.inClause (w : Thread) : Bool := w.clause.isSome && !w.stalled && !w.halted && !w.stopped

/-- A thread in the middle of a clause that goes on: an ember lane whose wave is in handler mode is held (10 R239). -/
def State.goesOn (s : State) (w : Thread) : Bool := w.inClause && !s.emberHeld w

/-- Another wave of the pipe is in the middle of a clause (05 R66). The contexts of an ember core issue in turn, each in its
own clause (10 R242). -/
def State.pipeBusy (s : State) (t : Nat) (w : Thread) : Bool :=
  w.ember.isNone && s.threads.any fun x => x.1 != t && x.2.inClause && x.2.lineOf == w.lineOf

/-- WAIT of the clause that a path stands at; none where no header can be read there, or one that traps (05 R63). -/
def State.nextWait (s : State) (w : Thread) (e : Entry) : Option (BitVec 12) :=
  match s.codeWord w e.addr with
  | .ok x => if isHeader x && (Header.ofWord x).ok then some (Header.ofWord x).wait else none
  | .error _ => none

/-- The clause's WAIT flags are clear, or its start traps or parks. -/
def State.flagsClear (s : State) (t : Nat) (w : Thread) (e : Entry) : Bool :=
  match s.nextWait w e with
  | some m => w.waitHazard e m || !s.waitBusy t w m
  | none => true

/-- PRETMO has expired for the thread's grid: it stops at its next clause boundary (19 R310). -/
def State.stopsNow (s : State) (w : Thread) : Bool :=
  match s.grid? w.grid with
  | some g => g.stopNow
  | none => false

/-- What a thread does at a clause boundary without testing a WAIT: it parks at its join, takes a trap that concerns the wave,
or stops. -/
def State.needsNoWait (s : State) (w : Thread) (e : Entry) : Bool :=
  e.pc == e.join || (!w.handler && (s.stopsNow w || w.owed.any fun o => o.due == .wave))

/-- The homes of the thread's spilled entries, which a change of its stack may refill, are reached (22 R337). -/
def State.refillReached (s : State) (w : Thread) : Bool :=
  (List.range w.spilled).all fun j => s.pageReached w.mmu w.ctx (s.spillAddr w (w.spillBase + j))

/-- A wave in which no path runs and which owes a trap as a whole that can be taken now (10 R243). -/
def State.trapWaits (s : State) (w : Thread) : Bool :=
  w.ember.isNone && !w.handler && !w.ended && !w.halted && !w.stopped && (s.path? w).isNone && s.mayRun w && !s.saveHeld w
    && (firstOwed (w.owed.filter fun o => o.due == .wave)).any fun o => s.trapReached w o.info.cause

/-- Ready to start a clause (18 R300), or to take a trap on a trap path. -/
def State.isReady (s : State) (t : Nat) (w : Thread) : Bool :=
  s.trapWaits w || (s.atBoundary w && match s.path? w with
    | some e => (s.needsNoWait w e && (e.pc != e.join || s.refillReached w)) || (s.pageReached w.mmu w.ctx e.addr && s.flagsClear t w e)
    | none => false)

/-! ## Owed traps (23 R355) -/

/-- A trap that a clause whose WAIT is `m` takes: one owed for a flag it waits on (07 R126, R128, 09 R201). -/
def Owed.atWait (o : Owed) (m : BitVec 12) : Bool :=
  match o.due with
  | .flag q => m.getLsbD q
  | .grate q => m.getLsbD q
  | .wave => false
  | .cwait _ => false
  | .step _ _ => false

/-! ## CLAUSE_START -/

/-- An ember lane that reaches its join begins to rejoin (10 R237). -/
def State.beginRejoin (s : State) (t : Nat) (w : Thread) : State :=
  { s.setThread t { w with ember := w.ember.map (fun e => { e with phase := .rejoining }), clause := none } with cur := none }

/-- A path at its JOIN parks, and select() follows (08 R171, R172). -/
def State.park (s : State) (t : Nat) (w : Thread) : State :=
  if w.ember.isSome then s.beginRejoin t w
  else { s.reselect t { w with clause := none } (parkRunning (s.entries w)) with cur := none }

/-! ## Time -/

/-- Some thread of the domain is halted: its step watchdog does not count (19 R309). -/
def State.anyHalted (s : State) (p : Thread → Bool) : Bool := s.threads.any fun x => x.2.halted && p x.2

/-- The normal-mode counts of a wave after `n` clocks of its die: the step watchdog's for each step that it holds open,
and REJOIN's (10 R238, R245). The step watchdog does not count for a domain that has a halted lane (19 R309). -/
def State.tickThread (s : State) (t : Nat) (w : Thread) (n : Nat) : Thread :=
  match s.grid? w.grid with
  | some g =>
    if g.pkt.det || w.ended || w.ember.isSome then w
    else
      { w with
        gwatch := if s.holdsOpen t w true && !s.anyHalted (fun x => x.grid == w.grid) then w.gwatch + n else w.gwatch
        wwatch := if s.holdsOpen t w false && !s.anyHalted (fun x => x.group == w.group) then w.wwatch + n else w.wwatch
        rejoinCount := if s.waitsForEmbers w then w.rejoinCount + n else w.rejoinCount }
  | none => w

/-- Single-bit errors are corrected in place, and counted by source (23 R351). -/
def Die.correct (d : Die) : Die :=
  { d with soft := [], corrected := d.soft.foldl (fun t k => tset 0 t k (tget 0 t k + 1)) d.corrected }

/-- A die after n clocks: one that is not clocked counts none. -/
def Die.pass (d : Die) (n : Nat) : Die :=
  if d.mode = .run then { d.correct with clock := d.clock + BitVec.ofNat 64 n } else d.correct

/-- The hang watchdog of a context does not count: a save is under way, or every wave that has not exited is halted (10 R246, 19
R309). -/
def State.hangHeld (s : State) (c : Nat) (x : Context) : Bool :=
  (x.saving.any (·.begun)) || s.threads.all fun y => y.2.ctx != c || y.2.ember.isSome || y.2.ended || y.2.halted

/-- The contexts after n nanoseconds: time for which the hang watchdog does not count is no time since the last retirement. -/
def State.tickContexts (s : State) (n : Nat) : List (Nat × Context) :=
  s.contexts.map fun x => if s.hangHeld x.1 x.2 then (x.1, { x.2 with lastRetire := x.2.lastRetire + BitVec.ofNat 64 n }) else x

/-- One step of the machine takes a free amount of time: CLOCK of each die that is clocked, TIME, and the normal-mode
counts (03 R42, log 2). -/
def State.elapse (s : State) : State :=
  { s with
    tick := s.tick + 1
    time := s.time + BitVec.ofNat 64 (Config.freeNanos s.tick)
    contexts := s.tickContexts (Config.freeNanos s.tick)
    dies := (List.range 16).map fun d => (s.die d).pass (Config.freeClocks s.tick d)
    threads := s.threads.map fun x => (x.1, s.tickThread x.1 x.2 (Config.freeClocks s.tick x.2.die)) }

/-- Mark the threads that are ready, with the moment they became so. -/
def State.markReady (s : State) : State :=
  { s with threads := s.threads.map fun (x : Nat × Thread) =>
      if s.isReady x.1 x.2 then (x.1, { x.2 with ready := x.2.ready <|> some s.tick }) else (x.1, { x.2 with ready := none }) }

/-- An event may end a stall. -/
def State.unstall (s : State) : State := { s with threads := s.threads.map fun x => (x.1, { x.2 with stalled := false }) }

end Sys2Proof.Machine
end

