-- ==== Sys2Proof/Machine/Float.lean ====
section
/-! DEFINITION. Floating-point formats, rounding, conversions and order-independent sums (02 R13 to R31) as functions of
bit patterns. A finite value is an exact number m x 2^e; a result is rounded once. -/

namespace Sys2Proof.Machine

/-! ## Formats (02 Table 2.2) -/

/-- A format: exponent bits, mantissa bits, bias, code of the largest finite magnitude, and whether the exponent of all
ones holds infinity and NaN. -/
structure Fmt where
  eb : Nat
  mb : Nat
  bias : Nat
  top : Nat
  inf : Bool
deriving DecidableEq, Repr

def fp32 : Fmt := ⟨8, 23, 127, 0x7F7FFFFF, true⟩
def fp16 : Fmt := ⟨5, 10, 15, 0x7BFF, true⟩
def bf16 : Fmt := ⟨8, 7, 127, 0x7F7F, true⟩
def e4m3 : Fmt := ⟨4, 3, 7, 0x7E, false⟩
def e5m2 : Fmt := ⟨5, 2, 15, 0x7B, true⟩
def e2m1 : Fmt := ⟨2, 1, 1, 0x7, false⟩

def Fmt.width (f : Fmt) : Nat := 1 + f.eb + f.mb
/-- The sign bit, in place. -/
def Fmt.sign (f : Fmt) (neg : Bool) : Nat := if neg then 2 ^ (f.eb + f.mb) else 0
/-- The code of infinity. -/
def Fmt.infCode (f : Fmt) : Nat := (2 ^ f.eb - 1) * 2 ^ f.mb
/-- The exponent of the unit in the last place of subnormal numbers. -/
def Fmt.low (f : Fmt) : Int := 1 - f.bias - f.mb
/-- Largest finite magnitude as a significand and the exponent of its last place. -/
def Fmt.topM (f : Fmt) : Nat := 2 ^ f.mb + f.top % 2 ^ f.mb
def Fmt.topE (f : Fmt) : Int := (f.top / 2 ^ f.mb : Nat) - (f.bias + f.mb : Nat)

/-- A value. A NaN keeps its sign, whether it signals, and its mantissa aligned left in 23 bits. -/
inductive FVal where
  | nan (neg sig : Bool) (pay : Nat)
  | inf (neg : Bool)
  | fin (neg : Bool) (m : Nat) (e : Int)
deriving DecidableEq, Repr

/-- The value of a code (02 R13, R15). The only NaN of E4M3 is quiet and has no payload (02 R17). -/
def Fmt.decode (f : Fmt) (x : Nat) : FVal :=
  let neg := x.testBit (f.eb + f.mb)
  let mag := x % 2 ^ (f.eb + f.mb)
  let e := mag / 2 ^ f.mb
  let m := mag % 2 ^ f.mb
  if mag ≤ f.top then
    (if e = 0 then .fin neg m f.low else .fin neg (2 ^ f.mb + m) ((e : Int) - 1 + f.low))
  else if !f.inf then .nan neg false 0x400000
  else if m = 0 then .inf neg
  else .nan neg (decide (m < 2 ^ (f.mb - 1))) (m * 2 ^ (23 - f.mb))

/-- The default NaN (02 Table 2.3). -/
def Fmt.defaultNan (f : Fmt) : Nat := if f.inf then f.infCode + 2 ^ (f.mb - 1) else 0x7F

/-- The quiet NaN with a sign and the top bits of a payload (02 R15, R17). -/
def Fmt.quiet (f : Fmt) (neg : Bool) (pay : Nat) : Nat :=
  f.sign neg + (f.infCode ||| 2 ^ (f.mb - 1) ||| pay / 2 ^ (23 - f.mb))

def FVal.isNan : FVal → Bool
  | .nan _ _ _ => true
  | .inf _ => false
  | .fin _ _ _ => false
def FVal.signals : FVal → Bool
  | .nan _ s _ => s
  | .inf _ => false
  | .fin _ _ _ => false
def FVal.isZero : FVal → Bool
  | .nan _ _ _ => false
  | .inf _ => false
  | .fin _ m _ => m == 0
def FVal.neg : FVal → Bool
  | .nan n _ _ => n
  | .inf n => n
  | .fin n _ _ => n

/-! ## Rounding (02 R21 to R23, R30) -/

/-- A magnitude in [m, m + 1) x 2^e, above m x 2^e exactly when `st`. -/
structure Mag where
  m : Nat
  e : Int
  st : Bool
deriving DecidableEq, Repr

/-- floor(log2) of a magnitude with m not 0. -/
def Mag.exp (v : Mag) : Int := v.e + Nat.log2 v.m

/-- A magnitude cut at units of 2^q: whole units, the 32 bits below, the rest against half a unit (0 below, 1 level, 2
above), and whether anything was cut off. -/
structure Cut where
  k : Nat
  f : Nat
  half : Nat
  inx : Bool
deriving DecidableEq, Repr

def Mag.cut (v : Mag) (q : Int) : Cut :=
  if q ≤ v.e then ⟨v.m * 2 ^ (v.e - q).toNat, 0, 0, v.st⟩
  else
    let d := (q - v.e).toNat
    let low := v.m % 2 ^ d
    ⟨v.m / 2 ^ d, low * 2 ^ 32 / 2 ^ d,
     if 2 ^ d < 2 * low || (2 ^ d == 2 * low && v.st) then 2 else if 2 ^ d = 2 * low then 1 else 0, low != 0 || v.st⟩

/-- The magnitude is rounded up by a unit in the last place (02 Table 2.5, R23); `r` is the value of srbits. -/
def roundsUp (mode : Rnd) (neg : Bool) (r : Nat) (c : Cut) : Bool :=
  match mode with
  | .rne => c.half == 2 || (c.half == 1 && c.k % 2 == 1)
  | .rz => false
  | .ru => c.inx && !neg
  | .rd => c.inx && neg
  | .sr => decide (2 ^ 32 ≤ c.f + r)

def Cut.round (c : Cut) (mode : Rnd) (neg : Bool) (r : Nat) : Nat := if roundsUp mode neg r c then c.k + 1 else c.k

/-- The magnitude overflows the format (02 R22): under RNE from the largest finite value plus half a unit in the last
place, else above the largest finite value. -/
def Fmt.overflows (f : Fmt) (mode : Rnd) (v : Mag) : Bool :=
  if mode = .rne then decide (2 * f.topM + 1 ≤ (v.cut (f.topE - 1)).k)
  else
    let c := v.cut f.topE
    decide (f.topM < c.k) || (c.k == f.topM && c.inx)

/-- The code that an overflow delivers (02 Table 2.6). -/
def Fmt.overflowCode (f : Fmt) (mode : Rnd) (neg : Bool) : Nat :=
  if !f.inf then f.top
  else match mode with
    | .rne => f.infCode
    | .sr => f.infCode
    | .rz => f.top
    | .ru => if neg then f.top else f.infCode
    | .rd => if neg then f.infCode else f.top

/-- Tiny: below the smallest normal after rounding with no lower bound to the exponent (02 R30). -/
def Fmt.tiny (f : Fmt) (mode : Rnd) (neg : Bool) (r : Nat) (v : Mag) : Bool :=
  let q := v.exp - f.mb
  decide (q < f.low) && decide ((v.cut q).round mode neg r < 2 ^ (f.low - q).toNat * 2 ^ f.mb)

/-- A code with its flags. -/
abbrev FRes := Nat × Fl

/-- A magnitude with a sign, rounded once. A magnitude of 0 gives the zero of the sign. -/
def Fmt.round (f : Fmt) (mode : Rnd) (r : Nat) (neg : Bool) (v : Mag) : FRes :=
  if v.m = 0 then (f.sign neg, flNone)
  else if f.overflows mode v then (f.sign neg + f.overflowCode mode neg, flOf ||| flNx)
  else
    let q := max (v.exp - f.mb) f.low
    let c := v.cut q
    let code := (q - f.low).toNat * 2 ^ f.mb + c.round mode neg r
    (f.sign neg + code, if c.inx then (if f.tiny mode neg r v then flUf ||| flNx else flNx) else flNone)

/-! ## Stochastic bits (02 R23) -/

def srMix (z : DWord) : DWord :=
  let z := (z ^^^ (z >>> 30)) * 0xBF58476D1CE4E5B9#64
  let z := (z ^^^ (z >>> 27)) * 0x94D049BB133111EB#64
  z ^^^ (z >>> 31)

/-- srbits (02 R23), as a number below 2^32. -/
def srBits (seed : DWord) (gkey : Nat) (stepno : Word) (icount : DWord) (e : Nat) : Nat :=
  let x := srMix (seed ^^^ ((BitVec.ofNat 64 gkey <<< 32) ||| stepno.setWidth 64)) ^^^ icount
  (srMix (x + BitVec.ofNat 64 e * 0x9E3779B97F4A7C15#64)).toNat / 2 ^ 32

/-! ## Exact sums -/

/-- A signed number in units of 2^e. -/
def scaled (neg : Bool) (m : Nat) (e q : Int) : Int :=
  let x : Int := (m * 2 ^ (e - q).toNat : Nat)
  if neg then -x else x

/-- A sum of two finite numbers, rounded once: an exact zero of addends of opposite signs is +0, or -0 under RD (06 R105). -/
def Fmt.addFin (f : Fmt) (mode : Rnd) (r : Nat) (n1 : Bool) (m1 : Nat) (e1 : Int) (n2 : Bool) (m2 : Nat) (e2 : Int) :
    FRes :=
  let q := min e1 e2
  let x := scaled n1 m1 e1 q + scaled n2 m2 e2 q
  if x = 0 then (f.sign (if n1 = n2 then n1 else mode == .rd), flNone)
  else f.round mode r (decide (x < 0)) ⟨x.natAbs, q, false⟩

/-- The result of an operation with a NaN operand (02 R16): the first NaN, quiet, invalid when any signals. -/
def Fmt.nanOf (f : Fmt) (l : List FVal) : Option FRes :=
  (l.find? (·.isNan)).map fun x =>
    match x with
    | .nan n _ p => (f.quiet n p, if l.any (·.signals) then flNv else flNone)
    | .inf _ => (0, flNone)
    | .fin _ _ _ => (0, flNone)

/-- An invalid operation (02 R16). -/
def Fmt.invalid (f : Fmt) : FRes := (f.defaultNan, flNv)

/-- Addition of values that are not NaN. -/
def Fmt.addVal (f : Fmt) (mode : Rnd) (r : Nat) (x y : FVal) : FRes :=
  match x, y with
  | .inf n, .inf k => if n = k then (f.sign n + f.infCode, flNone) else f.invalid
  | .inf n, _ => (f.sign n + f.infCode, flNone)
  | _, .inf n => (f.sign n + f.infCode, flNone)
  | .fin n1 m1 e1, .fin n2 m2 e2 => f.addFin mode r n1 m1 e1 n2 m2 e2
  | .nan _ _ _, _ => f.invalid
  | .fin _ _ _, .nan _ _ _ => f.invalid

/-- The exact product of values that are not NaN: none when it is 0 x infinity. -/
def mulVal (x y : FVal) : Option FVal :=
  match x, y with
  | .inf n, .inf k => some (.inf (n != k))
  | .inf n, .fin k m _ => if m = 0 then none else some (.inf (n != k))
  | .fin k m _, .inf n => if m = 0 then none else some (.inf (n != k))
  | .fin n1 m1 e1, .fin n2 m2 e2 => some (.fin (n1 != n2) (m1 * m2) (e1 + e2))
  | .nan _ _ _, _ => none
  | .fin _ _ _, .nan _ _ _ => none
  | .inf _, .nan _ _ _ => none

/-- Deliver a value in a format. -/
def Fmt.deliver (f : Fmt) (mode : Rnd) (r : Nat) (x : FVal) : FRes :=
  match x with
  | .inf n => (f.sign n + f.infCode, flNone)
  | .fin n m e => f.round mode r n ⟨m, e, false⟩
  | .nan n s p => (f.quiet n p, if s then flNv else flNone)

def Fmt.add (f : Fmt) (mode : Rnd) (r a b : Nat) : FRes :=
  let x := f.decode a
  let y := f.decode b
  (f.nanOf [x, y]).getD (f.addVal mode r x y)

/-- The code with its sign inverted. -/
def Fmt.negate (f : Fmt) (a : Nat) : Nat := a ^^^ 2 ^ (f.eb + f.mb)

/-- a - b: a NaN in b keeps its own sign (06 R105). -/
def Fmt.sub (f : Fmt) (mode : Rnd) (r a b : Nat) : FRes :=
  let x := f.decode a
  (f.nanOf [x, f.decode b]).getD (f.addVal mode r x (f.decode (f.negate b)))

def Fmt.mul (f : Fmt) (mode : Rnd) (r a b : Nat) : FRes :=
  let x := f.decode a
  let y := f.decode b
  (f.nanOf [x, y]).getD (match mulVal x y with
    | some p => f.deliver mode r p
    | none => f.invalid)

/-- a x b + c, the product exact (06 R106). -/
def Fmt.fma (f : Fmt) (mode : Rnd) (r a b c : Nat) : FRes :=
  let x := f.decode a
  let y := f.decode b
  let z := f.decode c
  (f.nanOf [x, y, z]).getD (match mulVal x y with
    | some p => f.addVal mode r p z
    | none => f.invalid)

/-! ## Comparisons (06 R107 to R109) -/

/-- A code that is not NaN as a number ordered like the values, -0 and +0 alike. -/
def Fmt.key (f : Fmt) (a : Nat) : Int :=
  let mag : Int := (a % 2 ^ (f.eb + f.mb) : Nat)
  if a.testBit (f.eb + f.mb) then -mag else mag
/-- As `key`, with -0 below +0. -/
def Fmt.keyZ (f : Fmt) (a : Nat) : Int :=
  let mag : Int := (a % 2 ^ (f.eb + f.mb) : Nat)
  if a.testBit (f.eb + f.mb) then -mag - 1 else mag

/-- VFMIN and VFMAX (06 R107). -/
def fminmax (max : Bool) (a b : Nat) : FRes :=
  let x := fp32.decode a
  let y := fp32.decode b
  let fl := if x.signals || y.signals then flNv else flNone
  match x, y with
  | .nan n _ p, .nan _ _ _ => (fp32.quiet n p, fl)
  | .nan _ _ _, _ => (b, fl)
  | _, .nan _ _ _ => (a, fl)
  | _, _ => (if decide (fp32.keyZ a ≤ fp32.keyZ b) != max then a else b, fl)

/-- VFCMP (06 R108, Table 6.5). -/
def fcmp (c : FCond) (a b : Nat) : Bool × Fl :=
  let x := fp32.decode a
  let y := fp32.decode b
  let un := x.isNan || y.isNan
  let sig := x.signals || y.signals
  let ka := fp32.key a
  let kb := fp32.key b
  match c with
  | .eq => (!un && decide (ka = kb), if sig then flNv else flNone)
  | .ne => (un || decide (ka ≠ kb), if sig then flNv else flNone)
  | .lt => (!un && decide (ka < kb), if un then flNv else flNone)
  | .le => (!un && decide (ka ≤ kb), if un then flNv else flNone)
  | .gt => (!un && decide (kb < ka), if un then flNv else flNone)
  | .ge => (!un && decide (kb ≤ ka), if un then flNv else flNone)
  | .un => (un, if sig then flNv else flNone)
  | .ord => (!un, if sig then flNv else flNone)

/-- VFCLASS (06 Table 6.6). -/
def fclass (a : Nat) : Nat :=
  match fp32.decode a with
  | .nan _ s _ => if s then 1 else 2
  | .inf n => if n then 4 else 512
  | .fin n m _ =>
    let norm := decide (2 ^ 23 ≤ m)
    if n then (if m = 0 then 32 else if norm then 8 else 16) else (if m = 0 then 64 else if norm then 256 else 128)

/-! ## Correctly rounded functions (06 R110) -/

/-- The whole part of a square root below 2^n. -/
def isqrtFrom : Nat → Nat → Nat → Nat
  | 0, _, r => r
  | n + 1, x, r => if (r + 2 ^ n) * (r + 2 ^ n) ≤ x then isqrtFrom n x (r + 2 ^ n) else isqrtFrom n x r
/-- The whole part of the square root of a number below 2^256. -/
def isqrt (x : Nat) : Nat := isqrtFrom 128 x 0

/-- m1 x 2^e1 divided by m2 x 2^e2, with 96 bits more than the quotient of the significands. -/
def divMag (m1 : Nat) (e1 : Int) (m2 : Nat) (e2 : Int) : Mag :=
  ⟨m1 * 2 ^ 96 / m2, e1 - e2 - 96, m1 * 2 ^ 96 % m2 != 0⟩

def fdiv (mode : Rnd) (r a b : Nat) : FRes :=
  let x := fp32.decode a
  let y := fp32.decode b
  (fp32.nanOf [x, y]).getD (match x, y with
    | .inf _, .inf _ => fp32.invalid
    | .inf n, .fin k _ _ => (fp32.sign (n != k) + fp32.infCode, flNone)
    | .fin n _ _, .inf k => (fp32.sign (n != k), flNone)
    | .fin n m1 e1, .fin k m2 e2 =>
      if m2 = 0 then (if m1 = 0 then fp32.invalid else (fp32.sign (n != k) + fp32.infCode, flDz))
      else fp32.round mode r (n != k) (divMag m1 e1 m2 e2)
    | .nan _ _ _, _ => fp32.invalid
    | .inf _, .nan _ _ _ => fp32.invalid
    | .fin _ _ _, .nan _ _ _ => fp32.invalid)

/-- An operation on one operand, its NaN handled. -/
def funary (a : Nat) (f : FVal → FRes) : FRes := (fp32.nanOf [fp32.decode a]).getD (f (fp32.decode a))

/-- The square root of m x 2^e, with e even. -/
def sqrtMag (m : Nat) (e : Int) : Mag :=
  let x := m * 2 ^ 160
  ⟨isqrt x, e / 2 - 80, isqrt x * isqrt x != x⟩

/-- A finite number with an even exponent. -/
def evenExp (m : Nat) (e : Int) : Nat × Int := if e % 2 = 0 then (m, e) else (2 * m, e - 1)

def fsqrt (mode : Rnd) (r a : Nat) : FRes :=
  funary a fun x => match x with
    | .inf n => if n then fp32.invalid else (fp32.infCode, flNone)
    | .fin n m e =>
      if m = 0 then (fp32.sign n, flNone)
      else if n then fp32.invalid
      else
        let (m, e) := evenExp m e
        fp32.round mode r false (sqrtMag m e)
    | .nan _ _ _ => fp32.invalid

/-- 1 / sqrt(m x 2^e), with e even. -/
def rsqMag (m : Nat) (e : Int) : Mag :=
  let q := isqrt (2 ^ 200 / m)
  ⟨q, -(e / 2) - 100, q * q * m != 2 ^ 200⟩

def frsq (mode : Rnd) (r a : Nat) : FRes :=
  funary a fun x => match x with
    | .inf n => if n then fp32.invalid else (0, flNone)
    | .fin n m e =>
      if m = 0 then (fp32.sign n + fp32.infCode, flDz)
      else if n then fp32.invalid
      else
        let (m, e) := evenExp m e
        fp32.round mode r false (rsqMag m e)
    | .nan _ _ _ => fp32.invalid

/-- 1 / a. -/
def frcp (mode : Rnd) (r a : Nat) : FRes := fdiv mode r 0x3F800000 a

/-! The transcendental functions are evaluated in fixed point with 384 fraction bits and cut to 320: a result that is not
exact is irrational, and its first 320 bits decide every rounding (log 16). -/

def piFix : Nat :=
  0x3243f6a8885a308d313198a2e03707344a4093822299f31d0082efa98ec4e6c89452821e638d01377be5466cf34e90c6c
def ln2Fix : Nat :=
  0xb17217f7d1cf79abc9e3b39803f2f6af40f343267298b62d8a0d175b8baafa2be7b876206debac98559552fb4afa1b10

/-- Terms of exp(x) from term k on, x in units of 2^-384. -/
def expTerms (x : Nat) : Nat → Nat → Nat → Nat
  | 0, _, _ => 0
  | n + 1, k, term => term + expTerms x n (k + 1) (term * x / 2 ^ 384 / (k + 1))

/-- 2^f for a fraction f in units of 2^-384. -/
def exp2Fix (f : Nat) : Nat := expTerms (f * ln2Fix / 2 ^ 384) 90 0 (2 ^ 384)

/-- Terms of sin(x), alternating: those of even rank less those of odd rank. -/
def sinTerms (x2 : Nat) : Nat → Nat → Nat → Int
  | 0, _, _ => 0
  | n + 1, k, term => (term : Int) - sinTerms x2 n (k + 1) (term * x2 / 2 ^ 384 / ((2 * k + 2) * (2 * k + 3)))

/-- sin(pi x) for x from 0 to 1/2 in units of 2^-384. -/
def sinPiFix (x : Nat) : Nat :=
  let y := x * piFix / 2 ^ 384
  (sinTerms (y * y / 2 ^ 384) 50 0 y).toNat

/-- Bits of log2 of a number from 1 to 2 in units of 2^-448, by squaring. -/
def log2Bits : Nat → Nat → Nat → Nat
  | 0, _, acc => acc
  | n + 1, y, acc =>
    let z := y * y / 2 ^ 448
    if 2 ^ 449 ≤ z then log2Bits n (z / 2) (2 * acc + 1) else log2Bits n z (2 * acc)

/-- Cut a number with 384 fraction bits to 320. -/
def cut320 (x : Nat) : Mag := ⟨x / 2 ^ 64, -320, true⟩

/-- Whole part and fraction, in units of 2^-384, of m x 2^e; the whole part stays within 4096 of 0. -/
def splitNum (neg : Bool) (m : Nat) (e : Int) : Int × Nat :=
  if 12 ≤ e + Nat.log2 m then (if neg then (-4096, 0) else (4096, 0))
  else
    let x := scaled neg m e (-384)
    (x / 2 ^ 384, (x % 2 ^ 384).toNat)

/-- 2^(m x 2^e) with a sign. -/
def exp2Mag (neg : Bool) (m : Nat) (e : Int) : Mag :=
  let (n, f) := splitNum neg m e
  if f = 0 then ⟨1, n, false⟩ else { cut320 (exp2Fix f) with e := n - 320 }

def fexp2 (mode : Rnd) (r a : Nat) : FRes :=
  funary a fun x => match x with
    | .inf n => (if n then 0 else fp32.infCode, flNone)
    | .fin n m e => if m = 0 then (0x3F800000, flNone) else fp32.round mode r false (exp2Mag n m e)
    | .nan _ _ _ => fp32.invalid

/-- log2 of m x 2^e, with its sign; 160 fraction bits. -/
def log2Val (m : Nat) (e : Int) : Bool × Mag :=
  let x := e + Nat.log2 m
  let f := log2Bits 160 (m * 2 ^ (448 - Nat.log2 m)) 0
  if m = 2 ^ Nat.log2 m then (decide (x < 0), ⟨x.natAbs, 0, false⟩)
  else
    let y : Int := x * 2 ^ 160 + f
    if y < 0 then (true, ⟨y.natAbs - 1, -160, true⟩) else (false, ⟨y.natAbs, -160, true⟩)

def flog2 (mode : Rnd) (r a : Nat) : FRes :=
  funary a fun x => match x with
    | .inf n => if n then fp32.invalid else (fp32.infCode, flNone)
    | .fin n m e =>
      if m = 0 then (fp32.sign true + fp32.infCode, flDz)
      else if n then fp32.invalid
      else
        let (s, v) := log2Val m e
        fp32.round mode r s v
    | .nan _ _ _ => fp32.invalid

/-- m x 2^e modulo 2, in units of 2^-384. -/
def mod2Fix (m : Nat) (e : Int) : Nat := if 1 ≤ e then 0 else m * 2 ^ (e + 384).toNat % 2 ^ 385

/-- sin(pi y) for y from 0 to 2 in units of 2^-384: its sign, and its magnitude, 0 and 1 exact. -/
def sinPiMag (y : Nat) : Bool × Mag :=
  let neg := decide (2 ^ 384 ≤ y)
  let z := y % 2 ^ 384
  let x := if 2 ^ 383 < z then 2 ^ 384 - z else z
  if x = 0 then (neg, ⟨0, 0, false⟩)
  else if x = 2 ^ 383 then (neg, ⟨1, 0, false⟩)
  else (neg, cut320 (sinPiFix x))

/-- VFSINPI: an integer gives the zero of its sign. -/
def fsinpi (mode : Rnd) (r a : Nat) : FRes :=
  funary a fun x => match x with
    | .inf _ => fp32.invalid
    | .fin n m e =>
      let (s, v) := sinPiMag (mod2Fix m e)
      if v.m = 0 then (fp32.sign n, flNone) else fp32.round mode r (s != n) v
    | .nan _ _ _ => fp32.invalid

/-- VFCOSPI: cos(pi a) is sin(pi (|a| + 1/2)); a zero is +0. -/
def fcospi (mode : Rnd) (r a : Nat) : FRes :=
  funary a fun x => match x with
    | .inf _ => fp32.invalid
    | .fin _ m e =>
      let (s, v) := sinPiMag ((mod2Fix m e + 2 ^ 383) % 2 ^ 385)
      if v.m = 0 then (0, flNone) else fp32.round mode r s v
    | .nan _ _ _ => fp32.invalid

/-- VFRND (06 R111): an integral value in the direction of the mode, the sign kept. The exact result that 02 R30 tests is the
operand itself, so that a subnormal operand raises UF and a normal one does not (log 37). -/
def frnd (mode : Rnd) (r a : Nat) : FRes :=
  funary a fun x => match x with
    | .inf _ => (a, flNone)
    | .fin n m e =>
      if m = 0 ∨ 23 ≤ e + Nat.log2 m then (a, flNone)
      else
        let c := (Mag.mk m e false).cut 0
        let y := fp32.round .rne 0 n ⟨c.round mode n r, 0, false⟩
        (y.1, if !c.inx then flNone else if e + Nat.log2 m < -126 then flUf ||| flNx else flNx)
    | .nan _ _ _ => (a, flNone)

/-! ## Conversions (02 R17, Table 2.4; 06 R112, R113) -/

/-- The float format of an element type. -/
def etyFmt : ETy → Option Fmt
  | .f32 => some fp32
  | .f16 => some fp16
  | .bf16 => some bf16
  | .e4m3 => some e4m3
  | .e5m2 => some e5m2
  | .e2m1 => some e2m1
  | .i32 | .u32 | .i8 | .i4 => none

/-- Bits of an element. -/
def etyBits : ETy → Nat
  | .f32 | .i32 | .u32 => 32
  | .f16 | .bf16 => 16
  | .e4m3 | .e5m2 | .i8 => 8
  | .e2m1 | .i4 => 4

/-- Least and greatest value of an integer type. -/
def etyRange : ETy → Int × Int
  | .u32 => (0, 2 ^ 32 - 1)
  | .i32 => (-2 ^ 31, 2 ^ 31 - 1)
  | .i8 => (-128, 127)
  | .i4 => (-8, 7)
  | .f32 | .f16 | .bf16 | .e4m3 | .e5m2 | .e2m1 => (0, 0)

/-- The value of an integer element. -/
def etyInt (t : ETy) (x : Nat) : Int :=
  if (etyRange t).1 < 0 ∧ x.testBit (etyBits t - 1) then (x : Int) - 2 ^ etyBits t else x

/-- The code of an integer in n bits. -/
def intCode (n : Nat) (x : Int) : Nat := (x % 2 ^ n).toNat

def clampInt (lo hi x : Int) : Int := if x < lo then lo else if hi < x then hi else x

/-- A value into a float format. -/
def toFloat (f : Fmt) (mode : Rnd) (r : Nat) (x : FVal) : FRes :=
  if f.inf then f.deliver mode r x
  else match x with
    | .fin n m e => f.round mode r n ⟨m, e, false⟩
    | .inf n => (f.sign n + f.top, flNv)
    | .nan n _ _ => (if f = e4m3 then f.sign n + 0x7F else 0, flNv)

/-- A float into an integer type: it saturates out of range, a NaN becomes 0, each with NV. -/
def toInt (t : ETy) (mode : Rnd) (r : Nat) (x : FVal) : FRes :=
  let n := etyBits t
  let (lo, hi) := etyRange t
  match x with
  | .nan _ _ _ => (0, flNv)
  | .inf k => (intCode n (if k then lo else hi), flNv)
  | .fin k m e =>
    let c := (Mag.mk m e false).cut 0
    let a : Int := c.round mode k r
    let y := if k then -a else a
    if y < lo ∨ hi < y then (intCode n (clampInt lo hi y), flNv)
    else (intCode n y, if c.inx then flNx else flNone)

/-- An integer into an integer type. A narrower type saturates; a type no narrower that has no such value leaves the
result open (log 15). -/
def intToInt (dt sty : ETy) (x : Nat) : Nat :=
  let y := etyInt sty x
  let (lo, hi) := etyRange dt
  if lo ≤ y ∧ y ≤ hi then intCode (etyBits dt) y
  else if etyBits dt < etyBits sty then intCode (etyBits dt) (clampInt lo hi y)
  else (Config.freeConv (etyBits dt) (etyBits sty) x).toNat % 2 ^ etyBits dt

/-- One element converted. -/
def convert (dt sty : ETy) (mode : Rnd) (r x : Nat) : FRes :=
  match etyFmt dt, etyFmt sty with
  | some f, some g =>
    if dt = sty then
      (match g.decode x with
        | .nan n s p => if s then (g.quiet n p, flNv) else (x, flNone)
        | .inf _ => (x, flNone)
        | .fin _ _ _ => (x, flNone))
    else toFloat f mode r (g.decode x)
  | some f, none =>
    let y := etyInt sty x
    f.round mode r (decide (y < 0)) ⟨y.natAbs, 0, false⟩
  | none, some g => toInt dt mode r (g.decode x)
  | none, none => (intToInt dt sty x, flNone)

/-! ## Order-independent sums (02 R26 to R28) -/

/-- The value of an order-independent sum: a NaN or an infinity, zero, or an exact number of units. -/
inductive OiSum where
  | nan (code : Nat)
  | inf (neg : Bool)
  | zero
  | num (neg : Bool) (m : Nat) (e : Int)
deriving DecidableEq, Repr

/-- Units of a finite member, cut toward zero, and whether anything was cut off. -/
def oiUnits (ue : Int) (x : FVal) : Int × Bool :=
  match x with
  | .fin n m e =>
    let c := (Mag.mk m e false).cut ue
    (if n then -(c.k : Int) else c.k, c.inx)
  | .nan _ _ _ => (0, false)
  | .inf _ => (0, false)

/-- floor(log2) of a finite nonzero member. -/
def oiExp : FVal → Option Int
  | .fin _ m e => if m = 0 then none else some (e + Nat.log2 m)
  | .nan _ _ _ => none
  | .inf _ => none

/-- oisum (02 R26), the members in NaN order. -/
def oisum (members : List FVal) (w : Nat) : OiSum × Fl :=
  match members.find? (·.isNan) with
  | some x =>
    let fl := if members.any (·.signals) then flNv else flNone
    (match x with
      | .nan n _ p => .nan (fp32.quiet n p)
      | .inf n => .inf n
      | .fin _ _ _ => .zero, fl)
  | none =>
    let pos := members.any fun x => x == .inf false
    let neg := members.any fun x => x == .inf true
    if pos && neg then (.nan fp32.defaultNan, flNv)
    else if pos || neg then (.inf neg, flNone)
    else match members.filterMap oiExp with
      | [] => (.zero, flNone)
      | x :: r =>
        let ue := r.foldl max x - w
        let us := members.map (oiUnits ue)
        let s : Int := us.foldl (fun a u => a + u.1) 0
        let fl := if us.any (·.2) then flNx else flNone
        if s = 0 then (.zero, fl) else (.num (decide (s < 0)) s.natAbs ue, fl)

/-- The finish of a SUM commit and of an F32 reduction (02 R27, R28): rounded once; a zero is -0 when every member is
-0. -/
def oiFinish (members : List FVal) (w : Nat) : FRes :=
  let (s, fl) := oisum members w
  match s with
  | .nan c => (c, fl)
  | .inf n => (fp32.sign n + fp32.infCode, fl)
  | .zero => (fp32.sign (members != [] && members.all fun x => x.isZero && x.neg), fl)
  | .num n m e =>
    let y := fp32.round .rne 0 n ⟨m, e, false⟩
    (y.1, fl ||| y.2)

end Sys2Proof.Machine
end

