-- ==== Sys2Proof/Machine/Resolve.lean ====
section
/-! DEFINITION. Resolving the pending writes of a step (11 R250 to R256) as functions of a list of writes: units, rules,
SUM cells, STF results (07 Table 7.3) and fault records; then TWIN lines (11 R260). -/

namespace Sys2Proof.Machine

/-! ## Writers (11 R250) -/

def Writer.lt (a b : Writer) : Bool :=
  decide (a.key < b.key) || (a.key == b.key && (decide (a.kind < b.kind) || (a.kind == b.kind && decide (a.seq < b.seq))))
def Writer.le (a b : Writer) : Bool := !b.lt a

/-- Writer order, and program order within one writer (11 R254). -/
def PWrite.le (a b : PWrite) : Bool := a.w.lt b.w || (a.w == b.w && decide (a.order ≤ b.order))

/-- The distinct writers of a list of writes, in writer order. -/
def writersOf (l : List PWrite) : List Writer := sortBy Writer.le (nub (l.map (·.w)))

/-! ## Units: nibbles, numbered 2 x address + half (07 R130) -/

def PWrite.nibs (p : PWrite) : List Nat :=
  match p.nib with
  | some h => [2 * p.pa + h.toNat]
  | none => (List.range (2 * p.data.length)).map (2 * p.pa + ·)

def PWrite.covers (p : PWrite) (n : Nat) : Bool :=
  match p.nib with
  | some h => n == 2 * p.pa + h.toNat
  | none => decide (2 * p.pa ≤ n) && decide (n < 2 * (p.pa + p.data.length))

/-- The value that a write gives a nibble that it covers. -/
def PWrite.nibVal (p : PWrite) (n : Nat) : Nat :=
  match p.nib with
  | some _ => (p.data.getD 0 0#8).toNat % 16
  | none => (p.data.getD ((n - 2 * p.pa) / 2) 0#8).toNat / 16 ^ (n % 2) % 16

/-- Two writes to one unit are a rule mix (07 R130): rules differ, or SUM sizes or types do. -/
def mixes (a b : PWrite) : Bool :=
  a.rule != b.rule || (a.rule == .sum && (a.sum != b.sum || a.data.length != b.data.length))

def hasMix : List PWrite → Bool
  | [] => false
  | a :: r => r.any (mixes a)

/-- A unit is in a rule mix: its own writes mix, or it lies in a SUM cell one of whose units does. -/
def unitMixed (ws : List PWrite) (n : Nat) : Bool :=
  let here := ws.filter (·.covers n)
  hasMix here || (here.any fun p => p.rule == .sum && p.nibs.any fun k => hasMix (ws.filter (·.covers k)))

/-- Under LO, ANY and FLT a writer's later store replaces its earlier one (07 R131): the last write of a writer. -/
def lastOf (l : List PWrite) (w : Writer) : Option PWrite :=
  (l.filter (·.w == w)).foldl (fun m p => match m with
    | none => some p
    | some q => if q.order ≤ p.order then some p else some q) none

/-- The member of least rank; ties to the earlier. -/
def leastRank (rank : Writer → Nat) : List Writer → Option Writer
  | [] => none
  | a :: r => some (r.foldl (fun m x => if rank x < rank m then x else m) a)

/-- What becomes of a unit that is no part of a SUM cell. -/
inductive UnitEnd where
  | commit (p : PWrite)
  | collide
deriving DecidableEq, Repr

/-- A unit outside a rule mix and outside a SUM cell (11 R252, R253). `rank` orders the line's ANY writers. -/
def unitEnd (rank : Writer → Nat) (here : List PWrite) : Option UnitEnd :=
  let w := writersOf here
  match here with
  | [] => none
  | p :: _ =>
    match p.rule with
    | .lo => (w.head?.bind (lastOf here)).map .commit
    | .any => ((leastRank rank w).bind (lastOf here)).map .commit
    | .flt => if 2 ≤ w.length then some .collide else (w.head?.bind (lastOf here)).map .commit
    | .sum => none

/-! ## SUM cells (11 R254, 02 R27) -/

/-- Most contributions of one step to an F32 cell (02 R27). -/
def sumLimit : Nat := 2 ^ 31 - 1

/-- The contributions to a cell, in writer order. -/
def cellWrites (ws : List PWrite) (pa : Nat) : List PWrite :=
  sortBy PWrite.le (ws.filter fun p => p.rule == .sum && p.pa == pa)

/-- The new value of a cell whose old value is `o`, with the flags of an F32 sum. -/
def sumCell (ty : SumTy) (o : Nat) (cs : List Nat) : Nat × Fl :=
  match ty with
  | .i32 => (cs.foldl (· + ·) o % 2 ^ 32, flNone)
  | .i64 => (cs.foldl (· + ·) o % 2 ^ 64, flNone)
  | .f32 => oiFinish ((o :: cs.take sumLimit).map fp32.decode) 63

/-! ## The step -/

/-- A record of a close, with its place in the order of 11 R256. -/
structure CloseRec where
  addr : Nat
  ty : Nat
  key : Nat
  /-- The kind of the lowest writer: 1 for a copy (11 R250). -/
  kind : Nat
  /-- Keys of the writers that it concerns. -/
  keys : List Nat
  die : Nat
  bytes : List Byte
deriving DecidableEq, Repr

/-- A writer of a failed region: whether it wrote a unit that failed, and one in a rule mix, and the region's address. -/
structure Fail where
  w : Writer
  bad : Bool
  mix : Bool
  addr : Nat
deriving DecidableEq, Repr

/-- A region with a cell that the commit log lost (23 R352): its address, the lowest writer's key and die, and the writers, each
with whether its access is STRICT. -/
structure LostRegion where
  addr : Nat
  key : Nat
  die : Nat
  ws : List (Writer × Bool)
deriving DecidableEq, Repr

/-- An ANY record (20 R326) and the die whose ring takes it. -/
structure AnyRec where
  die : Nat
  bytes : List Byte
deriving DecidableEq, Repr

/-- What the close of a list of writes brings about. -/
structure Resolved where
  /-- Bytes to commit, in order. -/
  puts : List (Nat × Byte)
  /-- STF results: operation, key of the lane, value. -/
  results : List (Nat × Nat × Nat)
  fails : List Fail
  recs : List CloseRec
  anys : List AnyRec
  lost : List LostRegion
  /-- Nibbles whose new value takes nothing from the old word. -/
  fresh : List Nat
deriving DecidableEq, Repr

def ruleBit : Rule → Nat
  | .lo => 1
  | .any => 2
  | .sum => 4
  | .flt => 8

/-- The rules that a list of writes carries, in the layout of RULES (11 Table 11.3). -/
def rulesOf (l : List PWrite) : Nat := l.foldl (fun a p => a ||| ruleBit p.rule) 0

/-- What the close needs to know besides the writes. -/
structure Closing where
  step : Word
  ctx : Nat
  stash : Bool
  det : Bool
  recording : Bool
  /-- The home's rank of a writer in a line (log 2). -/
  rank : Nat → Writer → Nat
  /-- The result of an STF whose region the commit log lost: the manual gives none (log 2). -/
  free : Nat → Nat

/-- The order in which a home takes a line's ANY writers: writer order in deterministic mode, else free; with recording
on, one in which every winner's rank is at most 254 (11 R253, 20 R326). -/
def Closing.lineRank (k : Closing) (ws : List PWrite) (line : Nat) (w : Writer) : Nat :=
  let l := writersOf (ws.filter fun p => p.rule == .any && p.pa / 128 == line)
  let ix := l.idxOf w
  if k.det then ix
  else if k.recording then
    let f := sortBy (fun a b => decide (k.rank line a ≤ k.rank line b)) (l.take 255)
    if ix < 255 then f.idxOf w else ix
  else (sortBy (fun a b => decide (k.rank line a ≤ k.rank line b)) l).idxOf w

/-- The end of every unit. -/
structure UnitRes where
  n : Nat
  here : List PWrite
  mix : Bool
  sum : Bool
  /-- Its region holds a cell that the commit log lost: the unit keeps its committed value (23 R352). -/
  lost : Bool
  fin : Option UnitEnd

/-- Regions with a cell that the commit log lost. -/
def lostRegions (ws : List PWrite) : List Nat := nub ((ws.filter (·.lost)).flatMap fun p => p.nibs.map (· / 16))

def unitsOf (k : Closing) (ws : List PWrite) : List UnitRes :=
  let ns := sortBy (fun a b => decide (a ≤ b)) (nub (ws.flatMap (·.nibs)))
  ns.map fun n =>
    let here := ws.filter (·.covers n)
    let mix := unitMixed ws n
    let sum := here.any fun p => p.rule == .sum
    let lost := (lostRegions ws).contains (n / 16)
    { n := n, here := here, mix := mix, sum := sum, lost := lost
      fin := if mix || sum || lost then none else unitEnd (k.lineRank ws (n / 256)) here }

def UnitRes.failed (u : UnitRes) : Bool := !u.lost && (u.mix || u.fin == some .collide)

/-- Put a nibble into a byte. -/
def mergeNib (old : Byte) (hi : Bool) (v : Nat) : Byte :=
  BitVec.ofNat 8 (if hi then v * 16 + old.toNat % 16 else old.toNat / 16 * 16 + v % 16)

/-- A SUM cell that commits. -/
structure CellRes where
  pa : Nat
  va : Nat
  ty : SumTy
  n : Nat
  ws : List PWrite
  old : Nat
  val : Nat
  fl : Fl

def numAt (old : Nat → Byte) (pa n : Nat) : Nat := leNat ((List.range n).map fun i => old (pa + i))

def cellsOf (ws : List PWrite) (us : List UnitRes) (old : Nat → Byte) : List CellRes :=
  let cells := nub ((us.filter fun u => u.sum && !u.mix && !u.lost).flatMap fun u => u.here.map (·.pa))
  cells.filterMap fun pa =>
    match cellWrites ws pa with
    | [] => none
    | p :: r =>
      let o := numAt old pa p.data.length
      let ty := p.sum.getD .i32
      let x := sumCell ty o ((p :: r).map fun q => leNat q.data)
      some { pa := pa, va := p.va, ty := ty, n := p.data.length, ws := p :: r, old := o, val := x.1, fl := x.2 }

/-- The bytes that a failed or committed unit leaves: a nibble of the winner's byte. -/
def unitPuts (old : Nat → Byte) (us : List UnitRes) : List (Nat × Byte) :=
  let bytes := nub ((us.filter fun u => u.fin.isSome && !u.failed).map fun u => u.n / 2)
  bytes.map fun a =>
    (a, us.foldl (fun b u => if u.n / 2 = a then
        (match u.fin with
          | some (.commit p) => mergeNib b (u.n % 2 == 1) (p.nibVal u.n)
          | some .collide => b
          | none => b)
      else b) (old a))

/-- Distinct writers of any unit of a store's bytes (07 Table 7.3). -/
def touching (ws : List PWrite) (p : PWrite) : List PWrite := ws.filter fun q => p.nibs.any q.covers

/-- The result of an STF (07 R135, Table 7.3). -/
def stfResult (k : Closing) (ws : List PWrite) (us : List UnitRes) (cs : List CellRes) (p : PWrite) : Nat :=
  let low := us.find? fun u => u.n == p.nibs.headD 0
  let count := (writersOf (touching ws p)).length
  match low with
  | none => 0
  | some u =>
    if u.lost then k.free p.order
    else if u.mix then count
    else match p.rule with
      | .flt => count
      | .sum => match cs.find? fun c => c.pa == p.pa with
        | some c => (c.ws.takeWhile fun q => q.order != p.order || q.w != p.w).foldl (fun a q => a + leNat q.data) c.old
            % 2 ^ (8 * c.n)
        | none => count
      | .lo | .any => match u.fin with
        | some (.commit q) => q.w.key
        | some .collide => count
        | none => count

/-- The virtual address or stash offset of the region with number g, from a write that touches it. -/
def PWrite.regionVa (p : PWrite) (g : Nat) : Nat := p.va + 8 * g - p.pa

/-- Fault records of 8-byte regions (11 R256, types 1 and 2). -/
def regionRecs (k : Closing) (ws : List PWrite) (us : List UnitRes) : List CloseRec :=
  let bad := us.filter (·.failed)
  (nub (bad.map fun u => u.n / 16)).map fun g =>
    let here := ws.filter fun p => p.nibs.any fun n => n / 16 == g
    let wl := writersOf here
    let ns := bad.filter fun u => u.n / 16 == g
    let umask := ns.foldl (fun a u => a ||| 2 ^ (u.n % 16)) 0
    let ty := if ns.any (·.mix) then 2 else 1
    let lo := wl.headD ⟨0, 0, 0⟩
    let p := (sortBy PWrite.le here).head?
    let va := match p with
      | some q => q.regionVa g
      | none => 8 * g
    { addr := va, ty := ty, key := lo.key, kind := lo.kind, keys := wl.map (·.key), die := (p.map (·.die)).getD 0
      bytes := faultRec va k.step lo.key wl.length umask k.ctx ty
        (rulesOf here * 2 ^ 52 + (if k.stash then 2 ^ 50 else 0)) }

/-- The writers of failed regions (11 R255, 14 R286). -/
def failsOf (ws : List PWrite) (us : List UnitRes) (va : Nat → Nat) : List Fail :=
  (nub ((us.filter (·.failed)).map fun u => u.n / 16)).flatMap fun g =>
    (writersOf (ws.filter fun p => p.nibs.any fun n => n / 16 == g)).map fun w =>
      let mine := us.filter fun u => u.n / 16 == g && u.failed && u.here.any fun p => p.w == w
      { w := w, bad := !mine.isEmpty, mix := mine.any (·.mix), addr := va g }

/-- The regions that the commit log lost. -/
def lostOf (ws : List PWrite) : List LostRegion :=
  (lostRegions ws).map fun g =>
    let here := sortBy PWrite.le (ws.filter fun p => p.nibs.any fun n => n / 16 == g)
    { addr := (here.head?.map fun p => p.regionVa g).getD (8 * g), key := (here.head?.map (·.w.key)).getD 0
      die := (here.head?.map (·.die)).getD 0, ws := here.map fun p => (p.w, p.strict) }

/-- Summary records of flags raised by F32 SUM commits, one for each home slice, or one for a group's stash; and records
of dropped contributions (11 R256, types 3 and 4). -/
def sumRecs (k : Closing) (ws : List PWrite) (cs : List CellRes) : List CloseRec :=
  let raised := cs.filter fun c => c.fl != flNone
  let slices := nub (raised.map fun c => if k.stash then 0 else homeSlice c.pa)
  let t3 := slices.map fun sl =>
    let here := raised.filter fun c => k.stash || homeSlice c.pa == sl
    let fl := here.foldl (fun a c => a ||| c.fl) flNone
    let ps := sortBy PWrite.le (here.flatMap (·.ws))
    let va := here.foldl (fun a c => min a c.va) ((here.head?.map (·.va)).getD 0)
    let key := (ps.head?.map (·.w.key)).getD 0
    { addr := va, ty := 3, key := key, kind := (ps.head?.map (·.w.kind)).getD 0, keys := nub (ps.map (·.w.key)), die := (ps.head?.map (·.die)).getD 0
      bytes := faultRec va k.step key here.length 0 k.ctx 3
        (4 * 2 ^ 52 + (if k.stash then 2 ^ 50 else 0) + fl.toNat * 2 ^ 45) : CloseRec }
  let t4 := (cs.filter fun c => c.ty == .f32 && decide (sumLimit < c.ws.length)).map fun c =>
    let g := c.pa / 8
    let here := sortBy PWrite.le (ws.filter fun p => p.nibs.any fun n => n / 16 == g)
    let va := (here.head?.map fun p => p.regionVa g).getD c.va
    let key := (here.head?.map (·.w.key)).getD 0
    { addr := va, ty := 4, key := key, kind := (here.head?.map (·.w.kind)).getD 0, keys := nub (here.map (·.w.key)), die := (here.head?.map (·.die)).getD 0
      bytes := faultRec va k.step key (c.ws.length - sumLimit) 0 k.ctx 4
        (rulesOf here * 2 ^ 52 + (if k.stash then 2 ^ 50 else 0)) : CloseRec }
  t3 ++ t4

/-- An ANY record (20 Table 20.6): `rk` gives RK of each nibble. -/
def anyRecord (k : Closing) (va : Nat) (rk : Nat → Nat) : List Byte :=
  leBytes 8 (0x20 * 2 ^ 56 + (if k.stash then 2 ^ 54 else 0) + k.ctx % 65536 * 2 ^ 32
      + ((List.range 4).foldl (fun a i => a + rk i * 256 ^ i) 0))
    ++ (List.range 12).map (fun i => BitVec.ofNat 8 (rk (i + 4)))
    ++ leBytes 4 k.step.toNat ++ leBytes 8 va

/-- ANY records of a close: RK of each nibble of a region whose ANY units had two or more writers. The region's lowest ANY writer
holds the reservation (20 R326). -/
def anyRecs (k : Closing) (ws : List PWrite) (us : List UnitRes) : List AnyRec :=
  if k.det || !k.recording then []
  else
    let contested := us.filter fun u => !u.mix && !u.sum && !u.lost && (u.here.head?.map (·.rule)) == some .any
      && decide (2 ≤ (writersOf u.here).length)
    (nub (contested.map fun u => u.n / 16)).map fun g =>
      let ns := contested.filter fun u => u.n / 16 == g
      let ps := sortBy PWrite.le (ws.filter fun p => p.rule == .any && p.nibs.any fun n => n / 16 == g)
      let va := match ps.head? with
        | some q => q.regionVa g
        | none => 8 * g
      let rk := fun i => match ns.find? fun u => u.n % 16 == i with
        | some u => match u.fin with
          | some (.commit p) => (writersOf u.here).idxOf p.w
          | some .collide => 0xFF
          | none => 0xFF
        | none => 0xFF
      { die := (ps.head?.map (·.die)).getD 0, bytes := anyRecord k va rk }

/-- Resolve the writes of a step against committed bytes (11 R252 to R256). -/
def resolve (k : Closing) (old : Nat → Byte) (ws : List PWrite) : Resolved :=
  let us := unitsOf k ws
  let cs := cellsOf ws us old
  let recs := regionRecs k ws us
  let vaOf := fun g => match (sortBy PWrite.le (ws.filter fun p => p.nibs.any fun n => n / 16 == g)).head? with
    | some q => q.regionVa g
    | none => 8 * g
  { puts := unitPuts old us ++ cs.flatMap fun c =>
      (List.range c.n).zip (leBytes c.n c.val) |>.map fun (i, b) => (c.pa + i, b)
    results := (ws.filterMap fun p => p.stf.map fun u => (u, p.w.key, stfResult k ws us cs p))
    fails := failsOf ws us vaOf
    recs := recs ++ sumRecs k ws cs
    anys := anyRecs k ws us
    lost := lostOf ws
    fresh := (us.filter fun u => u.fin.isSome && !u.failed).map (·.n) }

/-! ## TWIN lines (11 R260) -/

def TwinLine.empty : TwinLine :=
  { cur := false, step := 0#16, wh := 0x7FFF#15, other := List.replicate 128 0#8, pend := none, writers := [], mix := false
    held := [] }

/-- The handle of a pending writer: never the value that means none (log 6). -/
def handleOf (w : Writer) : BitVec 15 := BitVec.ofNat 15 (w.key % 0x7FFF)

/-- The line takes a write of the step that its pending write belongs to, or of a step of its own. Under ANY in normal mode the
first comer prevails, and of more than 255 writers one whose rank is at most 254 (20 R326). -/
def TwinLine.take (l : TwinLine) (det : Bool) (x : TWrite) : TwinLine :=
  let put := { l with other := x.data, step := x.step.extractLsb' 0 16, wh := handleOf x.w, pend := some x
                      writers := l.writers ++ [x] }
  let clear := { l with wh := 0x7FFF#15, pend := none, writers := l.writers ++ [x] }
  if l.writers.any fun y => y.rule != x.rule then { clear with mix := true }
  else match l.pend with
    | none => if l.writers = [] then put else clear
    | some y =>
      if y.w = x.w then put
      else match x.rule with
        | .lo => if x.w.lt y.w then put else { l with writers := l.writers ++ [x] }
        | .any => if (det || 254 ≤ l.writers.length) && x.w.lt y.w then put else { l with writers := l.writers ++ [x] }
        | .flt => clear
        | .sum => clear

/-- A whole-line write to the TWIN line at a physical address: it waits where the line's writes belong to another step. -/
def State.twinWrite (s : State) (pa : Nat) (det : Bool) (x : TWrite) : State :=
  let l := (aget? s.twins (pa / 128)).getD TwinLine.empty
  let other := match l.writers with
    | y :: _ => y.grid != x.grid || y.step != x.step
    | [] => false
  let l := if other then { l with held := l.held ++ [x] } else l.take det x
  { s with twins := aset s.twins (pa / 128) l }

/-- The close of a grid's step for one line: the line with its writes of that step gone, the write that commits, which none does
where the writes failed, the writes of the step, and whether they mix rules (11 R260). `old` is the line as committed, which
becomes the other copy. -/
def TwinLine.close (l : TwinLine) (g : Nat) (step : Word) (det : Bool) (old : List Byte) : TwinLine × Option TWrite × List TWrite × Bool :=
  let mine := fun (x : TWrite) => x.grid == g && x.step == step
  if l.writers.any mine then
    let l' := { l with cur := if l.pend.isSome then !l.cur else l.cur, wh := 0x7FFF#15
                       other := if l.pend.isSome then old else l.other, pend := none, writers := []
                       mix := false, held := [] }
    let next := sortBy (fun a b => a.w.le b.w) l.held
    let first := next.head?
    let now := next.filter fun x => some (x.grid, x.step) == first.map fun y => (y.grid, y.step)
    let later := next.filter fun x => !(some (x.grid, x.step) == first.map fun y => (y.grid, y.step))
    ({ now.foldl (fun l x => l.take det x) l' with held := later }, l.pend, l.writers, l.mix)
  else
    let now := sortBy (fun a b => a.w.le b.w) (l.held.filter mine)
    let t := now.foldl (fun l x => l.take det x) { TwinLine.empty with other := l.other }
    match now with
    | [] => (l, none, [], false)
    | _ :: _ => ({ l with held := l.held.filter fun x => !mine x }, t.pend, t.writers, t.mix)

end Sys2Proof.Machine
end

