-- ==== Sys2Proof/Machine/Mem.lean ====
section
/-! DEFINITION. The memory family (07 R119 to R137): loads, stores, and the arrival of a load's data. -/

namespace Sys2Proof.Machine

/-! ## Traps of several lanes (07 R122, R369) -/

/-- Why a lane cannot access: the cause, the TRAPADDR, and the address whose translation failed. -/
structure LaneErr where
  cause : Cause
  addr : DWord
  va : DWord
deriving DecidableEq, Repr

/-- Rank of an access's own causes (07 R122, R369). -/
def Cause.own : Cause → Nat
  | .copyRights => 0
  | .reservedEnc => 1
  | .align => 2
  | .page => 3
  | .prot => 4
  | .twinPartial => 5
  | .windowRange => 7
  | .fibreRange => 8
  | .tileState => 9
  | .tileBusy => 10
  | .logfull => 11
  | .rlogFull => 12
  | _ => 13

/-- Rank under R122, where TILE_BUSY precedes WINDOW_RANGE. -/
def Cause.lane (c : Cause) : Nat := if c = .tileBusy then 6 else c.own

/-- The first cause in the order of 07 R122: its lanes, the address of the lowest, and the addresses of its lanes' translations. -/
def firstCause (l : List (Nat × LaneErr)) : Option (TrapInfo × List (Nat × DWord)) :=
  match l with
  | [] => none
  | a :: r =>
    let best := r.foldl (fun m x => if x.2.cause.lane < m.2.cause.lane then x else m) a
    let those := l.filter fun x => x.2.cause == best.2.cause
    some (⟨best.2.cause, best.2.addr, maskOf (those.map (·.1))⟩, those.map fun x => (x.1, x.2.va))

/-- The first cause in the order of 07 R369 among what several accesses met; of one cause the first in their order. -/
def firstOwn : List LaneErr → Option LaneErr
  | [] => none
  | a :: r => some (r.foldl (fun m x => if x.cause.own < m.cause.own then x else m) a)

/-- The errors and the successes of lanes. -/
def laneErrs {α : Type} (l : List (Nat × Except LaneErr α)) : List (Nat × LaneErr) :=
  l.filterMap fun x => match x.2 with
    | .error e => some (x.1, e)
    | .ok _ => none
def laneOks {α : Type} (l : List (Nat × Except LaneErr α)) : List (Nat × α) :=
  l.filterMap fun x => match x.2 with
    | .error _ => none
    | .ok a => some (x.1, a)

/-! ## Tiles as threads see them (07 R140, R148) -/

def Tile.base (x : Tile) : Nat := bits x.desc.toNat 0 19
def Tile.bytes (x : Tile) : Nat := 128 * bits x.desc.toNat 19 10
def Tile.pitch (x : Tile) : Nat := bits x.desc.toNat 32 16
def Tile.rows (x : Tile) : Nat := bits x.desc.toNat 48 16
def Tile.ef (x : Tile) : Nat := bits x.desc.toNat 64 4

def TileState.moving : TileState → Bool
  | .filling | .draining => true
  | .empty | .ready => false

/-- A thread's access to n bytes of stash traps TILE_BUSY (07 R140). -/
def Group.busyAt (p : Group) (wix off n : Nat) : Bool :=
  p.tiles.any fun x =>
    let a := x.2
    a.defined && decide (a.base < off + n) && decide (off < a.base + a.bytes)
      && (a.actual.moving || (a.changedBy.isSome && a.owner != some wix))

/-! ## Where a lane's access goes -/

/-- Bytes of an access and its address in bytes: a B4 access is one nibble of a byte (02 R12). -/
def byteAddr (sz : Size) (a : DWord) : DWord := if sz = .b4 then a >>> 1 else a
def misaligned (sz : Size) (a : DWord) : Bool := decide (a.toNat % (if sz = .b4 then 1 else sz.bytes) ≠ 0)

/-- A global access of a lane: its physical address and leaf. -/
def State.globalLane (s : State) (w : Thread) (sz : Size) (a : DWord) (k : Access) : Except LaneErr (Nat × DWord) :=
  if misaligned sz a then .error ⟨.align, a, a⟩
  else match s.access w.mmu w.ctx (byteAddr sz a) k with
    | .ok x => .ok x
    | .error c => .error ⟨c, a, byteAddr sz a⟩

/-- A private access of a lane (07 R121, 13 R280); every trap names the lane's private address (07 R122, log 17). -/
def State.privLane (s : State) (w : Thread) (lane : Nat) (sz : Size) (a : DWord) (k : Access) :
    Except LaneErr (Nat × DWord) :=
  let o := (byteAddr sz a).toNat
  if misaligned sz a then .error ⟨.align, a, a⟩
  else match s.privPa w lane o sz.bytes k with
    | .ok x => .ok x
    | .error c =>
      match s.grid? w.grid with
      | some g => .error ⟨c, a, privateVa g (s.gkey w lane) o⟩
      | none => .error ⟨c, a, a⟩

/-- A stash access of a lane: its byte offset (07 R121, R140). -/
def State.stashLane (s : State) (w : Thread) (sz : Size) (a : DWord) : Except LaneErr Nat :=
  let o := (byteAddr sz a).toNat
  if misaligned sz a then .error ⟨.align, a, a⟩
  else match s.grid? w.grid, s.group? w.group with
    | some g, some p =>
      if g.stashBytes < o + sz.bytes then .error ⟨.prot, a, a⟩
      else if p.busyAt w.wix o sz.bytes then .error ⟨.tileBusy, a, a⟩
      else .ok o
    | _, _ => .error ⟨.prot, a, a⟩

/-! ## Windows as read (07 R128) -/

def winEsize (d : BitVec 256) : Nat := 2 ^ bits d.toNat 192 2
def winSlen (d : BitVec 256) : Nat := bits d.toNat 160 32
def winLen (d : BitVec 256) : Nat := bits d.toNat 128 32
def winSbase (d : BitVec 256) : Nat := bits d.toNat 64 64
def winIbase (d : BitVec 256) : Nat := bits d.toNat 0 64

/-- What a lane reads. -/
structure LaneRead where
  bytes : List Byte
  /-- SRC of a lost word (23 Table 23.1). -/
  lost : Option Nat
  strict : Bool
  /-- A window's index at or past SLEN. -/
  past : Bool
  addr : DWord
  va : DWord
  /-- Its accesses to memory: of a window's element that of the index word first, a global read of its own (13 R276). One that is lost
  is the last. -/
  uses : List LineUse
deriving DecidableEq, Repr

/-- The binding of a window in the context. -/
def State.window? (s : State) (c n : Nat) : Option (BitVec 256) := (s.context? c).bind fun x => aget? x.windows n

/-- Element i of a window whose access is legal: zeros with `past` where its index is at or past SLEN, and zeros where the index
word is lost (07 R126). -/
def State.windowElem (s : State) (w : Thread) (d : BitVec 256) (i : Nat) (o : DWord) : Except LaneErr LaneRead :=
  let n := winEsize d
  let ia : DWord := BitVec.ofNat 64 (winIbase d + 4 * i)
  match s.access w.mmu w.ctx ia .read with
  | .error c => .error ⟨c, o, ia⟩
  | .ok (ipa, ileaf) =>
    let iu := throughL2 w ia ipa ileaf 4
    let ir := s.serve iu
    let x := leNat ir.1
    if ir.2.isSome then .ok ⟨List.replicate n 0#8, ir.2, s.strictAt w ileaf, false, o, ia, [iu]⟩
    else if winSlen d ≤ x then .ok ⟨List.replicate n 0#8, none, false, true, o, o, [iu]⟩
    else
      let sa : DWord := BitVec.ofNat 64 (winSbase d + x * n)
      match s.access w.mmu w.ctx sa .read with
      | .error c => .error ⟨c, o, sa⟩
      | .ok (pa, leaf) =>
        let u := atHome w sa pa leaf n
        let r := s.serve u
        .ok ⟨r.1, r.2, s.strictAt w leaf, false, o, sa, [iu, u]⟩

/-- The translations of a window element can be had: of its index word, and of the element that it names. -/
def State.elemReached (s : State) (w : Thread) (d : BitVec 256) (i : Nat) : Bool :=
  let ia : DWord := BitVec.ofNat 64 (winIbase d + 4 * i)
  s.walkReached w.mmu w.ctx ia && match s.access w.mmu w.ctx ia .read with
    | .error _ => true
    | .ok (pa, leaf) =>
      s.walkReached w.mmu w.ctx (BitVec.ofNat 64 (winSbase d + leNat (s.serve (throughL2 w ia pa leaf 4)).1 * winEsize d))

/-- A lane's window read (07 R128). A SIZE that no window has, or an offset that SIZE does not divide, is ALIGN whatever is
bound. -/
def State.windowLane (s : State) (w : Thread) (n : Nat) (sz : Size) (o : DWord) : Except LaneErr LaneRead :=
  if sz = .b4 ∨ 8 < sz.bytes ∨ misaligned sz o = true then .error ⟨.align, o, o⟩
  else match s.window? w.ctx n with
  | none => .error ⟨.windowRange, o, o⟩
  | some d =>
    if sz.bytes ≠ winEsize d then .error ⟨.align, o, o⟩
    else if winLen d ≤ o.toNat / winEsize d then .error ⟨.windowRange, o, o⟩
    else s.windowElem w d (o.toNat / winEsize d) o

/-- The translations that a lane's access needs can be had (22 R337). -/
def State.xlatReached (s : State) (w : Thread) (sp : Space) (b : LdBase) (sz : Size) (lane : Nat) (a : DWord) : Bool :=
  match sp with
  | .global => s.walkReached w.mmu w.ctx (byteAddr sz a)
  | .priv => s.walkReached w.mmu w.ctx (s.privAddr w lane (byteAddr sz a).toNat)
  | .stash => true
  | .window =>
    match b with
    | .w n => (s.window? w.ctx n.toNat).all fun d => s.elemReached w d (a.toNat / winEsize d)
    | .s _ => true
    | .v _ => true

/-! ## Loads -/

/-- Bytes of a group's stash; a lost word reads zero (23 Table 23.1). -/
def Group.stashBytes (p : Group) (o n : Nat) : List Byte :=
  (List.range n).map fun i => if p.badStash.contains ((o + i) / 4) then 0#8 else tget 0#8 p.stash (o + i)
def Group.stashLost (p : Group) (o n : Nat) : Bool := (List.range n).any fun i => p.badStash.contains ((o + i) / 4)

/-- What LD reads in a lane from a space (07 R124). HINT and HOME name its way through the caches (13 R278, R279). -/
def State.readLane (s : State) (w : Thread) (sp : Space) (h : Hint) (home : Option (BitVec 4)) (b : LdBase) (sz : Size) (lane : Nat)
    (a : DWord) : Except LaneErr LaneRead :=
  match sp with
  | .global =>
    (s.globalLane w sz a .read).map fun x =>
      let u := s.globalUse w (h != .stream) (h == .keep) home (byteAddr sz a) x.1 x.2 sz.bytes
      let r := s.serve u
      ⟨r.1, r.2, s.strictAt w x.2, false, a, byteAddr sz a, [u]⟩
  | .priv =>
    (s.privLane w lane sz a .read).map fun x =>
      let va := match s.grid? w.grid with
        | some g => privateVa g (s.gkey w lane) (byteAddr sz a).toNat
        | none => a
      let u := privUse w (h != .stream) va x.1 x.2 sz.bytes
      let r := s.serve u
      ⟨r.1, r.2, s.strictAt w x.2, false, a, va, [u]⟩
  | .stash =>
    (s.stashLane w sz a).map fun o =>
      match s.group? w.group with
      | some p =>
        let bs := if p.stashLost o sz.bytes then List.replicate sz.bytes 0#8 else p.stashBytes o sz.bytes
        ⟨bs, if p.stashLost o sz.bytes then some 5 else none, s.strict w.ctx, false, a, byteAddr sz a, []⟩
      | none => ⟨[], none, false, false, a, byteAddr sz a, []⟩
  | .window =>
    match b with
    | .w n => s.windowLane w n.toNat sz a
    | .s _ => .error ⟨.windowRange, a, a⟩
    | .v _ => .error ⟨.windowRange, a, a⟩

/-- The words that a lane's bytes put into its registers (07 Table 7.1). -/
def loadWords (sz : Size) (odd : Bool) (bs : List Byte) : List Word :=
  match sz with
  | .b4 => [BitVec.ofNat 32 ((bs.getD 0 0#8).toNat / (if odd then 16 else 1) % 16)]
  | _ => (List.range sz.regs).map fun i => BitVec.ofNat 32 (leNat ((bs.drop (4 * i)).take 4))

/-- ADDR of a lost word's record: of a dirty private line the address of the granule (23 Table 23.1). -/
def lostAddr (src : Nat) (va : DWord) : DWord := if src = 10 then va &&& ~~~0xF#64 else va

/-- A lost word of an L3 line has been read. -/
def State.dropLost (s : State) (r : LaneRead) : State :=
  if r.lost == some 1 then (match r.uses.getLast? with
    | some u => s.dropL3 u.pa u.n
    | none => s) else s

/-- Record lost words: one record for each source among the lanes (07 R126, 20 Table 20.8). -/
def State.logLost (s : State) (w : Thread) (e : Entry) (l : List (Nat × LaneRead)) : State :=
  let s' := (nub (l.filterMap (·.2.lost))).foldl (fun s src =>
    let here := l.filter fun x => x.2.lost == some src
    match here with
    | [] => s
    | x :: _ => s.uncorrected w.die src (lostAddr src x.2.va) e.gstep (s.gkey w x.1) here.length w.ctx) s
  if s.badL3.isEmpty then s' else l.foldl (fun s x => s.dropLost x.2) s'

/-- Record the lost words that an engine's reads found, one record for each word, of no lane (20 Table 20.8). -/
def State.logWords (s : State) (w : Thread) (step : Word) (l : List LaneRead) : State :=
  let words := nub (l.filterMap fun r => r.lost.map fun src =>
    (src, if src = 5 then r.va.toNat / 4 * 4 else r.va.toNat / 8 * 8))
  let s' := words.foldl (fun s x => s.uncorrected w.die x.1 (BitVec.ofNat 64 x.2) step 0 1 w.ctx) s
  if s.badL3.isEmpty then s' else l.foldl (fun s r => s.dropLost r) s'

/-- What the reads of an engine bring about: in the caches, by lines, and the records of lost words. -/
def State.noteEngine (s : State) (w : Thread) (step : Word) (uses : List LineUse) (l : List LaneRead) : State :=
  (s.fills w step (uses.map fun u => (0, u))).logWords w step l

/-- What the reads of lanes bring about: in the caches, and the records of lost words. -/
def State.noteReads (s : State) (w : Thread) (e : Entry) (l : List (Nat × LaneRead)) : State :=
  (s.fills w e.gstep (l.flatMap fun x => x.2.uses.map fun u => (s.gkey w x.1, u))).logLost w e l

/-- An interlocked read as its expander completes it, where no cache answers: one that times out delivers zero, with SRC 2 (06 R95, 07
R126). -/
def State.answered (s : State) (r : LaneRead) : LaneRead :=
  match r.uses.getLast? with
  | none => r
  | some u =>
    if (cxlPortOf u.pa).isSome && r.lost.isNone && !s.near u && !Config.cxlAnswers s.tick u.pa then
      { r with bytes := r.bytes.map fun _ => 0#8, lost := some 2 }
    else r

/-- The lowest address of a list. -/
def lowestAddr : List DWord → DWord
  | [] => 0#64
  | a :: r => r.foldl (fun m x => if x.toNat < m.toNat then x else m) a

/-- The traps that a load owes at its flag (07 R126, R128): MEMERR for lost words read strictly, WINDOW_RANGE for
elements past the source. -/
def owesOf (l : List (Nat × LaneRead)) : List TrapInfo :=
  let m := l.filter fun x => x.2.lost.isSome && x.2.strict
  let p := l.filter fun x => x.2.past
  (if m = [] then [] else [⟨.memerr, lowestAddr (m.map (·.2.addr)), maskOf (m.map (·.1))⟩])
    ++ (if p = [] then [] else [⟨.windowRange, lowestAddr (p.map (·.2.addr)), maskOf (p.map (·.1))⟩])

/-- An access that is answered: it waits for nothing any more. -/
def Far.answered (f : Far) (die : Nat) : Far := { f with pa := die / 4 * 2 ^ 38, sent := true }

/-- An access of a lane, which an L1 or L2 that holds the line answers at once. -/
def State.farUse (s : State) (w : Thread) (lane : Nat) (addr : DWord) (strict : Bool) (u : LineUse) : Far :=
  let f : Far := ⟨lane, u.pa, u.va, addr, u.n, strict, s.reaches w.die u.pa⟩
  if s.near u then f.answered w.die else f

/-- The accesses to memory among a load's reads. -/
def State.farOf (s : State) (w : Thread) (l : List (Nat × LaneRead)) : List Far :=
  l.flatMap fun x => x.2.uses.map (s.farUse w x.1 x.2.addr x.2.strict)

/-- The ranges that a load's accesses touch. -/
def farSpans (l : List Far) : List (Nat × Nat) := l.map fun f => (f.va.toNat, f.len)

/-- A shared read that must wait for a close (07 R125). -/
def State.readWaits (s : State) (w : Thread) (e : Entry) (sp : Space) : Bool :=
  match sp with
  | .global | .window => s.gridReadWaits w e
  | .stash => s.groupReadWaits w e
  | .priv => false

/-- Add an outstanding operation to a thread. -/
def Thread.addOp (w : Thread) (o : Op) : Thread := { w with ops := w.ops ++ [o] }

/-- Owe traps at a place. A load owes its traps from its issue on, so that the STEP or EXIT that comes first takes them
whether or not the data has arrived (07 R126, log 20). -/
def Thread.owe (w : Thread) (l : List TrapInfo) (d : Due) : Thread := { w with owed := w.owed ++ l.map fun i => ⟨i, d⟩ }

/-- LD (07 R123 to R128). The data is taken at issue and written when it arrives. -/
def execLd (sz : Size) (sp : Space) (h : Hint) (home : Option (BitVec 4)) (q : Bool) (g : Guard) (d : VReg) (a : LdBase)
    (b : Off) (s : State) : Out :=
  issue (.ld sz sp h home q g d a b) s fun s t w e c =>
    let ls := lanesOf (active w e g)
    if ls ≠ [] ∧ s.readWaits w e sp then .next (s.stallHere t w)
    else
      let addr := fun l => a.value w l + BitVec.ofNat 64 (b.value w l)
      if !(ls.all fun l => s.xlatReached w sp a sz l (addr l)) then .next (s.stallHere t w)
      else
      let rs := ls.map fun l => (l, s.readLane w sp h home a sz l (addr l))
      match firstCause (laneErrs rs) with
      | some (tr, l) => .next (s.trapAt t w c tr l)
      | none =>
        let ok := laneOks rs
        let far := s.farOf w ok
        let s := (s.noteReads w e ok).touched w (farSpans far)
        let words := ok.flatMap fun x =>
          (List.range sz.regs).zip (loadWords sz (x.2.addr.getLsbD 0) x.2.bytes) |>.map fun y => (vix (d.toNat + y.1) x.1, y.2)
        let o : Op := { uid := s.uid, flag := (c.flag q).getD 0, regs := (List.range sz.regs).map (d.toNat + ·), sreg := none
                        kind := .load words, far := far, since := s.time }
        .next ({ s with uid := s.uid + 1 }.retire t ((w.addOp o).owe (owesOf ok) (.flag o.flag)) e)

/-- LDU (07 R127). -/
def execLdu (stash wide : Bool) (h : Hint) (home : Option (BitVec 4)) (q : Bool) (d a : SReg) (b : SSrc) (s : State) : Out :=
  issue (.ldu stash wide h home q d a b) s fun s t w e c =>
    let sp := if stash then Space.stash else Space.global
    let sz := if wide then Size.b64 else Size.b32
    if s.readWaits w e sp then .next (s.stallHere t w)
    else
      let va := w.sreg a.toNat + b.value w
      if !s.xlatReached w sp (.s a) sz 0 va then .next (s.stallHere t w)
      else match s.readLane w sp h home (.s a) sz 0 va with
      | .error x => .next (s.trapAt t w c ⟨x.cause, x.addr, e.mask⟩ [(lowestLane e.mask, x.va)])
      | .ok r =>
        let low := lowestLane e.mask
        let far := s.farOf w [(low, r)]
        let s := (s.noteReads w e [(low, r)]).touched w (farSpans far)
        let o : Op := { uid := s.uid, flag := (c.flag q).getD 0, regs := [], sreg := some d.toNat
                        kind := .loadS d.toNat (BitVec.ofNat 64 (leNat r.bytes)), far := far, since := s.time }
        .next ({ s with uid := s.uid + 1 }.retire t ((w.addOp o).owe (owesOf [(low, r)]) (.flag o.flag)) e)

/-- The thread once an outstanding operation has completed. -/
def Thread.finish (w : Thread) (o : Op) : Thread := { w with ops := w.ops.filter (fun x => x.uid ≠ o.uid) }

/-- Every circuit that accesses of a die need was UP at their issue, or is UP (22 R337). -/
def State.farReached (s : State) (die : Nat) (l : List Far) : Bool := l.all fun f => f.sent || s.carries die f.pa

/-- The data of an LD or LDU arrives: its destinations are written and pending no longer (03 R38). Nothing comes of it
for an operation that is not outstanding. -/
def execLoadDataArrives (t op : Nat) (s : State) : Out :=
  match s.thread? t with
  | none => .next s
  | some w =>
    match w.ops.find? fun o => o.uid == op with
    | none => .next s
    | some o =>
      if !s.farReached w.die o.far then .next s
      else match o.kind with
      | .load ws => .next (s.setThread t ((w.setWords ws).finish o))
      | .loadS d x => .next (s.setThread t ((w.setS d x).finish o))
      | .stf _ _ _ _ _ => .next s

/-! ## Stores -/

/-- Where a lane's store goes. -/
inductive StDest where
  | global (pa : Nat) (leaf : DWord)
  | stash (off : Nat)
  | priv (pa : Nat)
deriving DecidableEq, Repr

/-- The destination of a lane's ST or STF (07 R129, R133). -/
def State.storeLane (s : State) (w : Thread) (sp : Space) (sz : Size) (lane : Nat) (a : DWord) : Except LaneErr StDest :=
  match sp with
  | .stash => (s.stashLane w sz a).map .stash
  | .priv =>
    match s.privLane w lane sz a .write with
    | .error x => .error x
    | .ok (pa, leaf) =>
      if leafTwin leaf then .error ⟨.twinPartial, a, s.privAddr w lane (byteAddr sz a).toNat⟩ else .ok (.priv pa)
  | .global | .window =>
    match s.globalLane w sz a .write with
    | .error x => .error x
    | .ok (pa, leaf) => if leafTwin leaf then .error ⟨.twinPartial, a, byteAddr sz a⟩ else .ok (.global pa leaf)

/-- The bytes that a lane stores: the low SIZE bits of its data registers (07 Table 7.1). -/
def storeBytes (w : Thread) (sz : Size) (c : VReg) (lane : Nat) : List Byte :=
  (((List.range sz.regs).flatMap fun i => leBytes 4 (w.vreg (c.toNat + i) lane).toNat).take sz.bytes).map fun b =>
    if sz = .b4 then b &&& 0x0F#8 else b

/-- Type of a SUM cell by SIZE and SUMTYPE (11 R254). -/
def sumTyOf (rule : Rule) (sz : Size) (fsum : Bool) : Option SumTy :=
  if rule = .sum then some (if sz = .b64 then .i64 else if fsum then .f32 else .i32) else none

/-- Commit-log entries of a context that are free (11 R259). -/
def State.logFree (s : State) (c : Nat) : Nat :=
  let cap := match s.context? c with
    | some x => x.clsize.toNat / 64
    | none => 0
  let saved := s.saves.flatMap fun i => if i.2.started then [] else i.2.grids
  cap - (((s.grids ++ saved).filter fun x => x.2.ctx == c).foldl (fun a x => x.2.logRes.foldl (fun b r => b + r.2) a) 0)

/-- Recording is on in a context (08 Table 8.5). -/
def State.recording (s : State) (c : Nat) : Bool :=
  match s.context? c with
  | some x => x.ctxcfg.getLsbD 1
  | none => false

/-- Resolution-ring records that an ANY store reserves: in normal mode, with recording on (11 R253). -/
def State.anyRecords (s : State) (w : Thread) (rule : Rule) (n : Nat) : Nat :=
  match s.grid? w.grid with
  | some g => if rule = .any ∧ g.pkt.det = false ∧ s.recording w.ctx = true then n else 0
  | none => 0

/-- Why a store's reservations fail (07 R132, 20 R329): n commit-log entries, k ring records. -/
def State.reserveTrap (s : State) (w : Thread) (n k : Nat) (addr : DWord) (m : Mask) : Option TrapInfo :=
  if s.logFree w.ctx < n ∧ n ≠ 0 then some ⟨.logfull, addr, m⟩
  else if k ≠ 0 ∧ s.ringFull w.die (32 * k) = true then some ⟨.rlogFull, (s.die w.die).rring.base, m⟩
  else none

/-- Make the reservations of a global store. -/
def State.reserveGlobal (s : State) (w : Thread) (step : Word) (n k : Nat) : State :=
  let s := if k = 0 then s else s.ringReserve w.die (32 * k)
  s.modGrid w.grid fun g =>
    { g with logRes := if n = 0 then g.logRes else g.logRes ++ [(step, n)]
             rlRes := if k = 0 then g.rlRes else g.rlRes ++ [(step, w.die, k)] }

def State.reserveStash (s : State) (w : Thread) (step : Word) (k : Nat) : State :=
  if k = 0 then s
  else (s.ringReserve w.die (32 * k)).modGroup w.group fun p => { p with rlRes := p.rlRes ++ [(step, w.die, k)] }

/-- A lane's private store, complete at once (07 R129), in the L1 that holds the lane's private lines (13 R281). -/
def State.storePriv (s : State) (w : Thread) (e : Entry) (lane : Nat) (a : DWord) (pa : Nat) (nib : Option Bool) (bs : List Byte) :
    State :=
  let put := s.storePrivate w e.gstep (s.gkey w lane) (s.privAddr w lane a.toNat) pa
  match nib, bs with
  | some h, b :: _ => put [mergeNib ((s.privRead w pa 1).headD 0#8) h b.toNat]
  | some _, [] => s
  | none, _ => put bs

/-- A pending write of a lane. -/
def laneWrite (s : State) (w : Thread) (step : Word) (sz : Size) (rule : Rule) (fsum : Bool) (c : VReg) (stf : Option Nat)
    (lane : Nat) (a : DWord) (pa order : Nat) (strict : Bool) : PWrite :=
  { step := step, va := (byteAddr sz a).toNat, pa := pa, nib := if sz = .b4 then some (a.getLsbD 0) else none
    data := storeBytes w sz c lane, rule := rule, sum := sumTyOf rule sz fsum, w := ⟨s.gkey w lane, 0, 0⟩, stf := stf
    order := order, die := w.die, strict := strict }

/-- Perform the stores of lanes, in ascending lane. -/
def State.performStores (s : State) (w : Thread) (e : Entry) (sz : Size) (rule : Rule) (fsum : Bool) (c : VReg)
    (stf : Option Nat) (l : List (Nat × DWord × StDest)) : State :=
  l.foldl (fun s x =>
    match x.2.2 with
    | .priv pa => s.storePriv w e x.1 (byteAddr sz x.2.1) pa (if sz = .b4 then some (x.2.1.getLsbD 0) else none) (storeBytes w sz c x.1)
    | .global pa leaf =>
      let p := laneWrite s w e.gstep sz rule fsum c stf x.1 x.2.1 pa s.uid (s.strictAt w leaf)
      { s with uid := s.uid + 1 }.modGrid w.grid fun g => { g with pend := g.pend ++ [p] }
    | .stash o =>
      let p := laneWrite s w e.wstep sz rule fsum c stf x.1 x.2.1 o s.uid (s.strict w.ctx)
      { s with uid := s.uid + 1 }.modGroup w.group fun q => { q with pend := q.pend ++ [p] }) s

/-- Entries that a lane's store to a CELL page reserves (11 Table 11.4). -/
def cellEntries (sz : Size) : Nat := if sz = .b128 then 2 else 1

/-- The translations of a store can be had, and a private one, which completes at once, reaches its line (22 R337). -/
def State.storeReached (s : State) (w : Thread) (sp : Space) (sz : Size) (lane : Nat) (a : DWord) : Bool :=
  match sp with
  | .stash => true
  | .priv => s.privReached w (s.privAddr w lane (byteAddr sz a).toNat) sz.bytes
  | .global | .window => s.walkReached w.mmu w.ctx (byteAddr sz a)

/-- The ranges that a store's lanes touch. -/
def State.storeSpans (s : State) (w : Thread) (sp : Space) (sz : Size) (l : List (Nat × DWord × StDest)) : List (Nat × Nat) :=
  match sp with
  | .stash => []
  | .priv => l.map fun x => ((s.privAddr w x.1 (byteAddr sz x.2.1).toNat).toNat, sz.bytes)
  | .global | .window => l.map fun x => ((byteAddr sz x.2.1).toNat, sz.bytes)

/-- The checks and reservations of a store, then `k` with the state that holds them and each lane's destination. -/
def storeChecked (s : State) (t : Nat) (w : Thread) (e : Entry) (c : Clause) (sp : Space) (sz : Size) (rule : Rule)
    (ls : List Nat) (addr : Nat → DWord) (k : State → List (Nat × DWord × StDest) → Out) : Out :=
  if !(ls.all fun l => s.storeReached w sp sz l (addr l)) then .next (s.stallHere t w)
  else
  let rs := ls.map fun l => (l, s.storeLane w sp sz l (addr l))
  match firstCause (laneErrs rs) with
  | some (tr, l) => .next (s.trapAt t w c tr l)
  | none =>
    let ok := (laneOks rs).map fun x => (x.1, addr x.1, x.2)
    let n := if sp = .global then ok.length * cellEntries sz else 0
    let r := if sp = .priv then 0 else s.anyRecords w rule ok.length
    if r ≠ 0 ∧ s.ringOpen w.die .resolution = false then .next (s.stallHere t w)
    else match s.reserveTrap w n r (addr (ls.headD 0)) (maskOf ls) with
    | some tr => .next (s.trapHere t w c tr)
    | none =>
      let s := if sp = .global then s.reserveGlobal w e.gstep n r else s.reserveStash w e.wstep r
      k (s.touched w (s.storeSpans w sp sz ok)) ok

/-- ST (07 R129 to R133). -/
def execSt (sz : Size) (sp : Space) (rule : Rule) (fsum : Bool) (g : Guard) (a : StBase) (b : Off) (c : VReg) (s : State) :
    Out :=
  issue (.st sz sp rule fsum g a b c) s fun s t w e k =>
    let ls := lanesOf (active w e g)
    let addr := fun l => a.value w l + BitVec.ofNat 64 (b.value w l)
    storeChecked s t w e k sp sz rule ls addr fun s ok =>
      .next ((s.performStores w e sz rule fsum c none ok).retire t w e)

/-- STF (07 R134): its destinations are pending until the close of the step that it joins. -/
def execStf (sz : Size) (stash : Bool) (rule : Rule) (q : Bool) (g : Guard) (d : VReg) (a : StBase) (b : Off) (c : VReg)
    (s : State) : Out :=
  issue (.stf sz stash rule q g d a b c) s fun s t w e k =>
    let m := active w e g
    let sp := if stash then Space.stash else Space.global
    let addr := fun l => a.value w l + BitVec.ofNat 64 (b.value w l)
    storeChecked s t w e k sp sz rule (lanesOf m) addr fun s ok =>
      let u := s.uid
      let s := ({ s with uid := u + 1 }).performStores w e sz rule false c (some u) ok
      let o : Op := { uid := u, flag := (k.flag q).getD 0, regs := (List.range sz.regs).map (d.toNat + ·), sreg := none
                      kind := .stf (!stash) (if stash then e.wstep else e.gstep) d.toNat (sz == .b64) m, far := [], since := s.time }
      .next (s.retire t (w.addOp o) e)

/-! ## STL (07 R136) -/

/-- Lanes 8m + j of an octet that take part. -/
def octetOf (ls : List Nat) (m : Nat) : List Nat := ls.filter fun l => l / 8 == m

/-- An octet on TWIN pages covers one aligned line. -/
def octetWhole (ls : List Nat) (addr : Nat → DWord) (m : Nat) : Bool :=
  (octetOf ls m).length == 8 && decide ((addr (8 * m)).toNat % 128 = 0)
    && (octetOf ls m).all fun l => addr l == addr (8 * m) + BitVec.ofNat 64 (16 * (l - 8 * m))

/-- The page of a lane's store is a TWIN page. -/
def onTwin (x : Nat × Except LaneErr (Nat × DWord)) : Bool :=
  match x.2 with
  | .ok (_, leaf) => leafTwin leaf
  | .error _ => false

/-- FAULTMASK of TWIN_PARTIAL names every lane of an octet (07 R136); an ember's trap names its own lane alone (08 R184). -/
def octetMask (w : Thread) (i : TrapInfo) : TrapInfo :=
  if i.cause = .twinPartial ∧ w.ember = none then
    { i with mask := maskOf ((List.range 128).filter fun l => (lanesOf i.mask).any fun k => k / 8 == l / 8) }
  else i

/-- Each lane's destination, with TWIN_PARTIAL for the lanes of an octet that meets a TWIN page and is not whole. -/
def State.stlLanes (s : State) (w : Thread) (ls : List Nat) (addr : Nat → DWord) :
    List (Nat × Except LaneErr (Nat × DWord)) :=
  let rs := ls.map fun l => (l, s.globalLane w .b128 (addr l) .write)
  rs.map fun x =>
    let m := x.1 / 8
    if (rs.any fun y => y.1 / 8 == m && onTwin y) && (w.ember.isSome || !octetWhole ls addr m) then
      match x.2 with
      | .ok _ => (x.1, .error ⟨.twinPartial, addr x.1, addr x.1⟩)
      | .error e => (x.1, .error e)
    else x

/-- Perform an STL: CELL lanes store 16 bytes each; the lowest lane of each TWIN octet writes its line. -/
def State.performStl (s : State) (w : Thread) (e : Entry) (rule : Rule) (c : VReg) (det : Bool)
    (l : List (Nat × DWord × Nat × DWord)) : State :=
  l.foldl (fun s x =>
    let (lane, a, pa, leaf) := x
    if leafTwin leaf then
      if lane % 8 = 0 then
        s.twinWrite pa det { grid := w.grid, step := e.gstep, va := a.toNat
                             data := (List.range 8).flatMap fun j => storeBytes w .b128 c (lane + j)
                             rule := rule, w := ⟨s.gkey w lane, 0, 0⟩, die := w.die }
      else s
    else
      let p := laneWrite s w e.gstep .b128 rule false c none lane a pa s.uid (s.strictAt w leaf)
      { s with uid := s.uid + 1 }.modGrid w.grid fun g => { g with pend := g.pend ++ [p] }) s

/-- STL (07 R136). -/
def execStl (rule : Rule) (g : Guard) (a : StBase) (b : Off) (c : VReg) (s : State) : Out :=
  issue (.stl rule g a b c) s fun s t w e k =>
    let ls := lanesOf (active w e g)
    let addr := fun l => a.value w l + BitVec.ofNat 64 (b.value w l)
    let rs := s.stlLanes w ls addr
    if !(ls.all fun l => s.walkReached w.mmu w.ctx (addr l)) then .next (s.stallHere t w)
    else match firstCause (laneErrs rs) with
    | some (tr, l) => .next (s.trapAt t w k (octetMask w tr) l)
    | none =>
      let ok := (laneOks rs).map fun x => (x.1, addr x.1, x.2)
      let twin := (ok.filter fun x => leafTwin x.2.2.2).length / 8
      let cell := (ok.filter fun x => !leafTwin x.2.2.2).length
      let r := s.anyRecords w rule ls.length
      let det := match s.grid? w.grid with
        | some g => g.pkt.det
        | none => false
      if r ≠ 0 ∧ s.ringOpen w.die .resolution = false then .next (s.stallHere t w)
      else match s.reserveTrap w (2 * cell + twin) r (addr (ls.headD 0)) (maskOf ls) with
      | some tr => .next (s.trapHere t w k tr)
      | none =>
        let s := s.touched w (ok.map fun x => (x.2.1.toNat, 16))
        .next (((s.reserveGlobal w e.gstep (2 * cell + twin) r).performStl w e rule c det ok).retire t w e)

/-- The address that a PREF of a lane asks for: its own, or of a window that of its index word alone (13 R276). -/
def State.prefVa (s : State) (w : Thread) (a : LdBase) (o : DWord) : Option DWord :=
  match a with
  | .s _ | .v _ => some o
  | .w n => match s.window? w.ctx n.toNat with
    | none => none
    | some d =>
      if o.toNat % winEsize d ≠ 0 ∨ winLen d ≤ o.toNat / winEsize d then none
      else some (BitVec.ofNat 64 (winIbase d + 4 * (o.toNat / winEsize d)))

/-- The line that a PREF of a lane brings nearer. An address that would fault is discarded. -/
def State.prefSpan (s : State) (w : Thread) (a : LdBase) (o : DWord) : List (Nat × Nat) :=
  match s.prefVa w a o with
  | none => []
  | some va => match s.access w.mmu w.ctx va .read with
    | .ok _ => [(va.toNat / 128 * 128, 128)]
    | .error _ => []

/-- The way of the line that a PREF of a lane brings nearer: of a window its index word's (13 R276). A line whose home is not reached is
brought nowhere. -/
def State.prefUse (s : State) (w : Thread) (h : Hint) (home : Option (BitVec 4)) (a : LdBase) (o : DWord) : List LineUse :=
  match s.prefVa w a o with
  | none => []
  | some va => match s.access w.mmu w.ctx va .read with
    | .ok (pa, leaf) =>
      let u := match a with
        | .w _ => throughL2 w va pa leaf 4
        | .s _ => s.globalUse w (h != .stream) (h == .keep) home va pa leaf 1
        | .v _ => s.globalUse w (h != .stream) (h == .keep) home va pa leaf 1
      if s.near u || s.reaches w.die pa then [u] else []
    | .error _ => []

/-- PREF (07 R137): it brings its lines nearer (13 Table 13.2), and changes no state that a program can read; it touches pinned ranges (22
R342), and its walks leave the records of malformed entries (19 R316). -/
def execPref (h : Hint) (home : Option (BitVec 4)) (g : Guard) (a : LdBase) (b : Off) (s : State) : Out :=
  issue (.pref h home g a b) s fun s t w e _ =>
    let at' := (lanesOf (active w e g)).map fun l => (l, a.value w l + BitVec.ofNat 64 (b.value w l))
    let s' := s.noteMalformed w (at'.filterMap fun x => (s.prefVa w a x.2).map fun va => (x.1, va))
    let s' := s'.fills w e.gstep (at'.flatMap fun x => (s.prefUse w h home a x.2).map fun u => (s.gkey w x.1, u))
    .next ((s'.touched w (at'.flatMap fun x => s.prefSpan w a x.2)).retire t w e)

end Sys2Proof.Machine
end

