-- ==== Sys2Proof/Machine/Queues.lean ====
section
/-! DEFINITION. Queues, packets, events and refusals (18 R291 to R297, R303), and lines that peer modules have sent (22
R339). -/

namespace Sys2Proof.Machine

/-! ## Queues (18 R291, R292) -/

/-- Slots of a queue that are free. -/
def Queue.free (q : Queue) : Nat := 2 ^ q.log2 - ((q.widx - q.ridx).toNat + q.enq.length + q.reserved)

/-- Address of the ring slot that the read index names. -/
def Queue.slot (q : Queue) : DWord := q.base + BitVec.ofNat 64 (q.ridx.toNat % 2 ^ q.log2 * 128)

/-- The head of a queue: its 128 bytes, the address the packet was read at, whether the ring holds it, and the queue
without it. -/
structure Head where
  bytes : List Byte
  addr : DWord
  ring : Bool
  rest : Queue
deriving DecidableEq, Repr

/-- The packet at the read index of the ring. -/
def State.ringHead (s : State) (q : Queue) : Head :=
  { bytes := s.readAt q.slot 128, addr := q.slot, ring := true, rest := { q with ridx := q.ridx + 1 } }

/-- The die that reads for a context's launches: its lowest live one. -/
def State.launchDie (s : State) (x : Context) : Nat := (s.lowestLiveIn x.dieset).getD 0

/-- The memory that an operand of the part names is reached: host memory always is (22 R337, R345). -/
def State.opReached (s : State) (die : Nat) (a : DWord) : Bool := a.getLsbD 63 || s.reaches die a.toNat

/-- The head of a context's queue. A packet that a LAUNCH enqueued follows the packets that the ring held at that moment; one in a
ring that is not reached cannot be read yet (22 R337). -/
def State.queueHead (s : State) (x : Context) (q : Queue) : Option Head :=
  let ring := if s.opReached (s.launchDie x) q.slot then some (s.ringHead q) else none
  match q.enq with
  | y :: r =>
    if y.mark = q.ridx ∨ q.ridx = q.widx then
      some { bytes := y.bytes, addr := y.addr, ring := false, rest := { q with enq := r } }
    else ring
  | [] => if q.ridx = q.widx then none else ring

/-! ## Packets (18 Table 18.2) -/

/-- The fields of a packet's bytes. -/
def packetOf (bs : List Byte) : Packet :=
  let x := leNat bs
  let d := fun o => BitVec.ofNat 64 (bits x (8 * o) 64)
  let w := bits x 384 64
  let e := bits x 448 64
  { kdesc := d 0, karg := d 8, seed := d 16, pbase := d 24, cpladdr := d 32, n := bits x 320 32, dtsel := bits x 352 32
    diemask := BitVec.ofNat 16 (bits w 48 16), privsz := bits w 33 15, vm1 := bits w 28 5, queue := bits w 22 6
    prio := bits w 20 2, det := decide (bits w 19 1 = 1), step := decide (bits w 18 1 = 1), ovr := decide (bits w 17 1 = 1)
    copywave := bits w 12 5, e := bits w 8 4, rejoin := bits e 48 16, wait0 := BitVec.ofNat 16 (bits e 32 16)
    wait1 := BitVec.ofNat 16 (bits e 16 16), sigev := BitVec.ofNat 16 (bits e 0 16)
    sigv := decide (bits x 514 1 = 1), w1v := decide (bits x 513 1 = 1), w0v := decide (bits x 512 1 = 1)
    spilln := bits x 576 32 }

/-- Events that a packet waits on. -/
def Packet.waitsOn (p : Packet) : List Nat :=
  (if p.w0v then [p.wait0.toNat] else []) ++ (if p.w1v then [p.wait1.toNat] else [])

/-! ## Events (18 R296, R297) -/

/-- The event is SET. -/
def State.eventSet (s : State) (c e : Nat) : Bool := s.events.contains (c, e) || s.evSpill.contains (c, e)

/-- Events that the heads of queues name. -/
def State.namedEvents (s : State) : List (Nat × Nat) :=
  nub (s.contexts.flatMap fun c => c.2.queues.flatMap fun q =>
    match s.queueHead c.2 q.2 with
    | some h => (packetOf h.bytes).waitsOn.map fun e => (c.1, e)
    | none => [])

/-- Events of the module that queue heads wait on and that are not SET. -/
def State.waitedEvents (s : State) : List (Nat × Nat) := s.namedEvents.filter fun x => !s.eventSet x.1 x.2

/-- One of the table's 4,096 entries is free. -/
def State.tableFree (s : State) : Bool := decide (s.events.length + s.evWaits.length < 4096)

/-- An entry that the full table does not take is counted and logged (18 R297). -/
def State.countSpill (s : State) (c e : Nat) : State :=
  { s with evSpills := s.evSpills + 1 }.errRec s.lowestLive 0x11 0 0#64 0#32 0 e c

/-- Set an event of a context: in its entry, in a new one, or with the table full in the spill list (18 R297). -/
def State.signal (s : State) (c e : Nat) : State :=
  if s.eventSet c e then s
  else if s.evWaits.contains (c, e) then
    { s with events := s.events ++ [(c, e)], evWaits := s.evWaits.filter (· != (c, e)) }
  else if s.evWaitSpill.contains (c, e) then
    { s with evSpill := s.evSpill ++ [(c, e)], evWaitSpill := s.evWaitSpill.filter (· != (c, e)) }
  else if s.tableFree then { s with events := s.events ++ [(c, e)] }
  else { s with evSpill := s.evSpill ++ [(c, e)] }.countSpill c e

/-- Clear an event: its entry stays where a queue head names it, and goes where none does (18 R297). -/
def State.clearEvent (s : State) (c e : Nat) : State :=
  let kept := fun (l : List (Nat × Nat)) => if l.contains (c, e) && s.namedEvents.contains (c, e) then [(c, e)] else []
  { s with events := s.events.filter (· != (c, e)), evSpill := s.evSpill.filter (· != (c, e))
           evWaits := s.evWaits ++ kept s.events, evWaitSpill := s.evWaitSpill ++ kept s.evSpill }

/-- The waits of the heads of queues: each has an entry, in the spill list where the table is full (18 R297). -/
def State.noteWaits (s : State) : State :=
  let need := s.waitedEvents
  if need.isEmpty && s.evWaits.isEmpty && s.evWaitSpill.isEmpty then s
  else need.foldl (fun s x =>
    if s.evWaits.contains x || s.evWaitSpill.contains x then s
    else if s.tableFree then { s with evWaits := s.evWaits ++ [x] }
    else { s with evWaitSpill := s.evWaitSpill ++ [x] }.countSpill x.1 x.2)
    { s with evWaits := s.evWaits.filter need.contains, evWaitSpill := s.evWaitSpill.filter need.contains }

/-! ## Refusals (18 R295, R303) -/

/-- A launch is refused: its record, the count, and the context's interrupt. The count is that of the context's lowest live
die (log 23). -/
def State.refuse (s : State) (c status queue : Nat) (addr cpladdr : DWord) : State :=
  let s := s.complete c cpladdr 0#32 status
  let die := match s.context? c with
    | some x => (s.lowestLiveIn x.dieset).getD 0
    | none => 0
  let s := s.modDie die fun d => { d with refused := d.refused + 1 }
  s.notifyCtx c 0x01 (status + queue * 2 ^ 16) addr 0#64

/-! ## Arrived peer lines (22 R339) -/

/-- A committed write whose home's link is down is dropped and logged (22 R335). -/
def State.dropWrite (s : State) (die va : Nat) (step : Word) (key c : Nat) : State :=
  s.uncorrected die 3 (BitVec.ofNat 64 va) step key 1 c

/-- Apply one line: on a TWIN page it is one whole-line write. -/
def State.applyPeer (s : State) (l : PeerLine) : State :=
  if s.linkDown l.pa then s.dropWrite s.lowestLive l.va 0#32 0 l.ctx
  else
    let s := s.touchPa l.pa 128
    let old := s.readBytes l.pa 128
    let s := s.commitLines l.pa l.data
    match l.twin, aget? s.twins (l.pa / 128) with
    | true, some t =>
      if t.pend.isNone then { s with twins := aset s.twins (l.pa / 128) { t with cur := !t.cur, other := old } } else s
    | _, _ => s

/-- Lines to apply for a context: those of the transfers that have arrived whole, in order of the arrival of their last lines. -/
def State.arrivedLines (s : State) (c : Nat) : List PeerLine := s.peersIn.filter fun l => l.ctx == c && l.whole

/-- Apply the transfers that have arrived for a context, in order of arrival. -/
def State.applyPeers (s : State) (c : Nat) : State :=
  let l := s.arrivedLines c
  if l.isEmpty then s
  else
    let s' := l.foldl (fun s l => s.applyPeer l) s
    { s' with peersIn := s.peersIn.filter fun x => !(x.ctx == c && x.whole) }

end Sys2Proof.Machine
end

