-- ==== Sys2Proof/Machine/Control.lean ====
section
/-! DEFINITION. The control and system family (08 R176 to R196), ejection to the embers and rejoin (10 R233 to R237), and
STEPW, STEPG and PAUSE (07 R142 to R147). -/

namespace Sys2Proof.Machine

/-! ## Addresses -/

/-- X + 8 x TGT (05 R77). -/
def Clause.target (c : Clause) (tgt : BitVec 20) : DWord := c.here + (tgt.signExtend 64 <<< 3)

/-- Send the whole path to an address. -/
def State.jump (s : State) (t : Nat) (w : Thread) (e : Entry) (a : DWord) : State :=
  s.retirePath t w e fun e => { e with pc := fieldOf a }

/-! ## Ember contexts (10 R233, R240, R244) -/

/-- The cluster of a wave's hearth, by die x 16 + cluster: eight hearths to a cluster. -/
def Thread.clusterOf (w : Thread) : Nat := w.die * 16 + w.hearth / 8

def Thread.onCluster (w : Thread) (k : Nat) : Bool :=
  match w.ember with
  | some e => e.cluster == k
  | none => false

def Thread.childOf (w : Thread) (t : Nat) : Bool :=
  match w.ember with
  | some e => e.parent == t
  | none => false

/-- Contexts of a cluster that deterministic waves reserve (10 R244). -/
def State.reservedContexts (s : State) (k : Nat) : Nat :=
  (s.threads.filter fun x => x.2.ember.isNone && !x.2.ended && x.2.clusterOf == k && s.detGrid x.2.grid).foldl
    (fun a x => a + (match s.grid? x.2.grid with
      | some g => g.e
      | none => 0)) 0

/-- Contexts that a wave's branch may use: its own reserve in deterministic mode, else those neither held nor reserved. -/
def State.freeContexts (s : State) (t : Nat) (w : Thread) : Nat :=
  if s.detGrid w.grid then
    (match s.grid? w.grid with
      | some g => g.e
      | none => 0) - (s.threads.filter fun x => x.2.childOf t).length
  else
    128 - s.reservedContexts w.clusterOf - (s.threads.filter fun x => x.2.onCluster w.clusterOf && !s.detGrid x.2.grid).length

/-- The lowest-numbered context of a cluster that holds no lane (15 R288). -/
def State.lowestContext (s : State) (k : Nat) : Nat :=
  ((List.range 128).find? fun c => !s.threads.any fun x => match x.2.ember with
    | some e => e.cluster == k && e.ctxno == c
    | none => false).getD 0

/-! ## The live set (08 R188, R190) -/

/-- The v register is in the live set. -/
def LiveSet.has (l : Option LiveSet) (r : Nat) : Bool :=
  match l with
  | none => true
  | some x => x.vmap.getLsbD r

/-- The live v registers of a lane that an outstanding LD or FBRD holds pending. -/
def Thread.awaitedRegs (w : Thread) (live : Option LiveSet) (lane : Nat) : List Nat :=
  nub (w.ops.flatMap fun o => match o.kind with
    | .load ws => (ws.filter fun x => x.1 % 128 == lane && LiveSet.has live (x.1 / 128)).map fun x => x.1 / 128
    | .loadS _ _ => []
    | .stf _ _ _ _ _ => [])

/-- An outstanding LD, LDU or FBRD holds a register of the live set pending for the lane (10 R234). -/
def Thread.awaits (w : Thread) (live : Option LiveSet) (lane : Nat) : Bool :=
  !(w.awaitedRegs live lane).isEmpty || w.ops.any fun o => match o.kind with
    | .loadS _ _ => true
    | .load _ => false
    | .stf _ _ _ _ _ => false

/-- What a context receives from the wave for one lane at the branch (10 R234): live v registers, p bits, the s
registers. -/
def Thread.handTo (w : Thread) (lane : Nat) (x : Thread) : Thread :=
  { x with v := w.v.filter fun k => k.1 % 128 == lane && LiveSet.has x.live (k.1 / 128)
           badV := w.badV.filter fun k => k % 128 == lane && LiveSet.has x.live (k / 128)
           p := (w.p.map fun k => (k.1, k.2 &&& laneBit lane)).filter fun k => k.2 != 0#128
           s := w.s, badS := w.badS }

/-- What a context that waited receives once the data has arrived: the registers it waited for, and the s registers and TSP
as the wave has them at the hand-over (10 R234, 19 R306). Results of STFs that have landed in the context stay. -/
def Thread.handLate (w : Thread) (e : Ember) (x : Thread) : Thread :=
  { (x.setWords (e.awaited.map fun r => (vix r e.lane, tget 0#32 w.v (vix r e.lane)))) with
    badV := (x.badV.filter fun k => !e.awaited.contains (k / 128)) ++ w.badV.filter fun k =>
      k % 128 == e.lane && e.awaited.contains (k / 128)
    s := w.s, badS := w.badS, tsp := w.tsp }

/-- The lane's part of an STF whose destination is pending. -/
def Op.part (o : Op) (m : Mask) : Option Op :=
  match o.kind with
  | .stf g st d pr ls => if ls &&& m = 0#128 then none else some { o with kind := .stf g st d pr (ls &&& m) }
  | .load _ => none
  | .loadS _ _ => none

/-- The operation without the lanes' part. -/
def Op.without (o : Op) (m : Mask) : Op :=
  match o.kind with
  | .stf g st d pr ls => { o with kind := .stf g st d pr (ls &&& ~~~m) }
  | .load _ => o
  | .loadS _ _ => o

/-- An ember context that takes a lane of an ejected entry (10 R234). `w` is the wave, `batch` the group's name; `wait` says that the
hand-over of the group waits for data. -/
def emberOf (w : Thread) (t cluster ctxno batch lane : Nat) (wait : Bool) (e : Entry) : Thread :=
  let m := laneBit lane
  let x : Thread :=
    { w with
      ember := some { cluster := cluster, ctxno := ctxno, batch := batch, parent := t, lane := lane
                      phase := if wait then .waiting else .handover, awaited := w.awaitedRegs w.live lane
                      atStepg := false }
      launched := m, exited := 0#128, v := [], s := [], p := [], acc := [], f := [], fc := []
      stack := [{ e with mask := m, st := .running, ej := false }], spilled := 0, susp := none, gcnt := e.gstep
      wcnt := e.wstep, clause := none, faultmask := 0#128, handler := false, hcause := none
      ops := w.ops.filterMap (·.part m), owed := [], low := [], held := [], stalled := false, halted := false, stopped := false
      promo := false, ready := none, rejoinCount := 0, gwatch := 0, wwatch := 0, badV := [], badS := []
      badAcc := [] }
  w.handTo lane x

/-- Give the lanes of an ejected entry a context each, in ascending LANEID. -/
def State.ejectEntry (s : State) (t : Nat) (e : Entry) : State :=
  let batch := s.uid
  let wait := (s.thread? t).any fun w => (lanesOf e.mask).any fun l => w.awaits w.live l
  (lanesOf e.mask).foldl (fun s l =>
    match s.thread? t with
    | none => s
    | some w =>
      let x := emberOf w t w.clusterOf (s.lowestContext w.clusterOf) batch l wait e
      let s := s.setThread t { w with ops := w.ops.map (·.without (laneBit l)) }
      { s with uid := s.uid + 1 }.setThread s.uid x) s

/-! ## Branching (08 R169, R170) -/

/-- A group that a branch refused to eject, with the contexts free at the decision. -/
structure Refused where
  arm : Arm
  free : Nat
deriving DecidableEq, Repr

/-- Decide on the groups other than the first, in ascending target (10 R233). -/
def ejections (e free : Nat) : List Arm → List (BitVec 56) × List Refused
  | [] => ([], [])
  | a :: r =>
    let n := laneCount a.mask
    if n ≤ e ∧ n ≤ free then
      let x := ejections e (free - n) r
      (a.target :: x.1, x.2)
    else
      let x := ejections e free r
      (x.1, ⟨a, free⟩ :: x.2)

/-- The groups of a branch that may be ejected: those that are neither at the join nor the first. -/
def laterArms (arms : List Arm) (jn : BitVec 56) : List Arm :=
  let rest := arms.filter fun a => a.target != jn
  match firstArm rest with
  | none => []
  | some f => rest.filter fun a => a.target != f.target

/-- A refusal record (20 Table 20.7). -/
def refusalRec (x : Refused) (branch : DWord) (w : Thread) (key : Nat) : List Byte :=
  let off := (BitVec.signExtend 64 (x.arm.target - fieldOf branch)).extractLsb' 0 32
  leBytes 8 (0x21 * 2 ^ 56 + laneCount x.arm.mask % 256 * 2 ^ 48 + w.ctx % 65536 * 2 ^ 32 + x.free)
    ++ leBytes 8 (w.wcnt.toNat * 2 ^ 32 + off.toNat) ++ leBytes 8 (w.gcnt.toNat * 2 ^ 32 + key % 2 ^ 32)
    ++ leBytes 8 branch.toNat

/-- A divergent branch: the entries are pushed, the ejected ones handed to ember contexts, refusals recorded. The path
keeps its count, the branch included, in every copy (02 R24). -/
def State.diverge (s : State) (t : Nat) (w : Thread) (e : Entry) (c : Clause) (arms : List Arm) (jn : BitVec 56)
    (ej : List (BitVec 56)) (refused : List Refused) : State :=
  let s := s.countRetire w e
  let e' := { e with icnt := e.icnt + 1 }
  let es := branchStack (onRunning (fun _ => e') (s.entries w)) e' arms jn ej
  let s := (s.noteSpill w es.length).putEntries t { w.advance with clause := none } es
  let s := ((branchPushes e' arms jn ej).filter (·.ej)).foldl (fun s x => s.ejectEntry t x) s
  let s := refused.foldl (fun s x => s.ringPut w.die .resolution (refusalRec x c.here w (s.gkey w 0))) s
  { s with cur := none }

/-- BRC and JT once each lane has its target (08 R169, R170, R175). A branch that meets both RLOG_FULL and a push with no
place traps RLOG_FULL: the model's choice (log 73). -/
def State.branch (s : State) (t : Nat) (w : Thread) (e : Entry) (c : Clause) (l : List (Nat × BitVec 56)) (jn : BitVec 56)
    (ej : Bool) : State :=
  let arms := armsOf l
  match arms with
  | [] => s.retire t w e
  | [a] => s.retirePath t w e fun e => { e with pc := a.target }
  | _ =>
    let may := ej && w.ember.isNone
    let later := laterArms arms jn
    let dec := if may then ejections w.eject.toNat (s.freeContexts t w) later else ([], [])
    let recs := may && !s.detGrid w.grid && s.recording w.ctx
    if recs && !s.ringOpen w.die .resolution then s.stallHere t w
    else if recs && s.ringFull w.die (32 * later.length) then
      s.trapHere t w c ⟨.rlogFull, (s.die w.die).rring.base, e.mask⟩
    else
      let n := (s.entries w).length + (branchPushes e arms jn dec.1).length
      if 16 < n && !s.spillReached w n then s.stallHere t w
      else match (if 16 < n then s.spillTrap w n else none) with
      | some (k, a) => s.trapHere t w c ⟨k, a, e.mask⟩
      | none => s.diverge t w e c arms jn dec.1 (if recs then dec.2 else [])

/-! ## BR, BRC, JT, JOIN, CALL, RET -/

def execBr (tgt : BitVec 20) (s : State) : Out :=
  issue (.br tgt) s fun s t w e c => .next (s.jump t w e (c.target tgt))

/-- BRC (08 R178). -/
def execBrc (g : Guard) (tgt jn : BitVec 20) (ej : Bool) (s : State) : Out :=
  issue (.brc g tgt jn ej) s fun s t w e c =>
    let m := g.lanes w
    let l := (lanesOf e.mask).map fun i =>
      (i, if m.getLsbD i then fieldOf (c.target tgt) else fieldOf (c.here + 8#64))
    .next (s.branch t w e c l (fieldOf (c.target jn)) ej)

/-- A jump table's entry count and the offsets of lanes, or the trap (08 R179, R180). -/
def State.tableTargets (s : State) (w : Thread) (e : Entry) (a : VReg) (tab : DWord) :
    Except TrapInfo (List (Nat × BitVec 56)) :=
  match s.codeWord w tab with
  | .error k => .error ⟨k, tab, e.mask⟩
  | .ok hd =>
    let m := bits hd.toNat 0 13
    if bits hd.toNat 13 51 ≠ 0 ∨ m = 0 ∨ 4096 < m then .error ⟨.reservedEnc, 0#64, e.mask⟩
    else
      let ls := lanesOf e.mask
      let out := ls.filter fun l => decide (m ≤ (w.vreg a.toNat l).toNat)
      if out ≠ [] then .error ⟨.jtRange, tab, maskOf out⟩
      else ls.mapM fun l =>
        let k := (w.vreg a.toNat l).toNat
        let va := tab + BitVec.ofNat 64 (8 + 4 * k)
        match s.access w.mmu w.ctx va .read with
        | .error x => .error ⟨x, va, e.mask⟩
        | .ok (pa, _) =>
          let off : Word := BitVec.ofNat 32 (leNat (s.cleanBytes pa 4))
          .ok (l, fieldOf (tab + (off.signExtend 64 <<< 3)))

/-- The words of the entries that a JT reads are reached (22 R337). -/
def State.tableReached (s : State) (w : Thread) (e : Entry) (a : VReg) (tab : DWord) : Bool :=
  (lanesOf e.mask).all fun l => s.pageReached w.mmu w.ctx (tab + BitVec.ofNat 64 (8 + 4 * (w.vreg a.toNat l).toNat))

/-- What JT's reads of its table bring about besides their values. -/
def State.noteTable (s : State) (w : Thread) (e : Entry) (a : VReg) (tab : DWord) : State :=
  (nub ((lanesOf e.mask).map fun l => (w.vreg a.toNat l).toNat / 2)).foldl
    (fun s k => s.noteRead w e (tab + BitVec.ofNat 64 (8 + 8 * k)) 8) (s.noteRead w e tab 8)

/-- JT (08 R179). -/
def execJt (a : VReg) (tgt jn : BitVec 20) (ej : Bool) (s : State) : Out :=
  issue (.jt a tgt jn ej) s fun s t w e c =>
    if e.mask = 0#128 then .next (s.retire t w e)
    else if !s.pageReached w.mmu w.ctx (c.target tgt) then .next (s.stallHere t w)
    else match s.tableTargets w e a (c.target tgt) with
      | .error tr =>
        if tr.addr != c.target tgt && tr.cause != .reservedEnc && !s.tableReached w e a (c.target tgt) then .next (s.stallHere t w)
        else .next (s.trapOver (s.noteRead w e (c.target tgt) 8) t w c tr)
      | .ok l =>
        if s.tableReached w e a (c.target tgt) then
          .next ((s.noteTable w e a (c.target tgt)).branch t w e c l (fieldOf (c.target jn)) ej)
        else .next (s.stallHere t w)

/-- JOIN (08 R181): on the base entry it only ends its clause. -/
def execJoin (s : State) : Out :=
  issue .join s fun s t w e _ =>
    if w.ember.isNone && canPark (s.entries w) && !s.refillReached w then .next (s.stallHere t w)
    else
    let s := s.retire t w e
    match s.thread? t with
    | none => .next s
    | some w => if w.ember.isSome ∨ canPark (s.entries w) then .next (s.park t w) else .next s

def execCall (l : SReg) (tgt : BitVec 20) (s : State) : Out :=
  issue (.call l tgt) s fun s t w e c => .next (s.jump t (w.setS l.toNat (c.here + 8#64)) e (c.target tgt))

def execRet (l : SReg) (s : State) : Out :=
  issue (.ret l) s fun s t w e c =>
    let a := w.sreg l.toNat
    if a.toNat % 8 ≠ 0 then .next (s.trapHere t w c ⟨.align, a, e.mask⟩) else .next (s.jump t w e a)

/-! ## EXIT (08 R183) -/

/-- Traps owed at a flag or a grate instruction fall due at a STEP or an EXIT (07 R126, R128, 09 R201). -/
def Owed.atExit (o : Owed) : Bool :=
  match o.due with
  | .flag _ => true
  | .grate _ => true
  | .wave => false
  | .cwait _ => false
  | .step _ _ => false

/-- An EXIT may leave its wave to another path, whose entries the wave's stack refills. -/
def State.exitReached (s : State) (w : Thread) : Bool :=
  match w.ember with
  | none => s.refillReached w
  | some m => (s.thread? m.parent).all s.refillReached

/-- A wave that ends with a COLLIDE or RULE_MIX that it has not taken gives its grid the commit-fault status (11 R255). -/
def State.noteUntaken (s : State) (w : Thread) : State :=
  if w.owed.any fun o => o.info.cause == .collide || o.info.cause == .ruleMix then
    s.modGrid w.grid fun g => { g with commitFault := true }
  else s

/-- After lanes have left: a wave none of whose lanes remains ends, and one whose path is empty selects, outside its
handler. -/
def State.afterExit (s : State) (t : Nat) : State :=
  match s.thread? t with
  | none => s
  | some w =>
    if w.ended then (({ s with cur := s.cur.filter (· ≠ t) }).noteUntaken w |>.setThread t { w with clause := none }).reap t |>.reapGroup w.group
    else if w.handler || (s.path? w).any fun e => e.mask != 0#128 then s
    else { s.reselect t { w with clause := none } (s.entries w) with cur := none }

/-- The paths of the wave's lanes of m that are on embers. -/
def State.emberPaths (s : State) (t : Nat) (m : Mask) : List (Nat × Entry) :=
  s.threads.filterMap fun x => x.2.ember.bind fun e =>
    if e.parent = t ∧ m.getLsbD e.lane = true then (s.path? x.2).map fun p => (e.lane, p) else none

/-- The fault records that an ember lane holds pass to its wave (11 R257). -/
def State.passHeld (s : State) (parent : Nat) (h : List HeldRec) : State :=
  if h.isEmpty then s else s.modThread parent fun w => { w with held := w.held ++ h }

/-- End the lanes of m that are on embers: their contexts are free at once. -/
def State.exitOnEmbers (s : State) (t : Nat) (m : Mask) : State :=
  s.threads.foldl (fun s x =>
    match x.2.ember with
    | some e => if e.parent = t ∧ m.getLsbD e.lane = true then
        { (s.noteUntaken x.2) with threads := adel s.threads x.1 }.passHeld t x.2.held else s
    | none => s) s

/-- EXIT. DEDUCED: the p registers that guard it are those of the wave or ember lane that executes it, for a lane that FAULTMASK
names on an ember too (log 92). -/
def execExit (g : Guard) (s : State) : Out :=
  issue (.exit g) s fun s t w e c =>
    match firstOwed (w.owed.filter fun o => !w.handler && o.atExit) with
    | some o => .next (s.takeOwed t w o c.here c.hdr)
    | none =>
      if (!w.handler && s.grateUnread t w) || !s.exitReached w then .next (s.stallHere t w)
      else
      let m := (if w.handler then w.faultmask else e.mask) &&& g.lanes w &&& w.launched
      let s := s.retire t w e
      match s.thread? t with
      | none => .next s
      | some w =>
        if m = 0#128 then .next s
        else match w.ember with
          | some x => .next ((((s.noteUntaken w).passHeld x.parent w.held).exitEmber t x).afterExit x.parent)
          | none =>
            let s' := s.exitOnEmbers t m
            .next ((s'.exitLanes t ((s'.thread? t).getD w) m (s.emberPaths t m)).afterExit t)

/-! ## TRAP, BKPT, RTE -/

/-- A trap on request: the lanes that take part, or a NOP where none does (08 R185, R186). -/
def trapOp (i : Instr) (s : State) (g : Guard) (cause : Cause) (code : BitVec 16) : Out :=
  issue i s fun s t w e c =>
    let m := active w e g
    if m = 0#128 then .next (s.retire t w e) else .next (s.trapHere t w c ⟨cause, code.setWidth 64, m⟩)

def execTrap (g : Guard) (code : BitVec 16) (s : State) : Out := trapOp (.trap g code) s g .trap code
def execBkpt (g : Guard) (tag : BitVec 16) (s : State) : Out := trapOp (.bkpt g tag) s g .bkpt tag

/-- RTE (08 R187). PRIV outside handler mode is checked at issue. -/
def execRte (s : State) : Out :=
  issue .rte s fun s t w e _ =>
    if !s.frameReached w w.tsp.toNat || !s.refillReached w then .next (s.stallHere t w)
    else
    let s := s.retire t w e
    match s.thread? t with
    | none => .next s
    | some w =>
      let s := { s.returnFromTrap t { w with clause := none } with cur := none }
      .next (match s.thread? t with
        | some w => if w.ended then s.afterExit t else s
        | none => s)

/-! ## LIVE, NOP, MARK -/

/-- A liveness table entry (08 Table 8.4). -/
def liveOf (bs : List Byte) : LiveSet :=
  let x := leNat bs
  { vmap := BitVec.ofNat 256 (bits x 0 256)
    ranges := ((List.range 4).map fun k => (bits x (256 + 64 * k) 19, bits x (256 + 64 * k + 32) 20)).filter fun r => r.2 ≠ 0 }

/-- At most 65,536 bytes of a virtual range as a thread reads them, or the cause and the address that cannot be read: of a range
that meets two pages, the address at which the second begins. -/
def State.ctxBytes (s : State) (w : Thread) (a : DWord) (n : Nat) : Except (Cause × DWord) (List Byte) :=
  let k := min n (65536 - a.toNat % 65536)
  let b := a + BitVec.ofNat 64 k
  match s.access w.mmu w.ctx a .read with
  | .error c => .error (c, a)
  | .ok (pa, _) =>
    if n ≤ k then .ok (s.cleanBytes pa n)
    else match s.access w.mmu w.ctx b .read with
      | .error c => .error (c, b)
      | .ok (pb, _) => .ok (s.cleanBytes pa k ++ s.cleanBytes pb (n - k))

/-- The pages of a range, each with the part of the range that lies in it. -/
def rangePages (a : DWord) (n : Nat) : List (DWord × Nat) := (pageSpans [(a.toNat, n)]).map fun p => (BitVec.ofNat 64 p.1, p.2)

/-- LIVE (08 R188): not counted in ICOUNT. A wave or ember lane of a non-stepping grid that is being pre-empted stops
here (19 R310). -/
def execLive (n : BitVec 8) (s : State) : Out :=
  issue (.live n) s fun s t w e c =>
    match s.grid? w.grid with
    | none => .fault .noThread
    | some g =>
      let bad := s.trapHere t w c ⟨.reservedEnc, 0#64, e.mask⟩
      let a := g.desc.ltab + BitVec.ofNat 64 (64 * n.toNat)
      if g.desc.lcount ≤ n.toNat then .next bad
      else if !((rangePages a 64).all fun p => s.pageReached w.mmu w.ctx p.1) then .next (s.stallHere t w)
      else match s.ctxBytes w a 64 with
        | .error k => .next (s.trapHere t w c ⟨k.1, k.2, e.mask⟩)
        | .ok bs =>
          let l := liveOf bs
          let s' := (rangePages a 64).foldl (fun s p => s.noteRead w e p.1 p.2) s
          if l.ranges.any fun r => decide (g.stashBytes < r.1 + r.2) then
            .next (s.trapOver s' t w c ⟨.reservedEnc, 0#64, e.mask⟩)
          else
            let w := { w with live := some l }.advance
            let w := { w with stopped := w.stopped || (g.stopLive && !w.handler) }
            let s := s'.setThread t w
            .next (if w.clause.isNone || w.stopped then { s with cur := none } else s)

def execNop (s : State) : Out := issue .nop s fun s t w e _ => .next (s.retire t w e)

/-- MARK (08 R192, 20 Table 20.7). -/
def execMark (v : Word) (s : State) : Out :=
  issue (.mark v) s fun s t w e c =>
    if !s.recording w.ctx then .next (s.retire t w e)
    else if !s.ringOpen w.die .resolution then .next (s.stallHere t w)
    else if s.ringFull w.die 32 then .next (s.trapHere t w c ⟨.rlogFull, (s.die w.die).rring.base, e.mask⟩)
    else
      let key := s.gkey w (lowestLane e.mask % 128)
      let bs := leBytes 8 (0x22 * 2 ^ 56 + w.ctx % 65536 * 2 ^ 32) ++ leBytes 8 (v.toNat * 2 ^ 32 + key % 2 ^ 32)
        ++ leBytes 8 e.icnt.toNat ++ leBytes 8 (e.wstep.toNat * 2 ^ 32 + e.gstep.toNat)
      .next ((s.ringPut w.die .resolution bs).retire t w e)

/-! ## LAUNCH and EVSIG (08 R193 to R195) -/

/-- The writer key of a path or ember lane: that of its lowest lane (08 R195). DESIGN CHOICE: a trap path with an empty EXEC, which
has none, writes with the key of lane 0 (log 93). -/
def State.pathKey (s : State) (w : Thread) (e : Entry) : Nat := s.gkey w (lowestLane e.mask % 128)

/-- Record an effect of the step's close. -/
def State.addSysOp (s : State) (w : Thread) (e : Entry) (key : Nat) (o : CloseOp) : State :=
  { s with uid := s.uid + 1 }.modGrid w.grid fun g => { g with sysops := g.sysops ++ [({ step := e.gstep, key := key, order := s.uid, op := o } : SysOp)] }

/-- LAUNCH: the packet is read at issue and enqueued at the close. -/
def execLaunch (a : SReg) (s : State) : Out :=
  issue (.launch a) s fun s t w e c =>
    let va := w.sreg a.toNat
    if va.toNat % 128 ≠ 0 then .next (s.trapHere t w c ⟨.align, va, e.mask⟩)
    else if !s.walkReached w.mmu w.ctx va then .next (s.stallHere t w)
    else match s.access w.mmu w.ctx va .read with
      | .error k => .next (s.trapHere t w c ⟨k, va, e.mask⟩)
      | .ok (pa, _) =>
        if s.gridReadWaits w e || !s.reaches w.die pa then .next (s.stallHere t w)
        else
          let bs := s.cleanBytes pa 128
          let q := bits (leNat bs) (48 * 8 + 22) 6
          match (s.context? w.ctx).bind fun x => aget? x.queues q with
          | none => .next (((s.noteRead w e va 128).addSysOp w e (s.pathKey w e) (.launch bs va q false)).retire t w e)
          | some u =>
            if u.free = 0 then .next (s.stallHere t w)
            else
              let s := (s.noteRead w e va 128).modContext w.ctx fun x => { x with queues := aset x.queues q { u with reserved := u.reserved + 1 } }
              .next ((s.addSysOp w e (s.pathKey w e) (.launch bs va q true)).retire t w e)

def execEvsig (ev : BitVec 16) (s : State) : Out :=
  issue (.evsig ev) s fun s t w e _ => .next ((s.addSysOp w e (s.pathKey w e) (.evsig ev)).retire t w e)

/-! ## CSRR and CSRW (08 R196, Table 8.5) -/

/-- The value of a context register. -/
def State.csrValue (s : State) (w : Thread) (r : Csr) : DWord :=
  let d := s.die w.die
  match s.context? w.ctx with
  | none => 0#64
  | some x =>
    match r with
    | .tba => x.tba
    | .tsp => w.tsp
    | .tscratch => w.tscratch
    | .fpolicy => x.fpolicy
    | .ctxcfg => x.ctxcfg
    | .ctxid => BitVec.ofNat 64 w.ctx
    | .steplimit => x.steplimit
    | .hanglimit => x.hanglimit
    | .dtbase => d.dring.base
    | .dtsize => d.dring.size
    | .rlbase => d.rring.base
    | .rlsize => d.rring.size
    | .elbase => d.ering.base
    | .elsize => d.ering.size
    | .clbase => x.clbase
    | .clsize => x.clsize

def execCsrr (d : SReg) (r : Csr) (s : State) : Out :=
  issue (.csrr d r) s fun s t w e _ => .next (s.retire t (w.setS d.toNat (s.csrValue w r)) e)

/-- CSRW in handler mode; PRIV of every other write is checked at issue. -/
def execCsrw (r : Csr) (a : SSrc) (s : State) : Out :=
  issue (.csrw r a) s fun s t w e c =>
    let x := a.value w
    match r with
    | .tsp =>
      if x.toNat % 64 ≠ 0 then .next (s.trapHere t w c ⟨.reservedEnc, 0#64, e.mask⟩)
      else .next (s.retire t { w with tsp := x } e)
    | .tscratch => .next (s.retire t { w with tscratch := x } e)
    | .tba | .fpolicy | .ctxcfg | .ctxid | .steplimit | .hanglimit | .dtbase | .dtsize | .rlbase | .rlsize | .elbase
    | .elsize | .clbase | .clsize => .next (s.trapHere t w c ⟨.priv, 0#64, e.mask⟩)

/-! ## STEPW, STEPG and PAUSE (07 R142, R143, R147, 08 R173) -/

/-- A trap that falls due at a STEP of the domain (23 R355): the grid step's only at a STEPG. -/
def Owed.atStep (o : Owed) (grid : Bool) : Bool :=
  match o.due with
  | .step true _ => grid
  | .step false _ => true
  | .flag _ => true
  | .grate _ => true
  | .cwait _ => true
  | .wave => false

/-- Held fault records, the grid step's before the group steps' (23 R355). -/
def heldOrder (l : List HeldRec) : List HeldRec := (l.filter fun h => h.grid) ++ l.filter fun h => !h.grid

/-- The rings of the held records that a STEP of the domain writes are reached (22 R337). -/
def State.heldReached (s : State) (w : Thread) (grid : Bool) : Bool := w.held.all fun h => (h.grid && !grid) || s.ringOpen h.die .error

/-- Write the held fault records of the domain that their rings now have room for; the first that has none traps
RLOG_FULL (11 R257). -/
def State.flushHeld (s : State) (t : Nat) (w : Thread) (grid : Bool) : State × Thread × Option HeldRec :=
  let r := (heldOrder w.held).foldl (fun (a : State × List HeldRec × Option HeldRec) h =>
    if (h.grid && !grid) || a.2.2.isSome then (a.1, a.2.1 ++ [h], a.2.2)
    else if a.1.ringTakes h.die h.bytes.length then
      (a.1.ringPut h.die .error h.bytes, a.2.1, none)
    else (a.1, a.2.1 ++ [h], some h)) (s, [], none)
  let w := { w with held := r.2.1 }
  (r.1.setThread t w, w, r.2.2)

/-- The lanes of a thread among the writers of a held record (14 R287). -/
def State.heldLanes (s : State) (w : Thread) (h : HeldRec) : Mask :=
  maskOf ((List.range 128).filter fun l => w.launched.getLsbD l && h.keys.contains (s.gkey w l))

/-- The path arrives at its STEP: its counts rise (03 R41). -/
def Entry.step (e : Entry) (grid : Bool) : Entry :=
  { e with gstep := if grid then e.gstep + 1 else e.gstep, wstep := e.wstep + 1 }

/-- An ember lane arrives as a path of one lane (10 R231). -/
def State.emberStep (s : State) (t : Nat) (w : Thread) (e : Entry) (grid : Bool) : State :=
  let s := s.retirePath t w e fun e => e.step grid
  let s := s.modThread t fun w => { w with ember := w.ember.map fun x => { x with atStepg := grid } }
  let s := if grid then s.modGrid w.grid fun g => { g with reached := maxWord g.reached (e.gstep + 1) } else s
  s.modGroup w.group fun p =>
    { p with reached := maxWord p.reached (e.wstep + 1), edge := if grid then maxWord p.edge (e.wstep + 1) else p.edge }

/-- A STEP: the traps that fall due (23 R355), the STEPG of a grid that does not step (07 R146), the stall on a step still
closing, the arrival. -/
def stepOp (i : Instr) (s : State) (grid : Bool) : Out :=
  issue i s fun s t w e c =>
    if !s.heldReached w grid then .next (s.stallHere t w)
    else
    let (s, w, h) := s.flushHeld t w grid
    match h with
    | some h => .next (s.trapHere t w c ⟨.rlogFull, (s.die h.die).ering.base, s.heldLanes w h⟩)
    | none =>
      match firstOwed (w.owed.filter (·.atStep grid)) with
      | some o => .next (s.takeOwed t w o c.here c.hdr)
      | none =>
        if grid && (match s.grid? w.grid with | some g => !g.desc.stepping | none => false) then
          .next (s.trapHere t w c ⟨.reservedEnc, 0#64, e.mask⟩)
        else if s.grateUnread t w || s.groupReadWaits w e || (grid && s.gridReadWaits w e)
            || (w.ember.isNone && !s.refillReached w) then .next (s.stallHere t w)
        else if w.ember.isSome then .next (s.emberStep t w e grid)
        else
          let s := s.retirePath t w e fun e => { e.step grid with st := .arrived }
          match s.thread? t with
          | none => .next s
          | some w => .next { s.reselect t { w with clause := none } (s.entries w) with cur := none }

def execStepw (s : State) : Out := stepOp .stepw s false
def execStepg (s : State) : Out := stepOp .stepg s true

/-- PAUSE lowers the priority of its path; PAUSE 0 has no effect (07 R147). -/
def execPause (n : Word) (s : State) : Out :=
  issue (.pause n) s fun s t w e _ =>
    .next (s.retirePath t w e fun e => if n = 0#32 then e else { e with pause := n.toNat, pausedAt := (s.die w.die).clock })

/-- The clocks of a path's PAUSE have passed. -/
def State.pauseOver (s : State) (w : Thread) (e : Entry) : Bool :=
  e.pause != 0 && !s.detGrid w.grid && decide (e.pause ≤ ((s.die w.die).clock - e.pausedAt).toNat)

/-- PAUSE_END: the priority that PAUSE lowered is restored on the paths whose clocks have passed. In deterministic mode a
PAUSE lasts issue rounds instead (18 R301). -/
def execPauseEnd (t : Nat) (s : State) : Out :=
  .next (s.modThread t fun w => { w with stack := w.stack.map fun e => if s.pauseOver w e then { e with pause := 0 } else e })

/-! ## Hand-over and rejoin (10 R234, R237) -/

/-- No lane of an ejected group waits for data any more, nor for a circuit to the homes of its private lines: its lanes can be handed
over, all at once (10 R234). -/
def State.groupComes (s : State) (t : Nat) (w : Thread) (batch : Nat) : Bool :=
  s.threads.all fun x => match x.2.ember with
    | some e => e.parent != t || e.batch != batch ||
        (!w.awaits x.2.live e.lane && s.lanesReached w.mmu w.grid (s.gkey w e.lane))
    | none => true

/-- A lane that `t` has ejected to `target` is handed over now. -/
def State.comesOver (s : State) (t : Nat) (w : Thread) (target : DWord) (x : Thread) : Bool :=
  match x.ember with
  | some e =>
    e.parent == t && (x.stack.head?.map (·.pc)) == some (fieldOf target) && s.groupComes t w e.batch && match e.phase with
      | .handover => true
      | .waiting => true
      | .running => false
      | .rejoining => false
  | none => false

/-- A lane as its ember takes it over; one that has waited takes the words that have come meanwhile. -/
def Thread.takeOver (w x : Thread) : Thread :=
  match x.ember with
  | none => x
  | some e => match e.phase with
    | .waiting => w.handLate e { x with ember := some { e with phase := .running, awaited := [] } }
    | .handover => { x with ember := some { e with phase := .running } }
    | .running => x
    | .rejoining => x

/-- The private lines of lanes leave their wave's L1 for memory, where their embers find them, and no ember's L1 keeps a global line that
is older than one the lane may have read (11 R263, log 99). -/
def State.passLines (s : State) (w : Thread) (l : List Thread) : State :=
  (s.writeBacks fun p d => p == w.mmu && l.any fun x => x.ember.any fun e => d.of w.grid (s.gkey w e.lane)).freshen
    fun p => l.any fun x => x.mmu == p

/-- HANDOVER_COMPLETE: the lanes of the group at `target` run on their embers. A group that still waits for a pending
register is not handed over. -/
def execHandoverComplete (t : Nat) (target : DWord) (s : State) : Out :=
  match s.thread? t with
  | none => .next s
  | some w =>
    let come := s.threads.filter fun x => s.comesOver t w target x.2
    let s' : State := { s with threads := s.threads.map fun (x : Nat × Thread) => if s.comesOver t w target x.2 then (x.1, w.takeOver x.2) else x }
    .next (s'.passLines w (come.map (·.2)))

/-- COLLIDE and RULE_MIX, which one trap of a step serves together (11 R255). -/
def Cause.ofClose (k : Cause) : Bool := k == .collide || k == .ruleMix

/-- One trap serves both: of one place, for one cause or for the two of a close. -/
def Owed.joins (a b : Owed) : Bool := a.due == b.due && (a.info.cause == b.info.cause || (a.info.cause.ofClose && b.info.cause.ofClose))

/-- The trap that serves both: RULE_MIX where the causes differ, the lowest address, the lanes of both (11 R255, 14 R286). -/
def Owed.with (a b : Owed) : Owed :=
  { a with info := { cause := if a.info.cause == b.info.cause then a.info.cause else .ruleMix
                     addr := if b.info.addr.toNat < a.info.addr.toNat then b.info.addr else a.info.addr
                     mask := a.info.mask ||| b.info.mask } }

/-- Merge a trap that a rejoining lane owes into its wave's. -/
def mergeOwed (l : List Owed) (o : Owed) : List Owed :=
  if l.any (·.joins o) then l.map fun x => if x.joins o then x.with o else x else l ++ [o]

/-- A trap of a close as its thread's further failed regions of that step lower its address (14 R286). -/
def Owed.lower (l : List LowFail) (o : Owed) : Owed :=
  match o.due with
  | .step g n =>
    let a := (l.filter fun f => f.grid == g && f.step == n).foldl (fun a f => if f.addr < a.toNat then BitVec.ofNat 64 f.addr else a) o.info.addr
    if o.info.cause.ofClose then { o with info := { o.info with addr := a } } else o
  | .wave => o
  | .flag _ => o
  | .cwait _ => o
  | .grate _ => o

/-- Merge the operations that a rejoining lane still holds. -/
def mergeOps (l : List Op) (o : Op) : List Op :=
  match o.kind with
  | .stf _ _ _ _ ls =>
    if l.any fun x => x.uid == o.uid then
      l.map fun x => if x.uid = o.uid then
        (match x.kind with
          | .stf g st d pr k => { x with kind := .stf g st d pr (k ||| ls) }
          | .load _ => x
          | .loadS _ _ => x) else x
    else l ++ [o]
  | .load _ => l
  | .loadS _ _ => l

/-- The registers of a lane after its rejoin: the live ones from the ember, the others undefined (08 R190), as free
values. -/
def rejoinRegs (tick n lane : Nat) (x : Thread) (v : Tbl Word) : Tbl Word :=
  (List.range n).foldl (fun v r =>
    tset 0#32 v (vix r lane) (if LiveSet.has x.live r then tget 0#32 x.v (vix r lane) else Config.freeWord tick (vix r lane))) v

/-- Join an ejected lane to the join entry beneath its ejected entry (10 R232). -/
def rejoinStack (lane : Nat) (x : Entry) : List Entry → List Entry
  | [] => []
  | e :: r =>
    if e.ej ∧ e.mask.getLsbD lane = true then
      { e with mask := e.mask &&& ~~~laneBit lane } ::
        (mergeDown { x with mask := laneBit lane, join := e.join } r).map fun j =>
          if j.st = .parked ∧ j.mask.getLsbD lane = true then
            { j with gstep := maxWord j.gstep x.gstep, wstep := maxWord j.wstep x.wstep } else j
    else e :: rejoinStack lane x r

/-- The ember core of a lane writes back its dirty private lines (13 R281), and no older global line stands in the wave's L1 (log 99). -/
def State.writeEmber (s : State) (x w : Thread) (key : Nat) : State :=
  (s.writeBacks fun p d => p == x.mmu && d.of x.grid key).freshen (· == w.mmu)

/-- EMBER_REJOIN: the core's dirty private lines of the lane are written back, its live registers and p bits return to the wave, and its
context is free. It waits for data that has not arrived, while the wave is in handler mode, for the entries that the wave's stack may
refill, and for the homes of the lines. -/
def execEmberRejoin (t : Nat) (s : State) : Out :=
  match s.thread? t with
  | none => .next s
  | some x =>
    match x.ember, s.path? x with
    | some m, some e =>
      match s.thread? m.parent, s.grid? x.grid with
      | some w, some g =>
        if m.phase ≠ .rejoining ∨ w.handler = true ∨ x.awaits x.live m.lane = true ∨ s.refillReached w = false
            ∨ s.lanesReached x.mmu x.grid (s.gkey x m.lane) = false then .next s
        else
          let s := s.writeEmber x w (s.gkey x m.lane)
          let b := laneBit m.lane
          let w := { w with
            v := rejoinRegs s.tick (8 * g.desc.vregs) m.lane x w.v
            badV := w.badV.filter (fun k => k % 128 ≠ m.lane) ++ x.badV
            p := tsets 0#128 w.p ((List.range 7).map fun i =>
              (i + 1, (tget 0#128 w.p (i + 1) &&& ~~~b) ||| (tget 0#128 x.p (i + 1) &&& b)))
            ops := x.ops.foldl mergeOps w.ops
            owed := (x.owed.foldl mergeOwed w.owed).map (Owed.lower (w.low ++ x.low))
            low := w.low ++ x.low
            held := w.held ++ x.held }
          let es := rejoinStack m.lane e (s.entries w)
          let es := sweep false es.length es
          let s := { s with threads := adel s.threads t, cur := s.cur.filter (· ≠ t) }
          .next (if (running? es).isSome then s.putEntries m.parent w es else s.reselect m.parent w es)
      | _, _ => .next s
    | _, _ => .next s

end Sys2Proof.Machine
end

