-- ==== Sys2Proof/Machine/Copy.lean ====
section
/-! DEFINITION. The copy, tile and window family (07 R148 to R167, R369) and the landing of a copy's lines (13 R274). -/

namespace Sys2Proof.Machine

/-! ## The tile table (07 R138, R151 to R153) -/

/-- A tile that nothing has defined. -/
def Tile.undefined : Tile := ⟨false, 0#128, .empty, .empty, none, none⟩

def Group.tile (p : Group) (n : Nat) : Tile := (aget? p.tiles n).getD Tile.undefined
def Group.setTile (p : Group) (n : Nat) (x : Tile) : Group := { p with tiles := aset p.tiles n x }

/-- The state that a wave sees: the owner the actual one, another wave the published one (07 R138). -/
def Tile.seen (x : Tile) (wix : Nat) : TileState := if x.owner = some wix then x.actual else x.published

/-- A command of a wave changes a tile's state, and the wave becomes its owner (00 R5). -/
def Tile.change (x : Tile) (wix : Nat) (st : TileState) : Tile :=
  { x with actual := st, owner := some wix, changedBy := some wix }

def TileState.code : TileState → Nat
  | .empty => 0
  | .filling => 1
  | .ready => 2
  | .draining => 3

/-- Tiles that a queued or running grate instruction of the group reads or writes (09 R198). -/
def State.tileInUse (s : State) (w : Thread) (n : Nat) : Bool :=
  (s.hearth w.home).grate.any fun o =>
    (match s.thread? o.t with
      | some x => x.group == w.group
      | none => false) && (uses o.i).t.contains n

/-- How a command finds a tile. -/
inductive TileFit where
  | ok | stall | trap (addr : DWord)
deriving DecidableEq, Repr

/-- The state part of a command's check of a tile (07 R152, R153): `need` is the seen state required, `change` whether the
command changes the tile, `undef` whether it accepts an undefined tile. -/
def State.tileFit (s : State) (w : Thread) (p : Group) (n : Nat) (need : TileState → Bool) (change undef : Bool) :
    TileFit :=
  let x := p.tile n
  let a : DWord := BitVec.ofNat 64 x.base
  if !x.defined && !undef then .trap 0#64
  else if (x.seen w.wix).moving && x.owner == some w.wix then .stall
  else if !need (x.seen w.wix) then .trap a
  else if change && s.tileInUse w n then .stall
  else if change && x.changedBy.isSome && x.changedBy != some w.wix then .trap a
  else .ok

def notMoving (t : TileState) : Bool := !t.moving
def isReadyTile (t : TileState) : Bool := t == .ready

/-- The region overlaps another tile that an engine is changing (07 R157). -/
def Group.overlapsMoving (p : Group) (n base len : Nat) : Bool :=
  p.tiles.any fun x => x.1 != n && x.2.defined && x.2.actual.moving && decide (x.2.base < base + len)
    && decide (base < x.2.base + x.2.bytes)

/-- The region holds pending thread stores of the group step (07 R157). -/
def Group.pendingIn (p : Group) (step : Word) (base len : Nat) : Bool :=
  p.pend.any fun q => q.step == step && decide (q.pa < base + len) && decide (base < q.pa + q.data.length)

/-- The checks of R153 and R157 for the tiles that a copy or drain changes, in the order of R369. -/
def State.changeFit (s : State) (w : Thread) (e : Entry) (p : Group) (l : List (Nat × (TileState → Bool))) :
    Except (Option TrapInfo) Unit :=
  let fits := l.map fun x => s.tileFit w p x.1 x.2 true false
  match fits.findSome? fun f => match f with
      | .trap a => some a
      | .ok => none
      | .stall => none with
  | some a => .error (some ⟨.tileState, a, e.mask⟩)
  | none =>
    if fits.contains .stall then .error none
    else match l.find? fun x => p.overlapsMoving x.1 (p.tile x.1).base (p.tile x.1).bytes with
      | some x => .error (some ⟨.tileState, BitVec.ofNat 64 (p.tile x.1).base, e.mask⟩)
      | none =>
        match l.find? fun x => p.pendingIn e.wstep (p.tile x.1).base (p.tile x.1).bytes with
        | some x => .error (some ⟨.tileBusy, BitVec.ofNat 64 (p.tile x.1).base, e.mask⟩)
        | none => .ok ()

/-- An instruction of the family, with its grid and group. A wave that has arrived at its group step waits for the close
(12 R267). -/
def tileOp (i : Instr) (s : State) (k : State → Nat → Thread → Entry → Clause → Grid → Group → Out) : Out :=
  issue i s fun s t w e c =>
    match s.grid? w.grid, s.group? w.group with
    | some g, some p => if s.groupReadWaits w e then .next (s.stallHere t w) else k s t w e c g p
    | _, _ => .fault .noThread

/-! ## TDEF, TFREE, TSTATE (07 R149 to R151) -/

/-- A descriptor with a reserved value (07 R149). -/
def descReserved (x : Tile) : Bool :=
  bits x.desc.toNat 69 59 != 0 || bits x.desc.toNat 29 3 != 0 || decide (10 ≤ x.ef) || x.bytes == 0
    || decide (512 * 128 < x.bytes) || x.rows == 0 || x.pitch == 0 || x.pitch % 4 != 0 || decide (x.bytes < x.rows * x.pitch)
    || x.base % 128 != 0

def execTdef (tn : TileNo) (lo hi : SReg) (s : State) : Out :=
  tileOp (.tdef tn lo hi) s fun s t w e c g p =>
    let x : Tile := { p.tile tn.toNat with defined := true, desc := w.sreg hi.toNat ++ w.sreg lo.toNat }
    if descReserved x then .next (s.trapHere t w c ⟨.reservedEnc, 0#64, e.mask⟩)
    else if g.stashBytes < x.base + x.bytes then .next (s.trapHere t w c ⟨.prot, BitVec.ofNat 64 x.base, e.mask⟩)
    else match s.tileFit w p tn.toNat notMoving true true with
      | .trap a => .next (s.trapHere t w c ⟨.tileState, a, e.mask⟩)
      | .stall => .next (s.stallHere t w)
      | .ok =>
        let st := if x.desc.getLsbD 68 then TileState.ready else TileState.empty
        .next ((s.setGroup w.group (p.setTile tn.toNat (x.change w.wix st))).retire t w e)

def execTfree (tn : TileNo) (s : State) : Out :=
  tileOp (.tfree tn) s fun s t w e c _ p =>
    let x := p.tile tn.toNat
    if !x.defined then .next (s.retire t w e)
    else match s.tileFit w p tn.toNat notMoving true true with
      | .trap a => .next (s.trapHere t w c ⟨.tileState, a, e.mask⟩)
      | .stall => .next (s.stallHere t w)
      | .ok => .next ((s.setGroup w.group (p.setTile tn.toNat { x.change w.wix .empty with defined := false })).retire t w e)

def execTstate (d : SReg) (tn : TileNo) (s : State) : Out :=
  tileOp (.tstate d tn) s fun s t w e _ _ p =>
    let x := p.tile tn.toNat
    let v := (x.seen w.wix).code + (if x.defined then 4 else 0) + (if x.owner = some w.wix then 8 else 0)
    .next (s.retire t (w.setS d.toNat (BitVec.ofNat 64 v)) e)

/-! ## Copies (07 R154 to R161) -/

/-- A copy command: COPY_RIGHTS for a wave that is not the group's copy wave (07 R154). -/
def copyOp (i : Instr) (s : State) (k : State → Nat → Thread → Entry → Clause → Grid → Group → Out) : Out :=
  issue i s fun s t w e c =>
    match s.grid? w.grid, s.group? w.group with
    | some g, some p =>
      if w.wix ≠ g.copywave then .next (s.trapHere t w c ⟨.copyRights, 0#64, e.mask⟩)
      else if s.groupReadWaits w e then .next (s.stallHere t w)
      else k s t w e c g p
    | _, _ => .fault .noThread

/-- The hearth's copy queue is full (07 R154). -/
def State.copiesFull (s : State) (w : Thread) : Bool := decide (64 ≤ (s.hearth w.home).copies.length)

/-- Put a copy in flight: its bytes are added to its fill counter, the traps of its lost words are owed, and the
instruction retires. -/
def State.startCopy (s : State) (t : Nat) (w : Thread) (e : Entry) (c : Copy) (owes : List TrapInfo) : State :=
  let w := (w.setFc c.fc (w.fcount c.fc + 128 * c.lines.length)).owe owes (.cwait c.fc)
  ({ s with uid := s.uid + 1 }.modHearth w.home fun h => { h with copies := h.copies ++ [c] }).retire t w e

/-- The writer of a copy (07 R159): its sequence composes the step of issue and the issue number. -/
def copyWriter (s : State) (w : Thread) (e : Entry) : Writer :=
  ⟨s.gkey w 0, 1, e.gstep.toNat * 2 ^ 32 + (if w.cpoutStep = e.gstep then w.cpoutNo else 0) % 2 ^ 32⟩

/-- The thread after one more CPOUT of the grid step. -/
def Thread.countCpout (w : Thread) (e : Entry) : Thread :=
  { w with cpoutNo := (if w.cpoutStep = e.gstep then w.cpoutNo else 0) + 1, cpoutStep := e.gstep }

/-- A line of a CPIN from a global address, through the die's L2 (13 R275): sixteen words, each read by itself, so that a lost one alone
is zero (07 R155). -/
def State.cpinLine (s : State) (w : Thread) (va : DWord) : List (Except LaneErr LaneRead) :=
  match s.access w.mmu w.ctx va .read with
  | .error c => [.error ⟨c, va, va⟩]
  | .ok (pa, leaf) => (List.range 16).map fun i =>
    let a := va + BitVec.ofNat 64 (8 * i)
    let u := throughL2 w a (pa + 8 * i) leaf 8
    let r := s.serve u
    .ok ⟨r.1, r.2, s.strictAt w leaf, false, a, a, [u]⟩

/-- A line of a CPIN from a window, its elements from offset o on. -/
def State.cpinWinLine (s : State) (w : Thread) (d : BitVec 256) (o : Nat) : List (Except LaneErr LaneRead) :=
  (List.range (128 / winEsize d)).map fun j =>
    let i := o / winEsize d + j
    let off : DWord := BitVec.ofNat 64 (i * winEsize d)
    if winLen d ≤ i then .error ⟨.windowRange, off, off⟩ else s.windowElem w d i off

/-- The lines of a CPIN, each with what its reads found. -/
def State.cpinLines (s : State) (w : Thread) (a : CpSrc) (b : DWord) (n : Nat) : List (List (Except LaneErr LaneRead)) :=
  match a with
  | .s r =>
    let va := w.sreg r.toNat + b
    if va.toNat % 128 ≠ 0 then [[.error ⟨.align, va, va⟩]]
    else (List.range n).map fun i => s.cpinLine w (va + BitVec.ofNat 64 (128 * i))
  | .w k =>
    match s.window? w.ctx k.toNat with
    | none => [[.error ⟨.windowRange, b, b⟩]]
    | some d =>
      if b.toNat % winEsize d ≠ 0 then [[.error ⟨.align, b, b⟩]]
      else (List.range n).map fun i => s.cpinWinLine w d (b.toNat + 128 * i)

/-- The translations of a CPIN's lines can be had (22 R337). -/
def State.cpinReached (s : State) (w : Thread) (a : CpSrc) (b : DWord) (n : Nat) : Bool :=
  match a with
  | .s r => (List.range n).all fun i => s.walkReached w.mmu w.ctx (w.sreg r.toNat + b + BitVec.ofNat 64 (128 * i))
  | .w k => (s.window? w.ctx k.toNat).all fun d =>
      (List.range (128 * n / winEsize d)).all fun j => s.elemReached w d (b.toNat / winEsize d + j)

/-- What several reads met, and what they found. -/
def readErrs {α : Type} (l : List (Except LaneErr α)) : List LaneErr :=
  l.filterMap fun x => match x with
    | .error e => some e
    | .ok _ => none
def readOks {α : Type} (l : List (Except LaneErr α)) : List α :=
  l.filterMap fun x => match x with
    | .error _ => none
    | .ok r => some r

/-- The walks behind a trap of several accesses of a path: those that ended in PAGE. -/
def pageWalks (e : Entry) (l : List LaneErr) : List (Nat × DWord) :=
  (l.filter fun x => x.cause == .page).map fun x => (lowestLane e.mask, x.va)

/-- Traps that a copy owes at a CWAIT on its counter or a STEP (07 R155, R156). -/
def copyOwes (e : Entry) (l : List LaneRead) : List TrapInfo :=
  (owesOf (l.map fun r => (0, r))).map fun i => { i with mask := e.mask }

/-- CPIN (07 R156): its source is read at issue, as the previous grid step committed it. DEDUCED: a tile that TFREE has made
undefined is looked at by the descriptor it had, and meets the checks of 07 R369 that come before TILE_STATE (log 89). -/
def execCpin (tn : TileNo) (a : CpSrc) (b : SSrc) (fc : FcReg) (s : State) : Out :=
  copyOp (.cpin tn a b fc) s fun s t w e c _ p =>
    let x := p.tile tn.toNat
    if s.gridReadWaits w e then .next (s.stallHere t w)
    else
      let rs := s.cpinLines w a (b.value w) (x.bytes / 128)
      if !s.cpinReached w a (b.value w) (x.bytes / 128) then .next (s.stallHere t w)
      else match firstOwn (rs.flatMap readErrs) with
      | some k => .next (s.trapAt t w c ⟨k.cause, k.addr, e.mask⟩ (pageWalks e (rs.flatMap readErrs)))
      | none =>
        match s.changeFit w e p [(tn.toNat, notMoving)] with
        | .error (some tr) => .next (s.trapHere t w c tr)
        | .error none => .next (s.stallHere t w)
        | .ok () =>
          if s.copiesFull w then .next (s.stallHere t w)
          else
            let ls := rs.map readOks
            let reads := ls.flatMap id
            let far := ls.zip (List.range ls.length) |>.flatMap fun y => s.farOf w (y.1.map fun r => (y.2, r))
            let s := s.noteEngine w e.gstep (reads.flatMap (·.uses)) reads
            let s := s.setGroup w.group (p.setTile tn.toNat (x.change w.wix .filling))
            let cp : Copy := { uid := s.uid, t := t, group := w.group, kind := .cpin, tile := tn.toNat, fc := fc.toNat
                               w := ⟨s.gkey w 0, 1, 0⟩, gstep := e.gstep, wstep := e.wstep
                               lines := (List.range ls.length).zip ls |>.map fun y => (y.1, x.base + 128 * y.1, 0, y.2.flatMap (·.bytes))
                               landed := [], far := far
                               mask := e.mask, twins := [], since := s.time }
            let s := s.touched w (farSpans cp.far)
            .next (s.startCopy t w e cp (copyOwes e reads))

/-- The page that a CPOUT line writes: CPOUT.LO alone may write a peer page (22 R338). -/
def State.cpoutLine (s : State) (w : Thread) (rule : Rule) (va : DWord) : Except LaneErr (Nat × DWord) :=
  match s.translate w.mmu w.ctx va with
  | .page => .error ⟨.page, va, va⟩
  | .malformed _ => .error ⟨.page, va, va⟩
  | .prot => .error ⟨.prot, va, va⟩
  | .ok pa leaf =>
    if leafRo leaf then .error ⟨.prot, va, va⟩
    else if isPeer pa && rule != .lo then .error ⟨.prot, va, va⟩
    else .ok (pa, leaf)

/-- The words of a stash range that are lost, as reads of zero, the lowest first (07 R155, 23 Table 23.1). -/
def Group.lostReads (p : Group) (strict : Bool) (base n : Nat) : List LaneRead :=
  (sortBy (fun (a b : Nat) => decide (a ≤ b)) (p.badStash.filter fun k => decide (base < 4 * k + 4) && decide (4 * k < base + n))).map fun k =>
    ⟨List.replicate 4 0#8, some 5, strict, false, BitVec.ofNat 64 (4 * k), BitVec.ofNat 64 (4 * k), []⟩

/-- Commit-log entries of a CPOUT: one for each eight bytes on CELL pages, and one for its lines on TWIN pages, of which it is one
writer (11 Table 11.4). -/
def cpoutEntries (ls : List (Nat × DWord)) : Nat :=
  16 * (ls.filter fun y => !isPeer y.1 && !leafTwin y.2).length + (ls.any fun y => !isPeer y.1 && leafTwin y.2).toNat

/-- CPOUT (07 R158 to R160). An undefined tile is looked at as CPIN looks at one (log 89). -/
def execCpout (rule : Rule) (free zero : Bool) (a : SReg) (tn : TileNo) (fc : FcReg) (s : State) : Out :=
  copyOp (.cpout rule free zero a tn fc) s fun s t w e c _ p =>
    let x := p.tile tn.toNat
    let va := w.sreg a.toNat
    let n := x.bytes / 128
    if va.toNat % 128 ≠ 0 then .next (s.trapHere t w c ⟨.align, va, e.mask⟩)
    else if !(List.range n).all (fun i => s.walkReached w.mmu w.ctx (va + BitVec.ofNat 64 (128 * i))) then .next (s.stallHere t w)
    else
      let rs := (List.range n).map fun i => s.cpoutLine w rule (va + BitVec.ofNat 64 (128 * i))
      match firstOwn (readErrs rs) with
      | some k => .next (s.trapAt t w c ⟨k.cause, k.addr, e.mask⟩ (pageWalks e (readErrs rs)))
      | none =>
        let ls := readOks rs
        match s.changeFit w e p [(tn.toNat, fun st => st == .ready || (zero && st == .empty))] with
        | .error (some tr) => .next (s.trapHere t w c tr)
        | .error none => .next (s.stallHere t w)
        | .ok () =>
          let entries := cpoutEntries ls
          let recs := s.anyRecords w rule n
          if recs ≠ 0 ∧ s.ringOpen w.die .resolution = false then .next (s.stallHere t w)
          else match s.reserveTrap w entries recs va e.mask with
          | some tr => .next (s.trapHere t w c tr)
          | none =>
            if s.copiesFull w then .next (s.stallHere t w)
            else
              let data := fun i => if x.seen w.wix = .ready then p.stashBytes (x.base + 128 * i) 128 else List.replicate 128 0#8
              let lost := if x.seen w.wix = .ready then p.lostReads (s.strict w.ctx) x.base x.bytes else []
              let s := (s.reserveGlobal w e.gstep entries recs).logWords w e.gstep lost
              let s := s.setGroup w.group (p.setTile tn.toNat (x.change w.wix .draining))
              let cp : Copy := { uid := s.uid, t := t, group := w.group, kind := .cpout rule free, tile := tn.toNat
                                 fc := fc.toNat, w := copyWriter s w e, gstep := e.gstep, wstep := e.wstep
                                 lines := (List.range n).zip ls |>.map fun y => (y.1, va.toNat + 128 * y.1, y.2.1, data y.1)
                                 landed := [], mask := e.mask, since := s.time
                                 twins := (List.range n).zip ls |>.filterMap fun y =>
                                   if leafTwin y.2.2 then some (va.toNat + 128 * y.1) else none
                                 far := (List.range n).zip ls |>.map fun y =>
                                   let a := va + BitVec.ofNat 64 (128 * y.1)
                                   ⟨y.1, y.2.1, a, a, 128, s.strictAt w y.2.2, s.carries w.die y.2.1⟩ }
              let s := s.touched w [(va.toNat, 128 * n)]
              .next (s.startCopy t (w.countCpout e) e cp (copyOwes e lost))

/-- CPTT (07 R161). DEDUCED: TILE_STATE for sizes or an overlap comes before the owner's stall of 07 R153 (log 90). -/
def execCptt (d x : TileNo) (fc : FcReg) (s : State) : Out :=
  copyOp (.cptt d x fc) s fun s t w e c _ p =>
    let dt := p.tile d.toNat
    let src := p.tile x.toNat
    let bad := dt.defined && src.defined &&
      (decide (dt.bytes < src.bytes) || (decide (dt.base < src.base + src.bytes) && decide (src.base < dt.base + dt.bytes)))
    if bad || d == x then .next (s.trapHere t w c ⟨.tileState, BitVec.ofNat 64 dt.base, e.mask⟩)
    else match s.changeFit w e p [(d.toNat, notMoving), (x.toNat, isReadyTile)] with
      | .error (some tr) => .next (s.trapHere t w c tr)
      | .error none => .next (s.stallHere t w)
      | .ok () =>
        if s.copiesFull w then .next (s.stallHere t w)
        else
          let lost := p.lostReads (s.strict w.ctx) src.base src.bytes
          let s := s.logWords w e.gstep lost
          let s := s.setGroup w.group ((p.setTile d.toNat (dt.change w.wix .filling)).setTile x.toNat (src.change w.wix .draining))
          let cp : Copy := { uid := s.uid, t := t, group := w.group, kind := .cptt x.toNat, tile := d.toNat, fc := fc.toNat
                             w := ⟨s.gkey w 0, 1, 0⟩, gstep := e.gstep, wstep := e.wstep
                             lines := (List.range (src.bytes / 128)).map fun i =>
                               (i, dt.base + 128 * i, 0, p.stashBytes (src.base + 128 * i) 128)
                             landed := [], far := [], mask := e.mask, twins := [], since := s.time }
          .next (s.startCopy t w e cp (copyOwes e lost))

/-! ## Landing (07 R155, 13 R274) -/

/-- Write bytes of a group's stash: a word written is no longer lost (23 Table 23.1). -/
def Group.writeStash (p : Group) (o : Nat) (bs : List Byte) : Group :=
  let hit := p.badStash.filter fun k => decide (o < 4 * k + 4) && decide (4 * k < o + bs.length)
  let old := tsets 0#8 p.stash (hit.flatMap fun k => (List.range 4).map fun i => (4 * k + i, 0#8))
  { p with stash := tsets 0#8 old ((List.range bs.length).zip bs |>.map fun x => (o + x.1, x.2))
           badStash := p.badStash.filter fun k => !hit.contains k }

/-- A command completes: the tile takes the state it leaves (07 Table 7.6). -/
def Group.complete (p : Group) (n wix : Nat) (st : TileState) : Group :=
  p.setTile n { p.tile n with actual := st, changedBy := some wix }

/-- The first grid step whose close may publish a CPOUT that completes now (07 R160): no close that had begun; in
deterministic mode that of its own step. -/
def State.publishFrom (s : State) (c : Copy) (w : Thread) : Word :=
  match s.grid? w.grid with
  | some g => if g.pkt.det then c.gstep else maxWord c.gstep (if s.gridArrived w.grid then g.closed + 1 else g.closed)
  | none => c.gstep

/-- A completed CPOUT's lines join a step as writes of one writer (07 R159, R160), on the pages that their issue found (19
R319). -/
def State.publish (s : State) (c : Copy) (w : Thread) (rule : Rule) : State :=
  let n := s.publishFrom c w
  c.landed.foldl (fun s l =>
    let (va, pa, bs) := l
    if c.twins.contains va then
      s.twinWrite pa (match s.grid? w.grid with | some g => g.pkt.det | none => false)
        { grid := w.grid, step := n, va := va, data := bs, rule := rule, w := c.w, die := w.die }
    else
      let p : PWrite := { step := n, va := va, pa := pa, nib := none, data := bs, rule := rule, sum := none, w := c.w
                          stf := none, order := s.uid, die := w.die, strict := c.far.any fun f => f.va.toNat == va && f.strict }
      { s with uid := s.uid + 1 }.modGrid w.grid fun g => { g with pend := g.pend ++ [p] }) s

/-- A copy whose last line has landed completes. -/
def State.finishCopy (s : State) (c : Copy) (w : Thread) : State :=
  let s := s.modGroup c.group fun p =>
    match c.kind with
    | .cpin => p.complete c.tile w.wix .ready
    | .cpout _ free => p.complete c.tile w.wix (if free then .empty else .ready)
    | .cptt x => (p.complete c.tile w.wix .ready).complete x w.wix .ready
  let s := match c.kind with
    | .cpin => s
    | .cpout rule _ => s.publish c w rule
    | .cptt _ => s
  let s := s.modHearth w.home fun h => { h with copies := h.copies.filter (·.uid ≠ c.uid) }
  (s.reap c.t).reapGroup c.group

/-- A line of a copy lands: a CPIN or CPTT line in the stash, a CPOUT line at its home's shadow; the counter falls by 128
(07 R155). `lost` is the trap owed for a peer line that was not acknowledged. -/
def State.landLine (s : State) (h : Nat) (c : Copy) (line va pa : Nat) (bs : List Byte) (lost : List TrapInfo) : State :=
  match s.thread? c.t with
  | none => s
  | some w =>
    let s := match c.kind with
      | .cpin => s.modGroup c.group fun p => p.writeStash va bs
      | .cptt _ => s.modGroup c.group fun p => p.writeStash va bs
      | .cpout _ _ => s
    let c := { c with
      lines := c.lines.filter (·.1 ≠ line)
      landed := match c.kind with
        | .cpout _ _ => if isPeer pa then c.landed else c.landed ++ [(va, pa, bs)]
        | .cpin => c.landed
        | .cptt _ => c.landed }
    let s := s.setThread c.t ((w.setFc c.fc (w.fcount c.fc - 128)).owe lost (.cwait c.fc))
    let s := s.modHearth h fun q => { q with copies := q.copies.map fun x => if x.uid = c.uid then c else x }
    if c.lines = [] then s.finishCopy c w else s

/-- The copy and line that an event names. -/
def State.copyLine? (s : State) (h c line : Nat) : Option (Copy × Nat × Nat × List Byte) :=
  ((s.hearth h).copies.find? fun x => x.uid == c).bind fun x =>
    (x.lines.find? fun l => l.1 == line).map fun l => (x, l.2)

/-- The circuits that a copy's line needs are UP (22 R337). -/
def State.lineReached (s : State) (h : Nat) (c : Copy) (line : Nat) : Bool :=
  s.farReached (h / 128) (c.far.filter fun f => f.lane == line)

/-- A line of a copy that the engine can move: a peer's lands at its acknowledgement instead, and one whose home is not reached
waits (22 R337, R338). -/
def State.canMove (s : State) (h : Nat) (c : Copy) (l : Nat × Nat × Nat × List Byte) : Bool :=
  !isPeer l.2.2.1 && s.lineReached h c l.1

/-- The copy of a hearth that moves a line next: in rotation, in issue order, after the one that moved the last (13 R274). A
copy none of whose lines can move is passed over: the model's choice (log 68). -/
def State.copyTurn (s : State) (h : Nat) : Option Copy :=
  let x := s.hearth h
  let l := x.copies.filter fun c => c.lines.any (s.canMove h c)
  match l.find? fun c => decide (x.copyTurn < c.uid) with
  | some c => some c
  | none => l.head?

/-- COPY_LINE_LANDS. -/
def execCopyLineLands (h c line : Nat) (s : State) : Out :=
  match s.copyLine? h c line with
  | none => .next s
  | some (x, va, pa, bs) =>
    if !s.canMove h x (line, va, pa, bs) || (s.copyTurn h).map (·.uid) != some c then .next s
    else .next ((s.modHearth h fun q => { q with copyTurn := c }).landLine h x line va pa bs [])

/-! ## CWAIT (07 R162) -/

def Owed.atCwait (o : Owed) (fc : Nat) : Bool :=
  match o.due with
  | .cwait k => k == fc
  | .wave => false
  | .flag _ => false
  | .grate _ => false
  | .step _ _ => false

def execCwait (fc : FcReg) (n : SSrc) (s : State) : Out :=
  issue (.cwait fc n) s fun s t w e c =>
    match firstOwed (w.owed.filter fun o => !w.handler && o.atCwait fc.toNat) with
    | some o => .next (s.takeOwed t w o c.here c.hdr)
    | none => if (n.value w).toNat < w.fcount fc.toNat then .next (s.stallHere t w) else .next (s.retire t w e)

/-! ## Windows (07 R163 to R165) -/

/-- A window descriptor that R164 refuses. -/
def winBad (d : BitVec 256) : Bool :=
  bits d.toNat 194 62 != 0 || winLen d == 0 || winSbase d % winEsize d != 0 || winIbase d % 4 != 0

/-- WBIND (07 R164). DEDUCED: its own ALIGN, PAGE and PROT come before its wait for the close (log 38). -/
def execWbind (wn : WinNo) (a : SReg) (s : State) : Out :=
  issue (.wbind wn a) s fun s t w e c =>
    let va := w.sreg a.toNat
    if va.toNat % 32 ≠ 0 then .next (s.trapHere t w c ⟨.align, va, e.mask⟩)
    else if !s.walkReached w.mmu w.ctx va then .next (s.stallHere t w)
    else match s.access w.mmu w.ctx va .read with
      | .error k => .next (s.trapHere t w c ⟨k, va, e.mask⟩)
      | .ok (pa, _) =>
        if s.gridReadWaits w e || !s.reaches w.die pa then .next (s.stallHere t w)
        else
          let d : BitVec 256 := BitVec.ofNat 256 (leNat (s.cleanBytes pa 32))
          let s' := s.noteRead w e va 32
          if winBad d then .next (s.trapOver s' t w c ⟨.reservedEnc, va, e.mask⟩)
          else
            let o : SysOp := ⟨e.gstep, s.gkey w 0, s.uid, .wbind wn.toNat d⟩
            .next (({ s' with uid := s.uid + 1 }.modGrid w.grid fun g => { g with sysops := g.sysops ++ [o] }).retire t w e)

def execWunbind (wn : WinNo) (s : State) : Out :=
  issue (.wunbind wn) s fun s t w e _ =>
    let o : SysOp := ⟨e.gstep, s.gkey w 0, s.uid, .wunbind wn.toNat⟩
    .next (({ s with uid := s.uid + 1 }.modGrid w.grid fun g => { g with sysops := g.sysops ++ [o] }).retire t w e)

/-! ## Pins (07 R166, R167) -/

/-- Bytes of a range that each flue die's L3 would hold, by page; a page that is not mapped is none's. -/
def State.pinLoad (s : State) (die c : Nat) (base : DWord) (bytes f : Nat) : Nat :=
  ((List.range (bytes / 65536)).filter fun i =>
    match s.translate die c (base + BitVec.ofNat 64 (65536 * i)) with
    | .ok pa _ => homeFlue pa == f
    | .page => false
    | .malformed _ => false
    | .prot => false).length * 65536

/-- The range fits beside the context's pins in every flue die (256 MiB in each). -/
def State.pinFits (s : State) (die c : Nat) (x : Context) (base : DWord) (bytes : Nat) : Bool :=
  decide (x.pins.length < 32) && (List.range 4).all fun f =>
    decide (s.pinLoad die c base bytes f + x.pins.foldl (fun a y => a + s.pinLoad die c y.2.base y.2.bytes f) 0 ≤ 2 ^ 28)

/-- The pages of a range as PIN's check walks them. -/
def pinWalks (e : Entry) (base : DWord) (bytes : Nat) : List (Nat × DWord) :=
  (List.range (bytes / 65536)).map fun i => (lowestLane e.mask, base + BitVec.ofNat 64 (65536 * i))

/-- More than the four dies can hold in all, so that no walk over the range is needed to refuse it. -/
def pinTooLarge (bytes : Nat) : Bool := decide (2 ^ 30 < bytes)

/-- The physical pages of a range. -/
def State.pinPas (s : State) (w : Thread) (walks : List (Nat × DWord)) : List Nat :=
  walks.filterMap fun y => match s.translate w.mmu w.ctx y.2 with
    | .ok pa _ => some pa
    | .page => none
    | .malformed _ => none
    | .prot => none

/-- PIN (07 R166, 22 R342). DESIGN CHOICE: a granted pin takes the lowest free number (log 91). -/
def execPin (d base bytes : SReg) (s : State) : Out :=
  issue (.pin d base bytes) s fun s t w e c =>
    let a := w.sreg base.toNat
    let z := (w.sreg bytes.toNat).toNat
    let n := z % 2 ^ 48
    let fade := bits z 56 8
    if a.toNat % 65536 ≠ 0 ∨ a = 0#64 ∨ n % 65536 ≠ 0 ∨ n = 0 ∨ fade = 0 ∨ bits z 48 8 ≠ 0 then
      .next (s.trapHere t w c ⟨.reservedEnc, 0#64, e.mask⟩)
    else match s.context? w.ctx with
      | none => .fault .noThread
      | some x =>
        let refuse := fun (s : State) => Host.Outcome.next
          ((s.modContext w.ctx fun x => { x with pinRef := x.pinRef + 1 }).retire t (w.setS d.toNat (BitVec.allOnes 64)) e)
        match (List.range 32).find? fun k => (aget? x.pins k).isNone with
        | none => refuse s
        | some k =>
          let walks := pinWalks e a n
          if pinTooLarge n then refuse s
          else if !walks.all (fun y => s.walkReached w.mmu w.ctx y.2) then .next (s.stallHere t w)
          else
            let s' := s.noteMalformed w walks
            if s.pinFits w.die w.ctx x a n then
              let q : Pin := ⟨a, n, fade, fade, false, s.time⟩
              .next (((s'.pinPages w.ctx k (s.pinPas w walks)).modContext w.ctx fun x => { x with pins := aset x.pins k q }).retire t (w.setS d.toNat (BitVec.ofNat 64 k)) e)
            else refuse s'

def execUnpin (a : SReg) (s : State) : Out :=
  issue (.unpin a) s fun s t w e _ =>
    let k := (w.sreg a.toNat).toNat
    .next (((s.unpinPages fun c n => c == w.ctx && n == k).modContext w.ctx fun x => { x with pins := adel x.pins k }).retire t w e)

end Sys2Proof.Machine
end

