-- ==== Sys2Proof/Machine/GrateMath.lean ====
section
/-! DEFINITION. The arithmetic of the grate as functions of bytes: element formats (09 Table 9.1), operands (R205 to R207),
block sums (02 R29), sparse destinations (R208), the drain (R220) and drop-and-grow (R222). -/

namespace Sys2Proof.Machine

/-! ## Formats (09 Table 9.1, 03 Tables 3.2 and 3.4) -/

/-- Bits of an element in a tile row. -/
def gBits (code : Nat) : Nat := [8, 8, 4, 16, 16, 8, 4, 2, 32, 32].getD code 32
/-- Bits of a fibre value: a VQ2 index has 16 (09 R223). -/
def fibBits (code : Nat) : Nat := if code = 7 then 16 else gBits code
/-- Two formats run at half a clock for each k, and so does VQ2. -/
def halfClock (code : Nat) : Bool := code == 2 || code == 6 || code == 7
/-- The format may stand in FMT with the accumulator type (09 R203): 0 FP32, 1 INT32. -/
def accLegal (acc code : Nat) : Bool :=
  (acc == 0 && decide (code < 8) && code != 5 && code != 6) || (acc == 1 && (code == 5 || code == 6))

/-- The float format of a code: a decoded VQ2 weight is E4M3 (02 R19). -/
def gFmt (code : Nat) : Fmt := [e4m3, e5m2, e2m1, fp16, bf16, fp32, fp32, e4m3, fp32].getD code fp32
/-- The integer value of a pattern. -/
def gInt (code raw : Nat) : Int := etyInt (if code = 5 then .i8 else if code = 6 then .i4 else .i32) raw
/-- The pattern is a zero: such an element supplies no member (02 R29). -/
def gZero (code raw : Nat) : Bool :=
  if code = 5 ∨ code = 6 ∨ code = 9 then raw == 0 else ((gFmt code).decode raw).isZero
/-- The element type of a code. -/
def gTy (code : Nat) : ETy := [ETy.e4m3, .e5m2, .e2m1, .f16, .bf16, .i8, .i4, .e4m3, .f32, .i32].getD code .i32

/-! ## VQ2 (02 R19) -/

/-- Weight i of an index, as an E4M3 code. -/
def vqWeight (vq : Tbl (BitVec 32)) (index i : Nat) : Nat :=
  let ent := (tget 0#32 vq (bits index 15 1 * 4096 + index % 256)).toNat
  let mag := [0x30, 0x38, 0x3C, 0x40, 0x42, 0x44, 0x46, 0x48].getD (bits ent (3 * i) 3) 0
  let neg := if i = 7 then popcount 7 (bits index 8 7) % 2 else bits index (8 + i) 1
  128 * neg + mag

/-! ## Operands -/

/-- A row of a tile as a number. -/
def rowNum (tile : Nat) (pitch i : Nat) : Nat := bits tile (8 * pitch * i) (8 * pitch)

/-- Element k of a row. -/
def rowElem (vq : Tbl (BitVec 32)) (code row k : Nat) : Nat :=
  if code = 7 then vqWeight vq (bits row (16 * (k / 8)) 16) (k % 8) else bits row (gBits code * k) (gBits code)

/-- Elements of a fibre: coordinate and pattern by position from POS on. `b` is the width of a value, `sh` the bit at which
the first stands. -/
def fibElems (crd vals : Nat) (cb b sh : Nat) (n : Nat) : List (Nat × Nat) :=
  (List.range n).map fun p => (bits crd (cb * p) cb, bits vals (sh + b * p) b)

/-- The eight weights of each element of a VQ2 fibre, in ascending coordinate. The manual gives the weights, and not the
coordinates that seven of them have: those are free, within the limits of the fibre's role (log 22). -/
def vqSpread (vq : Tbl (BitVec 32)) (lh ll : Nat) (l : List (Nat × Nat)) : List (Nat × Nat) :=
  sortBy (fun a b => decide (a.1 ≤ b.1)) (l.flatMap fun x => (List.range 8).map fun i =>
    let c := Config.vqPlace x.1 i
    (c / 65536 % lh * 65536 + c % 65536 % ll, vqWeight vq x.2 i))

/-- The first position at which coordinates fail to ascend strictly or an index passes its limit (09 R206). `lo` is the
least coordinate still allowed. -/
def firstBad (lh ll : Nat) : List (Nat × Nat) → Nat → Nat → Option Nat
  | [], _, _ => none
  | (c, _) :: r, lo, p =>
    if c < lo ∨ lh ≤ c / 65536 ∨ ll ≤ c % 65536 then some p else firstBad lh ll r (c + 1) (p + 1)

/-- Operand A: the present elements of row i, in ascending k, as (k, pattern). Operand B: the pattern at (k, j). -/
structure GMat where
  row : Nat → List (Nat × Nat)
  at' : Nat → Nat → Option Nat

/-- A tile as operand A: operand row i is row `pick i`, with K elements (09 R205, R207). -/
def tileRows (vq : Tbl (BitVec 32)) (code tile pitch kk : Nat) (pick : Nat → Option Nat) (i : Nat) : List (Nat × Nat) :=
  match pick i with
  | some r => let x := rowNum tile pitch r
              (List.range kk).map fun k => (k, rowElem vq code x k)
  | none => []

/-- A tile as operand B. -/
def tileAt (vq : Tbl (BitVec 32)) (code tile pitch kk : Nat) (k j : Nat) : Option Nat :=
  if k < kk then some (rowElem vq code (rowNum tile pitch k) j) else none

/-- A fibre as operand A (09 Table 9.3): row-major when `hi` is the row. -/
def fibRows (l : List (Nat × Nat)) (hi : Bool) (i : Nat) : List (Nat × Nat) :=
  l.filterMap fun (c, v) =>
    let (x, y) := if hi then (c / 65536, c % 65536) else (c % 65536, c / 65536)
    if x = i then some (y, v) else none

/-- A fibre as operand B: `hi` is k. -/
def fibAt (l : List (Nat × Nat)) (hi : Bool) (k j : Nat) : Option Nat :=
  (l.find? fun x => x.1 == (if hi then k * 65536 + j else j * 65536 + k)).map (·.2)

/-! ## Block sums (02 R29, 09 R216) -/

/-- Group consecutive members of one block. -/
def runs {α : Type} : List (Nat × α) → List (List α)
  | [] => []
  | (b, x) :: r =>
    match r with
    | [] => [[x]]
    | (c, _) :: _ =>
      match runs r with
      | l :: t => if b = c then (x :: l) :: t else [x] :: l :: t
      | [] => [[x]]

/-- The product of two factors, neither of them zero: a NaN product is the quiet form of A's NaN, else of B's, and signals
when either factor does (02 R29). -/
def gProd (x y : FVal) : FVal :=
  match x, y with
  | .nan n s p, _ => .nan n (s || y.signals) p
  | _, .nan n s p => .nan n s p
  | _, _ => (mulVal x y).getD (.fin false 0 0)

/-- Add a block sum to an accumulator (02 R29 step 3). -/
def gAccum (c : Nat) (s : OiSum) : FRes :=
  if (fp32.decode c).isNan then (c, flNone)
  else match s with
    | .nan x => (x, flNone)
    | .zero => (c, flNone)
    | .inf n => fp32.addVal .rne 0 (fp32.decode c) (.inf n)
    | .num n m e => fp32.addVal .rne 0 (fp32.decode c) (.fin n m e)

/-- The members of one element: pairs of patterns with their block, neither zero. -/
def gMembers (af bf : Nat) (row : List (Nat × Nat)) (b : Nat → Option Nat) : List (Nat × Nat × Nat) :=
  row.filterMap fun (k, x) =>
    match b k with
    | some y => if gZero af x || gZero bf y then none else some (k / 32, x, y)
    | none => none

/-- The value of an element after the instruction, with the flags raised. -/
def gCell (acc af bf : Nat) (ms : List (Nat × Nat × Nat)) (c : Nat) : FRes :=
  if acc = 1 then
    (intCode 32 (ms.foldl (fun a m => a + gInt af m.2.1 * gInt bf m.2.2) (gInt 9 c)), flNone)
  else
    (runs ms).foldl (fun (a : FRes) blk =>
      let s := oisum (blk.map fun m => gProd ((gFmt af).decode m.1) ((gFmt bf).decode m.2)) 30
      let x := gAccum a.1 s.1
      (x.1, a.2 ||| s.2 ||| x.2)) (c, flNone)

/-- An element of C after the instruction: its place 64i + j, its value, and whether it received a member. -/
structure CElem where
  ix : Nat
  val : Nat
  got : Bool
  fl : Fl

/-- C after the instruction (09 R216): `init` is the initial C. -/
def gMatrix (acc af bf : Nat) (a b : GMat) (init : Nat → Nat) : List CElem :=
  (List.range 64).flatMap fun i =>
    let row := a.row i
    (List.range 64).map fun j =>
      let ms := gMembers af bf row fun k => b.at' k j
      let x := gCell acc af bf ms (init (64 * i + j))
      { ix := 64 * i + j, val := x.1, got := !ms.isEmpty, fl := x.2 }

def flagsOf (l : List CElem) : Fl := l.foldl (fun f c => f ||| c.fl) flNone

/-! ## Sparse destinations (09 R208, Table 9.4) -/

/-- Entries of a row segment as (column, value), or the byte offset within the segment of what is malformed. -/
def segEntries (seg : Nat) : Except Nat (List (Nat × Nat)) :=
  let n := bits seg 0 32
  if 64 < n then .error 0
  else
    let l := (List.range n).map fun e => (bits seg (32 + 64 * e) 32, bits seg (64 + 64 * e) 32)
    match (List.range n).find? fun e =>
        let c := (l.getD e (0, 0)).1
        decide (64 ≤ c) || (e != 0 && decide (c ≤ (l.getD (e - 1) (0, 0)).1)) with
    | some e => .error (4 + 8 * e)
    | none => .ok l

/-- The bytes of a row segment: words after the last entry are zero. -/
def segBytes (l : List (Nat × Nat)) : List Byte :=
  ((leBytes 4 l.length) ++ l.flatMap (fun x => leBytes 4 x.1 ++ leBytes 4 x.2)
    ++ List.replicate 516 0#8).take 516

/-! ## The drain (09 R219, R220) -/

/-- A row or column scale: E8M0 or F32; none is the E8M0 NaN (02 R18). -/
def scaleAt (f32 : Bool) (v i : Nat) : Option FVal :=
  if f32 then some (fp32.decode (bits v (32 * i) 32))
  else
    let e := bits v (8 * i) 8
    if e = 255 then none else some (.fin false 1 ((e : Int) - 127))

/-- A stage t x scale, rounded to FP32 by RNE. -/
def drainScale (x : FVal) (s : Option FVal) : FRes :=
  match s with
  | none => fp32.invalid
  | some y => (fp32.nanOf [x, y]).getD (match mulVal x y with
    | some p => fp32.deliver .rne 0 p
    | none => fp32.invalid)

/-- What MMDRAIN needs besides the accumulator word. -/
structure Drain where
  acc : Nat
  ef : Nat
  rnd : Rnd
  relu : Bool
  f32 : Bool
  sa : Option Nat
  sb : Option Nat
  bias : Option Nat
  /-- srbits of an element (02 R23). -/
  sr : Nat → Nat

/-- drain(i, j) of 09 R220: the pattern stored and the flags. -/
def drainElem (d : Drain) (i j c : Nat) : FRes :=
  if d.acc = 1 ∧ d.sa = none ∧ d.sb = none ∧ d.bias = none ∧ (d.ef = 5 ∨ d.ef = 6 ∨ d.ef = 9) then
    let v := gInt 9 c
    let v := if d.relu && decide (v < 0) then 0 else v
    let (lo, hi) := etyRange (gTy d.ef)
    (intCode (gBits d.ef) (clampInt lo hi v), flNone)
  else
    let x : FVal := if d.acc = 1 then .fin (decide (gInt 9 c < 0)) (gInt 9 c).natAbs 0 else fp32.decode c
    let t := match d.sa with
      | some v => drainScale x (scaleAt d.f32 v i)
      | none => fp32.deliver .rne 0 x
    let u := match d.sb with
      | some v => let r := drainScale (fp32.decode t.1) (scaleAt d.f32 v j)
                  (r.1, t.2 ||| r.2)
      | none => t
    let w := match d.bias with
      | some v => let r := fp32.add .rne 0 u.1 (bits v (32 * j) 32)
                  (r.1, u.2 ||| r.2)
      | none => u
    let y := if d.relu && !(fp32.decode w.1).isNan && (fp32.decode w.1).neg then 0 else w.1
    let r := convert (gTy d.ef) .f32 d.rnd (d.sr (64 * i + j)) y
    (r.1, w.2 ||| r.2)

/-- Pack 64 patterns of b bits into the bytes of a row. -/
def packRow (b : Nat) (l : List Nat) : List Byte :=
  leBytes (8 * b) (l.foldr (fun x a => x % 2 ^ b + 2 ^ b * a) 0)

/-! ## Drop and grow (09 R222) -/

/-- Order of magnitudes: a NaN ranks above infinity, and every NaN alike. -/
def magKey (code raw : Nat) : Nat :=
  if code = 5 ∨ code = 6 ∨ code = 9 then (gInt code raw).natAbs
  else
    let f := gFmt code
    if (f.decode raw).isNan then 2 ^ (f.eb + f.mb) else raw % 2 ^ (f.eb + f.mb)

/-- The n members that come first in an order, ties by lowest index (members are given in ascending index). -/
def firstN (le : Nat → Nat → Bool) (l : List Nat) (n : Nat) : List Nat := (sortBy le l).take n

/-- Positions dropped and grown: `mask`, `w` and `g` by 64i + j. -/
def dropGrow (mask : Nat → Bool) (w g : Nat → Nat) (n : Nat) : List Nat × List Nat :=
  let set0 := (List.range 4096).filter mask
  let clear0 := (List.range 4096).filter fun k => !mask k
  (firstN (fun a b => decide (w a ≤ w b)) set0 n, firstN (fun a b => decide (g b ≤ g a)) clear0 n)

end Sys2Proof.Machine
end

