-- ==== Sys2Proof/Machine/Grate.lean ====
section
/-! DEFINITION. The grate and fibre family (09 R197 to R227): checks at issue, the hearth's queue, the start that reads the
stash, the completion that writes, and the fibre instructions. -/

namespace Sys2Proof.Machine

/-! ## Fibre registers (03 Table 3.2) -/

def fbC (f : BitVec 256) : Nat := bits f.toNat 192 64
def fbV (f : BitVec 256) : Nat := bits f.toNat 128 64
def fbLen (f : BitVec 256) : Nat := bits f.toNat 96 32
def fbPos (f : BitVec 256) : Nat := bits f.toNat 64 32
def fbOpen (f : BitVec 256) : Bool := f.getLsbD 8
def fbStash (f : BitVec 256) : Bool := bits f.toNat 6 2 == 1
def fbWide (f : BitVec 256) : Bool := f.getLsbD 5
def fbVt (f : BitVec 256) : Nat := bits f.toNat 0 4
/-- Bytes of a coordinate. -/
def fbCs (f : BitVec 256) : Nat := if fbWide f then 4 else 2
/-- Elements from POS on. -/
def fbCount (f : BitVec 256) : Nat := fbLen f - fbPos f

/-- The fields of a fibre register. -/
def fibreOf (c v len pos : Nat) (opn stash wide : Bool) (vt : Nat) : BitVec 256 :=
  BitVec.ofNat 256 (c * 2 ^ 192 + v * 2 ^ 128 + len * 2 ^ 96 + pos * 2 ^ 64 + opn.toNat * 2 ^ 8 + stash.toNat * 2 ^ 6
    + wide.toNat * 2 ^ 5 + vt)

def fbSetPos (f : BitVec 256) (pos : Nat) : BitVec 256 :=
  fibreOf (fbC f) (fbV f) (fbLen f) pos (fbOpen f) (fbStash f) (fbWide f) (fbVt f)
def fbSetOpen (f : BitVec 256) (o : Bool) : BitVec 256 :=
  fibreOf (fbC f) (fbV f) (fbLen f) (fbPos f) o (fbStash f) (fbWide f) (fbVt f)

/-- Address and length of the bytes that hold the coordinates of n elements from position p on. -/
def crdRange (f : BitVec 256) (p n : Nat) : Nat × Nat := (fbC f + fbCs f * p, fbCs f * n)
/-- The same for values: an element below one byte is a nibble (02 R12). -/
def valRange (f : BitVec 256) (p n : Nat) : Nat × Nat :=
  let b := fibBits (fbVt f)
  (fbV f + p * b / 8, ((p + n) * b + 7) / 8 - p * b / 8)
/-- Bit at which the value of position p stands in the range from p on. -/
def valShift (f : BitVec 256) (p : Nat) : Nat := p * fibBits (fbVt f) % 8

/-! ## Checks at issue (07 R369, 09 R200) -/

/-- A cause that a check meets, with its TRAPADDR. -/
abbrev Chk := Cause × DWord

def chkIf (b : Bool) (c : Cause) (a : Nat) : List Chk := if b then [(c, BitVec.ofNat 64 a)] else []

/-- The first cause in the order of 07 R369. -/
def firstChk : List Chk → Option Chk
  | [] => none
  | x :: r => some (r.foldl (fun m y => if y.1.own < m.1.own then y else m) x)

/-- What the checks of an instruction find, and whether it would stall on a tile of its own wave that is moving. -/
structure Gate where
  errs : List Chk
  stall : Bool
deriving DecidableEq, Repr

def Gate.join (a b : Gate) : Gate := ⟨a.errs ++ b.errs, a.stall || b.stall⟩
def Gate.of (l : List Chk) : Gate := ⟨l, false⟩

/-- Trap, stall, or go on: a stall comes after every cause up to TILE_STATE (07 R369). -/
def Gate.pass (x : Gate) (s : State) (t : Nat) (w : Thread) (e : Entry) (c : Clause) (k : Out) : Out :=
  match firstChk x.errs with
  | some (cause, a) =>
    if x.stall && decide (Cause.own .tileState < cause.own) then .next (s.stallHere t w)
    else .next (s.trapAt t w c ⟨cause, a, e.mask⟩ ((x.errs.filter fun y => y.1 == .page).map fun y => (lowestLane e.mask, y.2)))
  | none => if x.stall then .next (s.stallHere t w) else k

/-- A tile operand: its state, and then the conditions on its shape, each of which is TILE_STATE. -/
def State.tileGate (s : State) (w : Thread) (p : Group) (n : Nat) (need : TileState → Bool) (change bad : Bool) : Gate :=
  match s.tileFit w p n need change false with
  | .trap a => ⟨[(.tileState, a)], false⟩
  | .stall => ⟨[], true⟩
  | .ok => Gate.of (chkIf bad .tileState (p.tile n).base)

/-- Stash bytes that overlap a tile in FILLING or DRAINING (09 R200); a range of no bytes overlaps none. -/
def Group.rangeBusy (p : Group) (o n : Nat) : Bool :=
  n != 0 && p.tiles.any fun x => x.2.defined && x.2.actual.moving && decide (x.2.base < o + n) && decide (o < x.2.base + x.2.bytes)

/-- A source tile: READY as the wave sees it, and no part of it in a tile that is actually moving (09 R200). -/
def State.sourceGate (s : State) (w : Thread) (p : Group) (n : Nat) (bad : Bool) : Gate :=
  let x := p.tile n
  (s.tileGate w p n isReadyTile false bad).join (Gate.of (chkIf (x.defined && p.rangeBusy x.base x.bytes) .tileBusy x.base))

/-- A destination: the checks of 07 R157 besides. -/
def State.destGate (s : State) (w : Thread) (e : Entry) (p : Group) (n : Nat) (bad : Bool) : Gate :=
  let x := p.tile n
  (s.tileGate w p n notMoving true (bad || p.overlapsMoving n x.base x.bytes)).join
    (Gate.of (chkIf (x.defined && p.pendingIn e.wstep x.base x.bytes) .tileBusy x.base))

def tilesOverlap (a b : Tile) : Bool := decide (a.base < b.base + b.bytes) && decide (b.base < a.base + a.bytes)

/-! ## Global spans -/

/-- A span of global bytes cut at pages: the address and length of each piece, and what its translation gives. -/
def State.span (s : State) (w : Thread) : Nat → Nat → Nat → List (Nat × Nat × Except Cause (Nat × DWord))
  | 0, _, _ => []
  | fuel + 1, va, n =>
    if n = 0 then []
    else
      let k := min n (65536 - va % 65536)
      (va, k, s.access w.mmu w.ctx (BitVec.ofNat 64 va) .read) :: s.span w fuel (va + k) (n - k)

def State.spanOf (s : State) (w : Thread) (r : Nat × Nat) : List (Nat × Nat × Except Cause (Nat × DWord)) :=
  s.span w (r.2 / 65536 + 2) r.1 r.2

/-- Why the pages of a span cannot be read. -/
def spanErrs (l : List (Nat × Nat × Except Cause (Nat × DWord))) : List Chk :=
  l.filterMap fun x => match x.2.2 with
    | .error c => some (c, BitVec.ofNat 64 x.1)
    | .ok _ => none

/-- The way of the grate's read of global memory: a global read that allocates no L1 line (13 Table 13.2). -/
def State.operandUse (s : State) (w : Thread) (va : DWord) (pa : Nat) (leaf : DWord) (n : Nat) : LineUse :=
  s.globalUse w false false none va pa leaf n

/-- The bytes of a span, one read each, which names the word that the byte stands in. -/
def State.spanReads (s : State) (w : Thread) (l : List (Nat × Nat × Except Cause (Nat × DWord))) : List LaneRead :=
  l.flatMap fun x => match x.2.2 with
    | .error _ => []
    | .ok (pa, leaf) => (List.range x.2.1).map fun i =>
      let a : DWord := BitVec.ofNat 64 ((x.1 + i) / 8 * 8)
      let u := s.operandUse w a (pa + i) leaf 1
      let r := s.serve u
      ⟨[r.1.headD 0#8], r.2, s.strictAt w leaf, false, a, a, [u]⟩

/-- The lines of a span, each with its way. -/
def State.spanUses (s : State) (w : Thread) (r : Nat × Nat) : List LineUse :=
  (s.spanOf w r).flatMap fun x => match x.2.2 with
    | .error _ => []
    | .ok (pa, leaf) => (linesIn pa x.2.1).map fun k =>
      let lo := max pa (128 * k)
      s.operandUse w (BitVec.ofNat 64 (x.1 + (lo - pa))) lo leaf (min (pa + x.2.1) (128 * k + 128) - lo)

/-- The accesses of a span that supplies a slot, one for each line. -/
def State.spanFar (s : State) (w : Thread) (slot : Nat) (r : Nat × Nat) : List GrateRead :=
  (s.spanUses w r).map fun u => ⟨slot, u.va.toNat - r.1, u.n, s.farUse w 0 u.va (s.strictAt w (s.leafOf w u.va)) u⟩

/-- The translations of spans can be had (22 R337). -/
def State.spansWalked (s : State) (w : Thread) (l : List (Nat × Nat)) : Bool :=
  l.all fun r => (s.spanOf w r).all fun x => s.walkReached w.mmu w.ctx (BitVec.ofNat 64 x.1)

/-- The global bytes that an instruction captures at issue, for one slot. -/
def State.slotReads (s : State) (w : Thread) (r : Nat × Nat) : List LaneRead := s.spanReads w (s.spanOf w r)

/-- The checks of an open fibre operand's pages (09 R200): coordinates, and values where they are read. -/
def State.fibrePages (s : State) (w : Thread) (f : Option (BitVec 256)) (vals : Bool) : List Chk :=
  match f with
  | none => []
  | some f =>
    if !fbOpen f || fbStash f then []
    else spanErrs (s.spanOf w (crdRange f (fbPos f) (fbCount f)))
      ++ (if vals then spanErrs (s.spanOf w (valRange f (fbPos f) (fbCount f))) else [])

/-- A fibre operand that is not open. -/
def fibreClosed (f : Option (BitVec 256)) : List Chk :=
  match f with
  | none => []
  | some f => chkIf (!fbOpen f) .fibreRange 0

/-- TILE_BUSY of an open stash fibre. -/
def Group.fibreBusy (p : Group) (f : Option (BitVec 256)) (vals : Bool) : List Chk :=
  match f with
  | none => []
  | some f =>
    let c := crdRange f (fbPos f) (fbCount f)
    let v := valRange f (fbPos f) (fbCount f)
    if !fbOpen f || !fbStash f then []
    else chkIf (p.rangeBusy c.1 c.2) .tileBusy c.1 ++ chkIf (vals && p.rangeBusy v.1 v.2) .tileBusy v.1

/-- A fibre as a matrix operand: 16-bit coordinates are refused (09 R206). -/
def fibreNarrow (f : Option (BitVec 256)) : Bool :=
  match f with
  | none => false
  | some f => fbOpen f && !fbWide f

/-- A fibre of another value type than its role's (09 R206). -/
def fibreType (f : Option (BitVec 256)) (code : Nat) : List Chk :=
  match f with
  | none => []
  | some f => chkIf (fbOpen f && fbVt f != code) .tileState 0

/-! ## Operand slots

0 coordinates of A, 1 values or tile of A, 2 coordinates of B, 3 values or tile of B, 4 coordinates of the row index, 5 the
destination, 6 row scales, 7 column scales, 8 bias. VQLUT reads its image as slot 1; SPDG reads mask, weights and
gradients as slots 5, 3 and 1. -/

/-- Slots of a fibre: (global ranges, stash ranges). -/
def fibreSlots (f : Option (BitVec 256)) (stash vals : Bool) : List (Nat × Nat) :=
  match f with
  | none => [(0, 0), (0, 0)]
  | some f =>
    if fbOpen f && fbStash f == stash then
      [crdRange f (fbPos f) (fbCount f), if vals then valRange f (fbPos f) (fbCount f) else (0, 0)]
    else [(0, 0), (0, 0)]

def tileSlot (p : Group) (n : Option Nat) : Nat × Nat :=
  match n with
  | some n => ((p.tile n).base, (p.tile n).bytes)
  | none => (0, 0)

/-- Choose a tile's range where the operand is a tile. -/
def orRange (a b : Nat × Nat) : Nat × Nat := if a.2 = 0 then b else a

/-- The stash slots of an instruction. -/
def stashSlots (p : Group) (fa fb fr : Option (BitVec 256)) (ta tb td : Option Nat) (vecs : List (Nat × Nat)) :
    List (Nat × Nat) :=
  let a := fibreSlots fa true true
  let b := fibreSlots fb true true
  let r := fibreSlots fr true false
  [a.getD 0 (0, 0), orRange (a.getD 1 (0, 0)) (tileSlot p ta), b.getD 0 (0, 0), orRange (b.getD 1 (0, 0)) (tileSlot p tb),
   r.getD 0 (0, 0), tileSlot p td] ++ vecs

/-- The global slots of an instruction. -/
def globalSlots (fa fb fr : Option (BitVec 256)) : List (Nat × Nat) :=
  fibreSlots fa false true ++ fibreSlots fb false true ++ (fibreSlots fr false false).take 1

/-- An operand is a fibre in the stash, whose reads are shared reads of the group's step (07 R125). -/
def anyStash (l : List (Option (BitVec 256))) : Bool := l.any fun f => match f with
  | some f => fbOpen f && fbStash f
  | none => false

/-- An operand is a fibre in global memory. -/
def anyGlobal (l : List (Option (BitVec 256))) : Bool := l.any fun f => match f with
  | some f => fbOpen f && !fbStash f
  | none => false

/-! ## Issue -/

def Owed.atGrate (o : Owed) : Bool :=
  match o.due with
  | .grate _ => true
  | .wave => false
  | .flag _ => false
  | .cwait _ => false
  | .step _ _ => false

/-- An instruction of the family: a trap that an earlier one owes comes first, and an error that an earlier one may still
meet is waited for (09 R201, log 21). -/
def grateOp (i : Instr) (s : State) (k : State → Nat → Thread → Entry → Clause → Grid → Group → Out) : Out :=
  issue i s fun s t w e c =>
    match s.grid? w.grid, s.group? w.group with
    | some g, some p =>
      match firstOwed (w.owed.filter fun o => !w.handler && o.atGrate) with
      | some o => .next (s.takeOwed t w o c.here c.hdr)
      | none => if s.grateUnread t w then .next (s.stallHere t w) else k s t w e c g p
    | _, _ => .fault .noThread

/-- The queue holds 16 instructions; a 17th stalls (09 R198). -/
def State.grateFull (s : State) (w : Thread) : Bool := decide (16 ≤ (s.hearth w.home).grate.length)

/-- The global bytes of an instruction's operands are reached (22 R337). -/
def State.rangesReached (s : State) (w : Thread) (l : List (Nat × Nat)) : Bool :=
  l.all fun r => (s.spanUses w r).all fun u => s.reaches w.die u.pa || s.near u

/-- What an instruction of the queue captures besides what names its issuer. -/
structure Capture where
  fa : Option (BitVec 256)
  fb : Option (BitVec 256)
  fr : Option (BitVec 256)
  sv : List DWord
  glob : List (Nat × Nat)
  stash : List (Nat × Nat)
  dests : List Nat
  mayErr : Bool

/-- Put an instruction into the grate's queue: its global operands are read, its destination tiles go to DRAINING, and it
retires. -/
def State.enqueue (s : State) (t : Nat) (w : Thread) (e : Entry) (c : Clause) (i : Instr) (q : Bool) (p : Group)
    (x : Capture) : State :=
  let rs := x.glob.map (s.slotReads w)
  let far := ((List.range x.glob.length).zip x.glob).flatMap fun y => s.spanFar w y.1 y.2
  let s := (s.noteEngine w e.gstep (x.glob.flatMap (s.spanUses w)) (rs.flatMap id)).touched w x.glob
  let lost := (owesOf ((rs.flatMap id).map fun r => (0, r))).map fun k => { k with mask := e.mask }
  let o : GrateOp :=
    { uid := s.uid, join := e.join, since := s.time, far := far, t := t, i := i, fmt := e.fmt, flag := (c.flag q).getD 0, fa := x.fa, fb := x.fb, fr := x.fr
      sv := x.sv, exec := e.mask, icnt := e.icnt, gstep := e.gstep, wstep := e.wstep
      bytes := rs.map fun l => l.flatMap (·.bytes), stash := x.stash, prior := x.dests.map fun n => (n, (p.tile n).actual)
      mayErr := x.mayErr || s.strict w.ctx || far.any (·.far.strict), fail := lost.head? }
  let s := s.setGroup w.group (x.dests.foldl (fun p n => p.setTile n ((p.tile n).change w.wix .draining)) p)
  ({ s with uid := s.uid + 1 }.modHearth w.home fun h => { h with grate := h.grate ++ [o] }).retire t w e

/-! ## FMT (03 Table 3.4) -/

def fmtAf (f : Word) : Nat := bits f.toNat 0 4
def fmtBf (f : Word) : Nat := bits f.toNat 4 4
def fmtAcc (f : Word) : Nat := bits f.toNat 8 2
def fmtScf (f : Word) : Bool := f.getLsbD 10

/-! ## MMIP, MMOP, MMRW (09 R203 to R216) -/

/-- The parts of a matrix instruction: B is none for the resident B. -/
structure MForm where
  a : GSrc
  b : Option GSrc
  ri : Option FReg
  dest : Option Nat
  outer : Bool

def srcTile : GSrc → Option Nat
  | .tile n => some n.toNat
  | .fib _ => none
def srcFib (w : Thread) : GSrc → Option (BitVec 256)
  | .tile _ => none
  | .fib n => some (w.freg n.toNat)

/-- K of a tile as operand A (09 R205). -/
def Tile.kOf (x : Tile) (code : Nat) : Nat := x.pitch * 8 / gBits code
/-- A row of 64 elements of a format fits the tile's pitch. -/
def Tile.wide64 (x : Tile) (code : Nat) : Bool := decide (8 * gBits code ≤ x.pitch)

/-- The resident B that a wave may use (09 R217). -/
def State.residentOf (s : State) (t : Nat) (w : Thread) : Option ResB := (s.hearth w.home).resB.filter fun r => r.t == t

/-- An MMLDB is queued or running on the hearth: the resident B is not yet settled (09 R198). -/
def State.loadingB (s : State) (w : Thread) : Bool :=
  (s.hearth w.home).grate.any fun o => match o.i with
    | .mmldb _ _ => true
    | _ => false

/-- The format of B: the resident B's for MMRW. -/
def bfOf (m : MForm) (res : Option ResB) (fmt : Word) : Nat :=
  match m.b, res with
  | none, some r => r.bf
  | _, _ => fmtBf fmt

/-- The destination is sparse (09 Table 9.2). -/
def sparseC (fa fb : Option (BitVec 256)) (m : MForm) (res : Option ResB) : Bool :=
  fa.isSome || fb.isSome || (m.b.isNone && match res with
    | some r => r.sparse
    | none => false)

/-- The shared extent K (09 R205, R206, R212). -/
def kShared (p : Group) (m : MForm) (res : Option ResB) (af : Nat) : Nat :=
  match m.b, res with
  | none, some r => r.kb
  | _, _ =>
    match srcTile m.a, m.b.bind srcTile with
    | some n, _ => (p.tile n).kOf af
    | none, some n => (p.tile n).rows
    | none, none => 65535

/-- The checks of a matrix instruction (09 R200). -/
def State.matrixGate (s : State) (t : Nat) (w : Thread) (e : Entry) (p : Group) (m : MForm) : Gate :=
  let res := if m.b.isNone then s.residentOf t w else none
  let af := fmtAf e.fmt
  let acc := fmtAcc e.fmt
  let bf := bfOf m res e.fmt
  let fa := srcFib w m.a
  let fb := m.b.bind (srcFib w)
  let fr := m.ri.map fun r => w.freg r.toNat
  let ta := srcTile m.a
  let tb := m.b.bind srcTile
  let kk := kShared p m res af
  let early := chkIf (!accLegal acc af || ((m.b.isSome || res.isSome) && !accLegal acc bf) || (fa.isSome && fr.isSome)
      || fibreNarrow fa || fibreNarrow fb) .reservedEnc 0
    ++ s.fibrePages w fa true ++ s.fibrePages w fb true ++ s.fibrePages w fr false
    ++ fibreClosed fa ++ fibreClosed fb ++ fibreClosed fr
    ++ chkIf (m.b.isNone && res.isNone) .tileState 0
    ++ fibreType fa af ++ fibreType fb bf
  let ga : Gate := match ta with
    | some n => s.sourceGate w p n ((p.tile n).ef != af || (res.isSome && (p.tile n).kOf af != kk))
    | none => Gate.of []
  let gb : Gate := match tb with
    | some n =>
      let x := p.tile n
      s.sourceGate w p n (x.ef != bf || x.rows != kk || !x.wide64 bf)
    | none => Gate.of []
  let gd : Gate := match m.dest with
    | some n =>
      let x := p.tile n
      let overlaps := [ta, tb].any fun y => match y with
        | some k => k == n || tilesOverlap x (p.tile k)
        | none => false
      s.destGate w e p n (x.ef != 8 + acc || decide (x.rows < 64)
        || decide (x.pitch < (if sparseC fa fb m res then 520 else 256)) || overlaps)
    | none => Gate.of []
  let late := p.fibreBusy fa true ++ p.fibreBusy fb true ++ p.fibreBusy fr false
  (((Gate.of early).join ga).join gb).join (gd.join (Gate.of late))

/-- A matrix instruction issues. -/
def matrixOp (i : Instr) (q : Bool) (m : MForm) (s : State) : Out :=
  grateOp i s fun s t w e c _ p =>
    let fa := srcFib w m.a
    let fb := m.b.bind (srcFib w)
    let fr := m.ri.map fun r => w.freg r.toNat
    if anyGlobal [fa, fb, fr] && s.gridReadWaits w e then .next (s.stallHere t w)
    else if (!(uses i).t.isEmpty || anyStash [fa, fb, fr]) && s.groupReadWaits w e then .next (s.stallHere t w)
    else if !s.spansWalked w (globalSlots fa fb fr) then .next (s.stallHere t w)
    else if m.b.isNone && s.loadingB w then .next (s.stallHere t w)
    else (s.matrixGate t w e p m).pass s t w e c <|
      if s.grateFull w || !s.rangesReached w (globalSlots fa fb fr) then .next (s.stallHere t w)
      else
        let res := if m.b.isNone then s.residentOf t w else none
        let sp := m.dest.isSome && sparseC fa fb m res
        .next (s.enqueue t w e c i q p
          { fa := fa, fb := fb, fr := fr, sv := [], glob := globalSlots fa fb fr
            stash := stashSlots p fa fb fr (srcTile m.a) (m.b.bind srcTile) m.dest []
            dests := m.dest.toList, mayErr := fa.isSome || fb.isSome || fr.isSome || sp })

def execMmip (q : Bool) (d : AReg) (a b : GSrc) (ri : Option FReg) (s : State) : Out :=
  matrixOp (.mmip q d a b ri) q { a := a, b := some b, ri := ri, dest := none, outer := false } s

def execMmop (q : Bool) (d : TileNo) (a b : GSrc) (ri : Option FReg) (s : State) : Out :=
  matrixOp (.mmop q d a b ri) q { a := a, b := some b, ri := ri, dest := some d.toNat, outer := true } s

def execMmrw (q : Bool) (d : TileNo) (a : GSrc) (ri : Option FReg) (s : State) : Out :=
  matrixOp (.mmrw q d a ri) q { a := a, b := none, ri := ri, dest := some d.toNat, outer := false } s

/-! ## MMLDB, MMZERO, MMLDA (09 R215, R217, R218) -/

/-- Rows that the resident B may have (09 Table 9.2). -/
def residentRows (bf : Nat) : Nat := if halfClock bf then 128 else 64

def execMmldb (q : Bool) (a : GSrc) (s : State) : Out :=
  grateOp (.mmldb q a) s fun s t w e c _ p =>
    let bf := fmtBf e.fmt
    let f := srcFib w a
    if anyGlobal [f] && s.gridReadWaits w e then .next (s.stallHere t w)
    else if (f.isNone || anyStash [f]) && s.groupReadWaits w e then .next (s.stallHere t w)
    else if !s.spansWalked w (globalSlots none f none) then .next (s.stallHere t w)
    else
      let early := chkIf (decide (8 ≤ bf) || fibreNarrow f) .reservedEnc 0 ++ s.fibrePages w f true ++ fibreClosed f
        ++ fibreType f bf
      let ga : Gate := match srcTile a with
        | some n =>
          let x := p.tile n
          s.sourceGate w p n (x.ef != bf || decide (residentRows bf < x.rows) || !x.wide64 bf)
        | none => Gate.of []
      (((Gate.of early).join ga).join (Gate.of (p.fibreBusy f true))).pass s t w e c <|
        if s.grateFull w || !s.rangesReached w (globalSlots none f none) then .next (s.stallHere t w)
        else .next (s.enqueue t w e c (.mmldb q a) q p
          { fa := none, fb := f, fr := none, sv := [], glob := globalSlots none f none
            stash := stashSlots p none f none none (srcTile a) none [], dests := [], mayErr := f.isSome })

def execMmzero (q : Bool) (d : AReg) (s : State) : Out :=
  grateOp (.mmzero q d) s fun s t w e c _ p =>
    if s.grateFull w then .next (s.stallHere t w)
    else .next (s.enqueue t w e c (.mmzero q d) q p
      { fa := none, fb := none, fr := none, sv := [], glob := [], stash := [], dests := [], mayErr := false })

/-- The dataflow of MMLDA: code 3 takes FMT.DF (09 R218). -/
def flowOuter (df : Flow) (fmt : Word) : Bool :=
  match df with
  | .ip => false
  | .op => true
  | .rw => false
  | .fmt => bits fmt.toNat 11 2 == 1

def execMmlda (df : Flow) (q : Bool) (a : GSrc) (ri : Option FReg) (s : State) : Out :=
  grateOp (.mmlda df q a ri) s fun s t w e c _ p =>
    let af := fmtAf e.fmt
    let f := srcFib w a
    let fr := ri.map fun r => w.freg r.toNat
    if anyGlobal [f, fr] && s.gridReadWaits w e then .next (s.stallHere t w)
    else if (f.isNone || anyStash [f, fr]) && s.groupReadWaits w e then .next (s.stallHere t w)
    else if !s.spansWalked w (globalSlots f none fr) then .next (s.stallHere t w)
    else
      let early := chkIf (decide (8 ≤ af) || fibreNarrow f || (f.isSome && fr.isSome)
          || (df == .fmt && bits e.fmt.toNat 11 2 == 3)) .reservedEnc 0
        ++ s.fibrePages w f true ++ s.fibrePages w fr false ++ fibreClosed f ++ fibreClosed fr ++ fibreType f af
      let ga : Gate := match srcTile a with
        | some n => s.sourceGate w p n ((p.tile n).ef != af)
        | none => Gate.of []
      (((Gate.of early).join ga).join (Gate.of (p.fibreBusy f true ++ p.fibreBusy fr false))).pass s t w e c <|
        if s.grateFull w || !s.rangesReached w (globalSlots f none fr) then .next (s.stallHere t w)
        else .next (s.enqueue t w e c (.mmlda df q a ri) q p
          { fa := f, fb := none, fr := fr, sv := [], glob := globalSlots f none fr
            stash := stashSlots p f none fr (srcTile a) none none [], dests := [], mayErr := f.isSome || fr.isSome })

/-! ## MMDRAIN (09 R219) -/

/-- A vector in the stash: its address, its length and its alignment. -/
def drainVecs (fmt : Word) (w : Thread) (bias sa sb : Option SReg) : List (Option (Nat × Nat × Nat)) :=
  let n := if fmtScf fmt then 256 else 64
  let a := if fmtScf fmt then 4 else 1
  [sa.map fun r => ((w.sreg r.toNat).toNat, n, a), sb.map fun r => ((w.sreg r.toNat).toNat, n, a),
   bias.map fun r => ((w.sreg r.toNat).toNat, 256, 4)]

def vecRange (x : Option (Nat × Nat × Nat)) : Nat × Nat :=
  match x with
  | some (o, n, _) => (o, n)
  | none => (0, 0)

def execMmdrain (rnd : Rnd) (relu : Bool) (bias : Option SReg) (q : Bool) (d : TileNo) (a : AReg) (sa sb : Option SReg)
    (s : State) : Out :=
  grateOp (.mmdrain rnd relu bias q d a sa sb) s fun s t w e c g p =>
    let vs := drainVecs e.fmt w bias sa sb
    let x := p.tile d.toNat
    if s.groupReadWaits w e then .next (s.stallHere t w)
    else
      let early := chkIf (decide (2 ≤ fmtAcc e.fmt)) .reservedEnc 0
        ++ (vs.filterMap id).flatMap (fun v => chkIf (v.1 % v.2.2 != 0) .align v.1)
        ++ (vs.filterMap id).flatMap (fun v => chkIf (decide (g.stashBytes < v.1 + v.2.1)) .prot v.1)
      let late := (vs.filterMap id).flatMap fun v => chkIf (p.rangeBusy v.1 v.2.1) .tileBusy v.1
      ((Gate.of early).join ((s.destGate w e p d.toNat (x.ef == 7 || decide (x.rows < 64) || !x.wide64 x.ef)).join
        (Gate.of late))).pass s t w e c <|
        if s.grateFull w then .next (s.stallHere t w)
        else .next (s.enqueue t w e c (.mmdrain rnd relu bias q d a sa sb) q p
          { fa := none, fb := none, fr := none, sv := [], glob := []
            stash := stashSlots p none none none none none none (vs.map vecRange), dests := [d.toNat], mayErr := false })

/-! ## VQLUT and SPDG (09 R221, R222) -/

def execVqlut (tbl q : Bool) (a : SReg) (s : State) : Out :=
  grateOp (.vqlut tbl q a) s fun s t w e c _ p =>
    let va := (w.sreg a.toNat).toNat
    if s.gridReadWaits w e || !s.spansWalked w [(va, 1024)] then .next (s.stallHere t w)
    else (Gate.of (chkIf (va % 128 != 0) .align va ++ spanErrs (s.spanOf w (va, 1024)))).pass s t w e c <|
      if s.grateFull w || !s.rangesReached w [(va, 1024)] then .next (s.stallHere t w)
      else .next (s.enqueue t w e c (.vqlut tbl q a) q p
        { fa := none, fb := none, fr := none, sv := [], glob := [(0, 0), (va, 1024)], stash := [], dests := []
          mayErr := false })

def execSpdg (q : Bool) (m wt gr : TileNo) (n : SSrc) (s : State) : Out :=
  grateOp (.spdg q m wt gr n) s fun s t w e c _ p =>
    let xm := p.tile m.toNat
    let xw := p.tile wt.toNat
    let xg := p.tile gr.toNat
    if s.groupReadWaits w e then .next (s.stallHere t w)
    else
      -- An operand that overlaps another one that the instruction writes, which tG is not (R200).
      let mw := m == wt || tilesOverlap xm xw
      let gOver := m == gr || wt == gr || tilesOverlap xm xg || tilesOverlap xw xg
      let gm := s.destGate w e p m.toNat (decide (xm.rows < 64) || decide (xm.pitch < 8)
        || decide (xm.bytes < 64 * xm.pitch + 8) || mw)
      let gw := s.destGate w e p wt.toNat (xw.ef == 7 || decide (xw.rows < 64) || !xw.wide64 xw.ef || mw)
      let gg := s.sourceGate w p gr.toNat ((decide (5 ≤ xg.ef) && xg.ef != 8) || decide (xg.rows < 64)
        || !xg.wide64 xg.ef || gOver)
      ((gm.join gw).join gg).pass s t w e c <|
        if s.grateFull w then .next (s.stallHere t w)
        else .next (s.enqueue t w e c (.spdg q m wt gr n) q p
          { fa := none, fb := none, fr := none, sv := [n.value w], glob := []
            stash := stashSlots p none none none (some gr.toNat) (some wt.toNat) (some m.toNat) []
            dests := [m.toNat, wt.toNat], mayErr := false })

/-! ## Reading at the start (09 R199, R201) -/

/-- Bytes of a slot as the stash holds them, over those captured at issue. -/
def GrateOp.fill (o : GrateOp) (p : Group) : List (List Byte) :=
  (List.range (max o.bytes.length o.stash.length)).map fun k =>
    let r := o.stash.getD k (0, 0)
    if r.2 = 0 then o.bytes.getD k [] else p.stashBytes r.1 r.2

def GrateOp.slot (o : GrateOp) (k : Nat) : Nat := leNat (o.bytes.getD k [])

/-- Elements of a captured fibre whose coordinates and values stand in slots k and k + 1. -/
def GrateOp.elems (o : GrateOp) (f : BitVec 256) (k : Nat) : List (Nat × Nat) :=
  fibElems (o.slot k) (o.slot (k + 1)) (8 * fbCs f) (fibBits (fbVt f)) (valShift f (fbPos f)) (fbCount f)

/-- The row that row i of A is: from a row index, or row i itself (09 R205, R207). -/
def GrateOp.pick (o : GrateOp) (rows : Nat) (i : Nat) : Option Nat :=
  match o.fr with
  | some f =>
    if i < min 64 (fbCount f) then some (bits (o.slot 4) (8 * fbCs f * i) (8 * fbCs f)) else none
  | none => if i < rows then some i else none

/-- The first coordinate of a fibre that breaks 09 R206, as FIBRE_RANGE. -/
def fibreFail (o : GrateOp) (f : Option (BitVec 256)) (k lh ll : Nat) : Option TrapInfo :=
  match f with
  | none => none
  | some f => (firstBad lh ll (o.elems f k) 0 0).map fun p =>
      ⟨.fibreRange, BitVec.ofNat 64 (fbC f + fbCs f * (fbPos f + p)), o.exec⟩

/-- The first index of a row index that A's tile does not hold (09 R207). -/
def indexFail (o : GrateOp) (rows : Nat) : Option TrapInfo :=
  match o.fr with
  | none => none
  | some f =>
    ((List.range (min 64 (fbCount f))).find? fun i => match o.pick rows i with
      | some r => decide (rows ≤ r)
      | none => false).map fun i => ⟨.fibreRange, BitVec.ofNat 64 (fbC f + fbCs f * (fbPos f + i)), o.exec⟩

/-- A malformed row of a sparse destination that was READY (09 R208). -/
def segFail (o : GrateOp) (base pitch : Nat) : Option TrapInfo :=
  (List.range 64).findSome? fun i =>
    match segEntries (rowNum (o.slot 5) pitch i) with
    | .error k => some ⟨.fibreRange, BitVec.ofNat 64 (base + i * pitch + k), o.exec⟩
    | .ok _ => none

/-- The state of a destination tile before issue. -/
def GrateOp.wasEmpty (o : GrateOp) (n : Nat) : Bool :=
  match o.prior.find? fun x => x.1 == n with
  | some (_, st) => st == .empty
  | none => false

/-- The parts of a queued matrix instruction. -/
def mformOf : Instr → Option MForm
  | .mmip _ _ a b ri => some { a := a, b := some b, ri := ri, dest := none, outer := false }
  | .mmop _ d a b ri => some { a := a, b := some b, ri := ri, dest := some d.toNat, outer := true }
  | .mmrw _ d a ri => some { a := a, b := none, ri := ri, dest := some d.toNat, outer := false }
  | _ => none

/-- An error of a matrix instruction found when it reads. -/
def matrixFail (o : GrateOp) (p : Group) (m : MForm) (res : Option ResB) : Option TrapInfo :=
  let kk := kShared p m res (fmtAf o.fmt)
  let fa := if m.outer then fibreFail o o.fa 0 kk 64 else fibreFail o o.fa 0 64 kk
  let fb := if m.outer then fibreFail o o.fb 2 kk 64 else fibreFail o o.fb 2 64 kk
  let rows := match srcTile m.a with
    | some n => (p.tile n).rows
    | none => 0
  let seg := match m.dest with
    | some n => if sparseC o.fa o.fb m res && !o.wasEmpty n then segFail o (p.tile n).base (p.tile n).pitch else none
    | none => none
  fa <|> fb <|> indexFail o rows <|> seg

/-- The accumulator that an instruction reads. -/
def accRead : Instr → Option Nat
  | .mmip _ d _ _ _ => some d.toNat
  | .mmdrain _ _ _ _ _ a _ _ => some a.toNat
  | _ => none

/-- Stash ranges: the first n bytes of rows of a tile. -/
def rowSpans (x : Tile) (rows : List Nat) (n : Nat) : List (Nat × Nat) := rows.map fun r => (x.base + r * x.pitch, n)

/-- Stash bytes of operand A that are read: those of the rows that supply products (09 R205, R207). -/
def GrateOp.readsA (o : GrateOp) (p : Group) (a : GSrc) : List (Nat × Nat) :=
  match srcTile a with
  | some n =>
    let x := p.tile n
    rowSpans x (((List.range 64).filterMap (o.pick x.rows)).filter fun r => decide (r < x.rows)) x.pitch
  | none => [o.stash.getD 1 (0, 0)]

/-- Those of operand B: 64 elements of each row. -/
def GrateOp.readsB (o : GrateOp) (p : Group) (b : GSrc) (bf : Nat) : List (Nat × Nat) :=
  match srcTile b with
  | some n => rowSpans (p.tile n) (List.range (p.tile n).rows) (8 * gBits bf)
  | none => [o.stash.getD 3 (0, 0)]

/-- Those of a destination: none of one that was EMPTY, and of a sparse row its count and its entries (09 R208). -/
def GrateOp.readsC (o : GrateOp) (p : Group) (n : Nat) (sparse : Bool) : List (Nat × Nat) :=
  let x := p.tile n
  if o.wasEmpty n then []
  else if sparse then (List.range 64).map fun i =>
    let k := bits (rowNum (o.slot 5) x.pitch i) 0 32
    (x.base + i * x.pitch, if 64 < k then 4 else 4 + 8 * k)
  else rowSpans x (List.range 64) 256

/-- The stash bytes that an instruction reads at its start. -/
def GrateOp.reads (o : GrateOp) (p : Group) (res : Option ResB) : List (Nat × Nat) :=
  let whole := fun (l : List Nat) => l.map fun k => o.stash.getD k (0, 0)
  let rows := fun (n : TileNo) (k : Nat) => rowSpans (p.tile n.toNat) (List.range 64) k
  match o.i with
  | .spdg _ m wt gr _ =>
    let x := p.tile m.toNat
    (x.base + 64 * x.pitch, 8) :: rows m 8 ++ rows wt (8 * gBits (p.tile wt.toNat).ef) ++ rows gr (8 * gBits (p.tile gr.toNat).ef)
  | .mmldb _ a => whole [2] ++ o.readsB p a (fmtBf o.fmt)
  | .mmlda _ _ a _ => whole [0, 4] ++ o.readsA p a
  | i =>
    match mformOf i with
    | some m => whole [0, 2, 4] ++ o.readsA p m.a ++ (m.b.map fun b => o.readsB p b (fmtBf o.fmt)).getD []
        ++ (m.dest.map fun n => o.readsC p n (sparseC o.fa o.fb m res)).getD []
    | none => whole (List.range o.stash.length)

/-- Lost words among what an instruction reads at its start, as (SRC, address): stash words and accumulator words (23 Table
23.1). -/
def startLost (o : GrateOp) (w : Thread) (p : Group) (res : Option ResB) : List (Nat × Nat) :=
  nub ((o.reads p res).flatMap fun r =>
    (p.badStash.filter fun k => decide (r.1 < 4 * k + 4) && decide (4 * k < r.1 + r.2)).map fun k => (5, 4 * k))
  ++ match accRead o.i with
    | some a => ((w.badAcc.filter fun k => k / 4096 == a).map fun k => (12, 0x148 + a + k % 4096 * 512))
    | none => []

/-- MEMERR for the words that an instruction lost, those met at issue among them, at the lowest address (23 Table 23.2). -/
def GrateOp.memerr (o : GrateOp) (strict : Bool) (w : Thread) (p : Group) (res : Option ResB) : Option TrapInfo :=
  let l := o.fail.toList.map (·.addr.toNat) ++ (if strict then (startLost o w p res).map (·.2) else [])
  if l.isEmpty then none else some ⟨.memerr, BitVec.ofNat 64 (leastOf l), o.exec⟩

/-- The error of an instruction once it has read its operands: MEMERR of a STRICT context first (23 R355). -/
def GrateOp.error (o : GrateOp) (s : State) (w : Thread) (p : Group) : Option TrapInfo :=
  let res := s.residentOf o.t w
  o.memerr (s.strict w.ctx) w p res <|> match o.i with
    | .mmldb _ _ => fibreFail o o.fb 2 (residentRows (fmtBf o.fmt)) 64
    | .mmlda df _ a _ =>
      let f := if flowOuter df o.fmt then fibreFail o o.fa 0 65535 64 else fibreFail o o.fa 0 64 65535
      f <|> indexFail o (match srcTile a with
        | some n => (p.tile n).rows
        | none => 0)
    | i => (mformOf i).bind fun m => matrixFail o p m res

/-- GRATE_START (09 R198): the first instruction of the queue reads its operands. -/
def execGrateStart (h : Nat) (s : State) : Out :=
  let x := s.hearth h
  match x.grate, x.running with
  | o :: r, false =>
    match s.thread? o.t with
    | none => .next (s.setHearth h { x with grate := r })
    | some w =>
      match s.group? w.group with
      | none => .next (s.setHearth h { x with grate := r })
      | some p =>
        let o := { o with bytes := o.fill p }
        let err := o.error s w p
        let s := (startLost o w p (s.residentOf o.t w)).foldl (fun s l =>
          s.uncorrected w.die l.1 (BitVec.ofNat 64 l.2) o.gstep 0 1 w.ctx) s
        let s := s.setThread o.t (w.owe err.toList (.grate o.flag))
        .next (s.setHearth h { x with grate := { o with fail := err } :: r, running := true })
  | _, _ => .next s

/-! ## Results -/

/-- Elements of a fibre operand in slots k and k + 1, whose indices lie below `lh` and `ll`. -/
def GrateOp.members (o : GrateOp) (vq : Tbl (BitVec 32)) (f : BitVec 256) (k lh ll : Nat) : List (Nat × Nat) :=
  if fbVt f = 7 then vqSpread vq lh ll (o.elems f k) else o.elems f k

/-- Operand A of a matrix instruction. -/
def opA (o : GrateOp) (p : Group) (vq : Tbl (BitVec 32)) (m : MForm) (kk : Nat) : GMat :=
  let af := fmtAf o.fmt
  match srcTile m.a, o.fa with
  | some n, _ => ⟨tileRows vq af (o.slot 1) (p.tile n).pitch ((p.tile n).kOf af) (o.pick (p.tile n).rows), fun _ _ => none⟩
  | none, some f =>
    ⟨fibRows (if m.outer then o.members vq f 0 kk 64 else o.members vq f 0 64 kk) (!m.outer), fun _ _ => none⟩
  | none, none => ⟨fun _ => [], fun _ _ => none⟩

/-- Operand B of a matrix instruction. -/
def opB (o : GrateOp) (p : Group) (vq : Tbl (BitVec 32)) (m : MForm) (res : Option ResB) (kk : Nat) : GMat :=
  let bf := fmtBf o.fmt
  match m.b, res with
  | none, some r => ⟨fun _ => [], fun k j => (aget? r.elems (64 * k + j)).map (·.toNat)⟩
  | none, none => ⟨fun _ => [], fun _ _ => none⟩
  | some b, _ =>
    match srcTile b, o.fb with
    | some n, _ => ⟨fun _ => [], tileAt vq bf (o.slot 3) (p.tile n).pitch (p.tile n).rows⟩
    | none, some f =>
      ⟨fun _ => [], fibAt (if m.outer then o.members vq f 2 kk 64 else o.members vq f 2 64 kk) m.outer⟩
    | none, none => ⟨fun _ => [], fun _ _ => none⟩

/-- A dense tile's word at 64i + j. -/
def denseAt (tile pitch ix : Nat) : Nat := bits (rowNum tile pitch (ix / 64)) (32 * (ix % 64)) 32

/-- The entries of a sparse tile: a row that cannot be read has none. -/
def segAt (tile pitch i : Nat) : List (Nat × Nat) :=
  match segEntries (rowNum tile pitch i) with
  | .ok l => l
  | .error _ => []

/-- Stash bytes that an instruction writes, by offset. -/
abbrev Writes := List (Nat × List Byte)

/-- The rows of a dense destination. -/
def denseWrites (base pitch : Nat) (c : List CElem) : Writes :=
  (List.range 64).map fun i => (base + i * pitch, ((c.drop (64 * i)).take 64).flatMap fun x => leBytes 4 x.val)

/-- The row segments of a sparse destination: an element has an entry if it had one or received a member. -/
def sparseWrites (base pitch : Nat) (old : Nat → List (Nat × Nat)) (c : List CElem) : Writes :=
  (List.range 64).map fun i =>
    let l := ((List.range 64).zip ((c.drop (64 * i)).take 64)).filterMap fun (j, x) =>
      if x.got || (old i).any fun y => y.1 == j then some (j, x.val) else none
    (base + i * pitch, segBytes l)

/-- What an instruction leaves at its completion: stash writes, accumulator, flags. -/
structure GResult where
  writes : Writes
  acc : Option (Nat × (Nat → Word))
  fl : Fl

/-- A matrix instruction's result (09 R216). -/
def matrixResult (o : GrateOp) (w : Thread) (p : Group) (vq : Tbl (BitVec 32)) (m : MForm) (res : Option ResB) :
    GResult :=
  let acc := fmtAcc o.fmt
  let kk := kShared p m res (fmtAf o.fmt)
  let a := opA o p vq m kk
  let b := opB o p vq m res kk
  let run := gMatrix acc (fmtAf o.fmt) (bfOf m res o.fmt) a b
  match m.dest with
  | none =>
    let k := (accRead o.i).getD 0
    let c := run fun ix => (w.accWord o.t k ix).toNat
    ⟨[], some (k, fun ix => BitVec.ofNat 32 ((c.getD ix ⟨0, 0, false, flNone⟩).val)), flagsOf c⟩
  | some n =>
    let x := p.tile n
    let empty := o.wasEmpty n
    if sparseC o.fa o.fb m res then
      let old := fun i => if empty then [] else segAt (o.slot 5) x.pitch i
      let c := run fun ix => (((old (ix / 64)).find? fun y => y.1 == ix % 64).map (·.2)).getD 0
      ⟨sparseWrites x.base x.pitch old c, none, flagsOf c⟩
    else
      let c := run fun ix => if empty then 0 else denseAt (o.slot 5) x.pitch ix
      ⟨denseWrites x.base x.pitch c, none, flagsOf c⟩

/-- The resident B that an MMLDB leaves (09 R217). -/
def residentFrom (o : GrateOp) (p : Group) (vq : Tbl (BitVec 32)) (a : GSrc) : ResB :=
  let bf := fmtBf o.fmt
  match srcTile a, o.fb with
  | some n, _ =>
    let x := p.tile n
    { t := o.t, bf := bf, kb := x.rows, sparse := false
      elems := (List.range (64 * x.rows)).map fun e =>
        (e, BitVec.ofNat 32 (rowElem vq bf (rowNum (o.slot 3) x.pitch (e / 64)) (e % 64))) }
  | none, some f =>
    let l := o.members vq f 2 (residentRows bf) 64
    let kb := l.foldl (fun m x => max m (x.1 / 65536 + 1)) 0
    { t := o.t, bf := bf, kb := kb, sparse := true
      elems := l.map fun x => (64 * (x.1 / 65536) + x.1 % 65536, BitVec.ofNat 32 x.2) }
  | none, none => { t := o.t, bf := bf, kb := 0, sparse := false, elems := [] }

/-- The drain that a queued MMDRAIN performs. -/
def drainOf (o : GrateOp) (g : Grid) (key ef : Nat) (rnd : Rnd) (relu : Bool) (bias sa sb : Bool) : Drain where
  acc := fmtAcc o.fmt
  ef := ef
  rnd := rnd
  relu := relu
  f32 := fmtScf o.fmt
  sa := if sa then some (o.slot 6) else none
  sb := if sb then some (o.slot 7) else none
  bias := if bias then some (o.slot 8) else none
  sr := srBits g.pkt.seed key o.gstep o.icnt

/-- The rows that a drain writes, and its flags (09 R220). -/
def drainResult (d : Drain) (x : Tile) (acc : Nat → Word) : GResult :=
  let rows := (List.range 64).map fun i => (List.range 64).map fun j => drainElem d i j (acc (64 * i + j)).toNat
  { writes := ((List.range 64).zip rows).map fun (i, r) => (x.base + i * x.pitch, packRow (gBits d.ef) (r.map (·.1)))
    acc := none
    fl := rows.foldl (fun f r => r.foldl (fun f c => f ||| c.2) f) flNone }

/-- The writes of SPDG (09 R222). -/
def spdgWrites (o : GrateOp) (xm xw xg : Tile) (n : Nat) : Writes :=
  let mrow := fun i => rowNum (o.slot 5) xm.pitch i
  let mask := fun k => (mrow (k / 64)).testBit (k % 64)
  let wraw := fun k => bits (rowNum (o.slot 3) xw.pitch (k / 64)) (gBits xw.ef * (k % 64)) (gBits xw.ef)
  let graw := fun k => bits (rowNum (o.slot 1) xg.pitch (k / 64)) (gBits xg.ef * (k % 64)) (gBits xg.ef)
  let (drop, grow) := dropGrow mask (fun k => magKey xw.ef (wraw k)) (fun k => magKey xg.ef (graw k)) (min n 4096)
  let newMask := fun k => if drop.contains k then false else if grow.contains k then true else mask k
  let counter := fun off add => (off, leBytes 4 ((bits (o.slot 5) (8 * (off - xm.base)) 32 + add) % 2 ^ 32))
  ((List.range 64).map fun i =>
      (xm.base + i * xm.pitch, leBytes 8 ((List.range 64).foldl (fun a j => a + (newMask (64 * i + j)).toNat * 2 ^ j) 0)))
    ++ [counter (xm.base + 64 * xm.pitch) drop.length, counter (xm.base + 64 * xm.pitch + 4) grow.length]
    ++ (List.range 64).map fun i =>
      (xw.base + i * xw.pitch,
        packRow (gBits xw.ef) ((List.range 64).map fun j => if grow.contains (64 * i + j) then 0 else wraw (64 * i + j)))

/-! ## Completion (09 R201, R202) -/

/-- The entry that takes an instruction's flags, where `m` are the lanes of its path that have not exited: the topmost that
holds them all, which is the path or the entry that absorbed it (09 R202); where the path has since diverged, so that none does,
the topmost that a lane of it stands on (log 77); and where every lane has exited, the path's join entry (08 R171). -/
def raiseAt (m : Mask) (join : BitVec 56) (f : Fl) (es : List Entry) : List Entry :=
  let whole := es.any fun e => m &&& ~~~e.mask == 0#128
  let fits := fun e : Entry =>
    if m == 0#128 then e.st == .parked && e.pc == join
    else if whole then m &&& ~~~e.mask == 0#128 else m &&& e.mask != 0#128
  match es.findIdx? fits with
  | some k => es.modify k fun e => e.raise f
  | none => es.modify (es.length - 1) fun e => e.raise f

/-- Raise flags on a wave's own stack: the suspended one while a handler runs on a trap path. -/
def State.raiseFlags (s : State) (t : Nat) (m : Mask) (join : BitVec 56) (f : Fl) : State :=
  match s.thread? t with
  | none => s
  | some w =>
    if f = flNone then s
    else match w.susp with
      | some u =>
        if u.stack.isEmpty then s else s.setThread t { w with susp := some { u with stack := raiseAt (m &&& ~~~w.exited) join f u.stack } }
      | none => s.putEntries t w (raiseAt (m &&& ~~~w.exited) join f (s.entries w))

/-- Destination tiles at completion: READY, or what they held before issue (09 R201). -/
def Group.settle (p : Group) (wix : Nat) (l : List (Nat × TileState)) (failed : Bool) : Group :=
  l.foldl (fun p x => p.complete x.1 wix (if failed then x.2 else .ready)) p

/-- Write the result of an instruction. -/
def State.applyResult (s : State) (o : GrateOp) (w : Thread) (r : GResult) : State :=
  let s := s.modGroup w.group fun p => r.writes.foldl (fun p x => p.writeStash x.1 x.2) p
  let s := match r.acc with
    | some (k, f) => s.modThread o.t fun w => w.setAcc k f
    | none => s
  s.raiseFlags o.t o.exec o.join r.fl

/-- The effect of an instruction that has met no error. -/
def State.grateEffect (s : State) (h : Nat) (o : GrateOp) (w : Thread) (g : Grid) (p : Group) : State :=
  let x := s.hearth h
  match o.i with
  | .mmzero _ d => s.modThread o.t fun w => w.setAcc d.toNat fun _ => 0#32
  | .mmldb _ a => s.modHearth h fun x => { x with resB := some (residentFrom o p x.vq a) }
  | .mmlda _ _ _ _ => s.modHearth h fun x => { x with latch := some (o.t, o.i) }
  | .vqlut tbl _ _ =>
    let img := o.slot 1
    s.modHearth h fun x => { x with
      vq := tsets 0#32 x.vq ((List.range 256).map fun j => (tbl.toNat * 4096 + j, BitVec.ofNat 32 (bits img (32 * j) 24)))
      vqUsers := nub (x.vqUsers ++ [w.ctx]) }
  | .mmdrain rnd relu bias _ d a sa sb =>
    let t := p.tile d.toNat
    s.applyResult o w (drainResult (drainOf o g (s.gkey w 0) t.ef rnd relu bias.isSome sa.isSome sb.isSome) t
      (w.accWord o.t a.toNat))
  | .spdg _ m wt gr _ =>
    s.applyResult o w ⟨spdgWrites o (p.tile m.toNat) (p.tile wt.toNat) (p.tile gr.toNat) ((o.sv.headD 0#64).toNat), none, flNone⟩
  | i =>
    match mformOf i with
    | some m => s.applyResult o w (matrixResult o w p x.vq m (s.residentOf o.t w))
    | none => s

/-- GRATE_COMPLETION (09 R202): the running instruction writes its results and clears its flag; one that has met an error
changes no destination. -/
def execGrateCompletion (h : Nat) (s : State) : Out :=
  let x := s.hearth h
  match x.grate, x.running with
  | o :: r, true =>
    match s.thread? o.t with
    | none => .next (s.setHearth h { x with grate := r, running := false })
    | some w =>
      match s.grid? w.grid, s.group? w.group with
      | some g, some p =>
        let s := if o.fail.isSome then s else s.grateEffect h o w g p
        let s := s.modGroup w.group fun p => p.settle w.wix o.prior o.fail.isSome
        let s := s.modHearth h fun x => { x with grate := r, running := false }
        .next ((s.reap o.t).reapGroup w.group)
      | _, _ => .next (s.setHearth h { x with grate := r, running := false })
  | _, _ => .next s

/-! ## Fibre instructions (09 R223 to R227) -/

def execFbopen (wide stash : Bool) (vt : BitVec 4) (d : FReg) (c v l : SReg) (s : State) : Out :=
  grateOp (.fbopen wide stash vt d c v l) s fun s t w e k g _ =>
    let cb := (w.sreg c.toNat).toNat
    let vb := (w.sreg v.toNat).toNat
    let n := (w.sreg l.toNat).toNat
    let cs := if wide then 4 else 2
    let b := fibBits vt.toNat
    (Gate.of (chkIf (decide (2 ^ 32 ≤ n)) .reservedEnc 0
      ++ chkIf (cb % cs != 0) .align cb ++ chkIf (vb % max 1 (b / 8) != 0) .align vb
      ++ chkIf (stash && n != 0 && decide (g.stashBytes < cb + cs * n)) .prot cb
      ++ chkIf (stash && n != 0 && decide (8 * g.stashBytes < 8 * vb + n * b)) .prot vb)).pass s t w e k <|
      .next (s.retire t (w.setF d.toNat (fibreOf cb vb n 0 true stash wide vt.toNat)) e)

/-- A coordinate of a global fibre as FBADV, which is interlocked, reads it: one that its expander does not answer within
CXLTMO is zero (07 R126). -/
def State.crdRead (s : State) (w : Thread) (r : Nat × Nat) : LaneRead :=
  let a : DWord := BitVec.ofNat 64 r.1
  let l := s.slotReads w r
  s.answered ⟨l.flatMap (·.bytes), l.findSome? (·.lost), l.any (·.strict), false, a, a, s.spanUses w r⟩

/-- Coordinates of a fibre from position p on: each read, with the position's number. -/
def State.crdReads (s : State) (w : Thread) (p : Group) (f : BitVec 256) : List (Nat × LaneRead) :=
  (List.range (fbCount f)).map fun i =>
    let r := crdRange f (fbPos f + i) 1
    let a : DWord := BitVec.ofNat 64 r.1
    if fbStash f then
      (fbPos f + i, ⟨p.stashBytes r.1 r.2, if p.stashLost r.1 r.2 then some 5 else none, s.strict w.ctx, false, a, a, []⟩)
    else (fbPos f + i, s.crdRead w r)

/-- FBADV (09 R224). -/
def execFbadv (upTo : Bool) (d : FReg) (n : SSrc) (s : State) : Out :=
  grateOp (.fbadv upTo d n) s fun s t w e c _ p =>
    let f := w.freg d.toNat
    let x := (n.value w).toNat
    if upTo && ((anyGlobal [some f] && s.gridReadWaits w e) || (anyStash [some f] && s.groupReadWaits w e)
        || (anyGlobal [some f] && !s.spansWalked w [crdRange f (fbPos f) (fbCount f)])) then .next (s.stallHere t w)
    else (Gate.of ((if upTo then s.fibrePages w (some f) false ++ p.fibreBusy (some f) false else [])
        ++ fibreClosed (some f))).pass s t w e c <|
      if !upTo then .next (s.retire t (w.setF d.toNat (fbSetPos f (min (fbPos f + x) (fbLen f)))) e)
      else if !fbStash f && !s.rangesReached w [crdRange f (fbPos f) (fbCount f)] then .next (s.stallHere t w)
      else
        let l := s.crdReads w p f
        let hit := l.find? fun y => decide (x ≤ leNat y.2.bytes)
        let seen := l.takeWhile (fun y => decide (leNat y.2.bytes < x)) ++ hit.toList
        let reads := seen.map fun y => (lowestLane e.mask % 128, y.2)
        match seen.find? fun y => y.2.lost.isSome && y.2.strict with
        | some y => .next (s.trapOver (s.noteReads w e reads) t w c ⟨.memerr, y.2.addr, e.mask⟩)
        | none =>
          let far := s.farOf w reads
          let s' := (s.noteReads w e reads).touched w (farSpans far)
          let late := (reads.filter fun y => y.2.lost == some 2).flatMap fun y => y.2.uses.map (·.pa)
          .next ((if late.isEmpty then s' else s'.dropLate w late).retire t (w.setF d.toNat (fbSetPos f ((hit.map (·.1)).getD (fbLen f)))) e)

/-- FBEND (09 R225). -/
def execFbend (d : PReg) (a : FReg) (s : State) : Out :=
  grateOp (.fbend d a) s fun s t w e _ _ _ =>
    let f := w.freg a.toNat
    let x := if !fbOpen f || fbPos f == fbLen f then BitVec.allOnes 128 else 0#128
    .next (s.retire t (w.setPred d.toNat e.mask x) e)

/-- FBCLOSE (09 R226). -/
def execFbclose (d : FReg) (s : State) : Out :=
  grateOp (.fbclose d) s fun s t w e _ _ _ => .next (s.retire t (w.setF d.toNat (fbSetOpen (w.freg d.toNat) false)) e)

/-- What FBRD reads for a lane: none at or past LEN. -/
def State.fbrdLane (s : State) (w : Thread) (p : Group) (f : BitVec 256) (val : Bool) (lane : Nat) : Option LaneRead :=
  let i := fbPos f + lane
  if fbLen f ≤ i then none
  else
    let r := if val then valRange f i 1 else crdRange f i 1
    let a : DWord := BitVec.ofNat 64 r.1
    if fbStash f then
      some ⟨p.stashBytes r.1 r.2, if p.stashLost r.1 r.2 then some 5 else none, s.strict w.ctx, false, a, a, []⟩
    else
      let l := s.slotReads w r
      some ⟨l.flatMap (·.bytes), l.findSome? (·.lost), l.any (·.strict), false, a, a, s.spanUses w r⟩

/-- The word that a lane receives (09 R227). -/
def fbrdWord (f : BitVec 256) (val : Bool) (lane : Nat) (r : Option LaneRead) : Word :=
  match r with
  | none => if val then 0#32 else 0xFFFFFFFF#32
  | some x =>
    let n := leNat x.bytes
    if val then BitVec.ofNat 32 (bits n (valShift f (fbPos f + lane)) (fibBits (fbVt f))) else BitVec.ofNat 32 n

/-- FBRD (09 R227). -/
def execFbrd (val q : Bool) (d : VReg) (a : FReg) (s : State) : Out :=
  grateOp (.fbrd val q d a) s fun s t w e c _ p =>
    let f := w.freg a.toNat
    let n := fbCount f
    let r := if val then valRange f (fbPos f) n else crdRange f (fbPos f) n
    if anyGlobal [some f] && (s.gridReadWaits w e || !s.spansWalked w [r]) then .next (s.stallHere t w)
    else if anyStash [some f] && s.groupReadWaits w e then .next (s.stallHere t w)
    else
      let ls := lanesOf e.mask
      let at' := fun l => if val then valRange f (fbPos f + l) 1 else crdRange f (fbPos f + l) 1
      let busy := if anyStash [some f] then (ls.filter fun l => decide (l < n) && p.busyAt w.wix (at' l).1 (at' l).2) else []
      (Gate.of ((if fbOpen f && !fbStash f then spanErrs (s.spanOf w r) else [])
        ++ chkIf (!fbOpen f || fbPos f == fbLen f) .fibreRange (fbC f)
        ++ chkIf (!busy.isEmpty) .tileBusy (at' (busy.headD 0)).1)).pass s t w e c <|
        let rs := ls.map fun l => (l, s.fbrdLane w p f val l)
        let got := rs.filterMap fun x => x.2.map fun y => (x.1, y)
        let far := s.farOf w got
        let s := (s.noteReads w e got).touched w (farSpans far)
        let o : Op := { uid := s.uid, flag := (c.flag q).getD 0, regs := [d.toNat], sreg := none
                        kind := .load (rs.map fun x => (vix d.toNat x.1, fbrdWord f val x.1 x.2)), far := far, since := s.time }
        .next ({ s with uid := s.uid + 1 }.retire t ((w.addOp o).owe (owesOf got) (.flag o.flag)) e)

/-- FBRD_DATA_ARRIVES: as the data of a load (09 R227). -/
def execFbrdDataArrives (t op : Nat) (s : State) : Out :=
  match s.thread? t with
  | none => .next s
  | some w =>
    match w.ops.find? fun o => o.uid == op with
    | none => .next s
    | some o =>
      if !s.farReached w.die o.far then .next s
      else match o.kind with
      | .load ws => .next (s.setThread t ((w.setWords ws).finish o))
      | .loadS _ _ => .next s
      | .stf _ _ _ _ _ => .next s

end Sys2Proof.Machine
end

