-- ==== Sys2Proof/Machine/Steps.lean ====
section
/-! DEFINITION. The closes of grid and group steps (07 R144, 11 R252 to R262), and the watchdogs (10 R238, R245, R246, 23
R354). -/

namespace Sys2Proof.Machine

/-! ## What a close makes known to threads -/

/-- Write the results of a thread's STFs of a step: its destinations are written and its flags clear (07 R144). `key` is
GKEY of lane 0. -/
def Thread.landStf (w : Thread) (key : Nat) (grid : Bool) (step : Word) (res : List (Nat × Nat × Nat)) : Thread :=
  let mine := fun (o : Op) => match o.kind with
    | .stf g st _ _ _ => g == grid && st == step
    | .load _ => false
    | .loadS _ _ => false
  let w' := (w.ops.filter mine).foldl (fun (w : Thread) o =>
    match o.kind with
    | .stf _ _ d pair ls => (lanesOf ls).foldl (fun w l =>
        match res.find? fun r => r.1 == o.uid && r.2.1 == key + l with
        | some r => if pair then w.setPair d l (BitVec.ofNat 64 r.2.2) else w.setV d l (BitVec.ofNat 32 r.2.2)
        | none => w) w
    | .load _ => w
    | .loadS _ _ => w) w
  { w' with ops := w.ops.filter fun o => !mine o }

/-- The wave or ember lane that a writer's trap goes to: none where the lane's wave has ended (11 R255). -/
def State.failTarget (s : State) (g : Nat) (x : Writer) : Option (Nat × Nat) :=
  let here := s.threads.filter fun t => t.2.grid == g && !t.2.ended && decide (s.gkey t.2 0 ≤ x.key)
    && (x.key - s.gkey t.2 0 < 128) && t.2.launched.getLsbD (x.key - s.gkey t.2 0)
  let t := if x.kind = 0 then (here.find? fun t => t.2.ember.isSome) <|> here.find? fun t => t.2.ember.isNone
    else here.find? fun t => t.2.ember.isNone
  t.map fun t => (t.1, x.key - s.gkey t.2 0)

/-- Writers by the threads that their traps go to, each with its lane and what it is owed for. -/
def State.owedTo {α : Type} (s : State) (g : Nat) (l : List (Writer × α)) : List (Nat × List (Nat × α)) :=
  let at' := l.filterMap fun x => (s.failTarget g x.1).map fun k => (k.1, k.2, x.2)
  (nub (at'.map (·.1))).map fun t => (t, (at'.filter fun x => x.1 == t).map (·.2))

/-- Owe COLLIDE and RULE_MIX to the threads whose units failed: one trap to each, at the lowest failed region that the thread
wrote (11 R255, 14 R286). A writer that is gone gives its grid the commit-fault status. -/
def State.oweFails (s : State) (g : Nat) (grid : Bool) (n : Word) (fails : List Fail) : State :=
  let gone := fails.any fun f => f.bad && (s.failTarget g f.w).isNone
  let s := if gone then s.modGrid g fun x => { x with commitFault := true } else s
  (s.owedTo g (fails.map fun f => (f.w, f))).foldl (fun s x =>
    let bad := x.2.filter fun m => m.2.bad
    let addr := leastOf (x.2.map fun m => m.2.addr)
    if bad.isEmpty then s.modThread x.1 fun w => { w with low := w.low.filter (·.grid != grid) ++ [⟨grid, n, addr⟩] }
    else
      let cause := if bad.any fun m => m.2.mix then Cause.ruleMix else .collide
      s.modThread x.1 fun w => w.owe [⟨cause, BitVec.ofNat 64 addr, maskOf (bad.map (·.1))⟩] (.step grid n)) s

/-- Record the regions that the commit log lost, and owe MEMERR to the threads that wrote them under STRICT (23 R352, R353, Table
23.1). -/
def State.oweLost (s : State) (g : Nat) (grid : Bool) (k : Closing) (l : List LostRegion) : State :=
  let s := l.foldl (fun s r => s.uncorrected r.die 8 (BitVec.ofNat 64 r.addr) k.step r.key 1 k.ctx) s
  let ws := l.flatMap fun r => (r.ws.filter (·.2)).map fun w => (w.1, r.addr)
  (s.owedTo g ws).foldl (fun s x =>
    s.modThread x.1 fun w => w.owe [⟨.memerr, BitVec.ofNat 64 (leastOf (x.2.map (·.2))), maskOf (x.2.map (·.1))⟩] (.step grid k.step)) s

/-- A record of a close with its space: true for a stash offset. -/
abbrev SpRec := Bool × CloseRec

/-- The order of the records of one close (11 R256). -/
def SpRec.le (a b : SpRec) : Bool :=
  if a.1 != b.1 then !a.1
  else decide (a.2.addr < b.2.addr) || (a.2.addr == b.2.addr && decide (a.2.ty ≤ b.2.ty))

/-- Write a record of a close: with no room in an enabled ring it is held, and the wave or ember lane of its lowest writer owes for
it at its next STEP (11 R257, 14 R287); where that wave has ended, or the ring is not reached (22 R337), it is held until the ring has room. -/
def State.putRec (s : State) (g : Nat) (r : SpRec) : State :=
  let die := r.2.die
  let s := if r.2.ty = 4 then s.modDie die fun d => { d with sumDropped := d.sumDropped + bits (leNat r.2.bytes) 96 32 } else s
  if s.ringTakes die r.2.bytes.length then s.ringPut die .error r.2.bytes
  else
    let h : HeldRec := ⟨die, r.2.bytes, r.2.key :: r.2.keys, !r.1⟩
    match (if s.ringOpen die .error then s.failTarget g ⟨r.2.key, r.2.kind, 0⟩ else none) with
    | some x => s.modThread x.1 fun w => { w with held := w.held ++ [h] }
    | none => { s with heldRecs := s.heldRecs ++ [h] }

def State.putRecs (s : State) (g : Nat) (l : List SpRec) : State :=
  (sortBy SpRec.le l).foldl (fun s r => s.putRec g r) s

/-! ## Resolving -/

/-- A number that tells writers apart, for the free order of a line's ANY writers (log 2). -/
def Writer.code (w : Writer) : Nat := (w.seq * 2 + w.kind) * 2 ^ 32 + w.key

def State.closing (s : State) (g : Grid) (step : Word) (stash : Bool) : Closing :=
  { step := step, ctx := g.ctx, stash := stash, det := g.pkt.det, recording := s.recording g.ctx
    rank := fun line w => Config.freeRank s.tick line w.code
    free := fun u => ((Config.freeWord s.tick (2 * u)) ++ (Config.freeWord s.tick (2 * u + 1))).toNat }

/-- Write the records of a step's contested ANY units into what the step has reserved of the resolution rings, and release the
rest (11 R253, 20 R329). -/
def State.settleRing (s : State) (mine : List (Word × Nat × Nat)) (anys : List AnyRec) : State :=
  let s := anys.foldl (fun s a => s.ringSpend a.die a.bytes) s
  (nub (mine.map fun r => r.2.1)).foldl (fun s d =>
    let had := mine.foldl (fun n r => if r.2.1 = d then n + r.2.2 else n) 0
    s.ringRelease d (32 * (had - (anys.filter fun a => a.die == d).length))) s

/-- Words of `n` bytes, by address / n, that `bad` names and into which a close merges: those it puts, but for those that it writes
whole (23 R352). -/
def Resolved.merged (r : Resolved) (n : Nat) (bad : Nat → Bool) : List Nat :=
  (nub (r.puts.map fun p => p.1 / n)).filter fun a =>
    bad a && !(List.range (2 * n)).all fun i => r.fresh.contains (2 * n * a + i)

/-- Record an error at a word of `n` bytes that a close meets: its address, the lowest writer's key, its die's ring. -/
def State.noteWord (s : State) (k : Closing) (ws : List PWrite) (n src a : Nat) : State :=
  match (sortBy PWrite.le (ws.filter fun p => p.nibs.any fun m => m / (2 * n) == a)).head? with
  | some p => s.uncorrected p.die src (BitVec.ofNat 64 (p.va + n * a - p.pa)) k.step p.w.key 1 k.ctx
  | none => s

/-- Commit the bytes that a close puts: those of a downed link are dropped and logged, once for each region; a word that was lost
and into which the close merges is logged (22 R335, 23 R352). -/
def State.commitPuts (s : State) (k : Closing) (ws : List PWrite) (r : Resolved) : State :=
  let down := nub ((r.puts.filter fun p => s.linkDown p.1).map fun p => p.1 / 8)
  let bad := r.merged 8 fun a => !s.linkDown (8 * a) && s.wordBad a
  let live := r.puts.filter fun p => !s.linkDown p.1
  let noted := bad.foldl (fun x a => x.noteWord k ws 8 ((s.wordLost (8 * a)).getD 0) a) (down.foldl (fun x a => x.noteWord k ws 8 3 a) s)
  (live.foldl (fun s p => s.commitByte p.1 p.2) noted).noticeLines (nub (live.map fun p => p.1 / 128))

/-- Fault records of a TWIN line whose writes failed: every region of it. -/
def twinRecs (k : Closing) (ws : List TWrite) (mix : Bool) : List SpRec :=
  let l := sortBy (fun a b => a.w.le b.w) ws
  match l.head? with
  | none => []
  | some lo =>
    let rules := ws.foldl (fun a x => a ||| ruleBit x.rule) 0
    (List.range 16).map fun i =>
      let va := lo.va / 128 * 128 + 8 * i
      let ty := if mix then 2 else 1
      (false, { addr := va, ty := ty, key := lo.w.key, kind := lo.w.kind, keys := l.map (·.w.key), die := lo.die
                bytes := faultRec va k.step lo.w.key (nub (ws.map (·.w))).length 0xFFFF k.ctx ty (rules * 2 ^ 52) })

/-- ANY records of a TWIN line that two or more ANY writers wrote: one for each region (11 R253, 20 R326). -/
def twinAnys (k : Closing) (t : TWrite) (ws : List TWrite) : List AnyRec :=
  let l := sortBy (fun a b => a.w.le b.w) ws
  let order := sortBy Writer.le (nub (ws.map (·.w)))
  if k.det || !k.recording || t.rule != .any || order.length < 2 then []
  else (List.range 16).map fun i =>
    { die := (l.head?.map (·.die)).getD t.die
      bytes := anyRecord k (t.va / 128 * 128 + 8 * i) fun _ => order.idxOf t.w }

/-- What the close of a step's TWIN lines brings about besides its commits. -/
structure TwinEnds where
  recs : List SpRec
  fails : List Fail
  anys : List AnyRec

/-- Close one TWIN line of a grid's step (11 R260). -/
def State.closeTwin (s : State) (g : Nat) (k : Closing) (x : Nat × TwinLine) : State × TwinEnds :=
  let pa := 128 * x.1
  let r := x.2.close g k.step k.det (s.readBytes pa 128)
  let s := { s with twins := aset s.twins x.1 r.1 }
  let ws := r.2.2.1
  match r.2.1 with
  | some t =>
    (if s.linkDown pa then s.dropWrite t.die t.va k.step t.w.key k.ctx else s.commitLines pa t.data, ⟨[], [], twinAnys k t ws⟩)
  | none =>
    (s, ⟨twinRecs k ws r.2.2.2, (nub (ws.map (·.w))).map fun w =>
      { w := w, bad := true, mix := r.2.2.2, addr := ((ws.head?.map (·.va)).getD 0) / 128 * 128 }, []⟩)

/-- Close the TWIN lines of a grid's step. -/
def State.closeTwins (s : State) (g : Nat) (k : Closing) : State × TwinEnds :=
  s.twins.foldl (fun (a : State × TwinEnds) x =>
    let r := a.1.closeTwin g k x
    (r.1, ⟨a.2.recs ++ r.2.recs, a.2.fails ++ r.2.fails, a.2.anys ++ r.2.anys⟩)) (s, ⟨[], [], []⟩)

/-! ## Group steps (07 R144, parts 3, 4 and 6) -/

/-- A thread at the close of its group step n: STF results, a new watchdog count, and the count of an ember lane that waits
at a STEPG (10 R231). -/
def State.groupClosed (s : State) (w : Thread) (n : Word) (res : List (Nat × Nat × Nat)) : Thread :=
  let x := w.landStf (s.gkey w 0) false n res
  { x with
    wwatch := 0
    stack := if s.waitsAtStepg w then x.stack.map fun e => if e.wstep = n then { e with wstep := n + 1 } else e
      else x.stack }

/-- A thread at the close of its grid step n. -/
def State.gridClosed (s : State) (w : Thread) (n : Word) (res : List (Nat × Nat × Nat)) : Thread :=
  { (w.landStf (s.gkey w 0) true n res) with gwatch := 0 }

/-- Raise the group counts of a thread that a grid step's close finds short of the group step that it closes: the boundary has
passed for its lanes (07 R144, 12 R270; the model's choice, log 83). -/
def State.passGroup (s : State) (t : Nat) (w : Thread) (n : Word) : State :=
  let up := fun (e : Entry) => if !passed n e.wstep && !e.ej then { e with wstep := n + 1 } else e
  let w := { w with wcnt := maxWord w.wcnt (n + 1), susp := w.susp.map fun u => { u with stack := u.stack.map up } }
  s.putEntries t w ((s.entries w).map up)

/-- Threads of a group that have not arrived at its step. -/
def State.short (s : State) (p : Nat) (n : Word) : List Nat :=
  (s.threads.filter fun x => x.2.group == p && !s.atGroupStep x.2 n).map (·.1)

/-- Close the open step of a group: stash commits, publication of its tiles, STF results; its records are returned. -/
def State.closeGroup (s : State) (p : Nat) : State × List SpRec :=
  match s.group? p with
  | none => (s, [])
  | some q =>
    match s.grid? q.grid with
    | none => (s, [])
    | some g =>
      let n := q.closed
      let k := s.closing g n true
      let ws := q.pend.filter fun w => w.step == n
      let old := fun o => if q.badStash.contains (o / 4) then 0#8 else tget 0#8 q.stash o
      let r := resolve k old ws
      let q' := r.puts.foldl (fun (q : Group) x => q.writeStash x.1 [x.2])
        { q with pend := q.pend.filter fun w => w.step != n
                 tiles := q.tiles.map fun x => (x.1, { x.2 with published := x.2.actual, changedBy := none })
                 closed := n + 1, reached := maxWord q.reached (n + 1), watch := 0
                 rlRes := q.rlRes.filter fun x => x.1 != n }
      let late := s.short p n
      let s := (r.merged 4 q.badStash.contains).foldl (fun s a => s.noteWord k ws 4 5 a) (s.setGroup p q')
      let s := s.settleRing (q.rlRes.filter fun x => x.1 == n) r.anys
      let s := { s with threads := s.threads.map fun (x : Nat × Thread) =>
        if x.2.group = p then (x.1, s.groupClosed x.2 n r.results) else x }
      let s := late.foldl (fun s t => match s.thread? t with
        | some w => s.passGroup t w n
        | none => s) s
      let s := (s.oweFails q.grid false n r.fails).oweLost q.grid false k r.lost
      (s, r.recs.map fun x => (true, x))

/-- What a group's close waits for: in deterministic mode the tile commands of its step (07 R139), and the grate
instructions that still have to read bytes which it would commit (09 R199). -/
def State.groupHeld (s : State) (p : Nat) : Bool :=
  match s.group? p with
  | none => true
  | some q =>
    let h := s.hearth (q.die * 128 + q.hearth)
    let of' := fun (t : Nat) => match s.thread? t with
      | some w => w.group == p
      | none => false
    let det := s.detGrid q.grid
    let unread := if h.running then h.grate.drop 1 else h.grate
    (det && (h.copies.any (fun c => c.group == p && !passed q.closed c.wstep)
      || h.grate.any fun o => of' o.t && !o.prior.isEmpty && !passed q.closed o.wstep))
    || unread.any fun o => of' o.t && o.stash.any fun r =>
        (q.pend.any fun w => w.step == q.closed && decide (w.pa < r.1 + r.2) && decide (r.1 < w.pa + w.data.length))

/-- GROUP_STEP_CLOSE (07 R144). It comes about once every live lane of the group has arrived. -/
def execGroupStepClose (p : Nat) (s : State) : Out :=
  match s.group? p with
  | none => .next s
  | some q =>
    if !s.groupArrived p || s.groupHeld p then .next s
    else
      let (s, recs) := s.closeGroup p
      .next ((s.putRecs q.grid recs).reapGroup p)

/-! ## Grid steps -/

/-- Windows that the WBINDs and WUNBINDs of a step bring about: the lowest writer's, and of one writer the last (07 R164,
R165). -/
def bindOps (ops : List SysOp) : List (Nat × Option (BitVec 256)) :=
  let l : List (Nat × Nat × Nat × Option (BitVec 256)) := ops.filterMap fun o => match o.op with
    | .wbind w d => some (w, o.key, o.order, some d)
    | .wunbind w => some (w, o.key, o.order, none)
    | .launch _ _ _ _ => none
    | .evsig _ => none
  (nub (l.map (·.1))).filterMap fun w =>
    let here := l.filter (·.1 == w)
    match here with
    | [] => none
    | a :: r =>
      let best := r.foldl (fun m x => if x.2.1 < m.2.1 ∨ (x.2.1 = m.2.1 ∧ m.2.2.1 < x.2.2.1) then x else m) a
      some (w, best.2.2.2)

/-- Enqueue a LAUNCH's packet, or refuse it where its queue is not set (08 R193). -/
def State.enqueuePacket (s : State) (c : Nat) (bs : List Byte) (addr : DWord) (q : Nat) (res : Bool) : State :=
  match (s.context? c).bind fun x => aget? x.queues q with
  | some u =>
    if res then
      let u := { u with reserved := u.reserved - 1, enq := u.enq ++ [⟨u.widx, bs, addr⟩] }
      s.modContext c fun x => { x with queues := aset x.queues q u }
    else s.refuse c 0x001E q addr (packetOf bs).cpladdr
  | none => s.refuse c 0x001E q addr (packetOf bs).cpladdr

def SysOp.le (a b : SysOp) : Bool := decide (a.key < b.key) || (a.key == b.key && decide (a.order ≤ b.order))

/-- Effects of a close on the context: windows, then launches in writer order, then events in writer order (08 R195). -/
def State.closeOps (s : State) (c : Nat) (ops : List SysOp) : State :=
  let ops := sortBy SysOp.le ops
  let s := (bindOps ops).foldl (fun s b => s.modContext c fun x =>
    { x with windows := match b.2 with
      | some d => aset x.windows b.1 d
      | none => adel x.windows b.1 }) s
  let s := ops.foldl (fun s o => match o.op with
    | .launch bs addr q res => s.enqueuePacket c bs addr q res
    | .evsig _ => s
    | .wbind _ _ => s
    | .wunbind _ => s) s
  ops.foldl (fun s o => match o.op with
    | .evsig e => s.signal c e.toNat
    | .launch _ _ _ _ => s
    | .wbind _ _ => s
    | .wunbind _ => s) s

/-- Groups of a grid, by number. -/
def State.groupsOf (s : State) (g : Nat) : List Nat := (s.groups.filter fun x => x.2.grid == g).map (·.1)

/-- The groups whose steps a grid step's close closes: those whose open step a lane has brought to its boundary by a STEPG. A group
whose step has closed of itself is in its next step, which stays open (07 R142, R144). -/
def State.openGroups (s : State) (g : Nat) : List Nat :=
  (s.groups.filter fun x => x.2.grid == g && passed x.2.closed x.2.edge).map (·.1)

/-- The clusters of a grid, by die x 16 + cluster: those of the hearths on which it has placed groups. -/
def Grid.clusters (x : Grid) : List Nat := nub (x.placed.map (·.home / 8))

/-- Resolve and commit the global writes of a step (07 R144, part 2): arrived peer lines first (22 R339). -/
def State.commitGlobal (s : State) (g : Nat) (x : Grid) (k : Closing) (ws : List PWrite) :
    State × Resolved × TwinEnds :=
  let s := s.applyPeers x.ctx
  let r := resolve k s.oldByte ws
  let (s, t) := (s.commitPuts k ws r).closeTwins g k
  (s, r, ⟨(r.recs.map fun y => (false, y)) ++ t.recs, r.fails ++ t.fails, r.anys ++ t.anys⟩)

/-- Close the open step of a grid (07 R144). -/
def State.closeGrid (s : State) (g : Nat) (x : Grid) : State :=
  let n := x.closed
  let k := s.closing x n false
  let (s, r, ends) := s.commitGlobal g x k (x.pend.filter fun w => w.step == n)
  let open' := s.openGroups g
  let (s, recs) := open'.foldl (fun (a : State × List SpRec) p =>
    let (s, l) := a.1.closeGroup p
    (s, a.2 ++ l)) (s, ends.recs)
  let s := { s with threads := s.threads.map fun (y : Nat × Thread) =>
    if y.2.grid = g then (y.1, s.gridClosed y.2 n r.results) else y }
  let ops := x.sysops.filter fun o => o.step == n
  let s := s.modGrid g fun x => { x with
    pend := x.pend.filter fun w => w.step != n
    sysops := x.sysops.filter fun o => o.step != n
    logRes := x.logRes.filter fun l => l.1 != n
    rlRes := x.rlRes.filter fun l => l.1 != n
    closed := n + 1
    watch := 0 }
  let s := s.settleRing (x.rlRes.filter fun l => l.1 == n) ends.anys
  let s := (s.oweFails g true n ends.fails).oweLost g true k r.lost
  let s := s.putRecs g recs
  let s := (s.closeOps x.ctx ops).dropGlobals x.clusters
  open'.foldl (fun s p => s.reapGroup p) s

/-- The circuits that a grid's close needs are UP: between the flue dies that hold its groups, and from each writer to its
home (22 R337, 01 R7). -/
def State.closeReached (s : State) (g : Nat) (x : Grid) (now : Word → Bool) : Bool :=
  let ds := nub ((s.groups.filter fun p => p.2.grid == g).map fun p => p.2.die / 4)
  ds.all (fun a => ds.all fun b => s.circuitUp a b)
    && (x.pend.all fun w => !now w.step || s.reaches w.die w.pa)
    && s.twins.all fun t => (t.2.pend.toList ++ t.2.held).all fun w => w.grid != g || !now w.step || s.reaches w.die (128 * t.1)

/-- What a grid's close waits for in deterministic mode: the CPOUTs that it publishes (07 R160); and what its groups' closes
wait for. -/
def State.gridHeld (s : State) (g : Nat) (x : Grid) : Bool :=
  (x.pkt.det && s.hearths.any fun h => h.2.copies.any fun c =>
    (match s.thread? c.t with
      | some w => w.grid == g
      | none => false) && (match c.kind with
        | .cpout _ _ => true
        | .cpin => false
        | .cptt _ => false) && !passed x.closed c.gstep)
  || !s.closeReached g x (· == x.closed) || (s.openGroups g).any s.groupHeld

/-- GRID_STEP_CLOSE (07 R144). It comes about once every live lane of the grid has arrived. -/
def execGridStepClose (g : Nat) (s : State) : Out :=
  match s.grid? g with
  | none => .next s
  | some x => if !s.gridArrived g || s.gridHeld g x then .next s else .next (s.closeGrid g x)

/-! ## Watchdogs -/

/-- Give a trap that concerns the wave: at the running path's next clause start, or on a trap path (10 R243). A wave in
handler mode owes it until its RTE; a second one then, or the same watchdog's within its own handler, faults the context
(23 R354). `again` says that the handler of the same count runs. -/
def State.waveTrap (s : State) (t : Nat) (w : Thread) (i : TrapInfo) (again : Bool) : State :=
  if again then s.faultContext w
  else if w.handler then
    if w.owed.any fun o => o.info.cause == .stepWatchdog then s.faultContext w
    else s.setThread t (w.owe [i] .wave)
  else (s.setThread t (w.owe [i] .wave)).takeWaiting t

/-- STEPLIMIT of a context; 0 disables the watchdog. -/
def State.stepLimit (s : State) (c : Nat) : Nat :=
  match s.context? c with
  | some x => x.steplimit.toNat
  | none => 0

/-- A count has passed the limit. -/
def passes (n limit : Nat) : Bool := limit != 0 && decide (limit < n)

/-- Waves whose step watchdog comes due in a domain, with the lanes that have not arrived (10 R245). A wave that still owes
this watchdog's trap is past: its count starts again only when the trap is taken. -/
def State.watchdogDue (s : State) (grid : Bool) (n : Nat) : List (Nat × Mask) :=
  let g := if grid then s.grid? n else (s.group? n).bind fun p => s.grid? p.grid
  let count := if grid then (s.grid? n).map (·.watch) else (s.group? n).map (·.watch)
  let closed := if grid then (s.grid? n).map (·.closed) else (s.group? n).map (·.closed)
  match g, count, closed with
  | some g, some k, some c =>
    s.threads.filterMap fun x =>
      let w := x.2
      if (if grid then w.grid != n else w.group != n) || w.ember.isSome || w.ended || !s.holdsOpen x.1 w grid then none
      else
        let m := if g.pkt.det then k else if grid then w.gwatch else w.wwatch
        let owes := w.owed.any fun o => o.info.cause == .stepWatchdog && o.info.addr == (if grid then 0#64 else 2#64)
        if !owes && passes m (s.stepLimit g.ctx) then some (x.1, s.unarrived x.1 w grid c) else none
  | _, _, _ => []

/-- The counts of a domain that have fired start again: the one of deterministic mode, and those of the waves. -/
def State.restartDue (s : State) (grid : Bool) (n : Nat) (due : List (Nat × Mask)) : State :=
  let s := if due.isEmpty then s
    else if grid then s.modGrid n fun g => { g with watch := 0 } else s.modGroup n fun p => { p with watch := 0 }
  due.foldl (fun s d => s.modThread d.1 fun w => if grid then { w with gwatch := 0 } else { w with wwatch := 0 }) s

/-- TRAPADDR of a step watchdog's trap (10 R245). -/
def watchAddr (grid : Bool) : DWord := if grid then 0#64 else 2#64

/-- The handler of the count that `addr` names runs in the wave. -/
def Thread.handles (w : Thread) (addr : DWord) : Bool :=
  w.handler && w.hcause == some .stepWatchdog && (w.trapaddr == addr || w.trapaddr == 1#64)

/-- The hang watchdog of a context is due: nothing has retired for HANGLIMIT ms. It does not count during a save, nor while
every wave that has not exited is halted (10 R246, 19 R309). -/
def State.hangDue (s : State) (c : Nat) : Bool :=
  match s.context? c with
  | none => false
  | some x =>
    x.hanglimit != 0#64 && x.status == .running && !s.hangHeld c x
      && decide (x.hanglimit.toNat * 1000000 ≤ s.time.toNat - x.lastRetire.toNat)

/-- Lanes of a wave that have not exited, on its hearth and on embers. -/
def Thread.liveLanes (w : Thread) : Mask := w.launched &&& ~~~w.exited

/-- The domains of a context that a step watchdog watches, each with its waves that have come due. -/
def State.stepsDue (s : State) (c : Nat) : List (Bool × Nat × List (Nat × Mask)) :=
  ((s.grids.filter fun g => g.2.ctx == c).map fun g => (true, g.1, s.watchdogDue true g.1))
    ++ (s.groups.filter fun p => (s.grid? p.2.grid).any fun g => g.ctx == c).map fun p => (false, p.1, s.watchdogDue false p.1)

/-- The hang watchdog of a context fires. One trap serves where a step watchdog is owed, or comes due, as well (23 R354). -/
def State.hangFires (s : State) (c : Nat) : State :=
  let fired := s.stepsDue c
  let s := fired.foldl (fun s d => s.restartDue d.1 d.2.1 d.2.2) s
  let s := s.modContext c fun x => { x with lastRetire := s.time }
  (s.threads.filter fun x => x.2.ctx == c && x.2.ember.isNone && !x.2.ended).foldl (fun s x =>
    match s.thread? x.1 with
    | none => s
    | some w =>
      let i : TrapInfo := ⟨.stepWatchdog, 1#64, w.liveLanes⟩
      if !w.handler && w.owed.any fun o => o.info.cause == .stepWatchdog then
        let rest := w.owed.filter fun o => o.info.cause != .stepWatchdog
        s.setThread x.1 (Thread.owe { w with owed := rest } [i] .wave)
      else s.waveTrap x.1 w i (w.handles 1#64 || fired.any fun d => d.2.2.any (·.1 == x.1) && w.handles (watchAddr d.1))) s

/-- HANG_WATCHDOG (10 R246). -/
def execHangWatchdog (c : Nat) (s : State) : Out := if s.hangDue c then .next (s.hangFires c) else .next s

/-- The context of a domain that the step watchdog watches. -/
def State.domainCtx (s : State) (grid : Bool) (n : Nat) : Nat :=
  (((if grid then some n else (s.group? n).map (·.grid)).bind s.grid?).map (·.ctx)).getD 0

/-- STEP_WATCHDOG (10 R245): each wave that holds the step open beyond STEPLIMIT traps. Its count starts again. Where the
wave owes the hang watchdog's trap, that one serves for both; where that watchdog is due too, it fires for both (23 R354). -/
def execStepWatchdog (grid : Bool) (n : Nat) (s : State) : Out :=
  let due := s.watchdogDue grid n
  if !due.isEmpty && s.hangDue (s.domainCtx grid n) then .next (s.hangFires (s.domainCtx grid n))
  else .next (due.foldl (fun s d =>
    match s.thread? d.1 with
    | none => s
    | some w =>
      if !w.handler && w.owed.any fun o => o.info.cause == .stepWatchdog && o.info.addr == 1#64 then s
      else s.waveTrap d.1 w ⟨.stepWatchdog, watchAddr grid, d.2⟩ (w.handles (watchAddr grid))) (s.restartDue grid n due))

/-- The wave's REJOIN count has passed its limit while it waits only for its ejected lanes (10 R238). -/
def State.rejoinDue (s : State) (w : Thread) : Bool :=
  match s.grid? w.grid with
  | some g => g.rejoin != 0 && s.waitsForEmbers w && decide (g.rejoin * 1024 < w.rejoinCount)
  | none => false

/-- REJOIN_TIMEOUT (10 R238). -/
def execRejoinTimeout (t : Nat) (s : State) : Out :=
  match s.thread? t with
  | none => .next s
  | some w =>
    if !s.rejoinDue w || !s.trapReached w .rejoinTimeout then .next s
    else
      let out := (s.entries w).foldl (fun m e => if e.ej then m ||| e.mask else m) 0#128
      let w := { w with rejoinCount := 0 }
      .next ((s.setThread t w).takeTrapPath t w ⟨.rejoinTimeout, 0#64, out⟩)

end Sys2Proof.Machine
end

