-- ==== Sys2Proof/Machine/Launch.lean ====
section
/-! DEFINITION. Launching (18 R291 to R303): doorbells, taking a packet and its checks, the dispatch trace (20 R324, R325),
placement (18 R298, R299, 10 R228, R229, R244) and a grid's completion. -/

namespace Sys2Proof.Machine

/-! ## Doorbells (22 R344, 18 R291, R296) -/

/-- The context that holds a doorbell page. -/
def State.pageOwner (s : State) (page : Nat) : Option Nat := (s.contexts.find? fun c => c.2.dbpage == page).map (·.1)

/-- Stage 6 of the start has completed (25 R361), and the die's function is present (25 R362). -/
def State.answers (s : State) (die : Nat) : Bool := s.bootStage == 7 && !s.bootStopped && (die == 0 || !s.minimal)

/-- The function accepts doorbell writes and host memory requests (22 R333). -/
def State.accepts (s : State) (die : Nat) : Bool := s.answers die && (s.die die).tdisp == .run && (s.die die).keyed

/-- A write that is dropped and counted (22 R350). -/
def State.dropped (s : State) (die : Nat) : State := s.modDie die fun d => { d with dropped := d.dropped + 1 }

/-- QUEUE_DOORBELL: the queue's write index. A queue that is not set takes nothing. -/
def execQueueDoorbell (die page q : Nat) (val : DWord) (s : State) : Out :=
  if !s.accepts die then .next (s.dropped die)
  else match s.pageOwner page with
    | none => .next (s.dropped die)
    | some c => .next (s.modContext c fun x =>
        match aget? x.queues q with
        | some u => { x with queues := aset x.queues q { u with widx := val.extractLsb' 0 32 } }
        | none => x)

/-- EVENT_CLEAR_DOORBELL. -/
def execEventClearDoorbell (die page : Nat) (val : DWord) (s : State) : Out :=
  if !s.accepts die then .next (s.dropped die)
  else match s.pageOwner page with
    | none => .next (s.dropped die)
    | some c => .next (s.clearEvent c (val.toNat % 65536))

/-! ## Reading by virtual address -/

/-- At most 65,536 bytes of a virtual range, or why they cannot be read. -/
def State.vread (s : State) (die c : Nat) (va : DWord) (n : Nat) : Except Cause (List Byte) :=
  let k := min n (65536 - va.toNat % 65536)
  match s.access die c va .read with
  | .error e => .error e
  | .ok (pa, _) =>
    if n ≤ k then .ok (s.cleanBytes pa n)
    else match s.access die c (va + BitVec.ofNat 64 k) .read with
      | .error e => .error e
      | .ok (pa', _) => .ok (s.cleanBytes pa k ++ s.cleanBytes pa' (n - k))

/-- What the launch's read of bytes of one page brings about besides its value: the records of lost words (23 R351) or of a
malformed entry (19 R316), and the touch of pinned ranges (22 R342). -/
def State.noteRange (s : State) (die c : Nat) (va : DWord) (n : Nat) : State :=
  match s.access die c va .read with
  | .ok (pa, _) => (s.noteLostAt die c 0#32 0 va pa n).touch die c [(va.toNat, n)]
  | .error _ => s.noteWalk die c va 0#32 0

/-- Likewise for a range of at most 65,536 bytes. -/
def State.noteVread (s : State) (die c : Nat) (va : DWord) (n : Nat) : State :=
  let k := min n (65536 - va.toNat % 65536)
  let s := s.noteRange die c va k
  if n ≤ k then s else s.noteRange die c (va + BitVec.ofNat 64 k) (n - k)

/-- Pages of a virtual range. -/
def pagesOf (va : DWord) (n : Nat) : List DWord :=
  if n = 0 then [] else (List.range ((va.toNat % 65536 + n + 65535) / 65536)).map fun i => va + BitVec.ofNat 64 (65536 * i)

/-- The homes of a virtual range are reached, and its tables (22 R337). -/
def State.rangeReached (s : State) (die c : Nat) (va : DWord) (n : Nat) : Bool := (pagesOf va n).all (s.pageReached die c)

/-- Every page of a virtual range can be read. -/
def State.readable (s : State) (die c : Nat) (va : DWord) (n : Nat) : Bool :=
  (pagesOf va n).all fun a => (s.access die c a .read).isOk

/-! ## The descriptor (18 Table 18.1, R293) -/

/-- The fields of a descriptor's 32 bytes. -/
def kdescOf (bs : List Byte) : KDesc :=
  let x := leNat bs
  { code := BitVec.ofNat 64 (bits x 192 64), ltab := BitVec.ofNat 64 (bits x 128 64), csize := bits x 96 32
    arglen := bits x 83 13, lcount := bits x 74 9, width := bits x 72 2, vregs := bits x 66 6, sregs := bits x 62 4
    stash := bits x 49 13, tiles := bits x 42 7, accs := bits x 38 4, copywave := bits x 33 5, eject := bits x 29 4
    rejoin := bits x 13 16, stepping := decide (bits x 12 1 = 1) }

/-- R293: no reserved bit, a width, and every field within its limits of 04 R55. That width 128 limits VREGS to 128 is a check of
its own, the seventh of Table 18.3 (log 51). -/
def kdescOk (bs : List Byte) (d : KDesc) : Bool :=
  bits (leNat bs) 0 12 == 0 && bits d.code.toNat 0 3 == 0 && decide (d.width < 3) && decide (d.arglen ≤ 4096)
    && decide (d.lcount ≤ 256) && decide (2 ≤ d.vregs ∧ d.vregs ≤ 32)
    && decide (1 ≤ d.sregs ∧ d.sregs ≤ 8) && decide (d.stash ≤ 4096) && decide (d.tiles ≤ 64) && decide (d.accs ≤ 8)
    && decide (d.eject ≤ 8)

/-- Check 2 of Table 18.3: no reserved bit, N, E, SPILLN and PRIVSZ within their ranges, no misaligned field. -/
def packetOk (bs : List Byte) (p : Packet) : Bool :=
  let x := leNat bs
  bits x 608 416 == 0 && bits x 384 8 == 0 && bits x 515 61 == 0 && p.n != 0 && decide (p.e ≤ 8)
    && decide (p.spilln ≤ 65536) && decide (p.privsz ≤ 16384) && bits p.kdesc.toNat 0 5 == 0
    && bits p.cpladdr.toNat 0 4 == 0

/-! ## Shapes -/

/-- Bytes of a pipe's registers that a wave takes (03 R45). -/
def KDesc.regBytes (d : KDesc) : Nat := d.vregs * 8 * d.lanes * 4

/-- Waves that a pipe holds (03 R45). -/
def KDesc.perPipe (d : KDesc) : Nat := min 16 (65536 / d.regBytes)

/-- Waves of a group that hold a launched lane (10 R228). -/
def Grid.wavesOf (g : Grid) (gix : Nat) : Nat := min g.pkt.waves ((g.pkt.n - gix * g.groupLanes + g.width - 1) / g.width)

/-- Groups of v waves that fit on an empty hearth. -/
def KDesc.groupsPerHearth (d : KDesc) (v : Nat) : Nat :=
  let m := 4 * d.perPipe / v
  let m := if d.accs = 0 then m else min m (8 / (d.accs * v))
  let m := if d.stash = 0 then m else min m (4096 / d.stash)
  if d.tiles = 0 then m else min m (128 / d.tiles)

/-- n full groups and one of v waves fit on an empty hearth together. -/
def KDesc.alsoFits (d : KDesc) (full n v : Nat) : Bool :=
  decide (n * full + v ≤ 4 * d.perPipe) && decide (d.accs * (n * full + v) ≤ 8) && decide (d.stash * (n + 1) ≤ 4096)
    && decide (d.tiles * (n + 1) ≤ 128)

/-- Check 9 of Table 18.3: the grid fits whole on h empty hearths. -/
def Grid.fitsWhole (g : Grid) (h : Nat) : Bool :=
  let k := g.desc.groupsPerHearth g.pkt.waves
  let k1 := g.desc.groupsPerHearth (g.wavesOf 0)
  let last := g.groupCount - 1
  decide (g.groupCount ≤ k * h) || (g.groupCount == 1 && decide (1 ≤ k1 * h))
    || (last == k * h && g.desc.alsoFits g.pkt.waves k (g.wavesOf last))

/-- Waves that placement on h empty hearths puts into the cluster of hearths 8 c to 8 c + 7 (10 R229). -/
def Grid.clusterWaves (g : Grid) (h c : Nat) : Nat :=
  let last := g.groupCount - 1
  let full := (List.range 8).foldl (fun a i => a + (last + h - 1 - (8 * c + i)) / h) 0
  full * g.pkt.waves + (if last % h / 8 = c then g.wavesOf last else 0)

/-- Check 10 of Table 18.3 passes: the ember reserves fit in empty clusters (10 R229). -/
def Grid.reservesFit (g : Grid) (h : Nat) : Bool :=
  !g.pkt.det ||
    if g.desc.stepping then (List.range (h / 8)).all fun c => decide (g.clusterWaves h c * g.e ≤ 128)
    else decide (g.wavesOf 0 * g.e ≤ 128)

/-! ## Dies and circuits -/

/-- The live dies that a packet names: a bit that names a die outside the context names none (19 R305). -/
def State.diesOf (s : State) (x : Context) (p : Packet) : List Nat :=
  (List.range 16).filter fun d => p.diemask.getLsbD d && x.dieset.getLsbD d && (s.die d).live

/-- The live dies lie on flue dies that are joined pairwise (22 R337). -/
def State.joined (s : State) (ds : List Nat) : Bool := ds.all fun a => ds.all fun b => s.circuitUp (a / 4) (b / 4)

/-! ## Dispatch traces (20 R324, R325) -/

/-- Bytes of a grid's trace block. -/
def Grid.blockBytes (g : Grid) : Nat := (32 + g.groupCount * 8 * (1 + (g.pkt.waves + 7) / 8) + 31) / 32 * 32

/-- The four 8-byte words of a trace header (Table 20.4), less TRACEID. -/
def Grid.traceHeader (g : Grid) (id : Nat) : List Nat :=
  [0x30 * 2 ^ 56 + g.ctx % 65536 * 2 ^ 32 + id, g.pkt.kdesc.toNat, g.pkt.n * 2 ^ 32 + g.groupCount,
   g.pkt.diemask.toNat * 2 ^ 48 + g.pkt.vm1 * 2 ^ 43 + g.desc.width * 2 ^ 41 + g.desc.stepping.toNat * 2 ^ 40 + g.blockBytes]

/-- A group entry (Table 20.5). -/
def Grid.traceEntry (g : Grid) (p : Place) : List Byte :=
  leBytes 8 (p.home / 128 * 2 ^ 60 + p.home % 128 * 2 ^ 53 + p.seq % 2 ^ 21 * 2 ^ 32 + p.gix)
    ++ (List.range ((g.pkt.waves + 7) / 8 * 8)).map fun v => BitVec.ofNat 8 (p.slots.getD v 0xFF)

/-- The block's bytes. -/
def Grid.traceBlock (g : Grid) (id : Nat) : List Byte :=
  let bs := (g.traceHeader id).flatMap (leBytes 8)
    ++ (sortBy (fun a b => decide (a.gix ≤ b.gix)) g.placed).flatMap g.traceEntry
  bs ++ List.replicate (g.blockBytes - bs.length) 0#8

/-- The trace block that DTSEL names differs from the launch in no field of its header that R325 lists. -/
def Grid.traceMatches (g : Grid) (bs : List Byte) : Bool :=
  let x := leNat bs
  let h := g.traceHeader 0
  bits x 56 8 == 0x30 && bits x 32 16 == g.ctx % 65536 && bits x 64 64 == g.pkt.kdesc.toNat
    && bits x 128 64 == h.getD 2 0 && bits x 232 24 == (h.getD 3 0) / 2 ^ 40

/-- The places of a block's entries, for the waves that are placed. -/
def Grid.tracePlaces (g : Grid) (bs : List Byte) : List Place :=
  let n := 8 * (1 + (g.pkt.waves + 7) / 8)
  (List.range g.groupCount).map fun i =>
    let e := (bs.drop (32 + n * i)).take n
    let x := leNat (e.take 8)
    { gix := bits x 0 32, home := bits x 60 4 * 128 + bits x 53 7, seq := bits x 32 21
      slots := (List.range (g.wavesOf i)).map fun v => (e.getD (8 + v) 0#8).toNat }

/-- Address of the block that DTSEL names. -/
def traceAddr (r : Ring) (sel : Nat) : DWord := r.base + BitVec.ofNat 64 (64 + 32 * (sel - 1))

/-! ## The checks (18 Table 18.3, 22 R337, 20 R324, R325) -/

/-- A grid as its packet launches it, before any group is placed. -/
def newGrid (c : Nat) (d : KDesc) (p : Packet) (addr : DWord) (queue order : Nat) (args : List Byte) : Grid where
  ctx := c
  desc := d
  pkt := p
  pktAddr := addr
  queue := queue
  copywave := if p.ovr then p.copywave else d.copywave
  e := if p.ovr then p.e else d.eject
  rejoin := if p.ovr then p.rejoin else d.rejoin
  args := args
  order := order
  nextGroup := 0
  lastHearth := none
  started := false
  trace := none
  placed := []
  traceWritten := false
  closed := 0#32
  reached := 0#32
  pend := []
  sysops := []
  logRes := []
  rlRes := []
  commitFault := false
  watch := 0
  stopAt := none
  stopLive := false
  stopNow := false

/-- What check 1 reads: the descriptor's bytes and the argument block; none where a page is unmapped or forbidden. -/
def State.launchReads (s : State) (c die : Nat) (h : Head) : Option (List Byte × List Byte) :=
  let p := packetOf h.bytes
  if h.ring && !h.addr.getLsbD 63 && (!s.holdsMemory h.addr.toNat || s.linkDown h.addr.toNat) then none
  else match s.vread die c p.kdesc 32 with
    | .error _ => none
    | .ok kb =>
      let d := kdescOf kb
      if !s.readable die c d.code d.csize then none
      else if d.arglen = 0 then some (kb, [])
      else match s.vread die c p.karg d.arglen with
        | .error _ => none
        | .ok ab => some (kb, ab)

/-- What check 1 reads is reached (22 R337). -/
def State.launchReached (s : State) (c die : Nat) (h : Head) : Bool :=
  let p := packetOf h.bytes
  s.rangeReached die c p.kdesc 32 && match s.vread die c p.kdesc 32 with
    | .error _ => true
    | .ok kb =>
      let d := kdescOf kb
      (pagesOf d.code d.csize).all (s.walkReached die c) && s.rangeReached die c p.karg d.arglen

/-- What the reads of check 1 bring about besides their values. -/
def State.noteLaunch (s : State) (c die : Nat) (h : Head) : State :=
  let p := packetOf h.bytes
  let s := if h.ring && !h.addr.getLsbD 63 then s.noteLostAt die c 0#32 0 h.addr h.addr.toNat 128 else s
  match s.vread die c p.kdesc 32 with
  | .error _ => s.noteVread die c p.kdesc 32
  | .ok kb =>
    let d := kdescOf kb
    let s := s.noteVread die c p.kdesc 32
    let s := (pagesOf d.code d.csize).foldl (fun s a => s.noteWalk die c a 0#32 0) s
    if d.arglen = 0 then s else s.noteVread die c p.karg d.arglen

/-- A launch that passed the ten checks: circuits, then the dispatch trace. -/
def State.checkTrace (s : State) (ds : List Nat) (g : Grid) : Except Nat Grid :=
  if !s.joined ds then .error 0x001D
  else
    let r := (s.die (ds.headD 0)).dring
    if !g.pkt.det then .ok g
    else if g.pkt.dtsel ≠ 0 then
      let bs := s.readAt (traceAddr r g.pkt.dtsel) g.blockBytes
      if g.traceMatches (bs.take 32) then .ok { g with trace := some (g.tracePlaces bs) } else .error 0x001B
    else if r.enabled .dispatch && decide (r.size.toNat < g.blockBytes) then .error 0x001C
    else .ok g

/-- The checks of a taken packet, in order: the grid, or the status it is refused with. -/
def State.checkPacket (s : State) (c queue : Nat) (x : Context) (h : Head) : Except Nat Grid :=
  let p := packetOf h.bytes
  match s.launchReads c (s.launchDie x) h with
  | none => .error 0x001A
  | some (kb, args) =>
    let d := kdescOf kb
    let g := newGrid c d p h.addr queue s.uid args
    let ds := s.diesOf x p
    if !packetOk h.bytes p then .error 0x0010
    else if !kdescOk kb d then .error 0x0011
    else if p.step != d.stepping then .error 0x0019
    else if ds.isEmpty then .error 0x0013
    else if p.waves ≤ g.copywave then .error 0x0014
    else if d.width = 2 ∧ 16 < d.vregs then .error 0x0015
    else if d.groupsPerHearth (g.wavesOf 0) = 0 then .error 0x0016
    else if d.stepping && !g.fitsWhole (128 * ds.length) then .error 0x0017
    else if !g.reservesFit (128 * ds.length) then .error 0x0018
    else s.checkTrace ds g

/-! ## Taking (18 R292) -/

/-- The launch writes a trace block (20 R324). -/
def Packet.traces (p : Packet) : Bool := p.det && p.dtsel == 0

/-- The lowest live die of a launch. -/
def State.traceDie (s : State) (x : Context) (p : Packet) : Nat := (s.diesOf x p).headD 0

/-- Sizes of the blocks that taken grids have yet to write to a die's dispatch ring. -/
def State.blocksDue (s : State) (die : Nat) : List Nat :=
  (s.grids.filter fun k => k.2.pkt.traces && !k.2.traceWritten && match s.context? k.2.ctx with
    | some x => s.traceDie x k.2.pkt == die
    | none => false).map fun k => k.2.blockBytes

/-- While the dispatch ring lacks room for a grid's block, beside the blocks that are due before it or after it in any order, its
packet is not taken (20 R324). -/
def State.blockFits (s : State) (x : Context) (g : Grid) : Bool :=
  let die := s.traceDie x g.pkt
  let r := (s.die die).dring
  let due := s.blocksDue die
  let all := due.foldl (· + ·) g.blockBytes
  let pad := if due.isEmpty then s.blockPad r g.blockBytes
    else if s.blockPad r all = 0 then 0 else due.foldl max g.blockBytes
  !(g.pkt.traces && r.enabled .dispatch) || decide (pad + all ≤ s.ringFree r)

/-- The dispatch ring is reached where the launch needs it (22 R337), and has room for its block. -/
def State.traceReady (s : State) (x : Context) (p : Packet) (r : Except Nat Grid) : Bool :=
  let opn := s.ringOpen (s.traceDie x p) .dispatch
  match r with
  | .ok g => opn && s.blockFits x g
  | .error k => k != 0x001B || opn

/-- A head may be taken: its wait events are SET, no pre-emption of its dies is under way (19 R310), what its checks read is reached,
and its trace block would find room. -/
def State.eligible (s : State) (c q : Nat) (x : Context) (h : Head) : Bool :=
  let p := packetOf h.bytes
  p.waitsOn.all (fun e => s.eventSet c e)
    && (match x.saving with
      | some v => p.diemask &&& v.dies == 0#16
      | none => true)
    && s.launchReached c (s.launchDie x) h && (!p.det || s.traceReady x p (s.checkPacket c q x h))

/-- Eligible heads: context, queue, priority, head. -/
def State.heads (s : State) : List (Nat × Nat × Nat × Head) :=
  s.contexts.flatMap fun c =>
    if c.2.status != .running then []
    else c.2.queues.filterMap fun q =>
      match s.queueHead c.2 q.2 with
      | some h => if s.eligible c.1 q.1 c.2 h then some (c.1, q.1, q.2.prio, h) else none
      | none => none

/-- The pair follows the pair last taken from. -/
def afterPair (last : Option (Nat × Nat)) (c q : Nat) : Bool :=
  match last with
  | some (a, b) => decide (a < c) || (a == c && decide (b < q))
  | none => true

/-- The head to take: of the highest priority, the next in rotation. Heads stand in ascending order of their pairs. -/
def State.pickHead (s : State) : Option (Nat × Nat × Nat × Head) :=
  let hs := s.heads
  let top := hs.foldl (fun m h => max m h.2.2.1) 0
  let hs := hs.filter fun h => h.2.2.1 == top
  match hs.find? fun h => afterPair s.rotation h.1 h.2.1 with
  | some h => some h
  | none => hs.head?

/-- The records of lost words in the trace block that a launch is checked against (20 R325, 23 R351). -/
def State.noteTrace (s : State) (c : Nat) (x : Context) (p : Packet) (r : Except Nat Grid) : State :=
  let die := s.traceDie x p
  let a := traceAddr (s.die die).dring p.dtsel
  let n := match r with
    | .ok g => g.blockBytes
    | .error k => if k = 0x001B then 32 else 0
  if p.det && p.dtsel != 0 && !a.getLsbD 63 then s.noteLostAt die c 0#32 0 a a.toNat n else s

/-- Take one packet: it is refused, or becomes a grid that waits for its first round. -/
def State.take (s : State) (c q : Nat) (h : Head) : State :=
  match s.context? c with
  | none => s
  | some x =>
    let r := s.checkPacket c q x h
    let s := { s.setContext c { x with queues := aset x.queues q h.rest } with rotation := some (c, q) }
    let s := (s.noteLaunch c (s.launchDie x) h).noteTrace c x (packetOf h.bytes) r
    match r with
    | .error k => s.refuse c k q h.addr (packetOf h.bytes).cpladdr
    | .ok g =>
      { s with
        uid := s.uid + 1
        grids := aset s.grids s.uid g
        taken := some { grid := s.uid, ctx := c, queue := q, bytes := h.bytes, addr := h.addr } }

/-- PACKET_TAKE. No packet is taken while one waits for its first round. -/
def execPacketTake (s : State) : Out :=
  match s.taken, s.pickHead with
  | none, some (c, q, _, h) => .next (s.take c q h)
  | _, _ => .next s

/-! ## Room (10 R229, R244, 18 R298) -/

/-- Waves that occupy a hearth. -/
def State.wavesOn (s : State) (home : Nat) : List (Nat × Thread) :=
  s.threads.filter fun x => x.2.ember.isNone && x.2.home == home

/-- Slots of a hearth that are held, as pipe x 16 + slot, and bytes of each pipe's registers that are taken. -/
def State.slotsOn (s : State) (home : Nat) : List Nat := (s.wavesOn home).map fun x => x.2.pipe * 16 + x.2.slot
def State.regsOn (s : State) (home pipe : Nat) : Nat :=
  (s.wavesOn home).foldl (fun a x =>
    if x.2.pipe = pipe then a + (match s.grid? x.2.grid with
      | some g => g.desc.regBytes
      | none => 0) else a) 0

/-- Sum over the groups of a hearth, or over its waves, of what each grid's descriptor gives. -/
def State.groupSum (s : State) (home : Nat) (f : KDesc → Nat) : Nat :=
  s.groups.foldl (fun a p =>
    if p.2.die * 128 + p.2.hearth = home then a + (match s.grid? p.2.grid with
      | some g => f g.desc
      | none => 0) else a) 0
def State.waveSum (s : State) (home : Nat) (f : KDesc → Nat) : Nat :=
  (s.wavesOn home).foldl (fun a x => a + (match s.grid? x.2.grid with
    | some g => f g.desc
    | none => 0)) 0

/-- Ember contexts of a cluster that are neither reserved nor held (10 R244). -/
def State.unreserved (s : State) (k : Nat) : Nat :=
  128 - s.reservedContexts k - (s.threads.filter fun x => x.2.onCluster k && !s.detGrid x.2.grid).length

/-- The hearth has a group's stash bytes, tiles, accumulator slots and ember reserves free. -/
def State.roomFor (s : State) (g : Grid) (home n : Nat) : Bool :=
  decide (s.groupSum home KDesc.stash + g.desc.stash ≤ 4096) && decide (s.groupSum home KDesc.tiles + g.desc.tiles ≤ 128)
    && decide (s.waveSum home KDesc.accs + g.desc.accs * n ≤ 8)
    && (!g.pkt.det || decide (n * g.e ≤ s.unreserved (home / 8)))

/-- The lowest pipe with register room and a free slot, and its lowest free slot. -/
def nextSlot (size : Nat) (held : List Nat) (regs : Nat → Nat) : Option Nat :=
  [0, 1, 2, 3].findSome? fun p =>
    if regs p + size ≤ 65536 then ((List.range 16).map (p * 16 + ·)).find? fun k => !held.contains k else none

/-- Slots for n waves in ascending order, if they all fit. -/
def assignSlots (size : Nat) (held : List Nat) (regs : Nat → Nat) : Nat → Option (List Nat)
  | 0 => some []
  | n + 1 =>
    match nextSlot size held regs with
    | none => none
    | some k =>
      (assignSlots size (k :: held) (fun p => if p = k / 16 then regs p + size else regs p) n).map (k :: ·)

/-- The slots of a group on a hearth where every one of its waves fits. -/
def State.fitGroup (s : State) (g : Grid) (gix home : Nat) : Option (List Nat) :=
  let n := g.wavesOf gix
  if s.roomFor g home n then assignSlots g.desc.regBytes (s.slotsOn home) (s.regsOn home) n else none

/-- The hearth has room for a group in the slots that a trace binds it to. -/
def State.fitTrace (s : State) (g : Grid) (p : Place) : Bool :=
  s.roomFor g p.home p.slots.length && p.slots.all (fun k => decide (k < 64) && !(s.slotsOn p.home).contains k)
    && [0, 1, 2, 3].all fun i => decide
      (s.regsOn p.home i + (p.slots.filter fun k => k / 16 == i).length * g.desc.regBytes ≤ 65536)

/-! ## Placing a group -/

/-- A wave as placed (03 R43). -/
def newWave (g : Grid) (grid group wix gix home slot : Nat) : Thread where
  ctx := g.ctx
  grid := grid
  group := group
  wix := wix
  die := home / 128
  hearth := home % 128
  pipe := slot / 16
  slot := slot % 16
  ember := none
  launched := BitVec.ofNat 128 (2 ^ min g.width (g.pkt.n - waveKey g gix wix) - 1)
  exited := 0#128
  v := []
  s := []
  p := []
  acc := []
  f := []
  fc := []
  stack := [{ mask := BitVec.ofNat 128 (2 ^ min g.width (g.pkt.n - waveKey g gix wix) - 1), icnt := 0#64
              pc := fieldOf g.desc.code, join := BitVec.allOnes 56, gstep := 0#32, wstep := 0#32, fmt := 0#32
              flg := 0#5, st := .running, ej := false }]
  spilled := 0
  susp := none
  gcnt := 0#32
  wcnt := 0#32
  clause := none
  faultmask := 0#128
  trapcause := 0#64
  trappc := 0#64
  trapaddr := 0#64
  eject := BitVec.ofNat 4 g.e
  tsp := BitVec.ofNat 64 (g.privBytes / 64 * 64)
  tscratch := 0#64
  handler := false
  hcause := none
  live := none
  ops := []
  owed := []
  held := []
  stalled := false
  halted := false
  stopped := false
  whole := false
  promo := false
  ready := none
  cpoutNo := 0
  cpoutStep := 0#32
  rejoinCount := 0
  gwatch := 0
  wwatch := 0
  badV := []
  badS := []
  badAcc := []

/-- A group as placed: its stash reads zero and its tiles are undefined (11 R248, 07 R149). -/
def newGroup (grid gix home : Nat) : Group where
  grid := grid
  gix := gix
  die := home / 128
  hearth := home % 128
  stash := []
  tiles := []
  closed := 0#32
  reached := 0#32
  pend := []
  rlRes := []
  watch := 0
  badStash := []

/-- Place a group of a grid in slots of a hearth. -/
def State.placeGroup (s : State) (k : Nat) (g : Grid) (gix home : Nat) (slots : List Nat) : State :=
  let p := s.uid
  let seq := (g.placed.filter fun x => x.home == home).length
  { s with
    uid := s.uid + 1 + slots.length
    groups := aset s.groups p (newGroup k gix home)
    threads := ((List.range slots.length).zip slots).foldl (fun l x =>
      aset l (p + 1 + x.1) (newWave g k p x.1 gix home x.2)) s.threads
    grids := aset s.grids k { g with
      nextGroup := g.nextGroup + 1, lastHearth := some home
      placed := g.placed ++ [{ gix := gix, home := home, seq := seq, slots := slots }] } }

/-- The hearths of a launch, in order: the live dies of its mask. -/
def State.hearthsOf (s : State) (g : Grid) : List Nat :=
  match s.context? g.ctx with
  | some x => (s.diesOf x g.pkt).flatMap fun d => (List.range 128).map (d * 128 + ·)
  | none => []

/-- The list from the hearth after the last one used, in cyclic order (18 R298, R299). -/
def rotateAfter (last : Option Nat) (l : List Nat) : List Nat :=
  match last with
  | some h => l.filter (h < ·) ++ l.filter (· ≤ h)
  | none => l

/-- The next group that a trace lets be placed: on its hearth, every group of a lower SEQ has been. -/
def State.traceNext (s : State) (g : Grid) (ps : List Place) (hs : List Nat) : Option Place :=
  ps.find? fun p => !(g.placed.any fun x => x.gix == p.gix) && hs.contains p.home
    && (ps.all fun o => o.home != p.home || decide (p.seq ≤ o.seq) || g.placed.any fun x => x.gix == o.gix)
    && s.fitTrace g p

/-- Place one more group of a grid, if one fits. -/
def State.placeNext (s : State) (k : Nat) : Option State :=
  match s.grid? k with
  | none => none
  | some g =>
    if g.groupCount ≤ g.nextGroup then none
    else
      let hs := s.hearthsOf g
      match g.trace with
      | some ps => (s.traceNext g ps hs).map fun p => s.placeGroup k g p.gix p.home p.slots
      | none =>
        ((rotateAfter g.lastHearth hs).findSome? fun h => (s.fitGroup g g.nextGroup h).map fun l => (h, l)).map
          fun x => s.placeGroup k g g.nextGroup x.1 x.2

/-- Place up to n groups. -/
def State.placeMany (s : State) (k : Nat) : Nat → State
  | 0 => s
  | n + 1 =>
    match s.placeNext k with
    | some s' => s'.placeMany k n
    | none => s

/-- Every group of the grid has been placed. -/
def Grid.whole (g : Grid) : Bool := decide (g.groupCount ≤ g.nextGroup)

/-- Write the trace block of a grid whose last group has been placed (20 R324). -/
def State.writeTrace (s : State) (k : Nat) : State :=
  match s.grid? k with
  | none => s
  | some g =>
    if !(g.pkt.traces && g.whole && !g.traceWritten) then s
    else (s.modGrid k fun g => { g with traceWritten := true }).ringTrace ((s.hearthsOf g).headD 0 / 128) (g.traceBlock 0)

/-- Place what fits of a grid's groups. -/
def State.placeGrid (s : State) (k : Nat) : State :=
  match s.grid? k with
  | some g => (s.placeMany k (g.groupCount - g.nextGroup)).writeTrace k
  | none => s

/-! ## The first round (18 R298, R295) -/

/-- The grid's launch: arrived peer lines are applied (22 R339), the argument block is read as committed (06 R96), the
waves of the round start together, and no L1 keeps a line that is older than the state at this moment (11 R248, log 99). -/
def State.startGrid (s : State) (k : Nat) (g : Grid) : State :=
  let die := ((s.context? g.ctx).map s.launchDie).getD 0
  let args := match s.vread die g.ctx g.pkt.karg g.desc.arglen with
    | .ok bs => if g.desc.arglen = 0 then [] else bs
    | .error _ => g.args
  let idle := !(s.threads.any fun x => x.2.ctx == g.ctx && x.2.grid != k)
  let s := s.modGrid k fun g => { g with started := true, args := args }
  let s := if idle then s.modContext g.ctx fun x => { x with lastRetire := s.time } else s
  { s with taken := none }.freshen fun _ => true

/-- The state after the first round of the taken grid; none while a stepping grid cannot be placed whole, or the argument block is not
reached (22 R337). -/
def State.firstRound (s : State) : Option State :=
  match s.taken with
  | none => none
  | some x =>
    match s.grid? x.grid with
    | none => some { s with taken := none }
    | some g =>
      if !s.rangeReached (((s.context? g.ctx).map s.launchDie).getD 0) g.ctx g.pkt.karg g.desc.arglen then none
      else
      let s := (s.applyPeers g.ctx).placeGrid x.grid
      match s.grid? x.grid with
      | none => none
      | some g' => if g.desc.stepping && !g'.whole then none else some (s.startGrid x.grid g)

/-! ## Later rounds (18 R299) -/

/-- Non-stepping grids with groups that wait, in the order in which their packets were taken. -/
def State.waitingGrids (s : State) : List Nat :=
  (sortBy (fun (a b : Nat × Grid) => decide (a.2.order ≤ b.2.order)) (s.grids.filter fun x =>
    x.2.started && !x.2.desc.stepping && !x.2.whole && !x.2.stopLive &&
      (match s.context? x.2.ctx with
        | some c => c.status == .running
        | none => false))).map (·.1)

/-- Serve waiting grids in turn: a grid whose groups still wait keeps those of the later ones waiting. -/
def State.serveWaiting (s : State) : List Nat → State
  | [] => s
  | k :: r =>
    let s' := s.placeGrid k
    if (s'.grid? k).any (·.whole) then s'.serveWaiting r else s'

/-- GROUP_PLACE_DEFERRED. -/
def execGroupPlaceDeferred (s : State) : Out := .next (s.serveWaiting s.waitingGrids)

/-- GRID_PLACE: the groups that wait come before the first round of a packet taken later. -/
def execGridPlace (s : State) : Out :=
  let s := s.serveWaiting s.waitingGrids
  .next (s.firstRound.getD s)

/-! ## Completion (18 R299, R302, R303, 07 R144) -/

/-- All lanes have exited, all copies have landed, every group was placed and has closed its last step. -/
def State.gridDone (s : State) (k : Nat) : Bool :=
  match s.grid? k with
  | some g => g.started && g.whole && !(s.threads.any fun x => x.2.grid == k) && !(s.groups.any fun x => x.2.grid == k)
      && s.closeReached k g fun _ => true
  | none => false

/-- Steps of a grid that hold writes or effects, in ascending order, from the open one on. -/
def Grid.openSteps (g : Grid) (twins : List (Nat × TwinLine)) (k : Nat) : List Word :=
  let l := g.pend.map (·.step) ++ g.sysops.map (·.step)
    ++ twins.flatMap fun t => (t.2.writers ++ t.2.held ++ t.2.pend.toList).filterMap fun x =>
        if x.grid = k then some x.step else none
  sortBy (fun a b => !passed b a) (nub l)

/-- The close at a grid's completion, of one step: no trap is taken, since no lane is left. -/
def State.closeFinal (s : State) (k : Nat) (n : Word) : State :=
  match s.grid? k with
  | none => s
  | some g =>
    let c := s.closing g n false
    let (s, r, ends) := s.commitGlobal k g c (g.pend.filter fun w => w.step == n)
    let s := s.modGrid k fun g => { g with
      pend := g.pend.filter fun w => w.step != n
      sysops := g.sysops.filter fun o => o.step != n
      rlRes := g.rlRes.filter fun l => l.1 != n
      commitFault := g.commitFault || ends.fails.any (·.bad) }
    let s := s.settleRing (g.rlRes.filter fun l => l.1 == n) ends.anys
    let s := (s.oweLost k true c r.lost).putRecs k ends.recs
    s.closeOps g.ctx (g.sysops.filter fun o => o.step == n)

/-- GRID_COMPLETE: commits, then the record, then SIGEV. -/
def execGridComplete (k : Nat) (s : State) : Out :=
  if !s.gridDone k then .next s
  else match s.grid? k with
    | none => .next s
    | some g =>
      let s := s.applyPeers g.ctx
      let s := (g.openSteps s.twins k).foldl (fun s n => s.closeFinal k n) s
      let s := (s.modGrid k fun g => { g with closed := maxWord g.closed g.reached }).dropGlobals g.clusters
      let status := match s.grid? k with
        | some g => if g.commitFault then 0x0001 else 0
        | none => 0
      let s := s.endGrid k status
      .next (if g.pkt.sigv then s.signal g.ctx g.pkt.sigev.toNat else s)

end Sys2Proof.Machine
end

