-- ==== Sys2Proof/Machine/Command.lean ====
section
/-! DEFINITION. The commands of a function (22 R345 to R350): their frame and checks, contexts, queues, settings, counts,
rings, inbox entries, circuits, power (25 R365), flash (25 R364), INVALIDATE (19 R319) and WAVE_RESUME (19 R308). -/

namespace Sys2Proof.Machine

/-! ## The frame (22 R345) -/

def cmdCode (c : Cmd) : Nat := bits c.w0.toNat 0 8
def cmdCtx (c : Cmd) : Nat := bits c.w0.toNat 16 16

/-- A reserved bit is set: `ctx` says that word 0 names a context, `m1` to `m3` are the bits that words 1 to 3 use. -/
def cmdReserved (c : Cmd) (ctx : Bool) (m1 m2 m3 : DWord) : Bool :=
  let m0 : DWord := if ctx then 0xFFFF00FF#64 else 0xFF#64
  c.w0 &&& ~~~m0 != 0#64 || c.w1 &&& ~~~m1 != 0#64 || c.w2 &&& ~~~m2 != 0#64 || c.w3 &&& ~~~m3 != 0#64
    || c.w4 != 0#64 || c.w5 != 0#64 || c.w6 != 0#64 || c.w7 != 0#64

/-- Every bit of an operand word is used. -/
def wholeWord : DWord := BitVec.allOnes 64

/-- How a command's run ends: with a status and result words, or not yet. -/
inductive Reply where
  | done (status : Nat) (res : List DWord)
  | later
deriving DecidableEq, Repr

/-- The command has ended: results, status, BUSY clear, MSI-X vector 0. -/
def State.finish (s : State) (die status : Nat) (res : List DWord) : State :=
  (s.modDie die fun d => { d with
    cmdres := res ++ d.cmdres.drop res.length, cmdsts := BitVec.ofNat 16 status, busy := false }).raise die 0

/-- Run a command on a copy of CMDBUF. -/
def State.runCmd (s : State) (die : Nat) (c : Cmd) (f : State → State × Reply) : State :=
  let r := f (s.modDie die fun d => { d with cmdbuf := c, busy := true })
  match r.2 with
  | .done st res => r.1.finish die st res
  | .later => r.1

/-- The host writes a command into CMDBUF and submits it. `mine` says that the command is the one that the event names;
`boot` that die 0 answers it in a start that has not completed (22 R343). -/
def command (die : Nat) (c : Cmd) (mine boot : Bool) (s : State) (f : State → State × Reply) : Out :=
  if !mine then .next s
  else if !s.answers die then
    if boot && die == 0 then .next (s.runCmd die c f) else .next (s.dropped die)
  else if (s.die die).busy then .next ((s.modDie die fun d => { d with cmdbuf := c }).dropped die)
  else if (s.die die).tdisp != .run then .next (s.runCmd die c fun s => (s, .done 0x0042 []))
  else .next (s.runCmd die c f)

/-- A command that ends with a status and no result. -/
def ends (s : State) (status : Nat) : State × Reply := (s, .done status [])

/-- A command that names a context: accepted on any die of the context. -/
def withCtx (s : State) (die : Nat) (c : Cmd) (f : Nat → Context → State × Reply) : State × Reply :=
  match s.context? (cmdCtx c) with
  | none => ends s 0x0043
  | some x => if x.dieset.getLsbD die then f (cmdCtx c) x else ends s 0x0047

/-- UNKNOWN_COMMAND_CODE. -/
def execUnknownCommandCode (die : Nat) (c : Cmd) (s : State) : Out :=
  command die c (cmdCode c == 0 || decide (0x11 < cmdCode c)) false s fun s => ends s 0x0040

/-- CMDDB_WRITE_WHILE_BUSY: dropped and counted. -/
def execCmddbWriteWhileBusy (die : Nat) (s : State) : Out :=
  if (s.die die).busy then .next (s.dropped die) else .next s

/-! ## Contexts (22 R346, R347, 25 R367) -/

/-- A 64-bit field of a context record. -/
def recWord (bs : List Byte) (o : Nat) : DWord := BitVec.ofNat 64 (leNat ((bs.drop o).take 8))

def recDies (bs : List Byte) : BitVec 16 := (recWord bs 0).extractLsb' 16 16

/-- Reserved bits and limits of a context record (Table 22.7), with those of the registers of 08 Table 8.5. -/
def recordOk (bs : List Byte) : Bool :=
  bits (recWord bs 0).toNat 44 20 == 0 && leNat (bs.drop 72) == 0 && decide ((recWord bs 8).toNat % 65536 = 0)
    && bits (recWord bs 16).toNat 0 3 == 0 && decide ((recWord bs 24).toNat < 2) && decide ((recWord bs 32).toNat < 8)

/-- The context that a record describes. -/
def contextOf (bs : List Byte) (now : DWord) : Context where
  dieset := recDies bs
  dbpage := bits (recWord bs 0).toNat 32 12
  root := recWord bs 8
  tba := recWord bs 16
  fpolicy := recWord bs 24
  ctxcfg := recWord bs 32
  steplimit := recWord bs 40
  hanglimit := recWord bs 48
  clbase := recWord bs 56
  clsize := recWord bs 64
  queues := []
  windows := []
  pins := []
  pinRel := 0
  pinRef := 0
  status := .running
  saving := none
  restoring := false
  lastRetire := now

/-- Every die of a mask is live. -/
def State.allLive (s : State) (m : BitVec 16) : Bool := (List.range 16).all fun d => !m.getLsbD d || (s.die d).live

def State.createContext (s : State) (bs : List Byte) : State × Reply :=
  let id := bits (recWord bs 0).toNat 0 16
  if !recordOk bs || recDies bs == 0#16 then ends s 0x0041
  else if (s.context? id).isSome || (s.pageOwner (bits (recWord bs 0).toNat 32 12)).isSome then ends s 0x0044
  else if !s.allLive (recDies bs) then ends s 0x0047
  else
    let s := { s with events := s.events.filter fun e => e.1 != id, evSpill := s.evSpill.filter fun e => e.1 != id }
    ends (s.setContext id (contextOf bs s.time)) 0

/-- What the part's own read of an operand in module memory brings about besides its value: the records of lost words (23 R351), and
the touch of pinned ranges (22 R342). -/
def State.noteOperand (s : State) (die : Nat) (a : DWord) (n : Nat) : State :=
  if a.getLsbD 63 then s else (s.noteLostAt die 0 0#32 0 a a.toNat n).touchPa a.toNat n

/-- A command whose memory operand is not reached waits, with BUSY set, until it is (22 R337). -/
def State.whenReached (s : State) (die : Nat) (c : Cmd) (ready : Bool) (k : State × Reply) : State × Reply :=
  if ready then k else (s.post die (.command c), .later)

/-- CTX_CREATE reads its record once (22 R347). -/
def State.createAt (s : State) (die : Nat) (a : DWord) : State × Reply :=
  (s.noteOperand die a 128).createContext (s.cleanBytes a.toNat 128)

def execCtxCreate (die : Nat) (c : Cmd) (s : State) : Out :=
  command die c (cmdCode c == 0x01) false s fun s =>
    if cmdReserved c false wholeWord 0#64 0#64 || c.w1.toNat % 128 != 0 || !s.holdsMemory c.w1.toNat then ends s 0x0041
    else s.whenReached die c (s.opReached die c.w1) (s.createAt die c.w1)

/-- CTX_DESTROY: a save that has begun is never abandoned (19 R314). -/
def execCtxDestroy (die : Nat) (c : Cmd) (s : State) : Out :=
  command die c (cmdCode c == 0x02) false s fun s =>
    if cmdReserved c true 0#64 0#64 0#64 then ends s 0x0041
    else withCtx s die c fun k x =>
      if x.saving.any (·.begun) || s.saves.any (fun i => i.2.ctx == k && i.2.started) then ends s 0x0046
      else
        let s := (s.endGrids k 0x0020).clearContext k
        ends { s with contexts := adel s.contexts k, peersIn := s.peersIn.filter fun l => l.ctx != k } 0

/-- QUEUE_SET: slots that pending LAUNCHes have reserved stay reserved. -/
def execQueueSet (die : Nat) (c : Cmd) (s : State) : Out :=
  command die c (cmdCode c == 0x03) false s fun s =>
    let n := bits c.w1.toNat 16 4
    if cmdReserved c true 0xF033F#64 wholeWord 0#64 || decide (12 < n) || decide (c.w2.toNat % 128 ≠ 0) then ends s 0x0041
    else withCtx s die c fun k x =>
      let q := bits c.w1.toNat 0 6
      let held := match aget? x.queues q with
        | some u => u.reserved
        | none => 0
      let u : Queue := { prio := bits c.w1.toNat 8 2, base := c.w2, log2 := n, widx := 0#32, ridx := 0#32
                         reserved := held, enq := [] }
      ends (s.setContext k { x with queues := if n = 0 then adel x.queues q else aset x.queues q u }) 0

/-! ## WAVE_RESUME (19 R308) -/

/-- The die that a place names. -/
def placeDie (place : DWord) : Nat := bits place.toNat 0 4

/-- The halted wave or ember lane of a context at a place. -/
def State.haltedAt (s : State) (k : Nat) (place : DWord) : Option Nat :=
  (s.threads.find? fun x => x.2.ctx == k && x.2.halted && x.2.place == place).map (·.1)

/-- WAVE_RESUME: a place on a die that is not live or not in the context ends with 0x0047; one that holds no halted wave or lane is
an operand outside its limits, and so is every place of a faulted context, whose waves never resume (19 R307, log 27). -/
def execWaveResume (die : Nat) (c : Cmd) (s : State) : Out :=
  command die c (cmdCode c == 0x07) false s fun s =>
    if cmdReserved c true 0x3FFFF#64 0#64 0#64 then ends s 0x0041
    else withCtx s die c fun k x =>
      if !x.dieset.getLsbD (placeDie c.w1) || !(s.die (placeDie c.w1)).live then ends s 0x0047
      else if x.status != .running then ends s 0x0041
      else match s.haltedAt k c.w1 with
      | some t => ends (s.modThread t fun w => { w with halted := false }) 0
      | none => ends s 0x0041

/-! ## INVALIDATE (19 R319) -/

def Inval.meets (v : Inval) (va n : Nat) : Bool :=
  decide (v.base.toNat < va + n ∧ va < v.base.toNat + v.bytes.toNat)

/-- A translation of the range is still in use: by a load whose data has not arrived, a grate instruction that has not
started, a copy's line that has not landed, or a write that has not committed. -/
def State.invalBusy (s : State) (v : Inval) : Bool :=
  let mine := fun (t : Nat) => match s.thread? t with
    | some w => w.ctx == v.ctx
    | none => false
  (s.threads.any fun x => x.2.ctx == v.ctx && x.2.ops.any fun o => decide (o.uid < v.mark)
      && o.far.any fun f => v.meets f.va.toNat f.len)
  || (s.hearths.any fun h => (if h.2.running then h.2.grate.drop 1 else h.2.grate).any fun o => mine o.t && decide (o.uid < v.mark)
      && o.far.any fun r => v.meets r.far.va.toNat r.far.len)
  || (s.hearths.any fun h => h.2.copies.any fun c => mine c.t && decide (c.uid < v.mark)
      && (c.far.any (fun f => v.meets f.va.toNat 128) || c.landed.any fun l => v.meets l.1 128))
  || ((s.grids ++ s.saves.flatMap fun i => i.2.grids).any fun g => g.2.ctx == v.ctx && g.2.pend.any fun w => decide (w.order < v.mark) && v.meets w.va w.data.length)
  || (s.twins.any fun t => (t.2.pend.toList ++ t.2.held).any fun w =>
      ((s.grids ++ s.saves.flatMap fun i => i.2.grids).any fun g => g.1 == w.grid && g.2.ctx == v.ctx) && v.meets w.va 128)
  || s.peersIn.any fun l => l.ctx == v.ctx && v.meets l.va 128

/-- A TLB without the entries of a context's range. -/
def Inval.keep (v : Inval) (l : List TlbEntry) : List TlbEntry :=
  l.filter fun e => !(e.ctx == v.ctx && v.meets e.vbase (2 ^ levelBits e.level))

/-- INVALIDATE: the entries of the range leave every TLB; the command ends at INVALIDATE_COMPLETE. -/
def execInvalidate (die : Nat) (c : Cmd) (s : State) : Out :=
  command die c (cmdCode c == 0x06) false s fun s =>
    if cmdReserved c true wholeWord wholeWord 0#64 || decide (c.w1.toNat % 65536 ≠ 0) || decide (c.w2.toNat % 65536 ≠ 0) then
      ends s 0x0041
    else withCtx s die c fun k _ =>
      let v : Inval := ⟨k, c.w1, c.w2, s.uid⟩
      let s := { s with dies := s.dies.map fun (d : Die) => { d with tlb := v.keep d.tlb }
                        tlbs := s.tlbs.map fun (x : Nat × List TlbEntry) => (x.1, v.keep x.2) }
      (s.modDie die fun d => { d with inval := some v }, .later)

/-- INVALIDATE_COMPLETE. -/
def execInvalidateComplete (die : Nat) (s : State) : Out :=
  match (s.die die).inval with
  | none => .next s
  | some v => if s.invalBusy v then .next s else .next ((s.modDie die fun d => { d with inval := none }).finish die 0 [])

/-! ## Connection entries (22 R336, R337) -/

def ConnState.code : ConnState → Nat
  | .down => 0
  | .setup => 1
  | .up => 2
  | .drain => 3

/-- A connection entry (Table 22.1). -/
def Conn.word (x : Conn) (peer : Nat) : DWord := BitVec.ofNat 64 (x.state.code * 2 ^ 62 + peer * 2 ^ 60 + x.wl * 2 ^ 54)

def Conn.takeDown (x : Conn) : Conn :=
  match x.state with
  | .down => x
  | .drain => x
  | .setup => { x with state := .drain }
  | .up => { x with state := .drain }

def Conn.bringUp (x : Conn) : Conn :=
  match x.state with
  | .down => { x with state := .setup }
  | .drain => { x with state := .setup }
  | .setup => x
  | .up => x

def Flue.entry (f : Flue) (p : Nat) : Conn := (aget? f.conn p).getD ⟨.down, 16⟩

/-- CONN_SET: `op` is its operation, and `g` what it does to the entry. -/
def connSet (die : Nat) (c : Cmd) (op : Nat) (s : State) (g : Conn → Conn) : Out :=
  let k := bits c.w1.toNat 2 2
  command die c (cmdCode c == 0x08 && (k == op || k == 3)) false s fun s =>
    let p := bits c.w1.toNat 0 2
    let f := die / 4
    let wl := bits c.w1.toNat 4 6
    if cmdReserved c false 0x3FF#64 0#64 0#64 || k == 3 || p == f || wl == 0 || decide (32 < wl) then
      ends s 0x0041
    else if s.minimal then ends s 0x0045
    else
      let x := g ((s.flue f).entry p)
      (s.modFlue f fun y => { y with conn := aset y.conn p x }, .done 0 [x.word p])

def execConnDown (die : Nat) (c : Cmd) (s : State) : Out := connSet die c 0 s Conn.takeDown
def execConnUp (die : Nat) (c : Cmd) (s : State) : Out := connSet die c 1 s Conn.bringUp
def execConnSetWl (die : Nat) (c : Cmd) (s : State) : Out :=
  connSet die c 2 s fun x => { x with wl := bits c.w1.toNat 4 6 }

/-- The flue die that an access of a die goes to: its home, or the one whose port carries it to a peer (22 R340). -/
def State.farFlue (s : State) (die pa : Nat) : Option Nat := if isPeer pa then s.egress (die / 4) else some (homeFlue pa)

/-- A request is in flight on the circuit between two flue dies. -/
def State.inFlight (s : State) (f p : Nat) : Bool :=
  let on := fun (die : Nat) (l : List Far) => l.any fun x => x.sent
    && ((die / 4 == f && s.farFlue die x.pa == some p) || (die / 4 == p && s.farFlue die x.pa == some f))
  (s.threads.any fun x => x.2.ops.any fun o => on x.2.die o.far)
    || s.hearths.any fun h => (h.2.copies.any fun c => on (h.1 / 128) (c.far.filter fun x => c.lines.any fun l => l.1 == x.lane))
      || (if h.2.running then h.2.grate.drop 1 else h.2.grate).any fun o => on (h.1 / 128) (o.far.map (·.far))

/-- CIRCUIT_DRAINED. -/
def execCircuitDrained (f peer : Nat) (s : State) : Out :=
  let x := (s.flue f).entry peer
  if x.state == .drain && !s.inFlight f peer then
    .next (s.modFlue f fun y => { y with conn := aset y.conn peer { x with state := .down } })
  else .next s

/-- CIRCUIT_UP. -/
def execCircuitUp (f peer : Nat) (s : State) : Out :=
  let x := (s.flue f).entry peer
  if x.state == .setup then .next (s.modFlue f fun y => { y with conn := aset y.conn peer { x with state := .up } })
  else .next s

/-! ## POWER (25 R365) -/

/-- The die holds a wave, an ember lane or a save image of some context that `p` accepts. -/
def State.holdsWork (s : State) (die : Nat) (p : Nat → Bool) : Bool :=
  s.threads.any (fun x => x.2.die == die && p x.2.ctx) || s.saves.any fun i => i.2.dies.getLsbD die && p i.2.ctx

/-- The P-state of a POWER command's word 1, and likewise its budget and idle state. -/
def Die.setPower (d : Die) (w : Nat) : Die :=
  { d with
    pstateNext := if bits w 2 1 = 1 then some (BitVec.ofNat 2 (bits w 0 2)) else d.pstateNext
    budget := if bits w 15 1 = 1 then bits w 8 7 else d.budget
    mode := if bits w 18 1 = 1 then (if bits w 16 2 = 0 then .run else if bits w 16 2 = 1 then .gated else .off) else d.mode }

/-- POWER, named by the part of it that bit `v` of word 1 marks valid; a command with no part is each of them. -/
def power (die : Nat) (c : Cmd) (v : Nat) (s : State) : Out :=
  let w := c.w1.toNat
  let none' := bits w 2 1 == 0 && bits w 15 1 == 0 && bits w 18 1 == 0
  command die c (cmdCode c == 0x09 && (bits w v 1 == 1 || none')) false s fun s =>
    if cmdReserved c false 0x7FF07#64 0#64 0#64
      || (bits w 15 1 == 1 && (bits w 8 7 == 0 || decide (64 < bits w 8 7))) || (bits w 18 1 == 1 && bits w 16 2 == 3) then
      ends s 0x0041
    else if s.minimal && bits w 2 1 == 1 then ends s 0x0045
    else if (s.die die).mode == .tripped then ends s 0x0047
    else if bits w 18 1 == 1 && bits w 16 2 != 0 && s.holdsWork die (fun _ => true) then ends s 0x0030
    else ends (s.modDie die fun d => d.setPower w) 0

def execPowerPstate (die : Nat) (c : Cmd) (s : State) : Out := power die c 2 s
def execPowerBudget (die : Nat) (c : Cmd) (s : State) : Out := power die c 15 s
def execPowerIdle (die : Nat) (c : Cmd) (s : State) : Out := power die c 18 s

/-- PSTATE_CHANGE_DONE. DESIGN CHOICE: a change still under way as its die trips takes effect on the stopped die (log 86). -/
def execPstateChangeDone (die : Nat) (s : State) : Out :=
  match (s.die die).pstateNext with
  | some p => .next (s.modDie die fun d => { d with pstate := p, pstateNext := none })
  | none => .next s

/-! ## CFG_SET (22 R348, Table 22.8) -/

def cfgSelectors : List Nat :=
  [0x00, 0x01, 0x02, 0x03, 0x04, 0x05, 0x10, 0x11, 0x12, 0x13, 0x14, 0x15, 0x20, 0x21, 0x22, 0x23, 0x24]

/-- The event of a selector names a CFG_SET of it; a selector that the table lacks belongs to each. -/
def cfgMine (c : Cmd) (sel : Nat) : Bool :=
  cmdCode c == 0x0A && (c.w1.toNat == sel || !cfgSelectors.contains c.w1.toNat)

/-- A setting of a die or a flue die: `ok` its limits, `old` its value, `set` its change. -/
def cfgDie (die : Nat) (c : Cmd) (sel : Nat) (s : State) (ok : Bool) (old : State → DWord) (set : State → State) : Out :=
  command die c (cfgMine c sel) false s fun s =>
    if cmdReserved c false wholeWord wholeWord 0#64 || c.w1.toNat != sel || !ok then ends s 0x0041
    else (set s, .done 0 [old s])

/-- A setting of a context. -/
def cfgCtx (die : Nat) (c : Cmd) (sel : Nat) (s : State) (ok : Bool) (old : Context → DWord) (set : Context → Context) : Out :=
  command die c (cfgMine c sel) false s fun s =>
    if cmdReserved c true wholeWord wholeWord 0#64 || c.w1.toNat != sel || !ok then ends s 0x0041
    else withCtx s die c fun k x => (s.setContext k (set x), .done 0 [old x])

def within (x : DWord) (lo hi : Nat) : Bool := decide (lo ≤ x.toNat) && decide (x.toNat ≤ hi)

def execCfgDtbase (die : Nat) (c : Cmd) (s : State) : Out :=
  cfgDie die c 0x00 s true (fun s => (s.die die).dring.base)
    fun s => s.modDie die fun d => { d with dring := { d.dring with base := c.w2 } }
def execCfgDtsize (die : Nat) (c : Cmd) (s : State) : Out :=
  cfgDie die c 0x01 s true (fun s => (s.die die).dring.size)
    fun s => s.modDie die fun d => { d with dring := { d.dring with size := c.w2 } }
def execCfgRlbase (die : Nat) (c : Cmd) (s : State) : Out :=
  cfgDie die c 0x02 s true (fun s => (s.die die).rring.base)
    fun s => s.modDie die fun d => { d with rring := { d.rring with base := c.w2 } }
def execCfgRlsize (die : Nat) (c : Cmd) (s : State) : Out :=
  cfgDie die c 0x03 s true (fun s => (s.die die).rring.size)
    fun s => s.modDie die fun d => { d with rring := { d.rring with size := c.w2 } }
def execCfgElbase (die : Nat) (c : Cmd) (s : State) : Out :=
  cfgDie die c 0x04 s true (fun s => (s.die die).ering.base)
    fun s => s.modDie die fun d => { d with ering := { d.ering with base := c.w2 } }
def execCfgElsize (die : Nat) (c : Cmd) (s : State) : Out :=
  cfgDie die c 0x05 s true (fun s => (s.die die).ering.size)
    fun s => s.modDie die fun d => { d with ering := { d.ering with size := c.w2 } }
def execCfgCpytmo (die : Nat) (c : Cmd) (s : State) : Out :=
  cfgDie die c 0x10 s (within c.w2 1 1000000) (fun s => BitVec.ofNat 64 (s.die die).cpytmo)
    fun s => s.modDie die fun d => { d with cpytmo := c.w2.toNat }
def execCfgSavetmo (die : Nat) (c : Cmd) (s : State) : Out :=
  cfgDie die c 0x11 s (within c.w2 1 1000000) (fun s => BitVec.ofNat 64 (s.die die).savetmo)
    fun s => s.modDie die fun d => { d with savetmo := c.w2.toNat }
def execCfgPretmo (die : Nat) (c : Cmd) (s : State) : Out :=
  cfgDie die c 0x12 s (within c.w2 0 1000000) (fun s => BitVec.ofNat 64 (s.die die).pretmo)
    fun s => s.modDie die fun d => { d with pretmo := c.w2.toNat }
def execCfgCxltmo (die : Nat) (c : Cmd) (s : State) : Out :=
  cfgDie die c 0x13 s (within c.w2 1 64) (fun s => BitVec.ofNat 64 (s.flue (die / 4)).cxltmo)
    fun s => s.modFlue (die / 4) fun f => { f with cxltmo := c.w2.toNat }
def execCfgPeertmo (die : Nat) (c : Cmd) (s : State) : Out :=
  cfgDie die c 0x14 s (within c.w2 1 1000) (fun s => BitVec.ofNat 64 (s.flue (die / 4)).peertmo)
    fun s => s.modFlue (die / 4) fun f => { f with peertmo := c.w2.toNat }
def execCfgActmax (die : Nat) (c : Cmd) (s : State) : Out :=
  cfgDie die c 0x15 s (within c.w2 256 4095) (fun s => BitVec.ofNat 64 (s.flue (die / 4)).actmax)
    fun s => s.modFlue (die / 4) fun f => { f with actmax := c.w2.toNat }
def execCfgSteplimit (die : Nat) (c : Cmd) (s : State) : Out :=
  cfgCtx die c 0x20 s true (·.steplimit) fun x => { x with steplimit := c.w2 }
def execCfgHanglimit (die : Nat) (c : Cmd) (s : State) : Out :=
  cfgCtx die c 0x21 s true (·.hanglimit) fun x => { x with hanglimit := c.w2 }
def execCfgCtxcfg (die : Nat) (c : Cmd) (s : State) : Out :=
  cfgCtx die c 0x22 s (within c.w2 0 7) (·.ctxcfg) fun x => { x with ctxcfg := c.w2 }
def execCfgTba (die : Nat) (c : Cmd) (s : State) : Out :=
  cfgCtx die c 0x23 s (decide (c.w2.toNat % 8 = 0)) (·.tba) fun x => { x with tba := c.w2 }
def execCfgFpolicy (die : Nat) (c : Cmd) (s : State) : Out :=
  cfgCtx die c 0x24 s (within c.w2 0 1) (·.fpolicy) fun x => { x with fpolicy := c.w2 }

/-! ## COUNTS_READ (22 R350) -/

/-- The 64 counts of a die's block (Table 22.10), with those of a context. -/
def State.countBlock (s : State) (die : Nat) (x : Context) : List Nat :=
  let d := s.die die
  let st := fun k => s.hbm.getD (4 * (die / 4) + k) Stack.reset
  (List.range 14).map (fun k => tget 0 d.corrected k) ++ (List.range 14).map (fun k => tget 0 d.uncorrected k)
    ++ ((List.range 4).flatMap fun k => [(st k).retries, (st k).corruptCount, (st k).neighbour])
    ++ [d.refused, d.dropped, s.evSpills, x.pinRel, x.pinRef, d.sumDropped, s.cplDropped, s.peerRefused]
    ++ List.replicate 16 0

/-- Write the count block (22 R350). -/
def State.countsAt (s : State) (die : Nat) (a : DWord) (c : Nat) : State × Reply :=
  match s.context? c with
  | none => ends s 0x0043
  | some x =>
    let s := if a.getLsbD 63 then s else s.touchPa a.toNat 512
    ends (s.writeAt a ((s.countBlock die x).flatMap (leBytes 8))) 0

/-- The memory of the count block is reached. -/
def State.countsReached (s : State) (die : Nat) (a : DWord) : Bool := s.opReached die a && s.opReached die (a + 511#64)

def execCountsRead (die : Nat) (c : Cmd) (s : State) : Out :=
  command die c (cmdCode c == 0x0B) false s fun s =>
    let a := c.w1
    if cmdReserved c false wholeWord 0xFFFF#64 0#64 || decide (a.toNat % 64 ≠ 0)
      || (!a.getLsbD 63 && !(s.holdsMemory a.toNat && s.holdsMemory (a.toNat + 511))) then ends s 0x0041
    else s.whenReached die c (s.countsReached die a) (s.countsAt die a (bits c.w2.toNat 0 16))

/-! ## Rings, inbox, module number, flash -/

/-- NOTIFY_SET: the records that found no ring until now are counted in its header's LOST (22 R349, 20 Table 20.2; log 95). -/
def State.setNotify (s : State) (die : Nat) (r : Ring) : State :=
  let n := (s.die die).nlost
  let s := s.modDie die fun d => { d with nring := r, nlost := 0 }
  if n = 0 then s else if s.ringOpen die .notify then s.loseNow die .notify n else s.post die (.lost .notify n)

def execNotifySet (die : Nat) (c : Cmd) (s : State) : Out :=
  command die c (cmdCode c == 0x0E) false s fun s =>
    let r : Ring := ⟨c.w1, c.w2⟩
    if cmdReserved c false wholeWord wholeWord 0#64 || !r.enabled .notify then ends s 0x0041
    else ends (s.setNotify die r) 0

/-- INBOX_SET (22 Table 22.3). -/
def execInboxSet (die : Nat) (c : Cmd) (s : State) : Out :=
  command die c (cmdCode c == 0x0F) false s fun s =>
    let x := c.w2.toNat
    if cmdReserved c false 0xFF#64 0x8000FFFFFFFFFFFF#64 wholeWord || decide (1048576 < bits x 0 32)
      || decide (c.w3.toNat % 65536 ≠ 0) then ends s 0x0041
    else
      let k := bits c.w1.toNat 0 8
      ends { s with inbox := if c.w2.getLsbD 63 then aset s.inbox k ⟨c.w3, bits x 32 16, bits x 0 32⟩ else adel s.inbox k } 0

/-- PEER_ID: accepted on die 0 only (log 27). -/
def execPeerId (die : Nat) (c : Cmd) (s : State) : Out :=
  command die c (cmdCode c == 0x10) false s fun s =>
    if cmdReserved c false 0x7F#64 0#64 0#64 || die != 0 then ends s 0x0041
    else ends { s with moduleId := some (c.w1.extractLsb' 0 7) } 0

/-- Write the firmware image (25 R364). -/
def State.flashAt (s : State) (die : Nat) (a : DWord) (off n : Nat) : State × Reply :=
  let bs := s.readAt a n
  let s := s.noteOperand die a n
  ends { s with flash := tsets 0#8 s.flash ((List.range bs.length).zip bs |>.map fun x => (off + x.1, x.2)) } 0

/-- The source of a FLASH_WRITE is reached. -/
def State.flashReached (s : State) (die : Nat) (a : DWord) (n : Nat) : Bool :=
  a.getLsbD 63 || (List.range (n / 4096)).all fun i => s.opReached die (a + BitVec.ofNat 64 (4096 * i))

def execFlashWrite (die : Nat) (c : Cmd) (s : State) : Out :=
  command die c (cmdCode c == 0x11) true s fun s =>
    if cmdReserved c false wholeWord wholeWord wholeWord || decide (c.w2.toNat % 4096 ≠ 0)
      || decide (c.w3.toNat % 4096 ≠ 0) then ends s 0x0041
    else s.whenReached die c (s.flashReached die c.w1 c.w3.toNat) (s.flashAt die c.w1 c.w2.toNat c.w3.toNat)

/-! ## What waits for memory that is not reached (22 R337) -/

/-- The memory operand of a command is reached. -/
def State.cmdReached (s : State) (die : Nat) (c : Cmd) : Bool :=
  if cmdCode c = 0x01 then s.opReached die c.w1
  else if cmdCode c = 0x0B then s.countsReached die c.w1
  else s.flashReached die c.w1 c.w3.toNat

/-- Run a command that has waited for its operand. -/
def State.memCommand (s : State) (die : Nat) (c : Cmd) : State × Reply :=
  if cmdCode c = 0x01 then s.createAt die c.w1
  else if cmdCode c = 0x0B then s.countsAt die c.w1 (bits c.w2.toNat 0 16)
  else s.flashAt die c.w1 c.w2.toNat c.w3.toNat

/-- Something that a die has yet to write can be written, or a command run on. -/
def State.postReady (s : State) (die : Nat) (p : Post) : Bool :=
  match p with
  | .complete c a _ _ => s.pageReached die c a
  | .record k _ => s.ringOpen die k
  | .spend _ => s.ringOpen die .resolution
  | .trace _ => s.ringOpen die .dispatch
  | .notice _ _ _ _ _ => s.ringOpen die .notify
  | .lost k _ => s.ringOpen die k
  | .release _ => s.ringOpen die .resolution
  | .command c => s.cmdReached die c

/-- Do what waited. -/
def State.perform (s : State) (die : Nat) : Post → State
  | .complete c a g st => s.completeNow die c a g st
  | .record k bs => s.putNow die k bs
  | .spend bs => s.spendNow die bs
  | .trace bs => s.traceNow die bs
  | .notice ty c i a b => s.noticeNow die ty c i a b
  | .lost k n => s.loseNow die k n
  | .release n => s.releaseNow die n
  | .command c => s.runCmd die c fun s => s.memCommand die c

/-- Dies write what waited for memory that they now reach, each in its order (22 R337). -/
def State.flushPosts (s : State) : State :=
  if s.dies.all fun d => d.posted.isEmpty then s
  else (List.range 16).foldl (fun s d => (s.die d).posted.foldl
    (fun s p => if s.postReady d p then s.perform d p else s.post d p) (s.modDie d fun x => { x with posted := [] })) s

/-! ## Other writes of BAR0, and host memory requests (22 R333, R343) -/

/-- Raise the vectors that have become unmasked while they were pending. -/
def State.flushMsix (s : State) (die : Nat) : State :=
  (List.range 4).foldl (fun s v =>
    let d := s.die die
    if d.msixPend.getLsbD v && !(d.msix.getD (2 * v + 1) 0#64).getLsbD 32 then
      (s.setDie die { d with msixPend := d.msixPend &&& ~~~BitVec.ofNat 4 (2 ^ v) }).raise die v
    else s) s

/-- Replace one 8-byte word of CMDBUF. -/
def cmdSetWord (c : Cmd) (i : Nat) (x : DWord) : Cmd :=
  match i with
  | 0 => { c with w0 := x }
  | 1 => { c with w1 := x }
  | 2 => { c with w2 := x }
  | 3 => { c with w3 := x }
  | 4 => { c with w4 := x }
  | 5 => { c with w5 := x }
  | 6 => { c with w6 := x }
  | _ => { c with w7 := x }

/-- CMDBUF takes a write: in TDISP RUN, and on die 0 while a start has not completed or has stopped, for the commands that die 0
answers then (22 R343, R345). -/
def State.cmdOpen (s : State) (die : Nat) : Bool :=
  if s.answers die then (s.die die).tdisp == .run else die == 0

/-- BAR0_WRITE_OTHER: an aligned write of CMDBUF or of the MSI-X table, where it is reachable; a write of CMDDB or of a
doorbell is another event; every other write is dropped and counted, one at an offset that is no multiple of 8 too (log 85). -/
def execBar0WriteOther (die off : Nat) (val : DWord) (s : State) : Out :=
  let page := off % 4096
  if off = 0x1040 ∨ (0x1000000 ≤ off ∧ off < 0x2000000 ∧ page % 8 = 0 ∧ page ≤ 512) then .next s
  else if off % 8 = 0 ∧ 0x1000 ≤ off ∧ off < 0x1040 ∧ s.cmdOpen die = true then
    .next (s.modDie die fun d => { d with cmdbuf := cmdSetWord d.cmdbuf ((off - 0x1000) / 8) val })
  else if off % 8 ≠ 0 ∨ s.answers die = false ∨ (s.die die).tdisp ≠ .run then .next (s.dropped die)
  else if 0x2000 ≤ off ∧ off < 0x2040 then
    .next ((s.modDie die fun d => { d with msix := d.msix.set ((off - 0x2000) / 8) val }).flushMsix die)
  else .next (s.dropped die)

/-- HOST_MEMORY_REQUEST: a write of module memory is committed as it is served; of a read, `data` gives the length alone, and it changes
nothing but that it touches pinned ranges (22 R342) and that the lost words it meets are logged (23 R351). A request whose home its
die does not reach waits (22 R337). -/
def execHostMemoryRequest (die : Nat) (write : Bool) (addr : Nat) (data : List Byte) (s : State) : Out :=
  if !s.accepts die then .next (s.dropped die)
  else if !s.reaches die addr then .next s
  else if write then
    let s' := (s.touchPa addr data.length).storeMem die 0#32 0 0 (BitVec.ofNat 64 addr) addr data
    .next (if s.linkDown addr then s' else s'.noticeLines (linesIn addr data.length))
  else .next ((s.noteLostAt die 0 0#32 0 (BitVec.ofNat 64 addr) addr (max 1 data.length)).touchPa addr (max 1 data.length))

/-- TDISP_STATE_CHANGE (22 R333). -/
def execTdispStateChange (die : Nat) (st : Tdisp) (s : State) : Out :=
  if s.answers die then .next (s.modDie die fun d => { d with tdisp := st }) else .next s

/-- IDE_STREAM_KEYED (22 R333). -/
def execIdeStreamKeyed (die : Nat) (s : State) : Out :=
  if s.answers die then .next (s.modDie die fun d => { d with keyed := true }) else .next s

/-! ## Reads of BAR0 (22 Table 22.4) -/

def DieMode.code : DieMode → Nat
  | .run => 0
  | .gated => 1
  | .off => 2
  | .tripped => 3
  | .inReset => 4

def tdispCode : Tdisp → Nat
  | .configUnlocked => 0
  | .configLocked => 1
  | .run => 2
  | .error => 3

/-- DIESTATE. -/
def Die.stateWord (d : Die) : DWord :=
  BitVec.ofNat 64 (d.mode.code + 8 * d.tripOver.toNat + 16 * d.pstate.toNat + 256 * d.budget + 65536 * tdispCode d.tdisp)

/-- MODID. -/
def State.modIdWord (s : State) : DWord :=
  match s.moduleId with
  | some n => BitVec.ofNat 64 (n.toNat + 128)
  | none => 0#64

/-- The word that a read of BAR0 at the aligned offset `off` of a die's function returns: IDENT, BOOTCAUSE and DIESTATE
in every TDISP state and at every moment of a start, the others where the function is reachable; every offset that the
table does not list, and every register that is written only, reads as zero. The functions of dies 1 to 15 are absent in minimal
mode (25 R362), and nothing answers for them. The read changes nothing. -/
def State.bar0Read (s : State) (die off : Nat) : Option DWord :=
  let d := s.die die
  let reach := s.answers die && d.tdisp == .run
  if s.minimal && die != 0 then none
  else some <|
  if off = 0 then BitVec.ofNat 64 (0x2F16 * 2 ^ 48 + die * 2 ^ 44 + die / 4 * 2 ^ 42 + Config.firmware.toNat)
  else if off = 8 then BitVec.ofNat 64 s.bootcause.toNat
  else if off = 0x10 then d.stateWord
  else if reach = false then 0#64
  else if off = 0x18 then s.modIdWord
  else if off = 0x1048 then BitVec.ofNat 64 (d.busy.toNat * 2 ^ 63 + d.cmdsts.toNat)
  else if 0x1050 ≤ off ∧ off < 0x1080 ∧ off % 8 = 0 then d.cmdres.getD ((off - 0x1050) / 8) 0#64
  else if 0x2000 ≤ off ∧ off < 0x2040 ∧ off % 8 = 0 then d.msix.getD ((off - 0x2000) / 8) 0#64
  else if off = 0x2100 then BitVec.ofNat 64 d.msixPend.toNat
  else 0#64

end Sys2Proof.Machine
end

