-- ==== Sys2Proof/Machine/VFloat.lean ====
section
/-! DEFINITION. The vector float and convert family (06 R105 to R113). -/

namespace Sys2Proof.Machine

/-- The value of srbits for element `e` of a lane (02 R23). -/
def State.srOf (s : State) (w : Thread) (p : Entry) (lane e : Nat) : Nat :=
  match s.grid? w.grid with
  | some g => srBits g.pkt.seed (s.gkey w lane) p.gstep p.icnt e
  | none => 0

/-- Lane results with their flags: every source is read before any write, and the flags of all lanes are raised on the
path (02 R30). `f` takes the stochastic bits of each element. -/
def floatOp (i : Instr) (s : State) (g : Guard) (f : (Nat → Nat) → Thread → Nat → List (Nat × Word) × Fl) : Out :=
  issue i s fun s t w e _ =>
    let l := (lanesOf (active w e g)).map fun l => f (s.srOf w e l) w l
    .next (s.retireFl t (w.setWords (l.flatMap (·.1))) e (l.foldl (fun a x => a ||| x.2) flNone))

/-- An FP32 result in each lane (06 R105). -/
def f32Op (i : Instr) (s : State) (g : Guard) (d : VReg) (f : Nat → Thread → Nat → FRes) : Out :=
  floatOp i s g fun r w l =>
    let x := f (r 0) w l
    ([(vix d.toNat l, BitVec.ofNat 32 x.1)], x.2)

/-- Two 16-bit results in each lane, computed independently (02 Table 2.1). -/
def f16Op (i : Instr) (s : State) (g : Guard) (d : VReg) (f : Nat → Nat → Thread → Nat → FRes) : Out :=
  floatOp i s g fun r w l =>
    let x := f (r 0) 0 w l
    let y := f (r 1) 1 w l
    ([(vix d.toNat l, BitVec.ofNat 32 (x.1 + 2 ^ 16 * y.1))], x.2 ||| y.2)

/-- A float source as a number. -/
def fnum (a : FSrc) (w : Thread) (l : Nat) : Nat := (a.value w l).toNat
/-- The v register of a lane as a number. -/
def vnum (a : VReg) (w : Thread) (l : Nat) : Nat := (w.vreg a.toNat l).toNat
/-- A 16-bit element of a float source; an inline float is rounded by RNE to the format, in both elements, and raises no
flag (05 R73). -/
def hnum (f : Fmt) (a : FSrc) (k : Nat) (w : Thread) (l : Nat) : Nat :=
  match a with
  | .flt i => (toFloat f .rne 0 (fp32.decode (fltBits i).toNat)).1
  | .v r => bits (w.vreg r.toNat l).toNat (16 * k) 16
  | .s r => bits (w.sreg r.toNat).toNat (16 * k) 16

/-! ## FP32 (06 Table 6.4) -/

def execVfadd (rnd : Rnd) (g : Guard) (d : VReg) (a b : FSrc) (s : State) : Out :=
  f32Op (.vfadd rnd g d a b) s g d fun r w l => fp32.add rnd r (fnum a w l) (fnum b w l)
def execVfsub (rnd : Rnd) (g : Guard) (d : VReg) (a b : FSrc) (s : State) : Out :=
  f32Op (.vfsub rnd g d a b) s g d fun r w l => fp32.sub rnd r (fnum a w l) (fnum b w l)
def execVfmul (rnd : Rnd) (g : Guard) (d : VReg) (a b : FSrc) (s : State) : Out :=
  f32Op (.vfmul rnd g d a b) s g d fun r w l => fp32.mul rnd r (fnum a w l) (fnum b w l)
def execVffma (rnd : Rnd) (g : Guard) (d : VReg) (a b c : FSrc) (s : State) : Out :=
  f32Op (.vffma rnd g d a b c) s g d fun r w l => fp32.fma rnd r (fnum a w l) (fnum b w l) (fnum c w l)
def execVfmin (g : Guard) (d : VReg) (a b : FSrc) (s : State) : Out :=
  f32Op (.vfmin g d a b) s g d fun _ w l => fminmax false (fnum a w l) (fnum b w l)
def execVfmax (g : Guard) (d : VReg) (a b : FSrc) (s : State) : Out :=
  f32Op (.vfmax g d a b) s g d fun _ w l => fminmax true (fnum a w l) (fnum b w l)
/-- VFABS clears the sign bit and raises no flag. -/
def execVfabs (g : Guard) (d a : VReg) (s : State) : Out :=
  f32Op (.vfabs g d a) s g d fun _ w l => (vnum a w l % 2 ^ 31, flNone)
/-- VFNEG inverts the sign bit and raises no flag. -/
def execVfneg (g : Guard) (d a : VReg) (s : State) : Out :=
  f32Op (.vfneg g d a) s g d fun _ w l => (fp32.negate (vnum a w l), flNone)
/-- VFCMP (06 R108). -/
def execVfcmp (c : FCond) (g : Guard) (d : PReg) (a b : FSrc) (s : State) : Out :=
  issue (.vfcmp c g d a b) s fun s t w e _ =>
    let m := active w e g
    let l := (lanesOf m).map fun l => (l, fcmp c (fnum a w l) (fnum b w l))
    .next (s.retireFl t (w.setPred d.toNat m (maskOf ((l.filter (·.2.1)).map (·.1)))) e
      (l.foldl (fun x y => x ||| y.2.2) flNone))
def execVfclass (g : Guard) (d a : VReg) (s : State) : Out :=
  f32Op (.vfclass g d a) s g d fun _ w l => (fclass (vnum a w l), flNone)
def execVfdiv (rnd : Rnd) (g : Guard) (d : VReg) (a b : FSrc) (s : State) : Out :=
  f32Op (.vfdiv rnd g d a b) s g d fun r w l => fdiv rnd r (fnum a w l) (fnum b w l)
def execVfsqrt (rnd : Rnd) (g : Guard) (d : VReg) (a : FSrc) (s : State) : Out :=
  f32Op (.vfsqrt rnd g d a) s g d fun r w l => fsqrt rnd r (fnum a w l)
def execVfrcp (rnd : Rnd) (g : Guard) (d : VReg) (a : FSrc) (s : State) : Out :=
  f32Op (.vfrcp rnd g d a) s g d fun r w l => frcp rnd r (fnum a w l)
def execVfrsq (rnd : Rnd) (g : Guard) (d : VReg) (a : FSrc) (s : State) : Out :=
  f32Op (.vfrsq rnd g d a) s g d fun r w l => frsq rnd r (fnum a w l)
def execVfexp2 (rnd : Rnd) (g : Guard) (d : VReg) (a : FSrc) (s : State) : Out :=
  f32Op (.vfexp2 rnd g d a) s g d fun r w l => fexp2 rnd r (fnum a w l)
def execVflog2 (rnd : Rnd) (g : Guard) (d : VReg) (a : FSrc) (s : State) : Out :=
  f32Op (.vflog2 rnd g d a) s g d fun r w l => flog2 rnd r (fnum a w l)
def execVfsinpi (rnd : Rnd) (g : Guard) (d : VReg) (a : FSrc) (s : State) : Out :=
  f32Op (.vfsinpi rnd g d a) s g d fun r w l => fsinpi rnd r (fnum a w l)
def execVfcospi (rnd : Rnd) (g : Guard) (d : VReg) (a : FSrc) (s : State) : Out :=
  f32Op (.vfcospi rnd g d a) s g d fun r w l => fcospi rnd r (fnum a w l)
def execVfrnd (rnd : Rnd) (g : Guard) (d a : VReg) (s : State) : Out :=
  f32Op (.vfrnd rnd g d a) s g d fun r w l => frnd rnd r (vnum a w l)

/-! ## Pairs of FP16 and BF16 (06 Table 6.4) -/

def execVhadd (rnd : Rnd) (g : Guard) (d : VReg) (a b : FSrc) (s : State) : Out :=
  f16Op (.vhadd rnd g d a b) s g d fun r k w l => fp16.add rnd r (hnum fp16 a k w l) (hnum fp16 b k w l)
def execVhmul (rnd : Rnd) (g : Guard) (d : VReg) (a b : FSrc) (s : State) : Out :=
  f16Op (.vhmul rnd g d a b) s g d fun r k w l => fp16.mul rnd r (hnum fp16 a k w l) (hnum fp16 b k w l)
def execVhfma (rnd : Rnd) (g : Guard) (d : VReg) (a b c : FSrc) (s : State) : Out :=
  f16Op (.vhfma rnd g d a b c) s g d fun r k w l => fp16.fma rnd r (hnum fp16 a k w l) (hnum fp16 b k w l) (hnum fp16 c k w l)
def execVbadd (rnd : Rnd) (g : Guard) (d : VReg) (a b : FSrc) (s : State) : Out :=
  f16Op (.vbadd rnd g d a b) s g d fun r k w l => bf16.add rnd r (hnum bf16 a k w l) (hnum bf16 b k w l)
def execVbmul (rnd : Rnd) (g : Guard) (d : VReg) (a b : FSrc) (s : State) : Out :=
  f16Op (.vbmul rnd g d a b) s g d fun r k w l => bf16.mul rnd r (hnum bf16 a k w l) (hnum bf16 b k w l)
def execVbfma (rnd : Rnd) (g : Guard) (d : VReg) (a b c : FSrc) (s : State) : Out :=
  f16Op (.vbfma rnd g d a b c) s g d fun r k w l => bf16.fma rnd r (hnum bf16 a k w l) (hnum bf16 b k w l) (hnum bf16 c k w l)

/-! ## VCVT (06 R112, Table 6.8) -/

/-- The source of VCVT as a number: one word, or two for 32-bit elements into a narrower type. -/
def CvtSrc.num (a : CvtSrc) (wide : Bool) (w : Thread) (l : Nat) : Nat :=
  match a with
  | .v r => if wide then (w.vpair r.toNat l).toNat else (w.vreg r.toNat l).toNat
  | .s r => if wide then (w.sreg r.toNat).toNat else (w.sreg r.toNat).toNat % 2 ^ 32

/-- Elements that VCVT converts (06 Table 6.8). -/
def cvtCount (dt sty : ETy) : Nat :=
  if etyBits dt = 32 ∧ etyBits sty = 32 then 1
  else if etyBits dt = 32 ∨ etyBits sty = 32 then 2
  else min (32 / etyBits dt) (32 / etyBits sty)

/-- The converted elements packed at the destination's positions, those at N and above 0, with their flags. -/
def cvtPack (dt sty : ETy) (mode : Rnd) (r : Nat → Nat) (x : Nat) : Nat → Nat × Fl
  | 0 => (0, flNone)
  | n + 1 =>
    let y := convert dt sty mode (r n) (bits x (etyBits sty * n) (etyBits sty))
    let z := cvtPack dt sty mode r x n
    (z.1 + y.1 * 2 ^ (etyBits dt * n), z.2 ||| y.2)

def execVcvt (rnd : Rnd) (dt sty : ETy) (g : Guard) (d : VReg) (a : CvtSrc) (s : State) : Out :=
  floatOp (.vcvt rnd dt sty g d a) s g fun r w l =>
    let y := cvtPack dt sty rnd r (CvtSrc.num a (cvtSrc dt sty == 2) w l) (cvtCount dt sty)
    ((vix d.toNat l, BitVec.ofNat 32 y.1) ::
      (if cvtDst dt sty = 2 then [(vix (d.toNat + 1) l, BitVec.ofNat 32 (y.1 / 2 ^ 32))] else []), y.2)

end Sys2Proof.Machine
end

