-- ==== Sys2Proof/Machine/CrossLane.lean ====
section
/-! DEFINITION. The cross-lane family (06 R114 to R118): the lanes that take part are read before any is written, and no
other lane is read or written. -/

namespace Sys2Proof.Machine

/-- A v result in each lane that takes part, from the thread, the mask of those lanes, and the lane. -/
def crossOp (i : Instr) (s : State) (g : Guard) (d : VReg) (f : Thread → Mask → Nat → Word) : Out :=
  issue i s fun s t w e _ =>
    let m := active w e g
    .next (s.retire t (w.setWords ((lanesOf m).map fun l => (vix d.toNat l, f w m l))) e)

/-- The lane takes part. -/
def takesPart (m : Mask) (j : Nat) : Bool := decide (j < 128) && m.getLsbD j

/-- VSHFL (06 R115). -/
def execVshfl (g : Guard) (d a : VReg) (lane : VSrc) (fb : VMovSrc) (s : State) : Out :=
  crossOp (.vshfl g d a lane fb) s g d fun w m l =>
    let j := (lane.value w l).toNat
    if takesPart m j then w.vreg a.toNat j else fb.value w l

/-- VBCAST (06 R115). -/
def execVbcast (g : Guard) (d a : VReg) (lane : SSrc) (s : State) : Out :=
  crossOp (.vbcast g d a lane) s g d fun w m _ =>
    let j := (lane.value w).toNat
    if takesPart m j then w.vreg a.toNat j else 0#32

/-- What a vote finds (06 R116). -/
def voteHolds (v : Vote) (w : Thread) (m : Mask) : Bool :=
  match v with
  | .all p => m &&& ~~~w.preg p.toNat == 0#128
  | .any p => m &&& w.preg p.toNat != 0#128
  | .uni r => match lanesOf m with
    | [] => true
    | l :: ls => ls.all fun k => w.vreg r.toNat k == w.vreg r.toNat l

/-- VVOTE (06 R116). -/
def execVvote (g : Guard) (d : PReg) (v : Vote) (s : State) : Out :=
  issue (.vvote g d v) s fun s t w e _ =>
    let m := active w e g
    .next (s.retire t (w.setPred d.toNat m (if voteHolds v w m then m else 0#128)) e)

/-- VBALLOT (06 R116): both registers are written whatever lanes take part. -/
def execVballot (g : Guard) (d : SReg) (a : PReg) (s : State) : Out :=
  issue (.vballot g d a) s fun s t w e _ =>
    let x := active w e g &&& w.preg a.toNat
    .next (s.retire t ((w.setS d.toNat (x.extractLsb' 0 64)).setS (d.toNat + 1) (x.extractLsb' 64 64)) e)

/-! ## Scans and reductions (06 R117) -/

/-- The identity of an operation and a type (06 Table 6.9). -/
def redIdentity (op : RedOp) (ty : RedTy) : Nat :=
  match op, ty with
  | .add, _ => 0
  | .min, .i32 => 0x7FFFFFFF
  | .min, .u32 => 0xFFFFFFFF
  | .min, .f32 => 0x7F800000
  | .max, .i32 => 0x80000000
  | .max, .u32 => 0
  | .max, .f32 => 0xFF800000
  | .and, _ => 0xFFFFFFFF
  | .or, _ => 0
  | .xor, _ => 0

/-- Two integer values combined. -/
def redInt (op : RedOp) (ty : RedTy) (a b : Word) : Word :=
  let le := if ty = .u32 then decide (a.toNat ≤ b.toNat) else decide (a.toInt ≤ b.toInt)
  match op with
  | .add => a + b
  | .min => if le then a else b
  | .max => if le then b else a
  | .and => a &&& b
  | .or => a ||| b
  | .xor => a ^^^ b

/-- The least or greatest FP32 member that is no NaN; the quiet NaN of the lowest lane when every member is one. -/
def redMinMax (max : Bool) (l : List Nat) : FRes :=
  let vs := l.map fp32.decode
  let fl := if vs.any (·.signals) then flNv else flNone
  match l.filter fun x => !(fp32.decode x).isNan, l with
  | a :: r, _ => (r.foldl (fun x y => (fminmax max x y).1) a, fl)
  | [], a :: _ => ((fp32.deliver .rne 0 (fp32.decode a)).1, fl)
  | [], [] => (redIdentity (if max then .max else .min) .f32, fl)

/-- The combination of a list of values in ascending LANEID. -/
def reduce (op : RedOp) (ty : RedTy) (l : List Word) : Word × Fl :=
  match ty with
  | .f32 =>
    let ns := l.map (·.toNat)
    let x := match op with
      | .add => oiFinish (ns.map fp32.decode) 63
      | .min => redMinMax false ns
      | .max => redMinMax true ns
      | .and | .or | .xor => (0, flNone)
    (BitVec.ofNat 32 x.1, x.2)
  | .i32 | .u32 => (l.foldl (redInt op ty) (BitVec.ofNat 32 (redIdentity op ty)), flNone)

/-- VSCAN: with EXCL, the combination of the lower lanes only. -/
def execVscan (op : RedOp) (ty : RedTy) (excl : Bool) (g : Guard) (d a : VReg) (s : State) : Out :=
  issue (.vscan op ty excl g d a) s fun s t w e _ =>
    let ls := lanesOf (active w e g)
    let rs := ls.map fun l =>
      (l, reduce op ty ((ls.filter fun k => if excl then decide (k < l) else decide (k ≤ l)).map fun k => w.vreg a.toNat k))
    .next (s.retireFl t (w.setWords (rs.map fun x => (vix d.toNat x.1, x.2.1))) e
      (rs.foldl (fun f x => f ||| x.2.2) flNone))

/-- VREDUCE: a v destination in every lane that takes part; an s destination takes the identity when none does, and the manual
does not say what its high half holds: zero (log 88). -/
def execVreduce (op : RedOp) (ty : RedTy) (g : Guard) (d : SVDst) (a : VReg) (s : State) : Out :=
  issue (.vreduce op ty g d a) s fun s t w e _ =>
    let ls := lanesOf (active w e g)
    let r := reduce op ty (ls.map fun l => w.vreg a.toNat l)
    match d with
    | .s n =>
      let x := if ls = [] then BitVec.ofNat 32 (redIdentity op ty) else r.1
      .next (s.retireFl t (w.setS n.toNat (x.setWidth 64)) e r.2)
    | .v n => .next (s.retireFl t (w.setWords (ls.map fun l => (vix n.toNat l, r.1))) e r.2)

/-- VCOMPACT (06 R118). -/
def execVcompact (g : Guard) (d a : VReg) (p : PReg) (s : State) : Out :=
  issue (.vcompact g d a p) s fun s t w e _ =>
    let ls := lanesOf (active w e g)
    let vs := (ls.filter fun l => (w.preg p.toNat).getLsbD l).map fun l => w.vreg a.toNat l
    .next (s.retire t (w.setWords ((ls.zip vs).map fun x => (vix d.toNat x.1, x.2))) e)

end Sys2Proof.Machine
end

