-- ==== Sys2Proof/Machine/Preempt.lean ====
section
/-! DEFINITION. Pre-emption, save and restore (19 R310 to R314), and the resets of dies and of the module (22 R334, 25 R361
to R367). -/

namespace Sys2Proof.Machine

/-! ## What a save covers (19 R311, Table 19.2) -/

/-- Dies that hold groups of the grids. -/
def State.diesHeld (s : State) (gs : List Nat) : List Nat :=
  nub ((s.groups.filter fun p => gs.contains p.2.grid).map (·.2.die))

def maskOfDies (l : List Nat) : BitVec 16 := l.foldl (fun m d => m ||| BitVec.ofNat 16 (2 ^ d)) 0#16

/-- The largest image that grids could need. -/
def State.saveBound (s : State) (gs : List Nat) : Nat :=
  let desc := fun (g : Nat) => (s.grid? g).map (·.desc)
  let ps := s.groups.filter fun p => gs.contains p.2.grid
  let ws := s.threads.filter fun x => gs.contains x.2.grid && x.2.ember.isNone
  let homes := nub (ps.map fun p => p.2.die * 128 + p.2.hearth)
  let vregsOn := fun k => (ps.filter fun p => (p.2.die * 128 + p.2.hearth) / 8 == k).foldl
    (fun m p => max m ((desc p.2.grid).elim 0 fun d => d.vregs * 8)) 0
  ws.foldl (fun a x => a + (desc x.2.grid).elim 0 fun d => d.regBytes + 2048 + d.accs * 16384) 0
    + ps.foldl (fun a p => a + (desc p.2.grid).elim 0 fun d => d.stash * 128 + d.tiles * 32) 0
    + 18432 * homes.length
    + (nub (homes.map (· / 8))).foldl (fun a k => a + 128 * (1024 + 4 * vregsOn k)) 0

/-- Registers that a thread's save covers. -/
def Thread.savedRegs (w : Thread) (n : Nat) : List Nat :=
  (List.range n).filter fun r => w.whole || LiveSet.has w.live r

/-- Offsets of the stash that the save of a group covers: all of it where a wave has executed no LIVE, or a wave or ember lane
was cut short. -/
def State.savedStash (s : State) (p n : Nat) : List (Nat × Nat) :=
  let all := (s.threads.filter fun x => x.2.group == p && !x.2.ended).map (·.2)
  let ws := all.filter (·.ember.isNone)
  if all.any (·.whole) || ws.any (·.live.isNone) then [(0, n)]
  else ws.flatMap fun w => match w.live with
    | some l => l.ranges
    | none => []

def inRanges (l : List (Nat × Nat)) (o : Nat) : Bool := l.any fun r => decide (r.1 ≤ o ∧ o < r.1 + r.2)

/-- Bytes that ranges cover together. -/
def coveredBytes (l : List (Nat × Nat)) : Nat :=
  (sortBy (fun (a b : Nat × Nat) => decide (a.1 ≤ b.1)) l).foldl (fun (a : Nat × Nat) r =>
    (a.1 + ((r.1 + r.2) - max r.1 a.2), max a.2 (r.1 + r.2))) (0, 0) |>.1

/-- A hearth that holds groups of the grids holds VQ2 tables that a wave of their context has loaded (09 R221). -/
def State.tablesHeld (s : State) (gs : List Nat) (home : Nat) (h : Hearth) : Bool :=
  s.groups.any fun p => gs.contains p.2.grid && p.2.die * 128 + p.2.hearth == home
    && (s.grid? p.2.grid).any fun g => h.vqUsers.contains g.ctx

/-- Bytes of the image of grids. -/
def State.imageBytes (s : State) (gs : List Nat) : Nat :=
  let ts := s.threads.filter fun x => gs.contains x.2.grid && !x.2.ended
  let waves := ts.foldl (fun a x =>
    match s.grid? x.2.grid with
    | none => a
    | some g =>
      let n := (x.2.savedRegs (8 * g.desc.vregs)).length
      if x.2.ember.isSome then a + 1024 + n * 4 else a + n * g.width * 4 + 2048 + g.desc.accs * 16384) 0
  let groups := (s.groups.filter fun p => gs.contains p.2.grid).foldl (fun a p =>
    match s.grid? p.2.grid with
    | none => a
    | some g => a + g.desc.tiles * 32 + coveredBytes (s.savedStash p.1 g.stashBytes)) 0
  let mine := fun (t : Nat) => ts.any fun x => x.1 == t
  let hs := s.hearths.filter fun h => (h.2.resB.any fun b => mine b.t) || s.tablesHeld gs h.1 h.2
  waves + groups + 18432 * hs.length

/-! ## PREEMPT (19 R310) -/

/-- Return the taken packet of a context, which names a die of the mask, to the head of its queue. -/
def State.returnTaken (s : State) (c : Nat) (m : BitVec 16) : State :=
  match s.taken with
  | none => s
  | some x =>
    match s.grid? x.grid, s.context? c with
    | some g, some k =>
      if x.ctx != c || g.pkt.diemask &&& m == 0#16 then s
      else
        let s := { s with taken := none, grids := adel s.grids x.grid }
        match aget? k.queues x.queue with
        | some q =>
          let q := { q with enq := ⟨q.ridx, x.bytes, x.addr⟩ :: q.enq }
          s.setContext c { k with queues := aset k.queues x.queue q }
        | none => s
    | _, _ => s

/-- Stop a grid: a stepping grid at the lowest grid step at which no lane has arrived, another at its waves' next LIVE. -/
def Grid.stop (g : Grid) : Grid := if g.desc.stepping then { g with stopAt := some g.reached } else { g with stopLive := true }

/-- A save or restore of the context is under way or queued. -/
def State.saveBusy (s : State) (k : Nat) (x : Context) : Bool :=
  x.saving.isSome || x.restoring || s.saves.any fun i => i.2.ctx == k && (i.2.queued || i.2.started)

def execPreempt (die : Nat) (c : Cmd) (s : State) : Out :=
  command die c (cmdCode c == 0x04) false s fun s =>
    if cmdReserved c true 0xFFFF#64 wholeWord wholeWord || decide (c.w2.toNat % 4096 ≠ 0) then ends s 0x0041
    else withCtx s die c fun k x =>
      let m : BitVec 16 := c.w1.extractLsb' 0 16
      if s.saveBusy k x then ends s 0x0046
      else if !s.allLive m || m &&& ~~~x.dieset != 0#16 then ends s 0x0047
      else
        let gs := (s.grids.filter fun g => g.2.ctx == k && g.2.started
          && s.groups.any fun p => p.2.grid == g.1 && m.getLsbD p.2.die).map (·.1)
        if c.w3.toNat < s.saveBound gs then (s, .done 0x0041 [BitVec.ofNat 64 (s.saveBound gs)])
        else
          let s := s.returnTaken k m
          let s := gs.foldl (fun s g => s.modGrid g Grid.stop) s
          let v : Saving := { area := c.w2, bytes := c.w3.toNat, dies := m, grids := gs, begun := false, since := s.time }
          ends (s.modContext k fun x => { x with saving := some v }) 0

/-! ## The save (19 R311, R312, R314) -/

/-- A thread of a grid that is being pre-empted has stopped. -/
def State.hasStopped (s : State) (g : Grid) (t : Nat) (w : Thread) : Bool :=
  if g.desc.stepping then w.clause.isNone && !w.handler
  else w.stopped || w.ended || (w.ember.isNone && !w.handler && s.holdsNone w
    && s.threads.all fun x => !x.2.isChild t || x.2.stopped)

/-- A grid of a save has stopped: a stepping grid once its step b has closed. In a faulted context every thread has stopped
once it stands at a clause boundary (19 R307), or inside a clause where it never goes on: halted on PAGE, or held by its wave's
handler. -/
def State.gridStopped (s : State) (k : Nat) : Bool :=
  match s.grid? k with
  | none => true
  | some g =>
    if ((s.context? g.ctx).any fun x => x.status == .faulted) = true then
      s.threads.all fun x => x.2.grid != k || x.2.stopped || x.2.clause.isNone || x.2.halted || s.emberHeld x.2
    else
      (match g.stopAt with
        | some b => passed b g.closed
        | none => true)
      && s.threads.all fun x => x.2.grid != k || s.hasStopped g x.1 x.2

/-- A save of another context is under way on a die of the grids (19 R314). -/
def State.saveElsewhere (s : State) (c : Nat) (gs : List Nat) : Bool :=
  s.contexts.any fun x => x.1 != c && x.2.saving.any fun v => v.begun
    && (s.diesHeld v.grids).any fun d => (s.diesHeld gs).contains d

/-- SAVE_BEGIN. -/
def execSaveBegin (c : Nat) (s : State) : Out :=
  match (s.context? c).bind (·.saving) with
  | none => .next s
  | some v =>
    let gs := v.grids.filter fun g => (s.grid? g).isSome
    if v.begun || !gs.all s.gridStopped || s.saveElsewhere c gs then .next s
    else
      let v := { v with grids := gs, begun := true, since := s.time }
      .next (s.modContext c fun x => { x with saving := some v })

/-- A copy of the grids is in flight. -/
def State.copiesOf (s : State) (gs : List Nat) : Bool :=
  s.hearths.any fun h => h.2.copies.any fun c => match s.thread? c.t with
    | some w => gs.contains w.grid
    | none => false

/-- Engines still work for threads of the grids: copies, grate instructions, loads whose data has not arrived. -/
def State.enginesBusy (s : State) (gs : List Nat) : Bool :=
  let mine := fun (t : Nat) => match s.thread? t with
    | some w => gs.contains w.grid
    | none => false
  s.copiesOf gs || s.hearths.any (fun h => h.2.grate.any fun o => mine o.t)
    || s.threads.any fun x => gs.contains x.2.grid && x.2.ops.any fun o => match o.kind with
      | .stf _ _ _ _ _ => false
      | .load _ => true
      | .loadS _ _ => true

/-- What a hearth holds of a context's threads: its resident B, and the tables where they are held for it. -/
def Hearth.part (h : Hearth) (c : Nat) (mine : Nat → Bool) (tables : Bool) : Hearth :=
  { Hearth.idle with
    resB := h.resB.filter fun b => mine b.t
    vq := if tables then h.vq else []
    vqUsers := if tables then [c] else [] }

/-- The save image of grids. -/
def State.imageOf (s : State) (c : Nat) (v : Saving) : SaveImage :=
  let mine := fun (t : Nat) => match s.thread? t with
    | some w => v.grids.contains w.grid
    | none => false
  { ctx := c, dies := maskOfDies (s.diesHeld v.grids), bytes := s.imageBytes v.grids
    grids := s.grids.filter fun g => v.grids.contains g.1
    groups := s.groups.filter fun p => v.grids.contains p.2.grid
    threads := s.threads.filter fun x => v.grids.contains x.2.grid
    hearths := (s.hearths.map fun h => (h.1, h.2.part c mine (s.tablesHeld v.grids h.1 h.2))).filter fun h => h.2.resB.isSome || !h.2.vqUsers.isEmpty
    queued := false, started := false }

/-- A context's groups, but for those of the grids, hold a place on a hearth. -/
def State.staysOn (s : State) (c : Nat) (gs : List Nat) (home : Nat) : Bool :=
  s.groups.any fun p => !gs.contains p.2.grid && p.2.die * 128 + p.2.hearth == home
    && (s.grid? p.2.grid).any fun g => g.ctx == c

/-- Take the threads, groups and grids of a context's save out of the machine; the hearths' tables no longer count as loaded by the
context where it has left. -/
def State.removeSaved (s : State) (c : Nat) (gs : List Nat) : State :=
  let mine := fun (t : Nat) => match s.thread? t with
    | some w => gs.contains w.grid
    | none => false
  let s' := s.writeBacks fun _ d => gs.contains d.grid
  { s' with
    hearths := s.hearths.map fun h => (h.1, { h.2 with
      resB := h.2.resB.filter fun b => !mine b.t
      vqUsers := if s.tablesHeld gs h.1 h.2 && !s.staysOn c gs h.1 then h.2.vqUsers.filter (· != c) else h.2.vqUsers })
    threads := s.threads.filter fun x => !gs.contains x.2.grid
    groups := s.groups.filter fun p => !gs.contains p.2.grid
    grids := s.grids.filter fun g => !gs.contains g.1
    cur := s.cur.filter fun t => !mine t }

/-- The memory of a save area is reached (22 R337). -/
def State.areaReached (s : State) (dies : BitVec 16) (area : DWord) (n : Nat) : Bool :=
  (List.range ((n + 4095) / 4096)).all fun i => s.opReached ((s.lowestLiveIn dies).getD 0) (area + BitVec.ofNat 64 (4096 * i))

/-- SAVE_DONE: the copies have drained and the image is written. Its bytes in memory are free values, since the manual
gives no layout inside its records (log 28). -/
def execSaveDone (c : Nat) (s : State) : Out :=
  match (s.context? c).bind (·.saving) with
  | none => .next s
  | some v =>
    if !v.begun || s.enginesBusy v.grids || !s.areaReached v.dies v.area (s.imageBytes v.grids) then .next s
    else
      let im := s.imageOf c v
      let s := s.writeAt v.area ((List.range im.bytes).map fun i => Config.freeByte s.tick i)
      let s := s.removeSaved c v.grids
      let s := { s with saves := aset s.saves v.area.toNat im }
      let s := s.modContext c fun x => { x with saving := none, lastRetire := s.time }
      .next (s.notifyCtx c 0x04 0 v.area (BitVec.ofNat 64 im.bytes))

/-- The lowest timeout, in microseconds, that a function gives over the dies of a mask that give one. -/
def State.lowestOf (s : State) (m : BitVec 16) (f : Die → Nat) : Nat :=
  (((List.range 16).filter fun d => m.getLsbD d).map fun d => f (s.die d)).foldl
    (fun a x => if x = 0 then a else if a = 0 then x else min a x) 0

/-- A timeout of a save has expired; 0 is none. -/
def State.expired (s : State) (v : Saving) (us : Nat) : Bool :=
  us != 0 && decide (us * 1000 ≤ s.time.toNat - v.since.toNat)

/-- PRETMO_EXPIRY: threads of non-stepping grids that have not stopped stop at their next clause boundary. -/
def execPretmoExpiry (c : Nat) (s : State) : Out :=
  match (s.context? c).bind (·.saving) with
  | none => .next s
  | some v =>
    if v.begun || !s.expired v (s.lowestOf v.dies (·.pretmo)) then .next s
    else .next (v.grids.foldl (fun s g => s.modGrid g fun x =>
      if x.desc.stepping then x else { x with stopNow := true }) s)

/-- CPYTMO_EXPIRY (19 R314). -/
def execCpytmoExpiry (c : Nat) (s : State) : Out :=
  match (s.context? c).bind (·.saving) with
  | none => .next s
  | some v =>
    if !v.begun || !s.copiesOf v.grids || !s.expired v (s.lowestOf v.dies (·.cpytmo)) then .next s
    else .next (s.loseContext c 1 ((s.lowestLiveIn v.dies).getD 0))

/-- SAVETMO_EXPIRY (19 R314). -/
def execSavetmoExpiry (c : Nat) (s : State) : Out :=
  match (s.context? c).bind (·.saving) with
  | none => .next s
  | some v =>
    if !v.begun || !s.expired v (s.lowestOf v.dies (·.savetmo)) then .next s
    else .next (s.loseContext c 0 ((s.lowestLiveIn v.dies).getD 0))

/-! ## The restore (19 R312, R313) -/

/-- RESTORE queues the restore of an image of the context. -/
def execRestore (die : Nat) (c : Cmd) (s : State) : Out :=
  command die c (cmdCode c == 0x05) false s fun s =>
    if cmdReserved c true wholeWord 0#64 0#64 then ends s 0x0041
    else withCtx s die c fun k x =>
      if s.saveBusy k x then ends s 0x0046
      else match aget? s.saves c.w1.toNat with
        | some i =>
          if i.ctx != k then ends s 0x0041
          else
            let i := { i with queued := true }
            ends ({ s with saves := aset s.saves c.w1.toNat i }.modContext k fun x => { x with restoring := true }) 0
        | none => ends s 0x0041

/-- A grid of an image. -/
def SaveImage.desc (i : SaveImage) (g : Nat) : Option Grid := aget? i.grids g

/-- The place of a saved thread is free: its slot, or its ember context and no reserve that would need it. -/
def State.placeFree (s : State) (w : Thread) : Bool :=
  match w.ember with
  | some e => !s.threads.any fun x => match x.2.ember with
    | some o => o.cluster == e.cluster && o.ctxno == e.ctxno
    | none => false
  | none => !(s.slotsOn w.home).contains (w.pipe * 16 + w.slot)

/-- The room of a hearth for what an image brings: registers, accumulator slots, stash bytes and tiles. -/
def State.homeFree (s : State) (i : SaveImage) (home : Nat) : Bool :=
  let ws := i.threads.filter fun x => x.2.ember.isNone && x.2.home == home
  let ps := i.groups.filter fun p => p.2.die * 128 + p.2.hearth == home
  let need := fun (f : KDesc → Nat) (g : Nat) => (i.desc g).elim 0 fun x => f x.desc
  decide (s.waveSum home KDesc.accs + ws.foldl (fun a x => a + need KDesc.accs x.2.grid) 0 ≤ 8)
    && decide (s.groupSum home KDesc.stash + ps.foldl (fun a p => a + need KDesc.stash p.2.grid) 0 ≤ 4096)
    && decide (s.groupSum home KDesc.tiles + ps.foldl (fun a p => a + need KDesc.tiles p.2.grid) 0 ≤ 128)
    && [0, 1, 2, 3].all fun p => decide (s.regsOn home p
        + (ws.filter fun x => x.2.pipe == p).foldl (fun a x => a + need KDesc.regBytes x.2.grid) 0 ≤ 65536)

/-- Ember contexts of the cluster suffice for the image's reserves and its lanes of normal mode. -/
def State.clusterFree (s : State) (i : SaveImage) (k : Nat) : Bool :=
  let want := i.threads.foldl (fun a x =>
    match i.desc x.2.grid with
    | none => a
    | some g =>
      if x.2.ember.isNone && !x.2.ended && x.2.clusterOf == k && g.pkt.det then a + g.e
      else if x.2.onCluster k && !g.pkt.det then a + 1 else a) 0
  decide (want ≤ s.unreserved k)

/-- Every place of an image is free. -/
def State.imageFits (s : State) (i : SaveImage) : Bool :=
  let homes := nub (i.groups.map fun p => p.2.die * 128 + p.2.hearth)
  i.threads.all (fun x => s.placeFree x.2) && homes.all (fun h => s.homeFree i h)
    && (nub (homes.map (· / 8))).all fun k => s.clusterFree i k

/-- A hearth takes the resident B and the tables of an image. -/
def Hearth.bring (h o : Hearth) : Hearth :=
  { h with
    resB := o.resB <|> h.resB
    vq := if o.vqUsers.isEmpty then h.vq else o.vq
    vqUsers := nub (h.vqUsers ++ o.vqUsers) }

/-- RESTORE_START: the image's places are held from now on; its threads stay stopped. No L1 keeps a global line that is older than one
that its lanes may have read before the save (11 R263, log 99). -/
def execRestoreStart (base : Nat) (s : State) : Out :=
  match aget? s.saves base with
  | none => .next s
  | some i =>
    if !i.queued || i.started || !s.imageFits i || !s.areaReached i.dies (BitVec.ofNat 64 base) i.bytes then .next s
    else
      let j := { i with queued := false, started := true }
      let s' : State := { s with
      saves := aset s.saves base j
      grids := i.grids.foldl (fun l g => aset l g.1 g.2) s.grids
      groups := i.groups.foldl (fun l p => aset l p.1 p.2) s.groups
      threads := i.threads.foldl (fun l x => aset l x.1 { x.2 with stopped := true }) s.threads
      hearths := i.hearths.foldl (fun l h =>
        aset l h.1 ((s.hearth h.1).bring h.2)) s.hearths }
      .next (s'.freshen fun _ => true)

/-- A thread as it resumes: registers outside what was saved hold undefined values (08 R190). In a faulted context it stays
stopped (19 R307). -/
def Thread.restored (w : Thread) (tick n : Nat) (faulted : Bool) : Thread :=
  let keep := w.savedRegs n
  let lanes := lanesOf w.launched
  { w with
    stopped := faulted
    whole := false
    ready := none
    v := ((List.range n).filter fun r => !keep.contains r).foldl (fun v r => lanes.foldl (fun v l =>
      tset 0#32 v (vix r l) (Config.freeWord tick (vix r l))) v) w.v }

/-- RESTORE_DONE. -/
def execRestoreDone (base : Nat) (s : State) : Out :=
  match aget? s.saves base with
  | none => .next s
  | some i =>
    if !i.started then .next s
    else
      let gs := i.grids.map (·.1)
      let vregs := fun (g : Nat) => match s.grid? g with
        | some x => 8 * x.desc.vregs
        | none => 0
      let faulted := (s.context? i.ctx).any fun x => x.status == .faulted
      let lost := fun (p : Nat) (n : Nat) =>
        let l := s.savedStash p n
        (List.range n).filter fun o => !inRanges l o
      let groups := s.groups.map fun (p : Nat × Group) =>
        if gs.contains p.2.grid then
          let n := match s.grid? p.2.grid with
            | some x => x.stashBytes
            | none => 0
          let st := tsets 0#8 p.2.stash ((lost p.1 n).map fun o => (o, Config.freeByte s.tick o))
          (p.1, { p.2 with stash := st })
        else p
      let s := { s with
        groups := groups
        threads := s.threads.map fun (x : Nat × Thread) =>
          if gs.contains x.2.grid then (x.1, x.2.restored s.tick (vregs x.2.grid) faulted) else x
        grids := s.grids.map fun (g : Nat × Grid) =>
          if gs.contains g.1 then (g.1, { g.2 with stopAt := none, stopLive := false, stopNow := false }) else g
        saves := adel s.saves base }
      let s := s.modContext i.ctx fun x => { x with restoring := false, lastRetire := s.time }
      .next (s.notifyCtx i.ctx 0x06 0 (BitVec.ofNat 64 base) 0#64)

/-! ## Resets and trips of a die (22 R334, 25 R366, R367) -/

/-- Contexts with a wave, an ember lane or a save image on the die, each with the reason it is lost for. -/
def State.lostOn (s : State) (die reason : Nat) : List (Nat × Nat) :=
  s.contexts.filterMap fun c =>
    if c.2.status == .lost then none
    else if s.threads.any fun x => x.2.ctx == c.1 && x.2.die == die then some (c.1, reason)
    else if s.groups.any fun p => p.2.die == die && (match s.grid? p.2.grid with
      | some g => g.ctx == c.1
      | none => false) then some (c.1, reason)
    else if s.holdsWork die (· == c.1) then some (c.1, 4) else none

/-- What the reset of a die clears (25 Table 25.4): its hearths and their L1s, its L2, tables, TLB, keys; CLOCK to 0. -/
def State.clearDie (s : State) (die : Nat) : State :=
  let s := s.clearCaches die
  { s with
    hearths := s.hearths.filter fun h => h.1 / 128 != die
    pipes := s.pipes.filter fun p => p.1 / 512 != die
    cores := s.cores.filter fun p => p.1 / 256 != die
    tlbs := s.tlbs.filter fun p => p.1 % 16 != die }.modDie die fun d =>
      { d with tlb := [], keyed := false, clock := 0#64 }

/-- The reset of one die: counts run from it (22 R350). -/
def State.resetDie (s : State) (die : Nat) : State :=
  let s := (s.lostOn die 2).foldl (fun s x => s.loseContext x.1 x.2 die) (s.clearCaches die)
  (s.clearDie die).modDie die fun d => { d with
    tdisp := .error
    corrected := []
    uncorrected := []
    refused := 0
    dropped := 0
    sumDropped := 0
    mode := if d.mode == .tripped && (s.flue (die / 4)).mode == .run then .run else d.mode }

/-- DIE_RESET (22 R334). -/
def execDieReset (die : Nat) (c : Cmd) (s : State) : Out :=
  command die c (cmdCode c == 0x0C) false s fun s =>
    if cmdReserved c false 0#64 0#64 0#64 then ends s 0x0041 else ends (s.resetDie die) 0

/-- FUNCTION_LEVEL_RESET (22 R334). A command that was running goes on: the reset clears nothing but the die's part of Table
25.4 (25 R367). -/
def execFunctionLevelReset (die : Nat) (s : State) : Out :=
  if !s.answers die then .next s else .next (s.resetDie die)

/-- A compute die stops at a trip: its contexts are lost, and it is cleared. `current` says that its current, not its
temperature, tripped it. DESIGN CHOICE: a P-state change under way goes on (log 86). -/
def State.tripDie (s : State) (die : Nat) (current : Bool) : State :=
  let s := (s.lostOn die 3).foldl (fun s x => s.loseContext x.1 3 die) (s.clearCaches die)
  (s.clearDie die).modDie die fun d => { d with mode := .tripped, tripOver := current }

/-- DIE_TRIP (25 R366): a die that is clocked. -/
def execDieTrip (die : Nat) (overTemp : Bool) (s : State) : Out :=
  match (s.die die).mode with
  | .run | .gated => .next ((s.tripDie die !overTemp).notify die 0x08 0 (!overTemp).toNat (BitVec.ofNat 64 die) 0#64)
  | .off | .tripped | .inReset => .next s

/-! ## Start (25 R361 to R364) -/

/-- BOOTCAUSE (25 Table 25.2). -/
def bootWord (minimal : Bool) (attempts code : Nat) : Word :=
  BitVec.ofNat 32 (minimal.toNat * 2 ^ 11 + min attempts 3 * 2 ^ 9 + code)

/-- The module as a reset leaves it, at stage 1 of an attempt: everything is cleared but flash, the attempt count and
BOOTCAUSE; what is no part of the module (host memory, the expanders' capacity) is as it was. -/
def State.moduleReset (s : State) (minimal : Bool) : State :=
  { State.reset with
    agenda := s.agenda
    tick := s.tick
    turn := s.turn
    uid := s.uid
    hostMem := s.hostMem
    flash := s.flash
    bootAttempts := s.bootAttempts
    bootcause := s.bootcause
    minimal := minimal
    ports := s.ports.map fun p => { p with up := false } }

/-- A stage fails: the attempt ends, and the module is reset again, in minimal mode where the count stood at 2 or more;
after a failure in minimal mode it stays stopped (25 R361, R362). -/
def State.failStage (s : State) (code : Nat) : State :=
  let s' := { s with bootcause := bootWord s.minimal s.bootAttempts code, bootAttempts := s.bootAttempts + 1 }
  if s.minimal then { s' with bootStopped := true } else s'.moduleReset (decide (2 ≤ s.bootAttempts))

def Die.start (d : Die) : Die := { d with mode := .run, pstate := 3#2 }
def Die.opened (d : Die) : Die := { d with tdisp := .configUnlocked }

/-- What a stage does as it passes (25 Table 25.1): stage 4 brings the circuits UP, stage 5 starts the compute dies at 1.1
GHz, stage 6 opens their functions, notes the start in BOOTCAUSE with the last failure's code, and clears the attempt count
(25 R363, Table 25.3). -/
def State.passStage (s : State) (n : Nat) : State :=
  let on := fun d => decide (d = 0) || !s.minimal
  match n with
  | 4 => { s with flues := s.flues.map fun f => { f with conn := f.conn.map fun e => (e.1, ⟨.up, 16⟩) } }
  | 5 => { s with dies := (List.range 16).map fun d => if on d then (s.die d).start else s.die d }
  | 6 => { s with
      dies := (List.range 16).map fun d => if on d then (s.die d).opened else s.die d
      bootcause := bootWord s.minimal s.bootAttempts (bits s.bootcause.toNat 0 8)
      bootAttempts := 0 }
  | _ => s

/-- Run stages from n on; whether each passes is a free value (log 2). -/
def State.runStages (s : State) (n : Nat) : Nat → State
  | 0 => s
  | k + 1 =>
    if Config.stagePasses s.tick n then ({ s.passStage n with bootStage := n + 1 }).runStages (n + 1) k
    else s.failStage n

/-- POWER_ON: the start begins (25 R361). -/
def execPowerOn (s : State) : Out := .next (s.moduleReset false)

/-- POWER_GOOD: stage 1 passes, and the others follow. -/
def execPowerGood (s : State) : Out :=
  if s.bootStage = 1 ∧ s.bootStopped = false then .next ({ s with bootStage := 2 }.runStages 2 5) else .next s

/-- POWER_GOOD_TIMEOUT: stage 1 fails. -/
def execPowerGoodTimeout (s : State) : Out :=
  if s.bootStage = 1 ∧ s.bootStopped = false then .next (s.failStage 1) else .next s

/-- MODULE_RESET: accepted on die 0 only. The attempt that it starts is a normal one. -/
def execModuleReset (die : Nat) (c : Cmd) (s : State) : Out :=
  if cmdCode c == 0x0D && !cmdReserved c false 0#64 0#64 0#64 && die == 0
    && (!s.answers 0 || (!(s.die 0).busy && (s.die 0).tdisp == .run)) then .next (s.moduleReset false)
  else command die c (cmdCode c == 0x0D) true s fun s => ends s 0x0041

end Sys2Proof.Machine
end

