-- ==== Sys2Proof/Machine/Scalar.lean ====
section
/-! DEFINITION. The scalar family (06 R93 to R100). -/

namespace Sys2Proof.Machine

/-- An instruction that writes an s register from a value of the thread and its path, and can raise no trap of its own. -/
def scalarOp (i : Instr) (s : State) (d : SReg) (f : Thread → DWord) : Out :=
  issue i s fun s t w e _ => .next (s.retire t (w.setS d.toNat (f w)) e)

def boolDWord (b : Bool) : DWord := if b then 1#64 else 0#64

/-! ## Moves (06 R93) -/

def execSmov (d : SReg) (a : SMovSrc) (s : State) : Out := scalarOp (.smov d a) s d fun w => a.value w
def execSmovi (d : SReg) (imm : Word) (s : State) : Out := scalarOp (.smovi d imm) s d fun _ => imm.signExtend 64
def execSmovhi (d : SReg) (imm : Word) (s : State) : Out :=
  scalarOp (.smovhi d imm) s d fun w => imm ++ (w.sreg d.toNat).extractLsb' 0 32

/-! ## Arithmetic, logic and compares (06 Table 6.2) -/

def smulHigh (a b : DWord) : DWord := BitVec.ofInt 64 (a.toInt * b.toInt / 2 ^ 64)
def smulHighU (a b : DWord) : DWord := BitVec.ofNat 64 (a.toNat * b.toNat / 2 ^ 64)
def shl64 (a b : DWord) : DWord := if 64 ≤ b.toNat then 0#64 else a <<< b.toNat
def shr64 (a b : DWord) : DWord := if 64 ≤ b.toNat then 0#64 else a >>> b.toNat
def sar64 (a b : DWord) : DWord := a.sshiftRight (min b.toNat 63)
/-- Leading zero bits of the low n bits of a number. -/
def leadingZeros : Nat → Nat → Nat
  | 0, _ => 0
  | n + 1, x => if x.testBit n then 0 else 1 + leadingZeros n x

def execSadd (d : SReg) (a b : SSrc) (s : State) : Out := scalarOp (.sadd d a b) s d fun w => a.value w + b.value w
def execSsub (d : SReg) (a b : SSrc) (s : State) : Out := scalarOp (.ssub d a b) s d fun w => a.value w - b.value w
def execSmul (d : SReg) (a b : SSrc) (s : State) : Out := scalarOp (.smul d a b) s d fun w => a.value w * b.value w
def execSmulh (d : SReg) (a b : SSrc) (s : State) : Out := scalarOp (.smulh d a b) s d fun w => smulHigh (a.value w) (b.value w)
def execSmulhu (d : SReg) (a b : SSrc) (s : State) : Out := scalarOp (.smulhu d a b) s d fun w => smulHighU (a.value w) (b.value w)
def execSand (d : SReg) (a b : SSrc) (s : State) : Out := scalarOp (.sand d a b) s d fun w => a.value w &&& b.value w
def execSor (d : SReg) (a b : SSrc) (s : State) : Out := scalarOp (.sor d a b) s d fun w => a.value w ||| b.value w
def execSxor (d : SReg) (a b : SSrc) (s : State) : Out := scalarOp (.sxor d a b) s d fun w => a.value w ^^^ b.value w
def execSaddi (d a : SReg) (imm : Word) (s : State) : Out :=
  scalarOp (.saddi d a imm) s d fun w => w.sreg a.toNat + imm.signExtend 64
def execSnot (d : SReg) (a : SSrc) (s : State) : Out := scalarOp (.snot d a) s d fun w => ~~~a.value w
def execSshl (d : SReg) (a b : SSrc) (s : State) : Out :=
  scalarOp (.sshl d a b) s d fun w => shl64 (a.value w) (b.value w)
def execSshr (d : SReg) (a b : SSrc) (s : State) : Out :=
  scalarOp (.sshr d a b) s d fun w => shr64 (a.value w) (b.value w)
def execSsar (d : SReg) (a b : SSrc) (s : State) : Out :=
  scalarOp (.ssar d a b) s d fun w => sar64 (a.value w) (b.value w)
def execSmin (d : SReg) (a b : SSrc) (s : State) : Out :=
  scalarOp (.smin d a b) s d fun w => if (a.value w).toInt ≤ (b.value w).toInt then a.value w else b.value w
def execSmax (d : SReg) (a b : SSrc) (s : State) : Out :=
  scalarOp (.smax d a b) s d fun w => if (a.value w).toInt ≤ (b.value w).toInt then b.value w else a.value w
def execSminu (d : SReg) (a b : SSrc) (s : State) : Out :=
  scalarOp (.sminu d a b) s d fun w => if (a.value w).toNat ≤ (b.value w).toNat then a.value w else b.value w
def execSmaxu (d : SReg) (a b : SSrc) (s : State) : Out :=
  scalarOp (.smaxu d a b) s d fun w => if (a.value w).toNat ≤ (b.value w).toNat then b.value w else a.value w
def execScmp (c : Cond) (d : SReg) (a b : SSrc) (s : State) : Out :=
  scalarOp (.scmp c d a b) s d fun w => boolDWord (c.holds (a.value w).toInt (b.value w).toInt)
def execScmpu (c : Cond) (d : SReg) (a b : SSrc) (s : State) : Out :=
  scalarOp (.scmpu c d a b) s d fun w => boolDWord (c.holds (a.value w).toNat (b.value w).toNat)
def execSsel (d : SReg) (a b c : SSrc) (s : State) : Out :=
  scalarOp (.ssel d a b c) s d fun w => if a.value w ≠ 0#64 then b.value w else c.value w
def execSpopc (d a : SReg) (s : State) : Out :=
  scalarOp (.spopc d a) s d fun w => BitVec.ofNat 64 (popcount 64 (w.sreg a.toNat).toNat)
def execSclz (d a : SReg) (s : State) : Out :=
  scalarOp (.sclz d a) s d fun w => BitVec.ofNat 64 (leadingZeros 64 (w.sreg a.toNat).toNat)

/-! ## Memory reads: SLD and SLDK (06 R95, R96) -/

/-- The lane whose private segment SLD reads: the lowest active one (06 R95). A trap path may have none, and the manual does not
say whose segment it is then: that of the lane that holds the trap frames (log 87). -/
def sldLane (w : Thread) (e : Entry) : Nat := if e.mask = 0#128 then w.frameLane else lowestLane e.mask

/-- SLD (06 R95): interlocked; a lost word is zero and logged, and in a STRICT context traps MEMERR here. -/
def execSld (priv wide : Bool) (d a : SReg) (b : SSrc) (s : State) : Out :=
  issue (.sld priv wide d a b) s fun s t w e c =>
    let sp := if priv then Space.priv else Space.global
    let sz := if wide then Size.b64 else Size.b32
    let va := w.sreg a.toNat + b.value w
    -- A private access is the lowest active lane's alone (R95, R122); log entry 31.
    let named := if priv then laneBit (sldLane w e) &&& e.mask else e.mask
    if s.readWaits w e sp || !s.xlatReached w sp (.s a) sz (sldLane w e) va then .next (s.stallHere t w)
    else match s.readLane w sp .normal none (.s a) sz (sldLane w e) va with
      | .error x => .next (s.trapAt t w c ⟨x.cause, x.addr, named⟩ [(sldLane w e, x.va)])
      | .ok r =>
        let far := s.farOf w [(sldLane w e, r)]
        if !s.farReached w.die far then .next (s.stallHere t w)
        else
        let r := s.answered r
        let s' := (s.noteReads w e [(sldLane w e, r)]).touched w (farSpans far)
        let s' := if r.lost = some 2 then s'.dropLate w (r.uses.map (·.pa)) else s'
        if r.lost.isSome && r.strict then .next (s.trapOver s' t w c ⟨.memerr, va, named⟩)
        else .next (s'.retire t (w.setS d.toNat (BitVec.ofNat 64 (leNat r.bytes))) e)

/-- Bytes of the argument block at an offset; bytes beyond ARGLEN read 0 (06 R96). -/
def Grid.argBytes (g : Grid) (off n : Nat) : List Byte := (List.range n).map fun i => g.args.getD (off + i) 0#8

/-- SLDK (06 R96): the argument block as committed when the grid was launched. -/
def execSldk (d : SReg) (mode : BitVec 2) (off : BitVec 12) (s : State) : Out :=
  issue (.sldk d mode off) s fun s t w e c =>
    match s.grid? w.grid with
    | none => .fault .noThread
    | some g =>
      let n := if mode = 2#2 then 8 else 4
      if off.toNat % n ≠ 0 then .next (s.trapHere t w c ⟨.align, g.pkt.karg + off.setWidth 64, e.mask⟩)
      else
        let x : Nat := leNat (g.argBytes off.toNat n)
        let v : DWord := if mode = 1#2 then (BitVec.ofNat 32 x).signExtend 64 else BitVec.ofNat 64 x
        .next (s.retire t (w.setS d.toNat v) e)

/-! ## Special registers (03 Table 3.3, 06 R97, R98) -/

/-- The value of a special register in a lane, EXEC and FAULTMASK in 128 bits. An ember is on no hearth, and the manual does not
say what HEARTHID reads there: the hearth of the lane's wave (log 79). -/
def State.sprValue (s : State) (w : Thread) (e : Entry) (lane : Nat) (r : Spr) : Mask :=
  match s.grid? w.grid, s.group? w.group with
  | some g, some p =>
    match r with
    | .exec => e.mask
    | .faultmask => w.faultmask
    | .fmt => e.fmt.setWidth 128
    | .laneid => BitVec.ofNat 128 lane
    | .waveix => BitVec.ofNat 128 w.wix
    | .groupix => BitVec.ofNat 128 p.gix
    | .gkey => BitVec.ofNat 128 (waveKey g p.gix w.wix + lane)
    | .stepno => (e.wstep ++ e.gstep).setWidth 128
    | .icount => e.icnt.setWidth 128
    | .clock => if g.pkt.det then e.icnt.setWidth 128 else (s.die w.die).clock.setWidth 128
    | .time => s.time.setWidth 128
    | .dieid => BitVec.ofNat 128 w.die
    | .hearthid => BitVec.ofNat 128 w.hearth
    | .width => BitVec.ofNat 128 g.width
    | .ember => match w.ember with
      | none => 0#128
      | some m => BitVec.ofNat 128 (2 ^ 63 + m.ctxno)
    | .trapcause => w.trapcause.setWidth 128
    | .trappc => w.trappc.setWidth 128
    | .trapaddr => w.trapaddr.setWidth 128
    | .karg => g.pkt.karg.setWidth 128
    | .seed => g.pkt.seed.setWidth 128
    | .fpflags => (flWord e.flg).setWidth 128
    | .eject => w.eject.setWidth 128
  | _, _ => 0#128

/-- The lane whose value an s destination takes: the lowest active lane, or lane 0 when no lane is active (06 R97). -/
def sgetLane (e : Entry) : Nat := if e.mask = 0#128 then 0 else lowestLane e.mask

/-- SGET (06 R97). -/
def execSget (g : Guard) (d : SVDst) (r : Spr) (s : State) : Out :=
  issue (.sget g d r) s fun s t w e _ =>
    match d with
    | .s n =>
      let x := s.sprValue w e (sgetLane e) r
      let w := w.setS n.toNat (x.extractLsb' 0 64)
      .next (s.retire t (if r.mask then w.setS (n.toNat + 1) (x.extractLsb' 64 64) else w) e)
    | .v n =>
      let f := fun l => s.sprValue w e l r
      .next (s.retire t (w.setWords ((lanesOf (active w e g)).flatMap fun l =>
        (vix n.toNat l, (f l).extractLsb' 0 32) ::
          if r.wide then [(vix (n.toNat + 1) l, (f l).extractLsb' 32 32)] else [])) e)

/-- EJECT takes E of 0 to 8, in deterministic mode at most the launch's (03 R39). -/
def ejectOk (g : Grid) (x : DWord) : Bool := decide (x.toNat ≤ 8) && (!g.pkt.det || decide (x.toNat ≤ g.e))

/-- SSET (06 R98). PRIV of TRAPPC and FAULTMASK outside the handler is checked at issue. -/
def execSset (r : Spr) (a : SSrc) (s : State) : Out :=
  issue (.sset r a) s fun s t w e c =>
    let x := a.value w
    let bad := State.trapHere s t w c ⟨.reservedEnc, 0#64, e.mask⟩
    match r with
    | .fmt =>
      let f := x.extractLsb' 0 32
      if f.extractLsb' 13 19 = 0#19 ∧ fmtOk (f.extractLsb' 0 13) then .next (s.retirePath t w e fun e => { e with fmt := f })
      else .next bad
    | .fpflags => .next (s.retirePath t w e fun e => { e with flg := x.extractLsb' 0 5 })
    | .eject =>
      match s.grid? w.grid with
      | none => .fault .noThread
      | some g =>
        if !ejectOk g x then .next bad
        else .next (s.retire t (if w.ember.isSome then w else { w with eject := x.extractLsb' 0 4 }) e)
    | .trappc =>
      if x.extractLsb' 0 3 ≠ 0#3 then .next bad else .next (s.retire t { w with trappc := x } e)
    | .faultmask =>
      match a with
      | .s n => .next (s.retire t { w with faultmask := w.sreg (n.toNat + 1) ++ x } e)
      | .int _ => .next bad
    | .exec | .laneid | .waveix | .groupix | .gkey | .stepno | .icount | .clock | .time | .dieid | .hearthid
    | .width | .ember | .trapcause | .trapaddr | .karg | .seed => .next bad

/-- SETFMT (06 R99). -/
def execSetfmt (f : BitVec 13) (s : State) : Out :=
  issue (.setfmt f) s fun s t w e _ => .next (s.retirePath t w e fun e => { e with fmt := f.setWidth 32 })

/-- SREADLANE (06 R100): 0 for a lane that is not active on the path. -/
def execSreadlane (d : SReg) (a : VReg) (lane : SSrc) (s : State) : Out :=
  issue (.sreadlane d a lane) s fun s t w e _ =>
    let j := (lane.value w).toNat
    let x := if j < 128 ∧ e.mask.getLsbD j then w.vreg a.toNat j else 0#32
    .next (s.retire t (w.setS d.toNat (x.setWidth 64)) e)

end Sys2Proof.Machine
end

