-- ==== Sys2Proof/Machine/Select.lean ====
section
/-! DEFINITION. The issue selector: which wave of a pipe, and which context of an ember core, issues next (10 R242, 18 R300,
R301), and CLAUSE_START. -/

namespace Sys2Proof.Machine

/-! ## The issue selector in normal mode (18 R300) -/

/-- PRIO of a thread's grid. -/
def State.prioOf (s : State) (w : Thread) : Nat :=
  match s.grid? w.grid with
  | some g => g.pkt.prio
  | none => 0

/-- `a` is chosen before `b`: a promoted wave first, the one ready longest; else the higher PRIO; the lower slot among
those that became ready at one moment. -/
def State.before (s : State) (a b : Thread) : Bool :=
  let ra := a.ready.getD 0
  let rb := b.ready.getD 0
  let older := decide (ra < rb) || (ra == rb && decide (a.slot < b.slot))
  if a.promo != b.promo then a.promo
  else if a.promo || s.prioOf a == s.prioOf b then older
  else decide (s.prioOf b < s.prioOf a)

def State.best (s : State) (l : List (Nat × Thread)) : Option Nat :=
  match l with
  | [] => none
  | a :: r => some (r.foldl (fun m x => if s.before x.2 m.2 then x else m) a).1

/-- The wave that a pipe in normal mode starts next: one under PAUSE only where no other is ready. -/
def State.choose (s : State) (l : List (Nat × Thread)) : Option Nat :=
  let r := l.filter fun x => x.2.ready.isSome
  let free := r.filter fun x => s.pauseOf x.2 == 0
  if free.isEmpty then s.best r else s.best free

/-! ## The rotation in deterministic mode (18 R301) -/

/-- Whether an instruction of a thread waits for the close of a grid step, and of a group step (07 R125, R143, 12
R267). -/
def closeNeeds (w : Thread) (i : Instr) : Bool × Bool :=
  match i with
  | .ld _ .global _ _ _ _ _ _ _ => (true, false)
  | .ld _ .window _ _ _ _ _ _ _ => (true, false)
  | .ld _ .stash _ _ _ _ _ _ _ => (false, true)
  | .ldu stash _ _ _ _ _ _ _ => (!stash, stash)
  | .sld priv _ _ _ _ => (!priv, false)
  | .tdef _ _ _ => (false, true)
  | .tfree _ => (false, true)
  | .tstate _ _ => (false, true)
  | .cpin _ _ _ _ => (true, true)
  | .cpout _ _ _ _ _ _ => (false, true)
  | .cptt _ _ _ => (false, true)
  | .wbind _ _ => (true, false)
  | .launch _ => (true, false)
  | .stepw => (false, true)
  | .stepg => (true, true)
  | .fbrd _ _ _ a => (anyGlobal [some (w.freg a.toNat)], anyStash [some (w.freg a.toNat)])
  | .fbadv upTo d _ => (upTo && anyGlobal [some (w.freg d.toNat)], upTo && anyStash [some (w.freg d.toNat)])
  | .mmip _ _ a b r =>
    let l := [srcFib w a, srcFib w b, r.map fun k => w.freg k.toNat]
    (anyGlobal l, !(uses i).t.isEmpty || anyStash l)
  | .mmop _ _ a b r => (anyGlobal [srcFib w a, srcFib w b, r.map fun k => w.freg k.toNat], true)
  | .mmrw _ _ a r => (anyGlobal [srcFib w a, r.map fun k => w.freg k.toNat], true)
  | .mmldb _ a => (anyGlobal [srcFib w a], (srcFib w a).isNone || anyStash [srcFib w a])
  | .mmlda _ _ a r =>
    let l := [srcFib w a, r.map fun k => w.freg k.toNat]
    (anyGlobal l, (srcFib w a).isNone || anyStash l)
  | .mmdrain _ _ _ _ _ _ _ _ => (false, true)
  | .vqlut _ _ _ => (true, false)
  | .spdg _ _ _ _ _ => (false, true)
  | _ => (false, false)

/-- A thread that is stalled in the middle of a clause waits for a step to close. -/
def State.closeStalled (s : State) (w : Thread) : Bool :=
  match s.path? w, w.clause with
  | some e, some c =>
    match s.fetch w e c with
    | .instr i => ((closeNeeds w i).1 && s.gridReadWaits w e) || ((closeNeeds w i).2 && s.groupReadWaits w e)
    | .trap _ => false
    | .wait => false
  | _, _ => false

/-- The WAIT of a thread's next clause names a flag that an STF of a step not yet closed holds, and does not trap
HAZARD (05 R67). -/
def State.stfWaits (s : State) (w : Thread) : Bool :=
  match s.path? w with
  | some e => (s.nextWait w e).any fun m => !w.waitHazard e m && w.ops.any fun o => m.getLsbD o.flag && match o.kind with
      | .stf _ _ _ _ _ => true
      | .load _ => false
      | .loadS _ _ => false
  | none => false

/-- The pointer passes the wave over. -/
def State.passesOver (s : State) (w : Thread) : Bool :=
  w.ended || w.halted || w.stopped || !s.mayRun w || s.saveHeld w || ((s.path? w).isNone && !s.trapWaits w) || s.pauseOf w != 0
    || (if w.clause.isSome then w.stalled && s.closeStalled w
        else s.stfWaits w && !((s.path? w).any fun e => s.needsNoWait w e))

/-- What the pointer finds at a slot. -/
inductive Visit where
  | pass | wait | start (t : Nat)
deriving DecidableEq, Repr

def State.visit (s : State) (l : List (Nat × Thread)) (slot : Nat) : Visit :=
  match l.find? fun x => x.2.slot == slot with
  | none => .pass
  | some (t, w) => if s.passesOver w then .pass else if w.clause.isNone && w.ready.isSome then .start t else .wait

/-- An issue round of a path under PAUSE (07 R147). -/
def Thread.countRound (w : Thread) : Thread :=
  { w with stack := onRunning (fun e => { e with pause := e.pause - 1 }) w.stack }

/-- A visit of a wave under PAUSE counts. -/
def State.countVisit (s : State) (l : List (Nat × Thread)) (slot : Nat) : State :=
  match l.find? fun x => x.2.slot == slot && s.pauseOf x.2 != 0 with
  | some (t, w) => s.setThread t w.countRound
  | none => s

/-- Turn the pointer of a pipe until it stands at a wave that starts a clause or is waited for. -/
def State.rotate (s : State) (line : Nat) (l : List (Nat × Thread)) : Nat → State × Option Nat
  | 0 => (s, none)
  | n + 1 =>
    let p := tget 0 s.pipes line
    let on := { s.countVisit l p with pipes := tset 0 s.pipes line ((p + 1) % 16) }
    match s.visit l p with
    | .pass => on.rotate line l n
    | .wait => (s, none)
    | .start t => (s, some t)

/-! ## Lines of threads -/

/-! ## The contexts of an ember core (10 R242) -/

def Thread.onCore (w : Thread) (core c : Nat) : Bool :=
  match w.ember with
  | some e => e.core == core && e.ctxno % 8 == c
  | none => false

/-- A context that can issue, or start a clause. -/
def State.canIssue (s : State) (t : Nat) (w : Thread) : Bool := s.goesOn w || s.isReady t w

/-- The first context of a core, in rotation after the one that issued last, that `ok` admits. -/
def State.coreNext (s : State) (core : Nat) (ok : Nat → Thread → Bool) : Option (Nat × Thread) :=
  (List.range 8).findSome? fun i => s.threads.find? fun x => x.2.onCore core ((tget 0 s.cores core + i) % 8) && ok x.1 x.2

/-- The context that a core comes to next: one under PAUSE only where no other can issue (07 R147). -/
def State.coreTurn (s : State) (core : Nat) : Option (Nat × Thread) :=
  (s.coreNext core fun t w => s.canIssue t w && s.pauseOf w == 0) <|> s.coreNext core s.canIssue

/-- A thread takes its turn: an ember core goes on to its next context, and in deterministic mode the rounds of the contexts
under PAUSE that it has come past count. -/
def State.turnTo (s : State) (t : Nat) (w : Thread) : State :=
  match w.ember with
  | none => { s with cur := some t }
  | some e =>
    let p := tget 0 s.cores e.core
    let past := fun c => decide ((c + 8 - p) % 8 ≤ (e.ctxno % 8 + 8 - p) % 8)
    { s with
      cur := some t
      cores := tset 0 s.cores e.core ((e.ctxno + 1) % 8)
      threads := s.threads.map fun x => match x.2.ember with
        | some m => if m.core == e.core && past (m.ctxno % 8) && s.detGrid x.2.grid && s.pauseOf x.2 != 0 then (x.1, x.2.countRound) else x
        | none => x }

/-- The lines (pipes, ember cores) that hold a thread, each once. -/
def State.lines (s : State) : List (Nat × Nat) := nub (s.threads.map fun x => x.2.lineOf)

/-- A wave of the line waits in the middle of a clause for a flag, a counter or a resource in deterministic mode. -/
def State.midWait (s : State) (l : List (Nat × Thread)) : Bool :=
  l.any fun x => x.2.clause.isSome && !s.passesOver x.2

/-- The threads of a line. -/
def State.line (s : State) (k : Nat × Nat) : List (Nat × Thread) := s.threads.filter fun x => x.2.lineOf == k

/-- The pipe issues in deterministic mode. -/
def State.detLine (s : State) (k : Nat × Nat) : Bool := k.1 == 0 && (s.line k).any fun x => s.detGrid x.2.grid

/-- The thread of a line that starts a clause next. Where a pointer passes over every slot, its visits have counted. -/
def State.lineNext (s : State) (k : Nat × Nat) : State × Option Nat :=
  let l := s.line k
  if k.1 = 1 then (s, (s.coreNext k.2 s.isReady).map (·.1))
  else if l.any fun x => s.goesOn x.2 then (s, none)
  else if s.detLine k then
    if s.midWait l then (s, none)
    else match s.rotate k.2 l 16 with
      | (_, some t) => (s, some t)
      | (s', none) => (s', none)
  else (s, s.choose l)

/-- The state as the selector grants a thread its clause, with a pointer at the wave's slot; none where it is another's turn
(18 R300, R301). Each context of an ember core starts its own clauses. -/
def State.grant (s : State) (t : Nat) (w : Thread) : Option State :=
  match w.ember with
  | some _ => some s
  | none =>
    let m := s.markReady
    let k := w.lineOf
    if m.detLine k then
      if m.midWait (m.line k) then none
      else match m.rotate k.2 (m.line k) 16 with
        | (s', some u) => if u = t then some s' else none
        | (_, none) => none
    else if m.choose (m.line k) = some t then some m else none

/-- The pointer of a deterministic pipe goes on past the wave's slot. -/
def State.pastSlot (s : State) (w : Thread) : State :=
  if s.detLine w.lineOf then { s with pipes := tset 0 s.pipes w.lineOf.2 ((w.slot + 1) % 16) } else s

/-! ## Before a step -/

/-- The time before a step passes, homes write the records that they hold, the waits of queue heads are noted, and the threads that
have become ready are marked. -/
def State.pass (s : State) : State := s.elapse.flushPosts.flushHomes.noteWaits.markReady

/-! ## CLAUSE_START -/

/-- Issue selection notes a clause start: the other ready waves of the pipe that are not under PAUSE are promoted, the
chosen wave's bit clears (18 R300). -/
def State.promote (s : State) (t : Nat) (w : Thread) : State :=
  let others := s.threads.map fun x =>
    if w.ember.isNone && x.1 != t && x.2.lineOf == w.lineOf && s.pauseOf x.2 == 0 && s.isReady x.1 x.2 then (x.1, { x.2 with promo := true }) else x
  { s with threads := others }

/-- Start the clause whose header stands at the path's address (05 R62, R66). -/
def State.startClause (s : State) (t : Nat) (w : Thread) (e : Entry) (h : Header) : State :=
  let c : Clause := { hdr := e.addr, cnt := h.cnt, ix := 0, eng := h.eng, wait := h.wait, sa := h.sa, qa := h.qa
                      sb := h.sb, qb := h.qb }
  let s := s.promote t w
  let w := { w with clause := some c, promo := false, ready := none, stalled := false }
  { s.setPath t w fun e => { e with pc := fieldOf c.next } with cur := some t }

/-- The opcode of a STEP, whatever else its word holds. -/
def isStepOpc (o : Nat) : Bool := [Instr.stepw, Instr.stepg].any fun i => (encodeFields i).any fun f => f.opc.toNat == o

/-- The clause whose header stands at `a` opens with a STEP. One that fails its encoding checks traps there before what the wave
owes at a STEP (23 R355). -/
def State.opensStep (s : State) (w : Thread) (a : DWord) : Bool :=
  match s.codeWord w (a + 8#64) with
  | .error _ => false
  | .ok x => isStepOpc (bits x.toNat 55 9)

/-- The header at the path's address, its checks and its WAIT (05 R61, R63, R66, R67), and the traps owed at that WAIT; those of a
clause that opens with a STEP are taken at the STEP, in the order of 23 R355. -/
def State.openClause (s : State) (t : Nat) (w : Thread) (e : Entry) : State :=
  let a := e.addr
  let s' := s.noteRead w e a 8
  let trap := fun (w : Thread) (i : TrapInfo) (pc : DWord) => if s.trapReached w i.cause then s'.takeTrap t w i pc a else s
  match s.codeWord w a with
  | .error k => trap w ⟨k, a, e.mask⟩ a
  | .ok x =>
    let h := Header.ofWord x
    if !isHeader x then trap w ⟨.illegalOp, 0#64, e.mask⟩ a
    else if !h.ok then trap w ⟨.reservedEnc, 0#64, e.mask⟩ a
    else if w.waitHazard e h.wait then
      let c : Clause := { hdr := a, cnt := h.cnt, ix := 0, eng := h.eng, wait := h.wait, sa := h.sa, qa := h.qa
                          sb := h.sb, qb := h.qb }
      trap { w with clause := some c } ⟨.hazard, 0#64, e.mask⟩ (a + 8#64)
    else if s.waitBusy t w h.wait then s
    else match firstOwed (w.owed.filter fun o => !w.handler && o.atWait h.wait && !s.opensStep w a) with
      | some o => if s.trapReached w o.info.cause then s'.takeOwed t w o a a else s
      | none => s'.startClause t w e h

/-- A thread that the selector has granted its clause: the path parks at its join, or takes a trap that concerns the wave, or
stops at a save point, or starts its clause. -/
def State.beginClause (s : State) (t : Nat) : State :=
  match s.thread? t with
  | none => s
  | some w =>
    if w.badCtl then s.ctlLost t w
    else match s.path? w with
    | none => (s.pastSlot w).takeWaiting t
    | some e =>
      if e.pc = e.join ∧ (w.ember.isSome ∨ canPark (s.entries w)) then s.park t w
      else
        match firstOwed (w.owed.filter fun o => !w.handler && o.due == .wave) with
        | some o => (s.pastSlot w).takeOwed t w o e.addr e.addr
        | none =>
          if !w.handler && s.stopsNow w then s.setThread t { w with stopped := true, whole := true }
          else (s.pastSlot w).openClause t w e

/-- CLAUSE_START (05 R66). A thread that is not ready, or whose pipe is in another clause, or whose turn it is not, does
nothing. -/
def execClauseStart (t : Nat) (s : State) : Out :=
  match s.thread? t with
  | none => .next s
  | some w =>
    if !s.isReady t w || s.pipeBusy t w then .next s
    else match s.grant t w with
      | none => .next s
      | some s' => .next (s'.beginClause t)

end Sys2Proof.Machine
end

