-- ==== Sys2Proof/Machine/Units.lean ====
section
/-! DEFINITION. The units that act on their own: peer links and inboxes (22 R338 to R341), CXL ports (22 R335), page walkers
(19 R318), pins (22 R342), the HBM4E controllers (24 R357 to R359), and the trip of a flue die (25 R366). -/

namespace Sys2Proof.Machine

/-! ## Peers (22 R338 to R341) -/

/-- The inbox entry that covers an aperture offset, where the line may land: its context, virtual and physical address, and
leaf. -/
def State.inboxPlace (s : State) (o : Nat) : Option (Nat × DWord × Nat × DWord) :=
  match s.moduleId, aget? s.inbox (bits o 36 8) with
  | some _, some e =>
    let k := o % 2 ^ 36
    let va := e.vbase + BitVec.ofNat 64 k
    if e.blk * 65536 < k + 128 then none
    else match s.context? e.ctx with
      | none => none
      | some x =>
        match s.access ((s.lowestLiveIn x.dieset).getD 0) e.ctx va .write with
        | .ok (pa, leaf) => some (e.ctx, va, pa, leaf)
        | .error _ => none
  | _, _ => none

/-- With the last line of a transfer, its lines stand after all that have arrived, and are whole (22 R339). -/
def closeTransfer (d : PeerData) (l : List PeerLine) : List PeerLine :=
  let mine := fun (x : PeerLine) => x.transfer == d.transfer && !x.whole
  if d.last then l.filter (fun x => !mine x) ++ (l.filter mine).map fun x => { x with whole := true } else l

/-- The record of a malformed entry that the translation of an arriving line meets (19 R316). -/
def State.noteInbox (s : State) (o : Nat) : State :=
  match s.moduleId, aget? s.inbox (bits o 36 8) with
  | some _, some e =>
    if e.blk * 65536 < o % 2 ^ 36 + 128 then s
    else match s.context? e.ctx with
      | none => s
      | some x => s.noteWalk ((s.lowestLiveIn x.dieset).getD 0) e.ctx (e.vbase + BitVec.ofNat 64 (o % 2 ^ 36)) 0#32 0
  | _, _ => s

/-- PEER_LINE_ARRIVES: 128 bytes at an aperture offset. A line that is refused is counted and logged; a port that is down
brings none, and one whose home the port's flue die does not reach has yet to arrive (22 R337). -/
def execPeerLineArrives (port : Nat) (o : BitVec 44) (data : PeerData) (s : State) : Out :=
  if !((s.flue port).peerUp && s.flueRuns port) || data.bytes.length != 128 then .next s
  else match s.inboxPlace o.toNat with
    | some (c, va, pa, leaf) =>
      let l : PeerLine :=
        { ctx := c, va := va.toNat, pa := pa, twin := leafTwin leaf, data := data.bytes, transfer := data.transfer, whole := false }
      if s.circuitUp port (homeFlue pa) then .next { s with peersIn := closeTransfer data (s.peersIn ++ [l]) } else .next s
    | none =>
      let s := s.noteInbox o.toNat
      .next ({ s with peersIn := closeTransfer data s.peersIn, peerRefused := s.peerRefused + 1 }.errRec s.lowestLive 0x10 4
        (o.setWidth 64) 0#32 0 1 0)

/-- A time of n milliseconds has passed since a moment. -/
def State.msPassed (s : State) (since : DWord) (n : Nat) : Bool := decide (n * 1000000 ≤ s.time.toNat - since.toNat)

/-- PEER_LINE_ACK: the line has left through a port that is up and has landed, and the sender's counter falls (22 R338, R340). -/
def execPeerLineAck (h c line : Nat) (s : State) : Out :=
  match s.copyLine? h c line with
  | none => .next s
  | some (x, va, pa, bs) => if isPeer pa && s.lineReached h x line then .next (s.landLine h x line va pa bs []) else .next s

/-- PEER_LINE_TIMEOUT: once PEERTMO has passed since the issue, or at once where the peer has refused the line (22 R341), it counts
as landed and is logged; a STRICT context owes MEMERR (07 R155). A refusal comes back by the way that the line took. -/
def execPeerLineTimeout (h c : Nat) (line : PeerEnd) (s : State) : Out :=
  match s.copyLine? h c line.line with
  | none => .next s
  | some (x, va, pa, bs) =>
    match s.thread? x.t with
    | none => .next s
    | some w =>
      if !isPeer pa || !(if line.refused then s.lineReached h x line.line else s.msPassed x.since (s.flue (h / 512)).peertmo) then .next s
      else
        let owed := if s.strict w.ctx then [(⟨.memerr, BitVec.ofNat 64 va, x.mask⟩ : TrapInfo)] else []
        let s := s.uncorrected w.die 4 (BitVec.ofNat 64 pa) x.gstep 0 1 w.ctx
        .next (s.landLine h x line.line va pa bs owed)

/-- PEER_LINK_PORT_DOWN and PEER_LINK_PORT_UP (22 R340). -/
def execPeerLinkPortDown (f : Nat) (s : State) : Out := .next (s.modFlue f fun y => { y with peerUp := false })
def execPeerLinkPortUp (f : Nat) (s : State) : Out := .next (s.modFlue f fun y => { y with peerUp := true })

/-! ## CXL (22 R335) -/

/-- Accesses of a die, issued at `since`, that an expander has not completed within CXLTMO of its flue die. -/
def State.cxlLate (s : State) (die : Nat) (since : DWord) (l : List Far) : List Far :=
  l.filter fun f => match cxlPortOf f.pa with
    | some p => (f.sent || s.reaches die f.pa) && s.msPassed since (s.flue (p / 2)).cxltmo
    | none => false

/-- The record of a timed-out load, and the MEMERR that its STRICT accesses owe (07 R126). -/
def State.logTimeout (s : State) (w : Thread) (step : Word) (l : List Far) : State :=
  match l with
  | [] => s
  | f :: _ => s.uncorrected w.die 2 f.va step (s.gkey w f.lane) (nub (l.map (·.lane))).length w.ctx

/-- The records of an engine's reads that timed out: one for each word, of no lane (20 Table 20.8). -/
def State.cutRecords (s : State) (w : Thread) (step : Word) (l : List Far) : State :=
  (nub (l.map (·.va))).foldl (fun s va => s.uncorrected w.die 2 va step 0 1 w.ctx) s

def timeoutOwes (l : List Far) (m : Mask) : List TrapInfo :=
  let st := l.filter (·.strict)
  if st.isEmpty then [] else [⟨.memerr, lowestAddr (st.map (·.addr)), m⟩]

/-- A load whose CXL lanes deliver zero. -/
def Thread.cutOp (w : Thread) (o : Op) (l : List Far) : Thread :=
  match o.kind with
  | .load ws => (w.setWords (ws.map fun x => if l.any fun f => f.lane == x.1 % 128 then (x.1, 0#32) else x)).finish o
  | .loadS d _ => (w.setS d 0#64).finish o
  | .stf _ _ _ _ _ => w

/-- CXL_TIMEOUT of a load: zero is delivered and logged. -/
def State.timeoutLoad (s : State) (t : Nat) (w : Thread) (o : Op) : State :=
  let l := s.cxlLate w.die o.since o.far
  if l.isEmpty then s
  else
    let s := (s.logTimeout w (((s.path? w).map (·.gstep)).getD w.gcnt) l).dropLate w (l.map (·.pa))
    s.setThread t ((w.cutOp o l).owe (timeoutOwes l (maskOf ((l.filter (·.strict)).map (·.lane)))) (.flag o.flag))

/-- A line of a CPIN in which the reads among `l` delivered zeros. The line's reads are of one size and name ascending addresses. -/
def Copy.cutLine (x : Copy) (l : List Far) (line : Nat) (bs : List Byte) : List Byte :=
  let own := nub ((x.far.filter fun f => f.lane == line).map fun f => f.addr.toNat)
  let n := 128 / max 1 own.length
  ((List.range 128).zip bs).map fun y =>
    if l.any fun f => f.lane == line && (f.addr.toNat - leastOf own) / n == y.1 / n then 0#8 else y.2

/-- A copy whose reads among `l` delivered zeros. -/
def Copy.cut (x : Copy) (l : List Far) (die : Nat) : Copy :=
  { x with lines := x.lines.map fun y => (y.1, y.2.1, y.2.2.1, x.cutLine l y.1 y.2.2.2)
           far := x.far.map fun f => if l.contains f then f.answered die else f }

/-- CXL_TIMEOUT of a CPIN: the words that come from an expander land as zeros (07 R155). -/
def State.timeoutCopy (s : State) (w : Thread) (c : Copy) : State :=
  let l := (s.cxlLate w.die c.since c.far).filter fun f => c.lines.any fun x => x.1 == f.lane
  match c.kind with
  | .cpin =>
    if l.isEmpty then s
    else
      let s := (s.cutRecords w c.gstep l).dropLate w (l.map (·.pa))
      let s := s.modThread c.t fun w => w.owe (timeoutOwes l c.mask) (.cwait c.fc)
      s.modHearth w.home fun h => { h with copies := h.copies.map fun (x : Copy) => if x.uid = c.uid then x.cut l w.die else x }
  | .cpout _ _ => s
  | .cptt _ => s

/-- A queued grate instruction whose reads among `l` delivered zeros; a STRICT one among them fails it (09 R201). -/
def GrateOp.cut (o : GrateOp) (l : List Far) (die : Nat) : GrateOp :=
  let hit := o.far.filter fun x => l.contains x.far
  let owed := timeoutOwes (hit.map (·.far)) o.exec ++ o.fail.toList
  { o with
    bytes := hit.foldl (fun bs x => bs.modify x.slot fun b =>
      b.take x.start ++ List.replicate x.len 0#8 ++ b.drop (x.start + x.len)) o.bytes
    far := o.far.map fun x => if l.contains x.far then { x with far := x.far.answered die } else x
    fail := if owed.isEmpty then none else some ⟨.memerr, lowestAddr (owed.map (·.addr)), o.exec⟩ }

/-- CXL_TIMEOUT of a grate instruction that has not started. -/
def State.timeoutGrate (s : State) (w : Thread) (o : GrateOp) : State :=
  let l := s.cxlLate w.die o.since (o.far.map (·.far))
  if l.isEmpty then s
  else ((s.cutRecords w o.gstep l).dropLate w (l.map (·.pa))).modHearth w.home fun h => { h with
    grate := h.grate.map fun x => if x.uid = o.uid then x.cut l w.die else x }

/-- CXL_TIMEOUT: `op` names a load of the thread, a copy of its hearth, or an instruction that waits in its hearth's grate. -/
def execCxlTimeout (t op : Nat) (s : State) : Out :=
  match s.thread? t with
  | none => .next s
  | some w =>
    let x := s.hearth w.home
    match w.ops.find? fun o => o.uid == op, x.copies.find? fun c => c.uid == op && c.t == t with
    | some o, _ => .next (s.timeoutLoad t w o)
    | none, some c => .next (s.timeoutCopy w c)
    | none, none =>
      match (if x.running then x.grate.drop 1 else x.grate).find? fun o => o.uid == op && o.t == t with
      | some o => .next (s.timeoutGrate w o)
      | none => .next s

/-- CXL_LINK_DOWN and CXL_LINK_UP. -/
def State.setPort (s : State) (port : Nat) (up : Bool) : State :=
  { s with ports := s.ports.set port { s.ports.getD port ⟨false, 0⟩ with up := up } }
def execCxlLinkDown (port : Nat) (s : State) : Out := .next (s.setPort port false)
/-- CXL_LINK_UP finds the expander that stands on the port, if any, which the module has at no other moment (01 R368). -/
def execCxlLinkUp (port : Nat) (s : State) : Out :=
  .next { s with ports := s.ports.set port { up := true, cap := Config.expander port } }

/-! ## Page walks (19 R315 to R318) -/

/-- PAGE_WALK: a walk that ends at a page fills the die's TLB, in which the oldest of 12,288 entries gives way; one that
meets a malformed entry, or a lost word, writes its record (19 R316, 23 R351). -/
def execPageWalk (die c : Nat) (va : DWord) (s : State) : Out :=
  match s.context? c with
  | none => .next s
  | some x =>
    if 2 ^ 52 ≤ va.toNat ∨ ((s.die die).tlb.any fun e => e.covers c va.toNat) = true then .next s
    else
      match s.walk va.toNat x.root.toNat 0 4 with
      | (.ok _ _, level, leaf) =>
        .next (s.putLast die { ctx := c, level := level, vbase := va.toNat / 2 ^ levelBits level * 2 ^ levelBits level, leaf := leaf })
      | (.malformed _, _, _) => .next (s.noteWalk die c va 0#32 0)
      | (.page, _, _) => .next (s.noteWalk die c va 0#32 0)
      | (.prot, _, _) => .next s

/-! ## Pins (22 R342) -/

/-- A pin at the end of a period; none where it is released. -/
def Pin.fadeOnce (p : Pin) : Option Pin :=
  let p := { p with since := p.since + 1000000#64 }
  if p.touched then some { p with count := p.fade, touched := false }
  else if p.count ≤ 1 then none else some { p with count := p.count - 1 }

/-- PIN_FADE_PERIOD: a period of 1 ms ends for a pin. -/
def execPinFadePeriod (c pin : Nat) (s : State) : Out :=
  let ends := ((s.context? c).bind fun x => aget? x.pins pin).any fun p => s.msPassed p.since 1 && p.fadeOnce.isNone
  let s' := s.modContext c fun x =>
    match aget? x.pins pin with
    | none => x
    | some p =>
      if !s.msPassed p.since 1 then x
      else match p.fadeOnce with
        | some p => { x with pins := aset x.pins pin p }
        | none => { x with pins := adel x.pins pin, pinRel := x.pinRel + 1 }
  .next (if ends then s'.unpinPages fun a k => a == c && k == pin else s')

/-! ## HBM4E upkeep (24 R357 to R359) -/

def Bank.empty : Bank := ⟨[], [], [], false, [], []⟩
def State.stack (s : State) (k : Nat) : Stack := s.hbm.getD k Stack.reset
def Stack.bank (x : Stack) (b : Nat) : Bank := (aget? x.banks b).getD Bank.empty
def State.modStack (s : State) (k : Nat) (f : Stack → Stack) : State := { s with hbm := s.hbm.set k (f (s.stack k)) }
def Stack.setBank (x : Stack) (b : Nat) (y : Bank) : Stack := { x with banks := aset x.banks b y }

/-- A row that is precharged: its counter is checked (24 R359). `act` is ACTMAX. -/
def Stack.precharge (x : Stack) (b row act : Nat) : Stack :=
  let y := x.bank b
  if y.corrupt.contains row then
    { x.setBank b { y with act := tset 0#12 y.act row 0#12, corrupt := y.corrupt.filter (· ≠ row) } with
      corruptCount := x.corruptCount + 1, neighbour := x.neighbour + 1 }
  else if act ≤ (tget 0#12 y.act row).toNat then
    { x.setBank b { y with act := tset 0#12 y.act row 0#12 } with neighbour := x.neighbour + 1 }
  else x

/-- Rank a buffer 0: those that were more recent move one place back. -/
def touchBuf (l : List RowBuf) (row : Nat) (write : Bool) : List RowBuf :=
  let r := ((l.find? fun b => b.row == row).map (·.rank)).getD 0
  l.map fun b =>
    if b.row = row then { b with rank := 0, dirty := b.dirty || write }
    else if b.rank < r then { b with rank := b.rank + 1 } else b

/-- The counter of an activated row rises; it stays at its largest value (log 29). -/
def Bank.activate (y : Bank) (row : Nat) : Bank :=
  let n := tget 0#12 y.act row
  { y with act := tset 0#12 y.act row (if n = BitVec.allOnes 12 then n else n + 1#12) }

/-- Serve a request: from a buffer, or after the buffer of rank 3 gives way (24 R357). -/
def Stack.serve (x : Stack) (b row : Nat) (write : Bool) (act : Nat) : Stack :=
  let y := x.bank b
  if y.bufs.any fun r => r.row == row then x.setBank b { y with bufs := touchBuf y.bufs row write }
  else
    let x := match y.bufs.find? fun r => r.rank == 3 with
      | some v => x.precharge b v.row act
      | none => x
    let y := (x.bank b).activate row
    let kept := (y.bufs.filter fun r => r.rank != 3).map fun r => { r with rank := r.rank + 1 }
    x.setBank b { y with bufs := kept ++ [⟨row, write, 0⟩] }

def State.actmax (s : State) (k : Nat) : Nat := (s.flue (k / 4)).actmax

/-- The wait hint of a RETRY, 1 to 1,000 ns: the refresh's next, or a free one where it has none left. -/
def Bank.hint (y : Bank) (free : Nat) : Nat :=
  match y.hints with
  | h :: _ => if 1 ≤ h ∧ h ≤ 1000 then h else 1 + free % 1000
  | [] => 1 + free % 1000

/-- TIME at which a request that a bank answers RETRY now may be issued again. -/
def State.retryDue (s : State) (stack bank : Nat) (y : Bank) : DWord :=
  s.time + BitVec.ofNat 64 (y.hint (Config.freeHint s.tick stack bank))

/-- HBM_ACCESS: the controllers of a tripped flue die have stopped (25 R366). A bank that is refreshing answers RETRY, and a request
behind one that waits for its re-issue waits too (24 R358). -/
def execHbmAccess (stack bank row : Nat) (write : Bool) (s : State) : Out :=
  if !s.flueRuns (stack / 4) then .next s
  else .next (s.modStack stack fun x =>
    let y := x.bank bank
    if y.refreshing then
      let z := { y with waiting := y.waiting ++ [⟨row, write, s.retryDue stack bank y⟩], hints := y.hints.tail }
      { x.setBank bank z with retries := x.retries + 1 }
    else if !y.waiting.isEmpty then x.setBank bank { y with waiting := y.waiting ++ [⟨row, write, s.time⟩] }
    else x.serve bank row write (s.actmax stack))

/-- HBM_REFRESH: the bank refreshes, and has the hints for the RETRYs that it will answer. -/
def execHbmRefresh (stack bank : Nat) (hints : List Nat) (s : State) : Out :=
  .next (s.modStack stack fun x => x.setBank bank { x.bank bank with refreshing := true, hints := hints })

/-- RETRY_REISSUE: the first waiting request is issued again once its hint has passed, and may be answered RETRY again. -/
def execRetryReissue (stack bank : Nat) (s : State) : Out :=
  if !s.flueRuns (stack / 4) then .next s
  else .next (s.modStack stack fun x =>
    let y := x.bank bank
    match y.waiting with
    | [] => x
    | q :: r =>
      if s.time.toNat < q.due.toNat then x
      else if y.refreshing then
        let z := { y with waiting := { q with due := s.retryDue stack bank y } :: r, hints := y.hints.tail }
        { x.setBank bank z with retries := x.retries + 1 }
      else (x.setBank bank { y with waiting := r }).serve bank q.row q.write (s.actmax stack))

/-- REFRESH_END. -/
def execRefreshEnd (stack bank : Nat) (s : State) : Out :=
  .next (s.modStack stack fun x => x.setBank bank { x.bank bank with refreshing := false, hints := [] })

/-- The flush of a stack's row buffers: dirty rows are written back and every row is precharged, in ascending bank number
(24 R357). -/
def Stack.flush (x : Stack) (act : Nat) : Stack :=
  (x.banks.map (·.1)).foldl (fun x b =>
    let x := (x.bank b).bufs.foldl (fun x r => x.precharge b r.row act) x
    x.setBank b { x.bank b with bufs := [] }) x

/-- FLUE_DIE_TRIP (25 R366): the four compute dies stop, every context is lost, the row buffers are flushed. The record is
written on each of the four dies (log 30), by the management core before its flue die stops. -/
def execFlueDieTrip (f : Nat) (overTemp : Bool) (s : State) : Out :=
  if (s.flue f).mode != .run then .next s
  else
    let s := ((s.contexts.filter fun c => c.2.status != .lost).map (·.1)).foldl (fun s c => s.loseContext c 3 (4 * f)) s
    let dies := (List.range 4).map (4 * f + ·)
    let s := dies.foldl (fun s d => s.tripDie d !overTemp) s
    let s := dies.foldl (fun s k => s.modStack k fun x => x.flush (s.actmax k)) s
    let s := dies.foldl (fun s d => s.notify d 0x08 0 ((!overTemp).toNat + 2) (BitVec.ofNat 64 f) 0#64) s
    .next (s.modFlue f fun y => { y with mode := .tripped })

end Sys2Proof.Machine
end

