-- ==== Sys2Proof/Machine/Vector.lean ====
section
/-! DEFINITION. The vector integer and predicate family (06 R101 to R104). -/

namespace Sys2Proof.Machine

/-- An instruction that writes a v register in each lane that takes part, every source read before any write (06 R89). -/
def vectorOp (i : Instr) (s : State) (g : Guard) (d : VReg) (f : Thread → Nat → Word) : Out :=
  issue i s fun s t w e _ =>
    .next (s.retire t (w.setWords ((lanesOf (active w e g)).map fun l => (vix d.toNat l, f w l))) e)

/-- As `vectorOp`, for an even pair (03 R33). -/
def vectorOp64 (i : Instr) (s : State) (g : Guard) (d : VReg) (f : Thread → Nat → DWord) : Out :=
  issue i s fun s t w e _ =>
    .next (s.retire t (w.setWords ((lanesOf (active w e g)).flatMap fun l =>
      [(vix d.toNat l, (f w l).extractLsb' 0 32), (vix (d.toNat + 1) l, (f w l).extractLsb' 32 32)])) e)

/-- An instruction that writes a predicate in each lane that takes part (06 R104). -/
def predicateOp (i : Instr) (s : State) (g : Guard) (d : PReg) (f : Thread → Nat → Bool) : Out :=
  issue i s fun s t w e _ =>
    let m := active w e g
    .next (s.retire t (w.setPred d.toNat m (maskOf ((lanesOf m).filter (f w)))) e)

/-! ## Values (06 Table 6.3, R102) -/

def mulHigh (a b : Word) : Word := BitVec.ofInt 32 (a.toInt * b.toInt / 2 ^ 32)
def mulHighU (a b : Word) : Word := BitVec.ofNat 32 (a.toNat * b.toNat / 2 ^ 32)
def shl32 (a b : Word) : Word := if 32 ≤ b.toNat then 0#32 else a <<< b.toNat
def shr32 (a b : Word) : Word := if 32 ≤ b.toNat then 0#32 else a >>> b.toNat
def sar32 (a b : Word) : Word := a.sshiftRight (min b.toNat 31)
def clz32 : Nat → Nat → Nat
  | 0, _ => 0
  | n + 1, x => if x.testBit n then 0 else 1 + clz32 n x
/-- Bit i of the result is bit n - 1 - i of the operand. -/
def reverseBits : Nat → Nat → Nat
  | 0, _ => 0
  | n + 1, x => x % 2 * 2 ^ n + reverseBits n (x / 2)

/-- Ones in the low n bits. -/
def lowMask (n : Nat) : Word := BitVec.ofNat 32 (2 ^ n - 1)

/-- VBFE (06 R102). -/
def bfe (uns : Bool) (a off width : Word) : Word :=
  let o := min off.toNat 32
  let n := min width.toNat 32
  let x := shr32 a (BitVec.ofNat 32 o)
  if n = 0 then 0#32
  else
    let y := x &&& lowMask n
    if !uns && y.getLsbD (n - 1) then y ||| ~~~lowMask n else y

/-- VBFI (06 R102). -/
def bfi (d a off width : Word) : Word :=
  let o := min off.toNat 32
  let m := shl32 (lowMask (min width.toNat 32)) (BitVec.ofNat 32 o)
  (d &&& ~~~m) ||| (shl32 a (BitVec.ofNat 32 o) &&& m)

/-! ## Instructions -/

def execVmov (g : Guard) (d : VReg) (a : VMovSrc) (s : State) : Out := vectorOp (.vmov g d a) s g d fun w l => a.value w l
def execVmovi (g : Guard) (d : VReg) (imm : Word) (s : State) : Out := vectorOp (.vmovi g d imm) s g d fun _ _ => imm
def execVaddi (g : Guard) (d a : VReg) (imm : Word) (s : State) : Out :=
  vectorOp (.vaddi g d a imm) s g d fun w l => w.vreg a.toNat l + imm
def execVadd (g : Guard) (d : VReg) (a b : VSrc) (s : State) : Out :=
  vectorOp (.vadd g d a b) s g d fun w l => a.value w l + b.value w l
def execVsub (g : Guard) (d : VReg) (a b : VSrc) (s : State) : Out :=
  vectorOp (.vsub g d a b) s g d fun w l => a.value w l - b.value w l
def execVmul (g : Guard) (d : VReg) (a b : VSrc) (s : State) : Out :=
  vectorOp (.vmul g d a b) s g d fun w l => a.value w l * b.value w l
def execVmulh (g : Guard) (d : VReg) (a b : VSrc) (s : State) : Out :=
  vectorOp (.vmulh g d a b) s g d fun w l => mulHigh (a.value w l) (b.value w l)
def execVmulhu (g : Guard) (d : VReg) (a b : VSrc) (s : State) : Out :=
  vectorOp (.vmulhu g d a b) s g d fun w l => mulHighU (a.value w l) (b.value w l)
def execVand (g : Guard) (d : VReg) (a b : VSrc) (s : State) : Out :=
  vectorOp (.vand g d a b) s g d fun w l => a.value w l &&& b.value w l
def execVor (g : Guard) (d : VReg) (a b : VSrc) (s : State) : Out :=
  vectorOp (.vor g d a b) s g d fun w l => a.value w l ||| b.value w l
def execVxor (g : Guard) (d : VReg) (a b : VSrc) (s : State) : Out :=
  vectorOp (.vxor g d a b) s g d fun w l => a.value w l ^^^ b.value w l
def execVshl (g : Guard) (d : VReg) (a b : VSrc) (s : State) : Out :=
  vectorOp (.vshl g d a b) s g d fun w l => shl32 (a.value w l) (b.value w l)
def execVshr (g : Guard) (d : VReg) (a b : VSrc) (s : State) : Out :=
  vectorOp (.vshr g d a b) s g d fun w l => shr32 (a.value w l) (b.value w l)
def execVsar (g : Guard) (d : VReg) (a b : VSrc) (s : State) : Out :=
  vectorOp (.vsar g d a b) s g d fun w l => sar32 (a.value w l) (b.value w l)
def execVmin (g : Guard) (d : VReg) (a b : VSrc) (s : State) : Out :=
  vectorOp (.vmin g d a b) s g d fun w l => if (a.value w l).toInt ≤ (b.value w l).toInt then a.value w l else b.value w l
def execVmax (g : Guard) (d : VReg) (a b : VSrc) (s : State) : Out :=
  vectorOp (.vmax g d a b) s g d fun w l => if (a.value w l).toInt ≤ (b.value w l).toInt then b.value w l else a.value w l
def execVminu (g : Guard) (d : VReg) (a b : VSrc) (s : State) : Out :=
  vectorOp (.vminu g d a b) s g d fun w l => if (a.value w l).toNat ≤ (b.value w l).toNat then a.value w l else b.value w l
def execVmaxu (g : Guard) (d : VReg) (a b : VSrc) (s : State) : Out :=
  vectorOp (.vmaxu g d a b) s g d fun w l => if (a.value w l).toNat ≤ (b.value w l).toNat then b.value w l else a.value w l
def execVmad (g : Guard) (d : VReg) (a b c : VSrc) (s : State) : Out :=
  vectorOp (.vmad g d a b c) s g d fun w l => a.value w l * b.value w l + c.value w l
def execVnot (g : Guard) (d : VReg) (a : VSrc) (s : State) : Out := vectorOp (.vnot g d a) s g d fun w l => ~~~a.value w l
def execVabs (g : Guard) (d a : VReg) (s : State) : Out :=
  vectorOp (.vabs g d a) s g d fun w l => if (w.vreg a.toNat l).msb then -w.vreg a.toNat l else w.vreg a.toNat l
def execVneg (g : Guard) (d a : VReg) (s : State) : Out := vectorOp (.vneg g d a) s g d fun w l => -w.vreg a.toNat l
def execVcmp (c : Cond) (g : Guard) (d : PReg) (a b : VSrc) (s : State) : Out :=
  predicateOp (.vcmp c g d a b) s g d fun w l => c.holds (a.value w l).toInt (b.value w l).toInt
def execVcmpu (c : Cond) (g : Guard) (d : PReg) (a b : VSrc) (s : State) : Out :=
  predicateOp (.vcmpu c g d a b) s g d fun w l => c.holds (a.value w l).toNat (b.value w l).toNat
def execVsel (g : Guard) (d : VReg) (p : PReg) (b c : VSrc) (s : State) : Out :=
  vectorOp (.vsel g d p b c) s g d fun w l => if (w.preg p.toNat).getLsbD l then b.value w l else c.value w l
def execVpopc (g : Guard) (d a : VReg) (s : State) : Out :=
  vectorOp (.vpopc g d a) s g d fun w l => BitVec.ofNat 32 (popcount 32 (w.vreg a.toNat l).toNat)
def execVclz (g : Guard) (d a : VReg) (s : State) : Out :=
  vectorOp (.vclz g d a) s g d fun w l => BitVec.ofNat 32 (clz32 32 (w.vreg a.toNat l).toNat)
def execVbrev (g : Guard) (d a : VReg) (s : State) : Out :=
  vectorOp (.vbrev g d a) s g d fun w l => BitVec.ofNat 32 (reverseBits 32 (w.vreg a.toNat l).toNat)
def execVbfe (uns : Bool) (g : Guard) (d a : VReg) (off width : VSrc) (s : State) : Out :=
  vectorOp (.vbfe uns g d a off width) s g d fun w l => bfe uns (w.vreg a.toNat l) (off.value w l) (width.value w l)
def execVbfi (g : Guard) (d a : VReg) (off width : VSrc) (s : State) : Out :=
  vectorOp (.vbfi g d a off width) s g d fun w l =>
    bfi (w.vreg d.toNat l) (w.vreg a.toNat l) (off.value w l) (width.value w l)
def execVadd64 (g : Guard) (d : VReg) (a b : VSrc) (s : State) : Out :=
  vectorOp64 (.vadd64 g d a b) s g d fun w l => a.value64 w l + b.value64 w l
def execVsub64 (g : Guard) (d : VReg) (a b : VSrc) (s : State) : Out :=
  vectorOp64 (.vsub64 g d a b) s g d fun w l => a.value64 w l - b.value64 w l
def execVmul64 (g : Guard) (d : VReg) (a b : VSrc) (s : State) : Out :=
  vectorOp64 (.vmul64 g d a b) s g d fun w l => a.value64 w l * b.value64 w l
/-- VSHL64 gives 0 for a count of 64 or more (06 R103). -/
def execVshl64 (g : Guard) (d a : VReg) (b : VSrc) (s : State) : Out :=
  vectorOp64 (.vshl64 g d a b) s g d fun w l =>
    if 64 ≤ (b.value w l).toNat then 0#64 else w.vpair a.toNat l <<< (b.value w l).toNat
def execPand (g : Guard) (d a b : PReg) (s : State) : Out :=
  predicateOp (.pand g d a b) s g d fun w l => (w.preg a.toNat).getLsbD l && (w.preg b.toNat).getLsbD l
def execPor (g : Guard) (d a b : PReg) (s : State) : Out :=
  predicateOp (.por g d a b) s g d fun w l => (w.preg a.toNat).getLsbD l || (w.preg b.toNat).getLsbD l
def execPxor (g : Guard) (d a b : PReg) (s : State) : Out :=
  predicateOp (.pxor g d a b) s g d fun w l => (w.preg a.toNat).getLsbD l != (w.preg b.toNat).getLsbD l
def execPnot (g : Guard) (d a : PReg) (s : State) : Out :=
  predicateOp (.pnot g d a) s g d fun w l => !(w.preg a.toNat).getLsbD l

end Sys2Proof.Machine
end

