-- ==== Sys2Proof/Machine/Dispatch.lean ====
section
/-! DEFINITION. The meaning of every instruction and event: one arm per constructor of `Instr`. -/

namespace Sys2Proof.Machine

def exec (i : Instr) (s : State) : Host.Outcome State Fault Refusal :=
  match i with
  | .clauseStart t => Sys2Proof.Machine.execClauseStart t s
  | .smov d a => Sys2Proof.Machine.execSmov d a s
  | .smovi d imm => Sys2Proof.Machine.execSmovi d imm s
  | .smovhi d imm => Sys2Proof.Machine.execSmovhi d imm s
  | .sadd d a b => Sys2Proof.Machine.execSadd d a b s
  | .saddi d a imm => Sys2Proof.Machine.execSaddi d a imm s
  | .ssub d a b => Sys2Proof.Machine.execSsub d a b s
  | .smul d a b => Sys2Proof.Machine.execSmul d a b s
  | .smulh d a b => Sys2Proof.Machine.execSmulh d a b s
  | .smulhu d a b => Sys2Proof.Machine.execSmulhu d a b s
  | .sand d a b => Sys2Proof.Machine.execSand d a b s
  | .sor d a b => Sys2Proof.Machine.execSor d a b s
  | .sxor d a b => Sys2Proof.Machine.execSxor d a b s
  | .snot d a => Sys2Proof.Machine.execSnot d a s
  | .sshl d a b => Sys2Proof.Machine.execSshl d a b s
  | .sshr d a b => Sys2Proof.Machine.execSshr d a b s
  | .ssar d a b => Sys2Proof.Machine.execSsar d a b s
  | .smin d a b => Sys2Proof.Machine.execSmin d a b s
  | .smax d a b => Sys2Proof.Machine.execSmax d a b s
  | .sminu d a b => Sys2Proof.Machine.execSminu d a b s
  | .smaxu d a b => Sys2Proof.Machine.execSmaxu d a b s
  | .scmp c d a b => Sys2Proof.Machine.execScmp c d a b s
  | .scmpu c d a b => Sys2Proof.Machine.execScmpu c d a b s
  | .ssel d a b c => Sys2Proof.Machine.execSsel d a b c s
  | .spopc d a => Sys2Proof.Machine.execSpopc d a s
  | .sclz d a => Sys2Proof.Machine.execSclz d a s
  | .sld priv wide d a b => Sys2Proof.Machine.execSld priv wide d a b s
  | .sldk d mode off => Sys2Proof.Machine.execSldk d mode off s
  | .sget g d r => Sys2Proof.Machine.execSget g d r s
  | .sset r a => Sys2Proof.Machine.execSset r a s
  | .setfmt f => Sys2Proof.Machine.execSetfmt f s
  | .sreadlane d a lane => Sys2Proof.Machine.execSreadlane d a lane s
  | .vmov g d a => Sys2Proof.Machine.execVmov g d a s
  | .vmovi g d imm => Sys2Proof.Machine.execVmovi g d imm s
  | .vadd g d a b => Sys2Proof.Machine.execVadd g d a b s
  | .vaddi g d a imm => Sys2Proof.Machine.execVaddi g d a imm s
  | .vsub g d a b => Sys2Proof.Machine.execVsub g d a b s
  | .vmul g d a b => Sys2Proof.Machine.execVmul g d a b s
  | .vmulh g d a b => Sys2Proof.Machine.execVmulh g d a b s
  | .vmulhu g d a b => Sys2Proof.Machine.execVmulhu g d a b s
  | .vmad g d a b c => Sys2Proof.Machine.execVmad g d a b c s
  | .vand g d a b => Sys2Proof.Machine.execVand g d a b s
  | .vor g d a b => Sys2Proof.Machine.execVor g d a b s
  | .vxor g d a b => Sys2Proof.Machine.execVxor g d a b s
  | .vnot g d a => Sys2Proof.Machine.execVnot g d a s
  | .vshl g d a b => Sys2Proof.Machine.execVshl g d a b s
  | .vshr g d a b => Sys2Proof.Machine.execVshr g d a b s
  | .vsar g d a b => Sys2Proof.Machine.execVsar g d a b s
  | .vmin g d a b => Sys2Proof.Machine.execVmin g d a b s
  | .vmax g d a b => Sys2Proof.Machine.execVmax g d a b s
  | .vminu g d a b => Sys2Proof.Machine.execVminu g d a b s
  | .vmaxu g d a b => Sys2Proof.Machine.execVmaxu g d a b s
  | .vabs g d a => Sys2Proof.Machine.execVabs g d a s
  | .vneg g d a => Sys2Proof.Machine.execVneg g d a s
  | .vcmp c g d a b => Sys2Proof.Machine.execVcmp c g d a b s
  | .vcmpu c g d a b => Sys2Proof.Machine.execVcmpu c g d a b s
  | .vsel g d p b c => Sys2Proof.Machine.execVsel g d p b c s
  | .vpopc g d a => Sys2Proof.Machine.execVpopc g d a s
  | .vclz g d a => Sys2Proof.Machine.execVclz g d a s
  | .vbrev g d a => Sys2Proof.Machine.execVbrev g d a s
  | .vbfe uns g d a off width => Sys2Proof.Machine.execVbfe uns g d a off width s
  | .vbfi g d a off width => Sys2Proof.Machine.execVbfi g d a off width s
  | .vadd64 g d a b => Sys2Proof.Machine.execVadd64 g d a b s
  | .vsub64 g d a b => Sys2Proof.Machine.execVsub64 g d a b s
  | .vmul64 g d a b => Sys2Proof.Machine.execVmul64 g d a b s
  | .vshl64 g d a b => Sys2Proof.Machine.execVshl64 g d a b s
  | .pand g d a b => Sys2Proof.Machine.execPand g d a b s
  | .por g d a b => Sys2Proof.Machine.execPor g d a b s
  | .pxor g d a b => Sys2Proof.Machine.execPxor g d a b s
  | .pnot g d a => Sys2Proof.Machine.execPnot g d a s
  | .vfadd rnd g d a b => Sys2Proof.Machine.execVfadd rnd g d a b s
  | .vfsub rnd g d a b => Sys2Proof.Machine.execVfsub rnd g d a b s
  | .vfmul rnd g d a b => Sys2Proof.Machine.execVfmul rnd g d a b s
  | .vffma rnd g d a b c => Sys2Proof.Machine.execVffma rnd g d a b c s
  | .vfmin g d a b => Sys2Proof.Machine.execVfmin g d a b s
  | .vfmax g d a b => Sys2Proof.Machine.execVfmax g d a b s
  | .vfabs g d a => Sys2Proof.Machine.execVfabs g d a s
  | .vfneg g d a => Sys2Proof.Machine.execVfneg g d a s
  | .vfcmp c g d a b => Sys2Proof.Machine.execVfcmp c g d a b s
  | .vfclass g d a => Sys2Proof.Machine.execVfclass g d a s
  | .vfdiv rnd g d a b => Sys2Proof.Machine.execVfdiv rnd g d a b s
  | .vfsqrt rnd g d a => Sys2Proof.Machine.execVfsqrt rnd g d a s
  | .vfrcp rnd g d a => Sys2Proof.Machine.execVfrcp rnd g d a s
  | .vfrsq rnd g d a => Sys2Proof.Machine.execVfrsq rnd g d a s
  | .vfexp2 rnd g d a => Sys2Proof.Machine.execVfexp2 rnd g d a s
  | .vflog2 rnd g d a => Sys2Proof.Machine.execVflog2 rnd g d a s
  | .vfsinpi rnd g d a => Sys2Proof.Machine.execVfsinpi rnd g d a s
  | .vfcospi rnd g d a => Sys2Proof.Machine.execVfcospi rnd g d a s
  | .vfrnd rnd g d a => Sys2Proof.Machine.execVfrnd rnd g d a s
  | .vhadd rnd g d a b => Sys2Proof.Machine.execVhadd rnd g d a b s
  | .vhmul rnd g d a b => Sys2Proof.Machine.execVhmul rnd g d a b s
  | .vhfma rnd g d a b c => Sys2Proof.Machine.execVhfma rnd g d a b c s
  | .vbadd rnd g d a b => Sys2Proof.Machine.execVbadd rnd g d a b s
  | .vbmul rnd g d a b => Sys2Proof.Machine.execVbmul rnd g d a b s
  | .vbfma rnd g d a b c => Sys2Proof.Machine.execVbfma rnd g d a b c s
  | .vcvt rnd dt sty g d a => Sys2Proof.Machine.execVcvt rnd dt sty g d a s
  | .vshfl g d a lane fb => Sys2Proof.Machine.execVshfl g d a lane fb s
  | .vbcast g d a lane => Sys2Proof.Machine.execVbcast g d a lane s
  | .vvote g d v => Sys2Proof.Machine.execVvote g d v s
  | .vballot g d a => Sys2Proof.Machine.execVballot g d a s
  | .vscan op ty excl g d a => Sys2Proof.Machine.execVscan op ty excl g d a s
  | .vreduce op ty g d a => Sys2Proof.Machine.execVreduce op ty g d a s
  | .vcompact g d a p => Sys2Proof.Machine.execVcompact g d a p s
  | .ld sz sp h home q g d a b => Sys2Proof.Machine.execLd sz sp h home q g d a b s
  | .ldu stash wide h home q d a b => Sys2Proof.Machine.execLdu stash wide h home q d a b s
  | .loadDataArrives t op => Sys2Proof.Machine.execLoadDataArrives t op s
  | .st sz sp rule fsum g a b c => Sys2Proof.Machine.execSt sz sp rule fsum g a b c s
  | .stf sz stash rule q g d a b c => Sys2Proof.Machine.execStf sz stash rule q g d a b c s
  | .stl rule g a b c => Sys2Proof.Machine.execStl rule g a b c s
  | .pref h home g a b => Sys2Proof.Machine.execPref h home g a b s
  | .stepw => Sys2Proof.Machine.execStepw s
  | .stepg => Sys2Proof.Machine.execStepg s
  | .pause n => Sys2Proof.Machine.execPause n s
  | .tdef t lo hi => Sys2Proof.Machine.execTdef t lo hi s
  | .tfree t => Sys2Proof.Machine.execTfree t s
  | .tstate d t => Sys2Proof.Machine.execTstate d t s
  | .cpin t a b fc => Sys2Proof.Machine.execCpin t a b fc s
  | .cpout rule free zero a t fc => Sys2Proof.Machine.execCpout rule free zero a t fc s
  | .cptt d x fc => Sys2Proof.Machine.execCptt d x fc s
  | .copyLineLands h c line => Sys2Proof.Machine.execCopyLineLands h c line s
  | .cwait fc n => Sys2Proof.Machine.execCwait fc n s
  | .wbind w a => Sys2Proof.Machine.execWbind w a s
  | .wunbind w => Sys2Proof.Machine.execWunbind w s
  | .pin d base bytes => Sys2Proof.Machine.execPin d base bytes s
  | .unpin a => Sys2Proof.Machine.execUnpin a s
  | .mmip q d a b ri => Sys2Proof.Machine.execMmip q d a b ri s
  | .mmop q d a b ri => Sys2Proof.Machine.execMmop q d a b ri s
  | .mmrw q d a ri => Sys2Proof.Machine.execMmrw q d a ri s
  | .mmldb q a => Sys2Proof.Machine.execMmldb q a s
  | .mmzero q d => Sys2Proof.Machine.execMmzero q d s
  | .mmlda df q a ri => Sys2Proof.Machine.execMmlda df q a ri s
  | .mmdrain rnd relu bias q d a sa sb => Sys2Proof.Machine.execMmdrain rnd relu bias q d a sa sb s
  | .vqlut tbl q a => Sys2Proof.Machine.execVqlut tbl q a s
  | .spdg q m w g n => Sys2Proof.Machine.execSpdg q m w g n s
  | .grateStart h => Sys2Proof.Machine.execGrateStart h s
  | .grateCompletion h => Sys2Proof.Machine.execGrateCompletion h s
  | .fbopen wide stash vt d c v l => Sys2Proof.Machine.execFbopen wide stash vt d c v l s
  | .fbadv upTo d n => Sys2Proof.Machine.execFbadv upTo d n s
  | .fbend d a => Sys2Proof.Machine.execFbend d a s
  | .fbclose d => Sys2Proof.Machine.execFbclose d s
  | .fbrd val q d a => Sys2Proof.Machine.execFbrd val q d a s
  | .fbrdDataArrives t op => Sys2Proof.Machine.execFbrdDataArrives t op s
  | .br tgt => Sys2Proof.Machine.execBr tgt s
  | .brc g tgt jn ej => Sys2Proof.Machine.execBrc g tgt jn ej s
  | .jt a tgt jn ej => Sys2Proof.Machine.execJt a tgt jn ej s
  | .join => Sys2Proof.Machine.execJoin s
  | .call l tgt => Sys2Proof.Machine.execCall l tgt s
  | .ret l => Sys2Proof.Machine.execRet l s
  | .exit g => Sys2Proof.Machine.execExit g s
  | .trap g code => Sys2Proof.Machine.execTrap g code s
  | .bkpt g tag => Sys2Proof.Machine.execBkpt g tag s
  | .rte => Sys2Proof.Machine.execRte s
  | .live n => Sys2Proof.Machine.execLive n s
  | .nop => Sys2Proof.Machine.execNop s
  | .mark v => Sys2Proof.Machine.execMark v s
  | .launch a => Sys2Proof.Machine.execLaunch a s
  | .evsig e => Sys2Proof.Machine.execEvsig e s
  | .csrr d r => Sys2Proof.Machine.execCsrr d r s
  | .csrw r a => Sys2Proof.Machine.execCsrw r a s
  | .handoverComplete t target => Sys2Proof.Machine.execHandoverComplete t target s
  | .emberRejoin t => Sys2Proof.Machine.execEmberRejoin t s
  | .gridStepClose g => Sys2Proof.Machine.execGridStepClose g s
  | .groupStepClose p => Sys2Proof.Machine.execGroupStepClose p s
  | .stepWatchdog grid n => Sys2Proof.Machine.execStepWatchdog grid n s
  | .hangWatchdog c => Sys2Proof.Machine.execHangWatchdog c s
  | .rejoinTimeout t => Sys2Proof.Machine.execRejoinTimeout t s
  | .queueDoorbell die page q val => Sys2Proof.Machine.execQueueDoorbell die page q val s
  | .eventClearDoorbell die page val => Sys2Proof.Machine.execEventClearDoorbell die page val s
  | .packetTake => Sys2Proof.Machine.execPacketTake s
  | .gridPlace => Sys2Proof.Machine.execGridPlace s
  | .groupPlaceDeferred => Sys2Proof.Machine.execGroupPlaceDeferred s
  | .gridComplete g => Sys2Proof.Machine.execGridComplete g s
  | .ctxCreate die c => Sys2Proof.Machine.execCtxCreate die c s
  | .ctxDestroy die c => Sys2Proof.Machine.execCtxDestroy die c s
  | .queueSet die c => Sys2Proof.Machine.execQueueSet die c s
  | .preempt die c => Sys2Proof.Machine.execPreempt die c s
  | .saveBegin c => Sys2Proof.Machine.execSaveBegin c s
  | .saveDone c => Sys2Proof.Machine.execSaveDone c s
  | .pretmoExpiry c => Sys2Proof.Machine.execPretmoExpiry c s
  | .cpytmoExpiry c => Sys2Proof.Machine.execCpytmoExpiry c s
  | .savetmoExpiry c => Sys2Proof.Machine.execSavetmoExpiry c s
  | .restore die c => Sys2Proof.Machine.execRestore die c s
  | .restoreStart base => Sys2Proof.Machine.execRestoreStart base s
  | .restoreDone base => Sys2Proof.Machine.execRestoreDone base s
  | .invalidate die c => Sys2Proof.Machine.execInvalidate die c s
  | .invalidateComplete die => Sys2Proof.Machine.execInvalidateComplete die s
  | .waveResume die c => Sys2Proof.Machine.execWaveResume die c s
  | .connDown die c => Sys2Proof.Machine.execConnDown die c s
  | .connUp die c => Sys2Proof.Machine.execConnUp die c s
  | .connSetWl die c => Sys2Proof.Machine.execConnSetWl die c s
  | .circuitDrained f peer => Sys2Proof.Machine.execCircuitDrained f peer s
  | .circuitUp f peer => Sys2Proof.Machine.execCircuitUp f peer s
  | .powerPstate die c => Sys2Proof.Machine.execPowerPstate die c s
  | .pstateChangeDone die => Sys2Proof.Machine.execPstateChangeDone die s
  | .powerBudget die c => Sys2Proof.Machine.execPowerBudget die c s
  | .powerIdle die c => Sys2Proof.Machine.execPowerIdle die c s
  | .cfgDtbase die c => Sys2Proof.Machine.execCfgDtbase die c s
  | .cfgDtsize die c => Sys2Proof.Machine.execCfgDtsize die c s
  | .cfgRlbase die c => Sys2Proof.Machine.execCfgRlbase die c s
  | .cfgRlsize die c => Sys2Proof.Machine.execCfgRlsize die c s
  | .cfgElbase die c => Sys2Proof.Machine.execCfgElbase die c s
  | .cfgElsize die c => Sys2Proof.Machine.execCfgElsize die c s
  | .cfgCpytmo die c => Sys2Proof.Machine.execCfgCpytmo die c s
  | .cfgSavetmo die c => Sys2Proof.Machine.execCfgSavetmo die c s
  | .cfgPretmo die c => Sys2Proof.Machine.execCfgPretmo die c s
  | .cfgCxltmo die c => Sys2Proof.Machine.execCfgCxltmo die c s
  | .cfgPeertmo die c => Sys2Proof.Machine.execCfgPeertmo die c s
  | .cfgActmax die c => Sys2Proof.Machine.execCfgActmax die c s
  | .cfgSteplimit die c => Sys2Proof.Machine.execCfgSteplimit die c s
  | .cfgHanglimit die c => Sys2Proof.Machine.execCfgHanglimit die c s
  | .cfgCtxcfg die c => Sys2Proof.Machine.execCfgCtxcfg die c s
  | .cfgTba die c => Sys2Proof.Machine.execCfgTba die c s
  | .cfgFpolicy die c => Sys2Proof.Machine.execCfgFpolicy die c s
  | .countsRead die c => Sys2Proof.Machine.execCountsRead die c s
  | .dieReset die c => Sys2Proof.Machine.execDieReset die c s
  | .functionLevelReset die => Sys2Proof.Machine.execFunctionLevelReset die s
  | .moduleReset die c => Sys2Proof.Machine.execModuleReset die c s
  | .notifySet die c => Sys2Proof.Machine.execNotifySet die c s
  | .inboxSet die c => Sys2Proof.Machine.execInboxSet die c s
  | .peerId die c => Sys2Proof.Machine.execPeerId die c s
  | .flashWrite die c => Sys2Proof.Machine.execFlashWrite die c s
  | .bar0WriteOther die off val => Sys2Proof.Machine.execBar0WriteOther die off val s
  | .hostMemoryRequest die write addr data => Sys2Proof.Machine.execHostMemoryRequest die write addr data s
  | .peerLineArrives port o data => Sys2Proof.Machine.execPeerLineArrives port o data s
  | .peerLineAck h c line => Sys2Proof.Machine.execPeerLineAck h c line s
  | .peerLineTimeout h c line => Sys2Proof.Machine.execPeerLineTimeout h c line s
  | .cxlTimeout t op => Sys2Proof.Machine.execCxlTimeout t op s
  | .cxlLinkDown port => Sys2Proof.Machine.execCxlLinkDown port s
  | .pageWalk die c va => Sys2Proof.Machine.execPageWalk die c va s
  | .pinFadePeriod c pin => Sys2Proof.Machine.execPinFadePeriod c pin s
  | .hbmAccess stack bank row write => Sys2Proof.Machine.execHbmAccess stack bank row write s
  | .hbmRefresh stack bank hints => Sys2Proof.Machine.execHbmRefresh stack bank hints s
  | .retryReissue stack bank => Sys2Proof.Machine.execRetryReissue stack bank s
  | .dieTrip die overTemp => Sys2Proof.Machine.execDieTrip die overTemp s
  | .flueDieTrip f overTemp => Sys2Proof.Machine.execFlueDieTrip f overTemp s
  | .powerOn => Sys2Proof.Machine.execPowerOn s
  | .powerGoodTimeout => Sys2Proof.Machine.execPowerGoodTimeout s
  | .powerGood => Sys2Proof.Machine.execPowerGood s
  | .cxlLinkUp port => Sys2Proof.Machine.execCxlLinkUp port s
  | .peerLinkPortDown f => Sys2Proof.Machine.execPeerLinkPortDown f s
  | .peerLinkPortUp f => Sys2Proof.Machine.execPeerLinkPortUp f s
  | .tdispStateChange die sty => Sys2Proof.Machine.execTdispStateChange die sty s
  | .ideStreamKeyed die => Sys2Proof.Machine.execIdeStreamKeyed die s
  | .unknownCommandCode die c => Sys2Proof.Machine.execUnknownCommandCode die c s
  | .cmddbWriteWhileBusy die => Sys2Proof.Machine.execCmddbWriteWhileBusy die s
  | .pauseEnd t => Sys2Proof.Machine.execPauseEnd t s
  | .refreshEnd stack bank => Sys2Proof.Machine.execRefreshEnd stack bank s

end Sys2Proof.Machine
end

