-- ==== Sys2Proof/Machine/Schedule.lean ====
section
/-! DEFINITION. The default order of events (log 1): with the agenda empty and no clause under way, which event comes
next. The issue selector of each pipe follows 18 R300 and R301. -/

namespace Sys2Proof.Machine

/-! ## Clause starts -/

/-- The first line, of those from the `n`th on, that starts a clause. -/
def State.nextClause (s : State) : List (Nat × Nat) → State × Option Instr
  | [] => (s, none)
  | k :: r =>
    match s.lineNext k with
    | (s', some t) => (s', some (.clauseStart t))
    | (s', none) => s'.nextClause r

/-! ## Events of the engines -/

/-- Events of threads: data arrives, hand-overs and rejoins, the end of a PAUSE, REJOIN's count. -/
def State.threadEvents (s : State) : List Instr :=
  s.threads.flatMap fun (x : Nat × Thread) =>
    let w := x.2
    (w.ops.filterMap fun o => match o.kind with
      | .stf _ _ _ _ _ => none
      | .load _ => if s.farReached w.die o.far then some (.loadDataArrives x.1 o.uid) else none
      | .loadS _ _ => if s.farReached w.die o.far then some (.loadDataArrives x.1 o.uid) else none)
    ++ (match w.ember with
      | some e => (match e.phase with
        | .handover | .waiting => (w.stack.head?.map fun y => Instr.handoverComplete e.parent y.addr).toList
        | .rejoining => [.emberRejoin x.1]
        | .running => [])
      | none => [])
    ++ (if w.stack.any (s.pauseOver w) then [.pauseEnd x.1] else [])
    ++ (if s.rejoinDue w then [.rejoinTimeout x.1] else [])

/-- Events of hearths: a copy's next line, the grate's queue. -/
def State.hearthEvents (s : State) : List Instr :=
  s.hearths.flatMap fun (x : Nat × Hearth) =>
    ((s.copyTurn x.1).toList.flatMap fun c => (c.lines.find? (s.canMove x.1 c)).toList.map fun l =>
      Instr.copyLineLands x.1 c.uid l.1)
    ++ (if x.2.grate.isEmpty then [] else if x.2.running then [.grateCompletion x.1] else [.grateStart x.1])

/-- Closes, watchdogs and completions. -/
def State.stepEvents (s : State) : List Instr :=
  (s.grids.flatMap fun (x : Nat × Grid) =>
    (if s.gridArrived x.1 && !s.gridHeld x.1 x.2 then [Instr.gridStepClose x.1] else [])
    ++ (if (s.watchdogDue true x.1).isEmpty then [] else [.stepWatchdog true x.1])
    ++ (if s.gridDone x.1 then [.gridComplete x.1] else []))
  ++ (s.groups.flatMap fun (x : Nat × Group) =>
    (if s.groupArrived x.1 && !s.groupHeld x.1 then [Instr.groupStepClose x.1] else [])
    ++ (if (s.watchdogDue false x.1).isEmpty then [] else [.stepWatchdog false x.1]))

/-- Saves, time-outs and the hang watchdog of contexts; restores. -/
def State.contextEvents (s : State) : List Instr :=
  (s.contexts.flatMap fun (x : Nat × Context) =>
    (if s.hangDue x.1 then [Instr.hangWatchdog x.1] else [])
    ++ (x.2.pins.filterMap fun p => if s.msPassed p.2.since 1 then some (Instr.pinFadePeriod x.1 p.1) else none)
    ++ match x.2.saving with
      | none => []
      | some v =>
        if v.begun then [.cpytmoExpiry x.1, .savetmoExpiry x.1, .saveDone x.1] else [.pretmoExpiry x.1, .saveBegin x.1])
  ++ s.saves.flatMap fun (x : Nat × SaveImage) =>
    if x.2.started then [.restoreDone x.1] else if x.2.queued then [.restoreStart x.1] else []

/-- Commands that run on, circuits, stacks. -/
def State.unitEvents (s : State) : List Instr :=
  ((List.range 16).flatMap fun d =>
    (match (s.die d).inval with
      | some v => if s.invalBusy v then [] else [Instr.invalidateComplete d]
      | none => [])
    ++ (if (s.die d).pstateNext.isSome then [.pstateChangeDone d] else []))
  ++ ((List.range 4).flatMap fun f => (s.flue f).conn.filterMap fun e => match e.2.state with
    | .setup => some (Instr.circuitUp f e.1)
    | .drain => if s.inFlight f e.1 then none else some (.circuitDrained f e.1)
    | .down => none
    | .up => none)
  ++ (List.range 16).flatMap fun k => (s.stack k).banks.flatMap fun b =>
    (if b.2.refreshing then [Instr.refreshEnd k b.1] else [])
      ++ (if b.2.waiting.head?.any fun q => decide (q.due.toNat ≤ s.time.toNat) then [.retryReissue k b.1] else [])

/-- The launch scheduler: waiting groups before a taken packet's first round, and that before the next packet. -/
def State.launchEvents (s : State) : List Instr :=
  if s.waitingGrids.head?.any fun k => (s.placeNext k).isSome then [.groupPlaceDeferred]
  else if s.taken.isSome then (if s.firstRound.isSome then [.gridPlace] else [])
  else if s.pickHead.isSome then [.packetTake] else []

/-- Every event that may come about by itself: those that the host, a peer or the outside world brings stand on the agenda
alone. -/
def State.events' (s : State) : List Instr :=
  s.threadEvents ++ s.hearthEvents ++ s.stepEvents ++ s.contextEvents ++ s.unitEvents ++ s.launchEvents

/-- The events in turn. -/
def State.nextEvent (s : State) : Option Instr :=
  let l := s.events'
  if l.isEmpty then none else l[(s.turn / 8 + s.turn % 8) % l.length]?

/-- A list from its nth member on, cyclically. -/
def rotateBy {α : Type} (n : Nat) (l : List α) : List α := l.drop (n % max 1 l.length) ++ l.take (n % max 1 l.length)

/-- What comes next: clause starts have seven turns of eight and the engines' events the eighth, and one that has nothing
yields. -/
def State.schedule (s : State) : State × Option Instr :=
  let c := s.nextClause (rotateBy (s.turn / 8 * 7 + s.turn % 8) s.lines)
  if s.turn % 8 = 7 then
    match s.nextEvent with
    | some i => (s, some i)
    | none => c
  else
    match c with
    | (s', some i) => (s', some i)
    | (s', none) => (s', s.nextEvent)

end Sys2Proof.Machine
end

