-- ==== Sys2Proof/Machine/Step.lean ====
section
/-! DEFINITION. One step of the machine, and the state that runs a given instruction next. -/

namespace Sys2Proof.Machine

/-- The thread whose clause goes on: the current one, else the first in the middle of a clause. -/
def State.midway (s : State) : Option (Nat × Thread) :=
  match s.cur.bind fun t => (s.thread? t).map fun w => (t, w) with
  | some (t, w) => if s.goesOn w then some (t, w) else s.threads.find? fun x => s.goesOn x.2
  | none => s.threads.find? fun x => s.goesOn x.2

/-- What issues next: that thread, or for an ember lane the context that its core comes to (10 R242). -/
def State.turn? (s : State) : Option (Nat × Thread) :=
  match s.midway with
  | none => none
  | some (t, w) => match w.ember with
    | none => some (t, w)
    | some e => s.coreTurn e.core

/-- The thread that issues next. -/
def State.issuer (s : State) : Option (Nat × Thread) := s.turn?.filter fun x => s.goesOn x.2

/-- The context whose turn it is to start a clause. -/
def State.starter (s : State) : Option Nat := (s.turn?.filter fun x => !s.goesOn x.2).map (·.1)

/-- The next instruction of a thread's clause (05 R87). -/
def State.runThread (s : State) (t : Nat) (w : Thread) : Host.Outcome State Fault Refusal :=
  if w.badCtl then .next (s.ctlLost t w)
  else match s.path? w, w.clause with
  | some e, some c =>
    match s.fetch w e c with
    | .instr i => exec i ((s.noteRead w e c.here 8).turnTo t w)
    | .trap k => .next (s.trapOver (s.noteRead w e c.here 8) t w c k)
    | .wait => .next (s.stallHere t w)
  | _, _ => .next (s.setThread t { w with clause := none })

/-- An event of the agenda or of the default order, which may end stalls. An encoded instruction is no event, and nothing
comes of it. -/
def State.runEvent (s : State) (i : Instr) : Host.Outcome State Fault Refusal :=
  if i.encoded then .next s
  else match exec i s with
    | .next s' => .next s'.unstall
    | .fault r => .fault r
    | .refused r => .refused r

/-- One step (log 1): the first event of the agenda; with none, the next instruction of a clause under way; with none,
the event that the default order names, if any (Machine/Schedule.lean). -/
def step (s : State) : Host.Outcome State Fault Refusal :=
  let s := s.pass
  match s.agenda with
  | i :: r => State.runEvent { s with agenda := r } i
  | [] =>
    match s.issuer with
    | some (t, w) => s.runThread t w
    | none => match s.starter with
      | some t => State.runEvent s (.clauseStart t)
      | none => match s.schedule with
      | (s', some i) => State.runEvent { s' with turn := s.turn + 1 } i
      | (s', none) => .next { s'.unstall with turn := s.turn + 1 }

/-! ## The state that runs a given instruction next -/

/-- A kernel with every register, tile and byte of stash that a launch can size (18 Table 18.1). -/
def benchDesc : KDesc where
  code := 0x1000#64
  ltab := 0#64
  csize := 0x1000
  arglen := 0
  lcount := 0
  width := 0
  vregs := 32
  sregs := 8
  stash := 4096
  tiles := 64
  accs := 8
  copywave := 0
  eject := 0
  rejoin := 0
  stepping := true

def benchPacket : Packet where
  kdesc := 0x800#64
  karg := 0#64
  seed := 0#64
  pbase := 0x100000#64
  cpladdr := 0#64
  n := 32
  dtsel := 0
  diemask := 1#16
  privsz := 256
  vm1 := 0
  queue := 0
  prio := 0
  det := false
  step := true
  ovr := false
  copywave := 0
  e := 0
  rejoin := 0
  wait0 := 0#16
  wait1 := 0#16
  sigev := 0#16
  sigv := false
  w1v := false
  w0v := false
  spilln := 0

def benchGrid : Grid where
  ctx := 1
  desc := benchDesc
  pkt := benchPacket
  pktAddr := 0#64
  queue := 0
  copywave := 0
  e := 0
  rejoin := 0
  args := []
  order := 0
  nextGroup := 1
  lastHearth := some 0
  started := true
  trace := none
  placed := []
  traceWritten := true
  closed := 0#32
  reached := 0#32
  pend := []
  sysops := []
  logRes := []
  rlRes := []
  commitFault := false
  watch := 0
  stopAt := none
  stopLive := false
  stopNow := false

def benchGroup : Group where
  grid := 1
  gix := 0
  die := 0
  hearth := 0
  stash := []
  tiles := []
  closed := 0#32
  reached := 0#32
  pend := []
  rlRes := []
  watch := 0
  badStash := []

def benchContext : Context where
  dieset := 1#16
  dbpage := 0
  root := 0x10000#64
  tba := 0x2000#64
  fpolicy := 0#64
  ctxcfg := 0#64
  steplimit := 0#64
  hanglimit := 0#64
  clbase := 0#64
  clsize := 0x10000#64
  queues := []
  windows := []
  pins := []
  pinRel := 0
  pinRef := 0
  status := .running
  saving := none
  restoring := false
  lastRetire := 0#64

/-- A clause of one instruction of class `eng` at 0x1000, its flags q0 and q1 valid. -/
def benchClause (eng : Nat) : Clause where
  hdr := 0x1000#64
  cnt := 0
  ix := 0
  eng := eng
  wait := 0#12
  sa := true
  qa := 0#4
  sb := true
  qb := 1#4

def benchEntry : Entry where
  mask := 0xFFFFFFFF#128
  icnt := 0#64
  pc := fieldOf 0x1010#64
  join := BitVec.allOnes 56
  gstep := 0#32
  wstep := 0#32
  fmt := 0#32
  flg := 0#5
  st := .running
  ej := false

/-- A wave of 32 lanes as placed (03 R43), at the only instruction of a clause. -/
def benchThread (eng : Nat) : Thread where
  ctx := 1
  grid := 1
  group := 1
  wix := 0
  die := 0
  hearth := 0
  pipe := 0
  slot := 0
  ember := none
  launched := 0xFFFFFFFF#128
  exited := 0#128
  v := []
  s := []
  p := []
  acc := []
  f := []
  fc := []
  stack := [benchEntry]
  spilled := 0
  susp := none
  gcnt := 0#32
  wcnt := 0#32
  clause := some (benchClause eng)
  faultmask := 0#128
  trapcause := 0#64
  trappc := 0#64
  trapaddr := 0#64
  eject := 0#4
  tsp := 0x1000#64
  tscratch := 0#64
  handler := false
  hcause := none
  live := none
  ops := []
  owed := []
  held := []
  stalled := false
  halted := false
  stopped := false
  whole := false
  promo := false
  ready := none
  cpoutNo := 0
  cpoutStep := 0#32
  rejoinCount := 0
  gwatch := 0
  wwatch := 0
  badV := []
  badS := []
  badAcc := []

/-- `s` with a wave on die 0 that stands at the instruction whose bits are `w`, within a clause of its class: a context
with a page table that maps the first 64 MiB, a stepping grid of one wave, and the word in memory. It stands for the host
creating the context and launching the kernel (log 14). -/
def State.withFetchWord (s : State) (nbits w : Nat) : State :=
  let x := w % 2 ^ nbits
  let s := s.setDie 0 { s.die 0 with mode := .run, tdisp := .run, keyed := true }
  let s := (s.writeBytes 0x10000 (leBytes 8 0x8000000000020000)).writeBytes 0x20000 (leBytes 8 0xC000000004000000)
  let s := s.writeBytes 0x4001008 (leBytes 8 x)
  { s with
    agenda := []
    cur := some 1
    uid := 2
    contexts := [(1, benchContext)]
    grids := [(1, benchGrid)]
    groups := [(1, benchGroup)]
    threads := [(1, benchThread ((opcodeClass (bits x 55 9)).getD 0))] }

end Sys2Proof.Machine
end

