-- ==== Sys2Proof/Safety.lean ====
section
/-! DEFINITION. What counts as a safe run, and the words in which statements speak of one instruction: when it issues, what
its frame is, and what it writes. -/

namespace Sys2Proof

/-- A run of k steps from a state ends in a state. -/
def Completes (k : Nat) (s : Machine.State) : Prop := ∃ s', core.run k s = .next s'

/-- A run of any length from a state never faults and is never refused. -/
def Safe (s : Machine.State) : Prop := ∀ k, Completes k s

end Sys2Proof

namespace Sys2Proof.Machine

/-- Thread `t`, whose record is `w`, issues `i` on its running path `e` from its clause `c`: it is the current thread, `i`
passes the checks of 05 R87, and no register word of the thread is uncorrectable (23 R351). -/
structure Issues (s : State) (i : Instr) (t : Nat) (w : Thread) (e : Entry) (c : Clause) : Prop where
  cur : s.cur = some t
  thread : s.thread? t = some w
  path : s.path? w = some e
  clause : w.clause = some c
  passes : s.issueTrap w e c i = none
  soundV : w.badV = []
  soundS : w.badS = []

/-- The thread holds its whole stack: nothing of it stands in the spill area of memory (03 R44). -/
def Thread.stackHeld (w : Thread) : Prop := w.spilled = 0 ∧ w.stack.length ≤ 16

/-- Everything of the machine beside its threads, memory, the caches and the records of memory's errors is as before, but for the counts
that every retirement advances: the hang watchdog's and, in deterministic mode, the step watchdogs' (10 R245, R246). -/
structure Kept (s s' : State) : Prop where
  rest : { s' with cur := s.cur, mem := s.mem, hostMem := s.hostMem, dies := s.dies, badMem := s.badMem, badL3 := s.badL3
                   caches := s.caches
                   contexts := s.contexts, grids := s.grids, groups := s.groups, threads := s.threads } = s
  contexts : ∀ k x, s.context? k = some x → ∃ r, s'.context? k = some { x with lastRetire := r }
  grids : ∀ k x, s.grid? k = some x → ∃ n, s'.grid? k = some { x with watch := n }
  groups : ∀ k x, s.group? k = some x → ∃ n, s'.group? k = some { x with watch := n }

/-- A thread without its v, s and p registers, its stack and its place in its clause. -/
def Thread.rest (w : Thread) : Thread :=
  { w with v := [], s := [], p := [], badV := [], badS := [], stack := [], spilled := 0, clause := none
           ember := w.ember.map fun m => { m with atStepg := false } }

/-- One more instruction has retired on the path `e` of thread `t` (03 R42), which is `x` afterwards: beside its v, s and p
registers `x` is `w`, with `f` applied to the path's own copies of FMT and FPFLAGS. No byte of memory has changed and no die,
unless the thread's stack has entries in the spill area, which are written back, with the records of what cannot be (03 R44, 22
R335, 23 R352); another thread has changed only in REJOIN's count (10 R238). -/
structure Runs (s s' : State) (t : Nat) (w x : Thread) (e : Entry) (f : Entry → Entry) : Prop where
  thread : s'.thread? t = some x
  rest : x.rest = w.rest
  path : w.stackHeld → s'.path? x = some (f { e with icnt := e.icnt + 1 })
  memory : w.stackHeld → ∀ a, s'.readByte a = s.readByte a
  units : w.stackHeld → s'.dies = s.dies ∧ s'.hostMem = s.hostMem ∧ s'.badMem = s.badMem ∧ s'.badL3 = s.badL3
    ∧ s'.caches = s.caches
  others : ∀ u y, u ≠ t → s.thread? u = some y → ∃ n, s'.thread? u = some { y with rejoinCount := n }

/-- What an instruction leaves that changes nothing beside its own thread. -/
structure RunsOn (s s' : State) (t : Nat) (w x : Thread) (e : Entry) (f : Entry → Entry) : Prop where
  kept : Kept s s'
  runs : Runs s s' t w x e f

/-- Lane `l` takes part: it is on the path and the guard passes there (06 R89). -/
def TakesPart (w : Thread) (e : Entry) (g : Guard) (l : Nat) : Bool :=
  e.mask.getLsbD l && ((w.preg g.p.toNat).getLsbD l != g.neg)

/-- `i` answers a next state in which the s register `d` holds `v`, and nothing else of the thread has changed. -/
def WritesS (s : State) (i : Instr) (t : Nat) (w : Thread) (e : Entry) (d : SReg) (v : DWord) : Prop :=
  ∃ s' x, exec i s = .next s' ∧ RunsOn s s' t w x e id
    ∧ (∀ r, x.sreg r = if r = d.toNat then v else w.sreg r)
    ∧ (∀ r l, x.vreg r l = w.vreg r l) ∧ ∀ r, x.preg r = w.preg r

/-- `i` answers a next state in which v register `d` holds `v l` in each lane `l` that takes part, and nothing else of the
thread has changed; `fl` is raised on the path (02 R30). -/
def WritesV (s : State) (i : Instr) (t : Nat) (w : Thread) (e : Entry) (g : Guard) (d : VReg) (v : Nat → Word)
    (fl : Fl) : Prop :=
  ∃ s' x, exec i s = .next s' ∧ RunsOn s s' t w x e (fun y => y.raise fl)
    ∧ (∀ r l, l < 128 → x.vreg r l = if r = d.toNat ∧ TakesPart w e g l = true then v l else w.vreg r l)
    ∧ (∀ r, x.sreg r = w.sreg r) ∧ ∀ r, x.preg r = w.preg r

/-- As `WritesV`, for an even pair: the low half in the even register, the high half in the odd one (03 R33). -/
def WritesPair (s : State) (i : Instr) (t : Nat) (w : Thread) (e : Entry) (g : Guard) (d : VReg) (v : Nat → DWord)
    (fl : Fl) : Prop :=
  ∃ s' x, exec i s = .next s' ∧ RunsOn s s' t w x e (fun y => y.raise fl)
    ∧ (∀ r l, l < 128 → x.vreg r l =
        if r = d.toNat ∧ TakesPart w e g l = true then (v l).extractLsb' 0 32
        else if r = d.toNat + 1 ∧ TakesPart w e g l = true then (v l).extractLsb' 32 32
        else w.vreg r l)
    ∧ (∀ r, x.sreg r = w.sreg r) ∧ ∀ r, x.preg r = w.preg r

/-- `i` answers a next state in which predicate `d` holds `b l` in each lane `l` that takes part, unless `d` is p0, which
takes no write (03 R34); nothing else of the thread has changed. -/
def WritesP (s : State) (i : Instr) (t : Nat) (w : Thread) (e : Entry) (g : Guard) (d : PReg) (b : Nat → Prop)
    (fl : Fl) : Prop :=
  ∃ s' x, exec i s = .next s' ∧ RunsOn s s' t w x e (fun y => y.raise fl)
    ∧ (∀ r l, l < 128 → ((x.preg r).getLsbD l = true ↔
        if r = d.toNat ∧ r ≠ 0 ∧ TakesPart w e g l = true then b l ∧ w.launched.getLsbD l = true
        else (w.preg r).getLsbD l = true))
    ∧ (∀ r, x.sreg r = w.sreg r) ∧ ∀ r l, x.vreg r l = w.vreg r l

/-- `i` answers a next state in which its thread is `w'`, past the instruction, with `f` applied to the path; `s1` is `s` with
what else the instruction does, and beside the thread nothing of `s1` has changed. -/
def Performs (s : State) (i : Instr) (s1 : State) (t : Nat) (w' : Thread) (e : Entry) (f : Entry → Entry) : Prop :=
  ∃ s' x, exec i s = .next s' ∧ RunsOn s1 s' t w' x e f
    ∧ (∀ r, x.sreg r = w'.sreg r) ∧ (∀ r l, x.vreg r l = w'.vreg r l) ∧ ∀ r, x.preg r = w'.preg r

/-- `i` stalls at issue: it has not issued, and its thread waits until another step of the machine ends the stall. -/
def Stalls (s : State) (i : Instr) (t : Nat) (w : Thread) : Prop :=
  exec i s = .next { s.setThread t { w with stalled := true } with cur := none }

/-- `i` takes a trap at its own address (05 R87, 08 R184), `l` being the lanes and addresses that did not translate where the cause is
PAGE: nothing of its effect happens. It waits until the home of its frame is reached (22 R337). -/
def TrapsAt (s : State) (i : Instr) (t : Nat) (w : Thread) (c : Clause) (k : TrapInfo) (l : List (Nat × DWord)) : Prop :=
  (s.trapReached w k.cause = true → exec i s = .next (s.takeTrapAt t w k c.here c.hdr l))
  ∧ (s.trapReached w k.cause = false → Stalls s i t w)

/-- As `TrapsAt`, where `s1` is `s` with what the reads that found the trap bring about. -/
def TrapsOver (s : State) (i : Instr) (s1 : State) (t : Nat) (w : Thread) (c : Clause) (k : TrapInfo) : Prop :=
  (s.trapReached w k.cause = true → exec i s = .next (s1.takeTrap t w k c.here c.hdr))
  ∧ (s.trapReached w k.cause = false → Stalls s i t w)

/-- As `TrapsAt`, with TRAPADDR the address that did not translate, if any. -/
def Traps (s : State) (i : Instr) (t : Nat) (w : Thread) (c : Clause) (k : TrapInfo) : Prop :=
  TrapsAt s i t w c k [(lowestLane k.mask, k.addr)]

/-- The lanes that take part, in ascending order. -/
def partLanes (w : Thread) (e : Entry) (g : Guard) : List Nat := (List.range 128).filter (TakesPart w e g)

/-! ## Results of the register instructions, as the tables of 06 give them -/

/-- Set bits of a word, counted. -/
def setBits {n : Nat} (x : BitVec n) : Nat := ((List.range n).filter fun i => x.getLsbD i).length
/-- Zero bits above the highest set bit of a word. -/
def zerosAbove {n : Nat} (x : BitVec n) : Nat := ((List.range n).takeWhile fun i => !x.getLsbD (n - 1 - i)).length

/-- What 06 R93, R94 and R100 write to sD. -/
def scalarResult (w : Thread) (e : Entry) : Instr → Option (SReg × DWord)
  | .smov d a => some (d, a.value w)
  | .smovi d i => some (d, i.signExtend 64)
  | .smovhi d i => some (d, i ++ (w.sreg d.toNat).extractLsb' 0 32)
  | .sadd d a b => some (d, a.value w + b.value w)
  | .saddi d a i => some (d, w.sreg a.toNat + i.signExtend 64)
  | .ssub d a b => some (d, a.value w - b.value w)
  | .smul d a b => some (d, a.value w * b.value w)
  | .smulh d a b => some (d, BitVec.ofInt 64 ((a.value w).toInt * (b.value w).toInt / 2 ^ 64))
  | .smulhu d a b => some (d, BitVec.ofNat 64 ((a.value w).toNat * (b.value w).toNat / 2 ^ 64))
  | .sand d a b => some (d, a.value w &&& b.value w)
  | .sor d a b => some (d, a.value w ||| b.value w)
  | .sxor d a b => some (d, a.value w ^^^ b.value w)
  | .snot d a => some (d, ~~~a.value w)
  | .sshl d a b => some (d, a.value w <<< (b.value w).toNat)
  | .sshr d a b => some (d, a.value w >>> (b.value w).toNat)
  | .ssar d a b => some (d, (a.value w).sshiftRight (b.value w).toNat)
  | .smin d a b => some (d, if (b.value w).slt (a.value w) then b.value w else a.value w)
  | .smax d a b => some (d, if (a.value w).slt (b.value w) then b.value w else a.value w)
  | .sminu d a b => some (d, if b.value w < a.value w then b.value w else a.value w)
  | .smaxu d a b => some (d, if a.value w < b.value w then b.value w else a.value w)
  | .scmp c d a b => some (d, if c.holds (a.value w).toInt (b.value w).toInt then 1#64 else 0#64)
  | .scmpu c d a b => some (d, if c.holds (a.value w).toNat (b.value w).toNat then 1#64 else 0#64)
  | .ssel d a b c => some (d, if a.value w = 0#64 then c.value w else b.value w)
  | .spopc d a => some (d, BitVec.ofNat 64 (setBits (w.sreg a.toNat)))
  | .sclz d a => some (d, BitVec.ofNat 64 (zerosAbove (w.sreg a.toNat)))
  | .sreadlane d a l => some (d, if (l.value w).toNat < 128 ∧ e.mask.getLsbD (l.value w).toNat = true
      then (w.vreg a.toNat (l.value w).toNat).setWidth 64 else 0#64)
  | _ => none

/-- VBFE and VBFI as 06 R102 writes them. -/
def bitField (uns : Bool) (a off width : Word) : Word :=
  let o := min off.toNat 32
  let n := min width.toNat 32
  let x := a >>> o
  if n = 0 then 0#32
  else
    let y := if n < 32 then x &&& BitVec.ofNat 32 (2 ^ n - 1) else x
    if uns = false ∧ y.getLsbD (n - 1) = true then y ||| ~~~BitVec.ofNat 32 (2 ^ n - 1) else y
def fieldInsert (d a off width : Word) : Word :=
  let o := min off.toNat 32
  let m := BitVec.ofNat 32 (2 ^ (min width.toNat 32) - 1) <<< o
  (d &&& ~~~m) ||| ((a <<< o) &&& m)

/-- What 06 R101, R102 and Table 6.3 write to vD in a lane. -/
def vectorResult (w : Thread) : Instr → Option (Guard × VReg × (Nat → Word))
  | .vmov g d a => some (g, d, fun l => a.value w l)
  | .vmovi g d i => some (g, d, fun _ => i)
  | .vadd g d a b => some (g, d, fun l => a.value w l + b.value w l)
  | .vaddi g d a i => some (g, d, fun l => w.vreg a.toNat l + i)
  | .vsub g d a b => some (g, d, fun l => a.value w l - b.value w l)
  | .vmul g d a b => some (g, d, fun l => a.value w l * b.value w l)
  | .vmulh g d a b => some (g, d, fun l => BitVec.ofInt 32 ((a.value w l).toInt * (b.value w l).toInt / 2 ^ 32))
  | .vmulhu g d a b => some (g, d, fun l => BitVec.ofNat 32 ((a.value w l).toNat * (b.value w l).toNat / 2 ^ 32))
  | .vmad g d a b c => some (g, d, fun l => a.value w l * b.value w l + c.value w l)
  | .vand g d a b => some (g, d, fun l => a.value w l &&& b.value w l)
  | .vor g d a b => some (g, d, fun l => a.value w l ||| b.value w l)
  | .vxor g d a b => some (g, d, fun l => a.value w l ^^^ b.value w l)
  | .vnot g d a => some (g, d, fun l => ~~~a.value w l)
  | .vshl g d a b => some (g, d, fun l => a.value w l <<< (b.value w l).toNat)
  | .vshr g d a b => some (g, d, fun l => a.value w l >>> (b.value w l).toNat)
  | .vsar g d a b => some (g, d, fun l => (a.value w l).sshiftRight (b.value w l).toNat)
  | .vmin g d a b => some (g, d, fun l => if (b.value w l).slt (a.value w l) then b.value w l else a.value w l)
  | .vmax g d a b => some (g, d, fun l => if (a.value w l).slt (b.value w l) then b.value w l else a.value w l)
  | .vminu g d a b => some (g, d, fun l => if b.value w l < a.value w l then b.value w l else a.value w l)
  | .vmaxu g d a b => some (g, d, fun l => if a.value w l < b.value w l then b.value w l else a.value w l)
  | .vabs g d a => some (g, d, fun l => if (w.vreg a.toNat l).slt 0#32 then -w.vreg a.toNat l else w.vreg a.toNat l)
  | .vneg g d a => some (g, d, fun l => -w.vreg a.toNat l)
  | .vsel g d p b c => some (g, d, fun l => if (w.preg p.toNat).getLsbD l then b.value w l else c.value w l)
  | .vpopc g d a => some (g, d, fun l => BitVec.ofNat 32 (setBits (w.vreg a.toNat l)))
  | .vclz g d a => some (g, d, fun l => BitVec.ofNat 32 (zerosAbove (w.vreg a.toNat l)))
  | .vbrev g d a => some (g, d, fun l => (w.vreg a.toNat l).reverse)
  | .vbfe u g d a o n => some (g, d, fun l => bitField u (w.vreg a.toNat l) (o.value w l) (n.value w l))
  | .vbfi g d a o n => some (g, d, fun l => fieldInsert (w.vreg d.toNat l) (w.vreg a.toNat l) (o.value w l) (n.value w l))
  | _ => none

/-- What 06 R103 writes to an even pair in a lane. -/
def pairResult (w : Thread) : Instr → Option (Guard × VReg × (Nat → DWord))
  | .vadd64 g d a b => some (g, d, fun l => a.value64 w l + b.value64 w l)
  | .vsub64 g d a b => some (g, d, fun l => a.value64 w l - b.value64 w l)
  | .vmul64 g d a b => some (g, d, fun l => a.value64 w l * b.value64 w l)
  | .vshl64 g d a b => some (g, d, fun l => w.vpair a.toNat l <<< (b.value w l).toNat)
  | _ => none

/-- What 06 R104 and R116 write to pD in a lane. -/
def predicateResult (w : Thread) (e : Entry) : Instr → Option (Guard × PReg × (Nat → Prop))
  | .vcmp c g d a b => some (g, d, fun l => c.holds (a.value w l).toInt (b.value w l).toInt = true)
  | .vcmpu c g d a b => some (g, d, fun l => c.holds (a.value w l).toNat (b.value w l).toNat = true)
  | .pand g d a b => some (g, d, fun l => (w.preg a.toNat).getLsbD l = true ∧ (w.preg b.toNat).getLsbD l = true)
  | .por g d a b => some (g, d, fun l => (w.preg a.toNat).getLsbD l = true ∨ (w.preg b.toNat).getLsbD l = true)
  | .pxor g d a b => some (g, d, fun l => (w.preg a.toNat).getLsbD l ≠ (w.preg b.toNat).getLsbD l)
  | .pnot g d a => some (g, d, fun l => (w.preg a.toNat).getLsbD l = false)
  | .vvote g d (.all p) => some (g, d, fun _ => ∀ k, k < 128 → TakesPart w e g k = true → (w.preg p.toNat).getLsbD k = true)
  | .vvote g d (.any p) => some (g, d, fun _ => ∃ k, k < 128 ∧ TakesPart w e g k = true ∧ (w.preg p.toNat).getLsbD k = true)
  | .vvote g d (.uni r) => some (g, d, fun _ => ∀ j k, j < 128 → k < 128 → TakesPart w e g j = true → TakesPart w e g k = true →
      w.vreg r.toNat j = w.vreg r.toNat k)
  | _ => none

/-- What 06 Tables 6.4 and 6.7 and R107, R109, R111 write to vD in a lane, FP32, with the flags that it raises. -/
def floatResult (s : State) (w : Thread) (e : Entry) : Instr → Option (Guard × VReg × (Nat → FRes))
  | .vfadd m g d a b => some (g, d, fun l => fp32.add m (s.srOf w e l 0) (fnum a w l) (fnum b w l))
  | .vfsub m g d a b => some (g, d, fun l => fp32.sub m (s.srOf w e l 0) (fnum a w l) (fnum b w l))
  | .vfmul m g d a b => some (g, d, fun l => fp32.mul m (s.srOf w e l 0) (fnum a w l) (fnum b w l))
  | .vffma m g d a b c => some (g, d, fun l => fp32.fma m (s.srOf w e l 0) (fnum a w l) (fnum b w l) (fnum c w l))
  | .vfmin g d a b => some (g, d, fun l => fminmax false (fnum a w l) (fnum b w l))
  | .vfmax g d a b => some (g, d, fun l => fminmax true (fnum a w l) (fnum b w l))
  | .vfabs g d a => some (g, d, fun l => ((w.vreg a.toNat l &&& 0x7FFFFFFF#32).toNat, flNone))
  | .vfneg g d a => some (g, d, fun l => ((w.vreg a.toNat l ^^^ 0x80000000#32).toNat, flNone))
  | .vfclass g d a => some (g, d, fun l => (fclass (w.vreg a.toNat l).toNat, flNone))
  | .vfdiv m g d a b => some (g, d, fun l => fdiv m (s.srOf w e l 0) (fnum a w l) (fnum b w l))
  | .vfsqrt m g d a => some (g, d, fun l => fsqrt m (s.srOf w e l 0) (fnum a w l))
  | .vfrcp m g d a => some (g, d, fun l => frcp m (s.srOf w e l 0) (fnum a w l))
  | .vfrsq m g d a => some (g, d, fun l => frsq m (s.srOf w e l 0) (fnum a w l))
  | .vfexp2 m g d a => some (g, d, fun l => fexp2 m (s.srOf w e l 0) (fnum a w l))
  | .vflog2 m g d a => some (g, d, fun l => flog2 m (s.srOf w e l 0) (fnum a w l))
  | .vfsinpi m g d a => some (g, d, fun l => fsinpi m (s.srOf w e l 0) (fnum a w l))
  | .vfcospi m g d a => some (g, d, fun l => fcospi m (s.srOf w e l 0) (fnum a w l))
  | .vfrnd m g d a => some (g, d, fun l => frnd m (s.srOf w e l 0) (w.vreg a.toNat l).toNat)
  | _ => none

/-- The FP16 and BF16 forms of 06 Table 6.4: element k of a lane, computed by itself. -/
def halfResult (s : State) (w : Thread) (e : Entry) : Instr → Option (Guard × VReg × (Nat → Nat → FRes))
  | .vhadd m g d a b => some (g, d, fun l k => fp16.add m (s.srOf w e l k) (hnum fp16 a k w l) (hnum fp16 b k w l))
  | .vhmul m g d a b => some (g, d, fun l k => fp16.mul m (s.srOf w e l k) (hnum fp16 a k w l) (hnum fp16 b k w l))
  | .vhfma m g d a b c => some (g, d, fun l k =>
      fp16.fma m (s.srOf w e l k) (hnum fp16 a k w l) (hnum fp16 b k w l) (hnum fp16 c k w l))
  | .vbadd m g d a b => some (g, d, fun l k => bf16.add m (s.srOf w e l k) (hnum bf16 a k w l) (hnum bf16 b k w l))
  | .vbmul m g d a b => some (g, d, fun l k => bf16.mul m (s.srOf w e l k) (hnum bf16 a k w l) (hnum bf16 b k w l))
  | .vbfma m g d a b c => some (g, d, fun l k =>
      bf16.fma m (s.srOf w e l k) (hnum bf16 a k w l) (hnum bf16 b k w l) (hnum bf16 c k w l))
  | _ => none

/-- `fl` is what the lanes that take part raise together (06 R89). -/
def RaisedBy (w : Thread) (e : Entry) (g : Guard) (f : Nat → Fl) (fl : Fl) : Prop :=
  ∀ k, k < 5 → (fl.getLsbD k = true ↔ ∃ l, l < 128 ∧ TakesPart w e g l = true ∧ (f l).getLsbD k = true)

/-- Elements 0 to n - 1 of a conversion, each at its place in the destination's 64 bits (06 R112). -/
def convertedWord (dt sty : ETy) (m : Rnd) (r : Nat → Nat) (x n : Nat) : Nat :=
  ((List.range n).map fun k => (convert dt sty m (r k) (x / 2 ^ (etyBits sty * k) % 2 ^ etyBits sty)).1 * 2 ^ (etyBits dt * k)).sum

/-- The exact order of values: no NaN is below or above anything, and the zeros are level. -/
def FVal.below : FVal → FVal → Prop
  | .fin n1 m1 e1, .fin n2 m2 e2 => scaled n1 m1 e1 (min e1 e2) < scaled n2 m2 e2 (min e1 e2)
  | .inf n, .fin _ _ _ => n = true
  | .fin _ _ _, .inf n => n = false
  | .inf n, .inf k => n = true ∧ k = false
  | .nan _ _ _, _ => False
  | .inf _, .nan _ _ _ => False
  | .fin _ _ _, .nan _ _ _ => False

end Sys2Proof.Machine

namespace Sys2Proof

open Machine

/-- The conditions of VFCMP under which a quiet NaN is invalid (06 R108). -/
def FCond.ordered : FCond → Bool
  | .lt | .le | .gt | .ge => true
  | .eq | .ne | .un | .ord => false

/-- 06 Table 6.5. -/
def FCond.meets (k : FCond) (x y : FVal) : Prop :=
  let un := (x.isNan || y.isNan) = true
  match k with
  | .eq => ¬ un ∧ ¬ x.below y ∧ ¬ y.below x
  | .ne => un ∨ x.below y ∨ y.below x
  | .lt => x.below y
  | .le => ¬ un ∧ ¬ y.below x
  | .gt => y.below x
  | .ge => ¬ un ∧ ¬ x.below y
  | .un => un
  | .ord => ¬ un

end Sys2Proof

namespace Sys2Proof.Machine

/-- The magnitude of a code, in units of the format's least subnormal (02 R13). -/
def Fmt.magUnits (f : Fmt) (k : Nat) : Nat :=
  if k / 2 ^ f.mb = 0 then k else (2 ^ f.mb + k % 2 ^ f.mb) * 2 ^ (k / 2 ^ f.mb - 1)

/-- Of a magnitude `x` above code k, where codes k and k + 1 lie `gap` apart, the rounding mode takes k + 1 (02 Table 2.5,
R23). -/
def goesUp (mode : Rnd) (neg : Bool) (r k x gap : Nat) : Bool :=
  match mode with
  | .rne => decide (gap < 2 * x ∨ (gap = 2 * x ∧ k % 2 = 1))
  | .rz => false
  | .ru => decide (x ≠ 0) && !neg
  | .rd => decide (x ≠ 0) && neg
  | .sr => decide (2 ^ 32 ≤ x * 2 ^ 32 / gap + r)

/-! ## Memory instructions -/

/-- What an access finds where nothing that it reads is lost: the first level that holds its line answers (13 R277). A global line of an L1
is as it was fetched; of a private one, of an L2's and at the home the bytes are memory's (log 97). -/
def State.Finds (s : State) (u : LineUse) (bs : List Byte) : Prop :=
  match s.l1Hit u with
  | some l => if l.priv = true then u.meets l.bad = false ∧ bs = s.readBytes u.pa u.n
      else bs = (l.bytes.drop (u.pa % 128)).take u.n
  | none => (s.l2Hit u = none → s.rangeLost u.pa u.n = none) ∧ bs = s.readBytes u.pa u.n

/-- The loss that an access finds, with the SRC of its record, and the bytes that it delivers: zeros, but of a dirty private line the bytes
of its other words (23 Table 23.1). -/
def State.Loses (s : State) (u : LineUse) (src : Nat) (bs : List Byte) : Prop :=
  match s.l1Hit u with
  | some l => l.priv = true ∧ u.meets l.bad = true ∧ src = 10
      ∧ bs = (List.range u.n).map fun i => if (u.pa + i) / 8 ∈ l.bad then 0#8 else s.readByte (u.pa + i)
  | none => s.l2Hit u = none ∧ bs = List.replicate u.n 0#8
      ∧ (s.rangeLost u.pa u.n = some src ∨
        (s.rangeLost u.pa u.n = none ∧ (cxlPortOf u.pa).isSome = true ∧ Config.cxlAnswers s.tick u.pa = false ∧ src = 2))

/-- What the L1s hold of private memory can be written back whole: no word of a line is lost, and no dirty granule's link is down. -/
def State.writesWhole (s : State) : Prop := ∀ x ∈ s.caches.l1, ∀ l ∈ x.2, l.bad = [] ∧ ∀ d ∈ l.dirty, s.linkDown d.pa = false

/-- The bytes that a lane's load finds, where nothing stands in its way: the access is aligned and its page may be read, and no word
that it reads is lost (07 R121, R124, R126); through a window it is the element that the index names, which its home reads (07 R128, 13
R276). HINT and HOME name the way (13 R278, R279). -/
def State.Reads (s : State) (w : Thread) (sp : Space) (h : Hint) (home : Option (BitVec 4)) (b : LdBase) (sz : Size) (lane : Nat)
    (a : DWord) (bs : List Byte) : Prop :=
  let o := (byteAddr sz a).toNat
  let clean := fun (pa n : Nat) => s.rangeLost pa n = none
  (sz ≠ .b4 → a.toNat % sz.bytes = 0) ∧
  match sp with
  | .global => ∃ pa leaf, s.access w.mmu w.ctx (byteAddr sz a) .read = .ok (pa, leaf)
      ∧ s.Finds (s.globalUse w (h != .stream) (h == .keep) home (byteAddr sz a) pa leaf sz.bytes) bs
  | .priv => ∃ pa leaf g, s.grid? w.grid = some g ∧ s.privPa w lane o sz.bytes .read = .ok (pa, leaf)
      ∧ s.Finds (privUse w (h != .stream) (privateVa g (s.gkey w lane) o) pa leaf sz.bytes) bs
  | .stash => ∃ g p, s.grid? w.grid = some g ∧ s.group? w.group = some p ∧ o + sz.bytes ≤ g.stashBytes
      ∧ p.busyAt w.wix o sz.bytes = false ∧ p.stashLost o sz.bytes = false
      ∧ bs = (List.range sz.bytes).map fun i => tget 0#8 p.stash (o + i)
  | .window => ∃ n d pi pa l1 l2, b = .w n ∧ s.window? w.ctx n.toNat = some d ∧ sz ≠ .b4 ∧ sz.bytes = winEsize d
      ∧ a.toNat / winEsize d < winLen d
      ∧ s.access w.mmu w.ctx (BitVec.ofNat 64 (winIbase d + 4 * (a.toNat / winEsize d))) .read = .ok (pi, l1)
      ∧ s.Finds (throughL2 w (BitVec.ofNat 64 (winIbase d + 4 * (a.toNat / winEsize d))) pi l1 4) (s.readBytes pi 4)
      ∧ leNat (s.readBytes pi 4) < winSlen d
      ∧ s.access w.mmu w.ctx (BitVec.ofNat 64 (winSbase d + leNat (s.readBytes pi 4) * winEsize d)) .read = .ok (pa, l2)
      ∧ clean pa sz.bytes ∧ bs = s.readBytes pa sz.bytes

/-- The k-th word that a lane's bytes put into its registers: little-endian, zero-extended; of a 4-bit access the nibble
that the address names (02 R12, 07 Table 7.1). -/
def loadedWord (sz : Size) (a : DWord) (bs : List Byte) (k : Nat) : Word :=
  if sz = .b4 then BitVec.ofNat 32 ((bs.getD 0 0#8).toNat / (if a.getLsbD 0 then 16 else 1) % 16)
  else BitVec.ofNat 32 (leNat ((bs.drop (4 * k)).take 4))

/-- The parts of an ST or STF: of an STF, its QSEL and its destination. -/
structure StoreForm where
  sz : Size
  sp : Space
  rule : Rule
  fsum : Bool
  g : Guard
  a : StBase
  b : Off
  v : VReg
  stf : Option (Bool × VReg)
deriving DecidableEq, Repr

def storeForm : Instr → Option StoreForm
  | .st sz sp rule fsum g a b v => some ⟨sz, sp, rule, fsum, g, a, b, v, none⟩
  | .stf sz stash rule q g d a b v => some ⟨sz, if stash then .stash else .global, rule, false, g, a, b, v, some (q, d)⟩
  | _ => none

/-- The address of a store in a lane (07 R119). -/
def StoreForm.addr (f : StoreForm) (w : Thread) (l : Nat) : DWord := f.a.value w l + BitVec.ofNat 64 (f.b.value w l)

/-- The writes that the lanes `ls` add to those pending, in ascending lane: `pa` gives each lane's place, `first` numbers
the first of them, `strict` says whose access is STRICT (07 R129, R131, 19 R317). -/
def StoreForm.writes (f : StoreForm) (s : State) (w : Thread) (step : Word) (ls : List Nat) (pa : Nat → Nat) (stf : Option Nat)
    (first : Nat) (strict : Nat → Bool) : List PWrite :=
  ((List.range ls.length).zip ls).map fun x =>
    { step := step, va := (byteAddr f.sz (f.addr w x.2)).toNat, pa := pa x.2
      nib := if f.sz = .b4 then some ((f.addr w x.2).getLsbD 0) else none
      data := storeBytes w f.sz f.v x.2, rule := f.rule, sum := sumTyOf f.rule f.sz f.fsum, w := ⟨s.gkey w x.2, 0, 0⟩
      stf := stf, order := first + x.1, die := w.die, strict := strict x.2 }

/-- Whether an access of n bytes at `pa` covers the address. -/
def covers (pa n a : Nat) : Prop := pa ≤ a ∧ a < pa + n

/-! ## The grate -/

/-- The number that n bytes of a group's stash hold, little-endian. -/
def Group.num (p : Group) (o n : Nat) : Nat := leNat ((List.range n).map fun i => tget 0#8 p.stash (o + i))

/-- A tile that an instruction reads is READY, no part of it lies in a tile that is moving, and its format is the code (09
R200). -/
def State.operandTile (s : State) (w : Thread) (p : Group) (n : TileNo) (code : Nat) : Prop :=
  s.tileFit w p n.toNat isReadyTile false false = .ok ∧ (p.tile n.toNat).ef = code
    ∧ p.rangeBusy (p.tile n.toNat).base (p.tile n.toNat).bytes = false

/-- A tile that an instruction writes may change: neither another tile that is moving nor a pending store lies in it (07
R153, R157). -/
def State.targetTile (s : State) (w : Thread) (e : Entry) (p : Group) (n : TileNo) : Prop :=
  let x := p.tile n.toNat
  s.tileFit w p n.toNat notMoving true false = .ok ∧ p.overlapsMoving n.toNat x.base x.bytes = false
    ∧ p.pendingIn e.wstep x.base x.bytes = false

/-- Two tiles that are not the same and share no byte. -/
def Group.apart (p : Group) (a b : TileNo) : Prop := a ≠ b ∧ tilesOverlap (p.tile a.toNat) (p.tile b.toNat) = false

/-- The ranges of global memory that an instruction captures as it issues, by slot: an open fibre's coordinates and values from
its position on, a row index's coordinates, a VQ2 image. A slot that is not read is empty (09 R199, R223). -/
def grateSlots (w : Thread) : Instr → List (Nat × Nat)
  | .mmip _ _ a b ri => globalSlots (srcFib w a) (srcFib w b) (ri.map fun r => w.freg r.toNat)
  | .mmop _ _ a b ri => globalSlots (srcFib w a) (srcFib w b) (ri.map fun r => w.freg r.toNat)
  | .mmrw _ _ a ri => globalSlots (srcFib w a) none (ri.map fun r => w.freg r.toNat)
  | .mmldb _ a => globalSlots none (srcFib w a) none
  | .mmlda _ _ a ri => globalSlots (srcFib w a) none (ri.map fun r => w.freg r.toNat)
  | .vqlut _ _ a => [(0, 0), ((w.sreg a.toNat).toNat, 1024)]
  | _ => []

/-- The queue of the hearth has taken the instruction: it stands at the end with its flag, FMT, EXEC and ICOUNT, the
destination tiles are in DRAINING, and its thread has retired it (09 R198, R201). Its global operands are captured through the caches,
lost words among them recorded (07 R126, 13 R277). -/
def Captured (s : State) (i : Instr) (t : Nat) (w : Thread) (e : Entry) (c : Clause) (q : Bool) (dests : List Nat) : Prop :=
  let reads := (grateSlots w i).map (s.slotReads w)
  ∃ o p, s.group? w.group = some p ∧ c.flag q = some o.flag
    ∧ (o.i = i ∧ o.t = t ∧ o.fmt = e.fmt ∧ o.exec = e.mask ∧ o.icnt = e.icnt ∧ o.gstep = e.gstep ∧ o.wstep = e.wstep)
    ∧ o.bytes = reads.map (fun l => l.flatMap (·.bytes)) ∧ o.since = s.time
    ∧ (∀ n ∈ dests, ∃ st, (n, st) ∈ o.prior ∧ (p.tile n).actual = st)
    ∧ Performs s i ({ (((s.noteEngine w e.gstep ((grateSlots w i).flatMap (s.spanUses w)) reads.flatten).touched w (grateSlots w i)).setGroup w.group
        (dests.foldl (fun p n => p.setTile n ((p.tile n).change w.wix .draining)) p)) with uid := s.uid + 1 }.modHearth w.home
          fun h => { h with grate := h.grate ++ [o] }) t w e id

/-- The matrix engine's instructions: QSEL and the tiles that they write. -/
def grateForm : Instr → Option (Bool × List Nat)
  | .mmip q _ _ _ _ => some (q, [])
  | .mmop q d _ _ _ => some (q, [d.toNat])
  | .mmrw q d _ _ => some (q, [d.toNat])
  | .mmldb q _ => some (q, [])
  | .mmzero q _ => some (q, [])
  | .mmlda _ q _ _ => some (q, [])
  | .mmdrain _ _ _ q d _ _ _ => some (q, [d.toNat])
  | .vqlut _ q _ => some (q, [])
  | .spdg q m n _ _ => some (q, [m.toNat, n.toNat])
  | _ => none

/-- What the tile forms of the matrix engine's instructions need of FMT, their tiles and their vectors in order to issue (09
R200, R203 to R208, R217 to R222). -/
def State.grateFits (s : State) (t : Nat) (w : Thread) (e : Entry) (g : Grid) (p : Group) : Instr → Prop
  | .mmip _ _ (.tile a) (.tile b) none =>
    s.operandTile w p a (fmtAf e.fmt) ∧ s.operandTile w p b (fmtBf e.fmt) ∧ accLegal (fmtAcc e.fmt) (fmtAf e.fmt) = true
      ∧ accLegal (fmtAcc e.fmt) (fmtBf e.fmt) = true ∧ (p.tile b.toNat).rows = (p.tile a.toNat).kOf (fmtAf e.fmt)
      ∧ (p.tile b.toNat).wide64 (fmtBf e.fmt) = true
  | .mmop _ d (.tile a) (.tile b) none =>
    s.operandTile w p a (fmtAf e.fmt) ∧ s.operandTile w p b (fmtBf e.fmt) ∧ accLegal (fmtAcc e.fmt) (fmtAf e.fmt) = true
      ∧ accLegal (fmtAcc e.fmt) (fmtBf e.fmt) = true ∧ (p.tile b.toNat).rows = (p.tile a.toNat).kOf (fmtAf e.fmt)
      ∧ (p.tile b.toNat).wide64 (fmtBf e.fmt) = true ∧ s.targetTile w e p d ∧ (p.tile d.toNat).ef = 8 + fmtAcc e.fmt
      ∧ 64 ≤ (p.tile d.toNat).rows ∧ 256 ≤ (p.tile d.toNat).pitch ∧ p.apart d a ∧ p.apart d b
  | .mmrw _ d (.tile a) none => ∃ r, s.residentOf t w = some r ∧ s.loadingB w = false
      ∧ s.operandTile w p a (fmtAf e.fmt) ∧ accLegal (fmtAcc e.fmt) (fmtAf e.fmt) = true
      ∧ accLegal (fmtAcc e.fmt) r.bf = true ∧ (p.tile a.toNat).kOf (fmtAf e.fmt) = r.kb
      ∧ s.targetTile w e p d ∧ (p.tile d.toNat).ef = 8 + fmtAcc e.fmt ∧ 64 ≤ (p.tile d.toNat).rows
      ∧ (if r.sparse = true then 520 else 256) ≤ (p.tile d.toNat).pitch ∧ p.apart d a
  | .mmldb _ (.tile a) => fmtBf e.fmt < 8 ∧ s.operandTile w p a (fmtBf e.fmt)
      ∧ (p.tile a.toNat).rows ≤ residentRows (fmtBf e.fmt) ∧ (p.tile a.toNat).wide64 (fmtBf e.fmt) = true
  | .mmzero _ _ => True
  | .mmlda df _ (.tile a) none => fmtAf e.fmt < 8 ∧ s.operandTile w p a (fmtAf e.fmt)
      ∧ (df = .fmt → bits e.fmt.toNat 11 2 ≠ 3)
  | .mmdrain _ _ bias _ d _ sa sb => fmtAcc e.fmt < 2 ∧ s.targetTile w e p d ∧ (p.tile d.toNat).ef ≠ 7
      ∧ 64 ≤ (p.tile d.toNat).rows ∧ (p.tile d.toNat).wide64 (p.tile d.toNat).ef = true
      ∧ ∀ v, some v ∈ drainVecs e.fmt w bias sa sb → v.1 % v.2.2 = 0 ∧ v.1 + v.2.1 ≤ g.stashBytes
          ∧ p.rangeBusy v.1 v.2.1 = false
  | .vqlut _ _ a => s.gridReadWaits w e = false ∧ (w.sreg a.toNat).toNat % 128 = 0
      ∧ spanErrs (s.spanOf w ((w.sreg a.toNat).toNat, 1024)) = [] ∧ s.rangesReached w [((w.sreg a.toNat).toNat, 1024)] = true
      ∧ s.spansWalked w [((w.sreg a.toNat).toNat, 1024)] = true
  | .spdg _ m n gr _ => s.targetTile w e p m ∧ s.targetTile w e p n ∧ s.operandTile w p gr (p.tile gr.toNat).ef
      ∧ p.apart m n ∧ p.apart m gr ∧ p.apart n gr ∧ 64 ≤ (p.tile m.toNat).rows ∧ 8 ≤ (p.tile m.toNat).pitch
      ∧ 64 * (p.tile m.toNat).pitch + 8 ≤ (p.tile m.toNat).bytes ∧ (p.tile n.toNat).ef ≠ 7 ∧ 64 ≤ (p.tile n.toNat).rows
      ∧ (p.tile n.toNat).wide64 (p.tile n.toNat).ef = true ∧ ((p.tile gr.toNat).ef < 5 ∨ (p.tile gr.toNat).ef = 8)
      ∧ 64 ≤ (p.tile gr.toNat).rows ∧ (p.tile gr.toNat).wide64 (p.tile gr.toNat).ef = true
  | _ => False

/-- What an instruction of the matrix engine asks of its operands (09 R200, R203 to R208, R217 to R222). -/
structure GrateNeeds where
  /-- What is reserved. -/
  reserved : Prop := False
  /-- Vectors in the stash: address, length, alignment. -/
  vecs : List (Nat × Nat × Nat) := []
  /-- An address outside the stash that its number must divide. -/
  aligned : List (Nat × Nat) := []
  /-- Fibre operands: the value type that the role needs, and whether values are read. -/
  fibres : List (BitVec 256 × Option Nat × Bool) := []
  /-- Tiles that are read and tiles that are written, each with what its shape must be. -/
  sources : List (TileNo × Prop) := []
  dests : List (TileNo × Prop) := []
  /-- The wave's resident B is there. -/
  resident : Prop := True

def gsrcFibre (w : Thread) (a : GSrc) (code : Option Nat) : List (BitVec 256 × Option Nat × Bool) :=
  match a with
  | .tile _ => []
  | .fib n => [(w.freg n.toNat, code, true)]

def indexFibre (w : Thread) (ri : Option FReg) : List (BitVec 256 × Option Nat × Bool) :=
  ri.toList.map fun r => (w.freg r.toNat, none, false)

def gsrcTile (a : GSrc) (shape : TileNo → Prop) : List (TileNo × Prop) :=
  match a with
  | .tile n => [(n, shape n)]
  | .fib _ => []

/-- A fibre operand of the matrix engine has 32-bit coordinates (09 R206). -/
def narrowFibre (l : List (BitVec 256 × Option Nat × Bool)) : Prop :=
  ∃ f ∈ l, f.2.2 = true ∧ fbOpen f.1 = true ∧ fbWide f.1 = false

/-- Those of MMIP, MMOP and MMRW, which has no B of its own. -/
def State.matrixNeeds (s : State) (t : Nat) (w : Thread) (e : Entry) (p : Group) (a : GSrc) (b : Option GSrc) (ri : Option FReg)
    (d : Option TileNo) : GrateNeeds :=
  let res := if b.isNone = true then s.residentOf t w else none
  let af := fmtAf e.fmt
  let acc := fmtAcc e.fmt
  let bf := match res with
    | some r => r.bf
    | none => fmtBf e.fmt
  let k := match res, srcTile a, b.bind srcTile with
    | some r, _, _ => r.kb
    | none, some n, _ => (p.tile n).kOf af
    | none, none, some n => (p.tile n).rows
    | none, none, none => 65535
  let fibs := gsrcFibre w a (some af) ++ b.toList.flatMap fun x => gsrcFibre w x (some bf)
  let sparse := fibs ≠ [] ∨ ∃ r, res = some r ∧ r.sparse = true
  { reserved := accLegal acc af = false ∨ ((b.isSome = true ∨ res.isSome = true) ∧ accLegal acc bf = false)
      ∨ ((srcFib w a).isSome = true ∧ ri.isSome = true) ∨ narrowFibre fibs
    fibres := fibs ++ indexFibre w ri
    sources := gsrcTile a (fun n => (p.tile n.toNat).ef = af ∧ (res.isSome = true → (p.tile n.toNat).kOf af = k))
      ++ b.toList.flatMap fun x => gsrcTile x fun n => (p.tile n.toNat).ef = bf ∧ (p.tile n.toNat).rows = k ∧ (p.tile n.toNat).wide64 bf = true
    dests := d.toList.map fun n => (n, (p.tile n.toNat).ef = 8 + acc ∧ 64 ≤ (p.tile n.toNat).rows
      ∧ (sparse → 520 ≤ (p.tile n.toNat).pitch) ∧ 256 ≤ (p.tile n.toNat).pitch
      ∧ ∀ x, x = a ∨ b = some x → ∀ k, srcTile x = some k → k ≠ n.toNat ∧ tilesOverlap (p.tile n.toNat) (p.tile k) = false)
    resident := b.isSome = true ∨ res.isSome = true }

def State.grateNeeds (s : State) (t : Nat) (w : Thread) (e : Entry) (p : Group) : Instr → GrateNeeds
  | .mmip _ _ a b ri => s.matrixNeeds t w e p a (some b) ri none
  | .mmop _ d a b ri => s.matrixNeeds t w e p a (some b) ri (some d)
  | .mmrw _ d a ri => s.matrixNeeds t w e p a none ri (some d)
  | .mmldb _ a =>
    let bf := fmtBf e.fmt
    let fibs := gsrcFibre w a (some bf)
    { reserved := 8 ≤ bf ∨ narrowFibre fibs, fibres := fibs
      sources := gsrcTile a fun n => (p.tile n.toNat).ef = bf ∧ (p.tile n.toNat).rows ≤ (if bf = 2 ∨ bf = 6 ∨ bf = 7 then 128 else 64)
        ∧ (p.tile n.toNat).wide64 bf = true }
  | .mmlda df _ a ri =>
    let af := fmtAf e.fmt
    let fibs := gsrcFibre w a (some af)
    { reserved := 8 ≤ af ∨ narrowFibre fibs ∨ ((srcFib w a).isSome = true ∧ ri.isSome = true) ∨ (df = .fmt ∧ bits e.fmt.toNat 11 2 = 3)
      fibres := fibs ++ indexFibre w ri, sources := gsrcTile a fun n => (p.tile n.toNat).ef = af }
  | .mmdrain _ _ bias _ d _ sa sb =>
    let x := p.tile d.toNat
    { reserved := 2 ≤ fmtAcc e.fmt, vecs := (drainVecs e.fmt w bias sa sb).filterMap fun v => v
      dests := [(d, x.ef ≠ 7 ∧ 64 ≤ x.rows ∧ x.wide64 x.ef = true)] }
  | .vqlut _ _ a => { aligned := [((w.sreg a.toNat).toNat, 128)] }
  | .spdg _ m n gr _ =>
    let x := p.tile m.toNat
    let y := p.tile n.toNat
    let z := p.tile gr.toNat
    { dests := [(m, 64 ≤ x.rows ∧ 8 ≤ x.pitch ∧ 64 * x.pitch + 8 ≤ x.bytes ∧ p.apart m n),
        (n, y.ef ≠ 7 ∧ 64 ≤ y.rows ∧ y.wide64 y.ef = true ∧ p.apart m n)]
      sources := [(gr, (z.ef < 5 ∨ z.ef = 8) ∧ 64 ≤ z.rows ∧ z.wide64 z.ef = true ∧ p.apart m gr ∧ p.apart n gr)] }
  | _ => {}

/-- A cause of 09 R200 that an operand meets, with its TRAPADDR. -/
inductive GrateErr (s : State) (w : Thread) (e : Entry) (g : Grid) (p : Group) (i : Instr) (n : GrateNeeds) : Cause → DWord → Prop where
  | reserved : n.reserved → GrateErr s w e g p i n .reservedEnc 0#64
  | align (a l k : Nat) : (a, l, k) ∈ n.vecs → a % k ≠ 0 → GrateErr s w e g p i n .align (BitVec.ofNat 64 a)
  | alignGlobal (a k : Nat) : (a, k) ∈ n.aligned → a % k ≠ 0 → GrateErr s w e g p i n .align (BitVec.ofNat 64 a)
  | page (r : Nat × Nat) (va len : Nat) (k : Cause) : r ∈ grateSlots w i → (va, len, .error k) ∈ s.spanOf w r →
      GrateErr s w e g p i n k (BitVec.ofNat 64 va)
  | prot (a l k : Nat) : (a, l, k) ∈ n.vecs → g.stashBytes < a + l → GrateErr s w e g p i n .prot (BitVec.ofNat 64 a)
  | closed (f : BitVec 256 × Option Nat × Bool) : f ∈ n.fibres → fbOpen f.1 = false → GrateErr s w e g p i n .fibreRange 0#64
  | type (f : BitVec 256) (code : Nat) (v : Bool) : (f, some code, v) ∈ n.fibres → fbOpen f = true → fbVt f ≠ code →
      GrateErr s w e g p i n .tileState 0#64
  | noResident : ¬ n.resident → GrateErr s w e g p i n .tileState 0#64
  | source (k : TileNo) (shape : Prop) (a : DWord) : (k, shape) ∈ n.sources →
      s.tileFit w p k.toNat isReadyTile false false = .trap a → GrateErr s w e g p i n .tileState a
  | sourceShape (k : TileNo) (shape : Prop) : (k, shape) ∈ n.sources → s.tileFit w p k.toNat isReadyTile false false = .ok → ¬ shape →
      GrateErr s w e g p i n .tileState (BitVec.ofNat 64 (p.tile k.toNat).base)
  | dest (k : TileNo) (shape : Prop) (a : DWord) : (k, shape) ∈ n.dests →
      s.tileFit w p k.toNat notMoving true false = .trap a → GrateErr s w e g p i n .tileState a
  | destShape (k : TileNo) (shape : Prop) : (k, shape) ∈ n.dests → s.tileFit w p k.toNat notMoving true false = .ok →
      (¬ shape ∨ p.overlapsMoving k.toNat (p.tile k.toNat).base (p.tile k.toNat).bytes = true) →
      GrateErr s w e g p i n .tileState (BitVec.ofNat 64 (p.tile k.toNat).base)
  | sourceBusy (k : TileNo) (shape : Prop) : (k, shape) ∈ n.sources → (p.tile k.toNat).defined = true →
      p.rangeBusy (p.tile k.toNat).base (p.tile k.toNat).bytes = true →
      GrateErr s w e g p i n .tileBusy (BitVec.ofNat 64 (p.tile k.toNat).base)
  | destBusy (k : TileNo) (shape : Prop) : (k, shape) ∈ n.dests → (p.tile k.toNat).defined = true →
      p.pendingIn e.wstep (p.tile k.toNat).base (p.tile k.toNat).bytes = true →
      GrateErr s w e g p i n .tileBusy (BitVec.ofNat 64 (p.tile k.toNat).base)
  | fibreBusy (f : BitVec 256) (code : Option Nat) (v : Bool) (r : Nat × Nat) : (f, code, v) ∈ n.fibres → fbOpen f = true →
      fbStash f = true → (r = crdRange f (fbPos f) (fbCount f) ∨ (v = true ∧ r = valRange f (fbPos f) (fbCount f))) →
      p.rangeBusy r.1 r.2 = true → GrateErr s w e g p i n .tileBusy (BitVec.ofNat 64 r.1)
  | vecBusy (a l k : Nat) : (a, l, k) ∈ n.vecs → p.rangeBusy a l = true → GrateErr s w e g p i n .tileBusy (BitVec.ofNat 64 a)

/-- A tile that the instruction names is moving by the wave's own earlier command, or an instruction of the queue uses it: it is
waited for (07 R153). -/
def State.grateMoving (s : State) (w : Thread) (p : Group) (n : GrateNeeds) : Prop :=
  (∃ x ∈ n.sources, s.tileFit w p x.1.toNat isReadyTile false false = .stall)
    ∨ ∃ x ∈ n.dests, s.tileFit w p x.1.toNat notMoving true false = .stall

/-- The instruction waits before its operands are looked at: for the closes that its shared reads need (07 R125), for the tables
of its global operands (22 R337), or for an MMLDB that is under way (09 R198). -/
def State.grateWaits (s : State) (w : Thread) (e : Entry) (i : Instr) (n : GrateNeeds) : Prop :=
  (((∃ f ∈ n.fibres, fbOpen f.1 = true ∧ fbStash f.1 = false) ∨ ∃ b q a, i = .vqlut b q a) ∧ s.gridReadWaits w e = true)
    ∨ ((n.sources ≠ [] ∨ n.dests ≠ [] ∨ ∃ f ∈ n.fibres, fbOpen f.1 = true ∧ fbStash f.1 = true) ∧ s.groupReadWaits w e = true)
    ∨ s.spansWalked w (grateSlots w i) = false
    ∨ ((∃ q d a r, i = .mmrw q d a r) ∧ s.loadingB w = true)

/-! ## Control -/

/-- X + 8 x TGT, TGT signed (05 R77). -/
def Clause.at8 (c : Clause) (tgt : BitVec 20) : DWord := c.here + BitVec.ofInt 64 (8 * tgt.toInt)

/-- A 56-bit field of an instruction's address (03 Table 3.5). -/
def pcField (a : DWord) : BitVec 56 := BitVec.ofNat 56 (a.toNat / 8)

/-- A jump table at `tab` that its thread may read, whose `m` entries give every lane of the path its target (08 R179,
R180). -/
structure JumpTable (s : State) (w : Thread) (e : Entry) (a : VReg) (tab : DWord) (to' : Nat → BitVec 56) : Prop where
  near : s.pageReached w.mmu w.ctx tab = true ∧ s.tableReached w e a tab = true
  head : ∃ m, s.codeWord w tab = .ok (BitVec.ofNat 64 m) ∧ 0 < m ∧ m ≤ 4096
    ∧ ∀ l ∈ lanesOf e.mask, (w.vreg a.toNat l).toNat < m
  words : ∀ l ∈ lanesOf e.mask, ∃ pa leaf,
    s.access w.mmu w.ctx (tab + BitVec.ofNat 64 (8 + 4 * (w.vreg a.toNat l).toNat)) .read = .ok (pa, leaf)
      ∧ to' l = pcField (tab + BitVec.ofInt 64 (8 * (BitVec.ofNat 32 (leNat (s.cleanBytes pa 4)) : Word).toInt))

/-- A conditional branch sends lane l of its path to `to' l`; the paths meet again at `jn` (08 R169, R178, R179). The last state
is the one after JT's reads of its table, which log lost words and touch pinned ranges (22 R342, 23 R351). -/
inductive SendsLanes (s : State) (w : Thread) (e : Entry) (c : Clause) :
    Instr → (Nat → BitVec 56) → BitVec 56 → Bool → State → Prop where
  | brc (g : Guard) (tgt jn : BitVec 20) (ej : Bool) :
    SendsLanes s w e c (.brc g tgt jn ej)
      (fun l => if ((w.preg g.p.toNat).getLsbD l != g.neg) = true then pcField (c.at8 tgt) else pcField (c.here + 8#64))
      (pcField (c.at8 jn)) ej s
  | jt (a : VReg) (tgt jn : BitVec 20) (ej : Bool) (to' : Nat → BitVec 56) (some' : e.mask ≠ 0#128)
      (h : JumpTable s w e a (c.at8 tgt) to') :
    SendsLanes s w e c (.jt a tgt jn ej) to' (pcField (c.at8 jn)) ej (s.noteTable w e a (c.at8 tgt))

/-- The lanes of a path that go to a target. -/
def lanesTo (e : Entry) (to' : Nat → BitVec 56) (p : BitVec 56) : Mask := maskOf ((lanesOf e.mask).filter fun l => to' l == p)

/-- The grid has reached the step before `g`, and the group the step before `n`: some lane has arrived (07 R142). Where one of the
entries `l` has arrived at that grid step, its arrival is one at the group's step too. -/
def State.reach (s : State) (w : Thread) (g n : Word) (l : List Entry) : State :=
  (s.modGrid w.grid fun x => if x.desc.stepping then { x with reached := maxWord x.reached g } else x).modGroup w.group fun q =>
    { q with reached := maxWord q.reached n
             edge := if g ≠ w.gcnt ∧ ∃ z ∈ l, z.st = .arrived ∧ z.gstep = g then maxWord q.edge n else q.edge }

/-- A thread whose counts are these, and whose wait for ejected lanes is over. -/
def Thread.counted (w : Thread) (g n : Word) : Thread := { w with gcnt := g, wcnt := n, rejoinCount := 0 }

/-- The registers of a thread stand as they were. -/
def Thread.sameRegs (x w : Thread) : Prop :=
  (∀ r, x.sreg r = w.sreg r) ∧ (∀ r l, x.vreg r l = w.vreg r l) ∧ (∀ r, x.preg r = w.preg r)
    ∧ (∀ r, x.freg r = w.freg r) ∧ x.acc = w.acc

/-- The context's fault has stopped it (19 R307). -/
def State.faultedNow (s : State) (c : Nat) : Prop := ∃ z, s.context? c = some z ∧ z.status = .faulted

/-- Instructions that need handler mode (08 R187, R196, 03 R39). -/
def needsHandler : Instr → Bool
  | .rte => true
  | .csrw _ _ => true
  | .sset r _ => r == .trappc || r == .faultmask
  | _ => false

/-! ## Steps -/

/-- The byte that the close of a step puts at an address, if any. -/
def Resolved.put (r : Resolved) (a : Nat) : Option Byte := (r.puts.reverse.find? fun x => x.1 == a).map (·.2)

/-- What the close of a group's open step makes of the group: the step is counted, its pending stores go to the stash, and the
states that its tiles have reached are published (07 R144, parts 3 and 4). -/
structure GroupShut (s : State) (g : Grid) (q q' : Group) : Prop where
  counts : q'.closed = q.closed + 1 ∧ q'.watch = 0
  pend : q'.pend = q.pend.filter fun x => decide (x.step ≠ q.closed)
  tiles : ∀ n, (q'.tile n).published = (q.tile n).actual ∧ (q'.tile n).actual = (q.tile n).actual
    ∧ (q'.tile n).changedBy = none ∧ (q'.tile n).owner = (q.tile n).owner ∧ (q'.tile n).desc = (q.tile n).desc
  stash : q.badStash = [] → ∀ a, tget 0#8 q'.stash a =
    ((resolve (s.closing g q.closed true) (tget 0#8 q.stash) (q.pend.filter fun x => x.step == q.closed)).put a).getD (tget 0#8 q.stash a)

/-- The window that a close effect binds or unbinds, with its descriptor. -/
def CloseOp.binds : CloseOp → Option (Nat × Option (BitVec 256))
  | .wbind n d => some (n, some d)
  | .wunbind n => some (n, none)
  | .launch _ _ _ _ => none
  | .evsig _ => none

/-- The packet that a close effect gives a queue whose write index is `widx`. -/
def CloseOp.sends (q : Nat) (widx : Word) : CloseOp → Option Enq
  | .launch bs a k res => if k = q ∧ res = true then some ⟨widx, bs, a⟩ else none
  | .wbind _ _ => none
  | .wunbind _ => none
  | .evsig _ => none

/-- A write of whole bytes that covers an address. -/
def PWrite.at (p : PWrite) (a : Nat) : Prop := p.nib = none ∧ p.pa ≤ a ∧ a < p.pa + p.data.length

/-- The byte that a write gives an address. -/
def PWrite.byteAt (p : PWrite) (a : Nat) : Byte := p.data.getD (a - p.pa) 0#8

/-! ## Commands (22 R345) -/

/-- The function of a die takes a command (22 R333, R345). -/
structure Accepts (s : State) (die : Nat) : Prop where
  answers : s.answers die = true
  free : (s.die die).busy = false
  run : (s.die die).tdisp = .run
  there : die < s.dies.length

/-- A command stands in CMDBUF and runs. -/
def State.begun (s : State) (die : Nat) (c : Cmd) : State := s.modDie die fun d => { d with cmdbuf := c, busy := true }

/-- The command ends with a status and result words; beside CMDSTS, CMDRES, BUSY and MSI-X vector 0 the state is `s1`. -/
def EndsWith (s : State) (i : Instr) (die : Nat) (s1 : State) (status : Nat) (res : List DWord) : Prop :=
  exec i s = .next (s1.finish die status res)

/-- A setting of CFG_SET: its limits, its value and its change (22 Table 22.8). -/
structure Setting where
  ok : DWord → Prop
  old : State → DWord
  new : State → State

/-- Settings of a die and of its flue die: the die, the command, the selector. -/
def dieSetting : Instr → Option (Nat × Cmd × Nat × Setting)
  | .cfgDtbase d c => some (d, c, 0x00, ⟨fun _ => True, fun s => (s.die d).dring.base,
      fun s => s.modDie d fun x => { x with dring := ⟨c.w2, x.dring.size⟩ }⟩)
  | .cfgDtsize d c => some (d, c, 0x01, ⟨fun _ => True, fun s => (s.die d).dring.size,
      fun s => s.modDie d fun x => { x with dring := ⟨x.dring.base, c.w2⟩ }⟩)
  | .cfgRlbase d c => some (d, c, 0x02, ⟨fun _ => True, fun s => (s.die d).rring.base,
      fun s => s.modDie d fun x => { x with rring := ⟨c.w2, x.rring.size⟩ }⟩)
  | .cfgRlsize d c => some (d, c, 0x03, ⟨fun _ => True, fun s => (s.die d).rring.size,
      fun s => s.modDie d fun x => { x with rring := ⟨x.rring.base, c.w2⟩ }⟩)
  | .cfgElbase d c => some (d, c, 0x04, ⟨fun _ => True, fun s => (s.die d).ering.base,
      fun s => s.modDie d fun x => { x with ering := ⟨c.w2, x.ering.size⟩ }⟩)
  | .cfgElsize d c => some (d, c, 0x05, ⟨fun _ => True, fun s => (s.die d).ering.size,
      fun s => s.modDie d fun x => { x with ering := ⟨x.ering.base, c.w2⟩ }⟩)
  | .cfgCpytmo d c => some (d, c, 0x10, ⟨fun v => 1 ≤ v.toNat ∧ v.toNat ≤ 1000000, fun s => BitVec.ofNat 64 (s.die d).cpytmo,
      fun s => s.modDie d fun x => { x with cpytmo := c.w2.toNat }⟩)
  | .cfgSavetmo d c => some (d, c, 0x11, ⟨fun v => 1 ≤ v.toNat ∧ v.toNat ≤ 1000000, fun s => BitVec.ofNat 64 (s.die d).savetmo,
      fun s => s.modDie d fun x => { x with savetmo := c.w2.toNat }⟩)
  | .cfgPretmo d c => some (d, c, 0x12, ⟨fun v => v.toNat ≤ 1000000, fun s => BitVec.ofNat 64 (s.die d).pretmo,
      fun s => s.modDie d fun x => { x with pretmo := c.w2.toNat }⟩)
  | .cfgCxltmo d c => some (d, c, 0x13, ⟨fun v => 1 ≤ v.toNat ∧ v.toNat ≤ 64, fun s => BitVec.ofNat 64 (s.flue (d / 4)).cxltmo,
      fun s => s.modFlue (d / 4) fun x => { x with cxltmo := c.w2.toNat }⟩)
  | .cfgPeertmo d c => some (d, c, 0x14, ⟨fun v => 1 ≤ v.toNat ∧ v.toNat ≤ 1000, fun s => BitVec.ofNat 64 (s.flue (d / 4)).peertmo,
      fun s => s.modFlue (d / 4) fun x => { x with peertmo := c.w2.toNat }⟩)
  | .cfgActmax d c => some (d, c, 0x15, ⟨fun v => 256 ≤ v.toNat ∧ v.toNat ≤ 4095, fun s => BitVec.ofNat 64 (s.flue (d / 4)).actmax,
      fun s => s.modFlue (d / 4) fun x => { x with actmax := c.w2.toNat }⟩)
  | _ => none

/-- Settings of a context: die, command, selector, limits, value, change. -/
def ctxSetting : Instr → Option (Nat × Cmd × Nat × (DWord → Prop) × (Context → DWord) × (Context → Context))
  | .cfgSteplimit d c => some (d, c, 0x20, fun _ => True, (·.steplimit), fun x => { x with steplimit := c.w2 })
  | .cfgHanglimit d c => some (d, c, 0x21, fun _ => True, (·.hanglimit), fun x => { x with hanglimit := c.w2 })
  | .cfgCtxcfg d c => some (d, c, 0x22, fun v => v.toNat ≤ 7, (·.ctxcfg), fun x => { x with ctxcfg := c.w2 })
  | .cfgTba d c => some (d, c, 0x23, fun v => v.toNat % 8 = 0, (·.tba), fun x => { x with tba := c.w2 })
  | .cfgFpolicy d c => some (d, c, 0x24, fun v => v.toNat ≤ 1, (·.fpolicy), fun x => { x with fpolicy := c.w2 })
  | _ => none

/-- The registers that a reset of a die leaves (22 R334, 25 Table 25.4). -/
def Die.afterReset (d : Die) : Prop :=
  d.tdisp = .error ∧ d.clock = 0#64 ∧ d.tlb = [] ∧ d.keyed = false ∧ d.corrected = [] ∧ d.uncorrected = []
    ∧ d.refused = 0 ∧ d.dropped = 0 ∧ d.sumDropped = 0

/-- The context is lost, and none of its grids is left (19 R314). -/
def State.lostNow (s : State) (c : Nat) : Prop :=
  (∃ z, s.context? c = some z ∧ z.status = .lost) ∧ ∀ g y, s.grid? g = some y → y.ctx ≠ c

/-- The grids of a save image are grids of its context: no run makes an image of another's. -/
def State.ownImages (s : State) : Prop := ∀ i ∈ s.saves, ∀ g ∈ i.2.grids, g.2.ctx = i.2.ctx

end Sys2Proof.Machine
end

