-- ==== Sys2Proof/Certificates/Slice0/Obligations.lean ====
section
/-! DEFINITION. The statements for the provers. -/

open Sys2Proof Sys2Proof.Machine

/-- Moves, arithmetic, logic and compares of s registers write what 06 R93, R94 and R100 give, and nothing else: the frame
is `RunsOn`. -/
def Obligations.ScalarResults : Prop :=
  ∀ (s : State) (i : Instr) (t : Nat) (w : Thread) (e : Entry) (c : Clause) (d : SReg) (v : DWord),
    Issues s i t w e c → scalarResult w e i = some (d, v) → WritesS s i t w e d v

/-- SLDK reads the argument block that the launch committed: a doubleword, or a word zero- or sign-extended; bytes beyond
it are 0; an offset that is no multiple of the size traps ALIGN (06 R96). -/
def Obligations.ArgumentReads : Prop :=
  ∀ (s : State) (t : Nat) (w : Thread) (e : Entry) (c : Clause) (g : Grid) (d : SReg) (mode : BitVec 2) (off : BitVec 12),
    Issues s (.sldk d mode off) t w e c → s.grid? w.grid = some g →
      let byte := fun k => g.args.getD (off.toNat + k) 0#8
      let word := byte 3 ++ byte 2 ++ byte 1 ++ byte 0
      (mode = 0#2 → off.toNat % 4 = 0 → WritesS s (.sldk d mode off) t w e d (word.setWidth 64))
      ∧ (mode = 1#2 → off.toNat % 4 = 0 → WritesS s (.sldk d mode off) t w e d (word.signExtend 64))
      ∧ (mode = 2#2 → off.toNat % 8 = 0 →
          WritesS s (.sldk d mode off) t w e d (byte 7 ++ byte 6 ++ byte 5 ++ byte 4 ++ word))
      ∧ (off.toNat % (if mode = 2#2 then 8 else 4) ≠ 0 → Traps s (.sldk d mode off) t w c
          ⟨.align, g.pkt.karg + off.setWidth 64, e.mask⟩)

/-- SGET of an s destination takes the path's or the lowest active lane's value (lane 0's where none is active), the
128-bit EXEC and FAULTMASK in two registers; of a v destination it gives every lane that takes part its own value, one of 64
bits to an even pair (03 R39, 06 R97). The values are those of 03 Table 3.3; that HEARTHID on an ember is the hearth of its wave is
the model's choice (log 79). -/
def Obligations.SpecialReads : Prop :=
  ∀ (s : State) (t : Nat) (w : Thread) (e : Entry) (c : Clause) (g : Guard) (r : Spr),
    (∀ d : SReg, Issues s (.sget g (.s d) r) t w e c →
      let lane := if e.mask = 0#128 then 0 else lowestLane e.mask
      let x := s.sprValue w e lane r
      (r ≠ .exec → r ≠ .faultmask → WritesS s (.sget g (.s d) r) t w e d (x.setWidth 64))
      ∧ (r = .exec ∨ r = .faultmask → ∃ s' y, exec (.sget g (.s d) r) s = .next s' ∧ RunsOn s s' t w y e id
          ∧ (∀ k, y.sreg k = if k = d.toNat + 1 then x.extractLsb' 64 64 else if k = d.toNat then x.extractLsb' 0 64 else w.sreg k)
          ∧ (∀ k l, y.vreg k l = w.vreg k l) ∧ ∀ k, y.preg k = w.preg k))
    ∧ (∀ d : VReg, Issues s (.sget g (.v d) r) t w e c →
      if r.wide = true then WritesPair s (.sget g (.v d) r) t w e g d (fun l => (s.sprValue w e l r).setWidth 64) flNone
      else WritesV s (.sget g (.v d) r) t w e g d (fun l => (s.sprValue w e l r).setWidth 32) flNone)
    ∧ ∀ (y : Grid) (q : Group) (lane : Nat), s.grid? w.grid = some y → s.group? w.group = some q →
      s.sprValue w e lane r = BitVec.ofNat 128 (match r with
        | .exec => e.mask.toNat | .faultmask => w.faultmask.toNat | .fmt => e.fmt.toNat | .laneid => lane | .waveix => w.wix
        | .groupix => q.gix | .gkey => q.gix * y.groupLanes + w.wix * y.width + lane
        | .stepno => e.wstep.toNat * 2 ^ 32 + e.gstep.toNat | .icount => e.icnt.toNat
        | .clock => if y.pkt.det = true then e.icnt.toNat else (s.die w.die).clock.toNat | .time => s.time.toNat
        | .dieid => w.die | .hearthid => w.hearth | .width => y.width
        | .ember => match w.ember with
          | none => 0
          | some m => 2 ^ 63 + m.ctxno
        | .trapcause => w.trapcause.toNat | .trappc => w.trappc.toNat | .trapaddr => w.trapaddr.toNat
        | .karg => y.pkt.karg.toNat | .seed => y.pkt.seed.toNat | .fpflags => e.flg.toNat | .eject => w.eject.toNat)

/-- What SSET and SETFMT write (06 R98, R99): FMT and FPFLAGS of the path, EJECT (nothing on an ember), TRAPPC and FAULTMASK;
a value that the register does not take traps RESERVED_ENC. -/
def Obligations.SpecialWrites : Prop :=
  ∀ (s : State) (t : Nat) (w : Thread) (e : Entry) (c : Clause),
    (∀ f : BitVec 13, Issues s (.setfmt f) t w e c →
      Performs s (.setfmt f) s t w e (fun y => { y with fmt := f.setWidth 32 }))
    ∧ ∀ (r : Spr) (a : SSrc) (g : Grid), Issues s (.sset r a) t w e c → s.grid? w.grid = some g →
      let x := a.value w
      let bad := Traps s (.sset r a) t w c ⟨.reservedEnc, 0#64, e.mask⟩
      let writes := Performs s (.sset r a) s t
      (r = .fmt → if (x.extractLsb' 0 32).extractLsb' 13 19 = 0#19 ∧ fmtOk (x.extractLsb' 0 13) = true
          then writes w e (fun y => { y with fmt := x.extractLsb' 0 32 }) else bad)
      ∧ (r = .fpflags → writes w e (fun y => { y with flg := x.extractLsb' 0 5 }))
      ∧ (r = .eject → if x.toNat ≤ 8 ∧ (g.pkt.det = true → x.toNat ≤ g.e)
          then writes (if w.ember.isSome = true then w else { w with eject := x.extractLsb' 0 4 }) e id else bad)
      ∧ (r = .trappc → if x.toNat % 8 = 0 then writes { w with trappc := x } e id else bad)
      ∧ (∀ n, r = .faultmask → a = .s n → writes { w with faultmask := w.sreg (n.toNat + 1) ++ w.sreg n.toNat } e id)

/-- The vector integer instructions write the results of 06 Table 6.3 in each lane that takes part, and raise no flag; those
of 64 bits write even pairs, wrapping modulo 2^64 (06 R101 to R103). -/
def Obligations.VectorResults : Prop :=
  ∀ (s : State) (i : Instr) (t : Nat) (w : Thread) (e : Entry) (c : Clause) (g : Guard) (d : VReg), Issues s i t w e c →
    (∀ v : Nat → Word, vectorResult w i = some (g, d, v) → WritesV s i t w e g d v flNone)
    ∧ ∀ v : Nat → DWord, pairResult w i = some (g, d, v) → WritesPair s i t w e g d v flNone

/-- Compares, predicate logic and votes write one bit in each lane that takes part, and p0 takes none (06 R104, R116). -/
def Obligations.PredicateResults : Prop :=
  ∀ (s : State) (i : Instr) (t : Nat) (w : Thread) (e : Entry) (c : Clause) (g : Guard) (d : PReg) (b : Nat → Prop),
    Issues s i t w e c → predicateResult w e i = some (g, d, b) → WritesP s i t w e g d b flNone

/-- The FP32 instructions deliver the results of `floatResult` in each lane that takes part, and raise what those lanes
raise (02 R30, 06 R105). The functions give 06 Table 6.7 its special operands (06 R110): quotients of zeros and infinities,
roots and logarithms of what is not positive, powers of two and their logarithms, sines and cosines of halves of integers. -/
def Obligations.FloatResults : Prop :=
  (∀ (s : State) (i : Instr) (t : Nat) (w : Thread) (e : Entry) (c : Clause) (g : Guard) (d : VReg) (f : Nat → FRes),
    Issues s i t w e c → floatResult s w e i = some (g, d, f) →
      ∃ fl, RaisedBy w e g (fun l => (f l).2) fl ∧ WritesV s i t w e g d (fun l => BitVec.ofNat 32 (f l).1) fl)
  ∧ ∀ (mode : Rnd) (r a b : Nat), a < 2 ^ 32 → b < 2 ^ 32 →
    let zero := fun n : Bool => if n = true then 0x80000000 else 0
    let infty := fun n => zero n + 0x7F800000
    let invalid : FRes := (0x7FC00000, flNv)
    let int := fun j : Int => (fp32.round .rne 0 (decide (j < 0)) ⟨j.natAbs, 0, false⟩).1
    (∀ n k m1 e1 e2, fp32.decode a = .fin n m1 e1 → fp32.decode b = .fin k 0 e2 →
      fdiv mode r a b = if m1 = 0 then invalid else (infty (n != k), flDz))
    ∧ (∀ n k, fp32.decode a = .inf n → fp32.decode b = .inf k → fdiv mode r a b = invalid)
    ∧ (∀ n k m e, fp32.decode a = .inf n → fp32.decode b = .fin k m e →
        fdiv mode r a b = (infty (n != k), flNone) ∧ fdiv mode r b a = (zero (n != k), flNone))
    ∧ frcp mode r a = fdiv mode r 0x3F800000 a
    ∧ (∀ n e, fp32.decode a = .fin n 0 e → fsqrt mode r a = (zero n, flNone) ∧ frsq mode r a = (infty n, flDz)
        ∧ fexp2 mode r a = (0x3F800000, flNone) ∧ flog2 mode r a = (infty true, flDz))
    ∧ (∀ m e, fp32.decode a = .fin true m e → m ≠ 0 → fsqrt mode r a = invalid ∧ frsq mode r a = invalid ∧ flog2 mode r a = invalid)
    ∧ (fp32.decode a = .inf true → fsqrt mode r a = invalid ∧ frsq mode r a = invalid ∧ flog2 mode r a = invalid
        ∧ fexp2 mode r a = (0, flNone))
    ∧ (fp32.decode a = .inf false → fsqrt mode r a = (infty false, flNone) ∧ frsq mode r a = (0, flNone)
        ∧ flog2 mode r a = (infty false, flNone) ∧ fexp2 mode r a = (infty false, flNone))
    ∧ (∀ j : Int, -126 ≤ j → j ≤ 127 → let p := (j + 127).toNat * 2 ^ 23
        fexp2 mode r (int j) = (p, flNone) ∧ flog2 mode r p = (int j, flNone))
    ∧ (∀ n, fp32.decode a = .inf n → fsinpi mode r a = invalid ∧ fcospi mode r a = invalid)
    ∧ ∀ n m e, fp32.decode a = .fin n m e →
        let unit := 2 ^ (-e).toNat
        let j := m * 2 ^ e.toNat / unit
        (m % unit = 0 → fsinpi mode r a = (zero n, flNone) ∧ fcospi mode r a = (0x3F800000 + zero (j % 2 == 1), flNone))
        ∧ (2 * (m % unit) = unit → fsinpi mode r a = (0x3F800000 + zero (n != (j % 2 == 1)), flNone)
          ∧ fcospi mode r a = (0, flNone))

/-- The FP16 and BF16 instructions compute the two elements of a lane independently, element 0 in the low half (06 R105). -/
def Obligations.HalfResults : Prop :=
  ∀ (s : State) (i : Instr) (t : Nat) (w : Thread) (e : Entry) (c : Clause) (g : Guard) (d : VReg) (f : Nat → Nat → FRes),
    Issues s i t w e c → halfResult s w e i = some (g, d, f) →
      ∃ fl, RaisedBy w e g (fun l => (f l 0).2 ||| (f l 1).2) fl
        ∧ WritesV s i t w e g d (fun l => BitVec.ofNat 32 ((f l 0).1 + 2 ^ 16 * (f l 1).1)) fl

/-- VFCMP compares exact values: -0 equals +0, a NaN is unordered; a signalling NaN sets NV, and so does a quiet one under
the ordered conditions (06 R108). -/
def Obligations.FloatCompares : Prop :=
  ∀ (s : State) (t : Nat) (w : Thread) (e : Entry) (c : Clause) (k : FCond) (g : Guard) (d : PReg) (a b : FSrc),
    Issues s (.vfcmp k g d a b) t w e c →
      let x := fun l => fp32.decode (a.value w l).toNat
      let y := fun l => fp32.decode (b.value w l).toNat
      ∃ fl, RaisedBy w e g (fun l => if ((x l).signals || (y l).signals || (k.ordered && ((x l).isNan || (y l).isNan))) = true
            then flNv else flNone) fl
        ∧ WritesP s (.vfcmp k g d a b) t w e g d (fun l => k.meets (x l) (y l)) fl

/-- VFMIN and VFMAX deliver the lesser or greater operand, -0 below +0; the other operand of a NaN, and the quiet form of a
where both are NaN; NV for a signalling NaN (06 R107). -/
def Obligations.MinMax : Prop :=
  ∀ (m : Bool) (a b : Word),
    let x := fp32.decode a.toNat
    let y := fp32.decode b.toNat
    let r := fminmax m a.toNat b.toNat
    (r.2 = if (x.signals || y.signals) = true then flNv else flNone)
    ∧ (x.isNan = true → y.isNan = true → r.1 = (a ||| 0x400000#32).toNat)
    ∧ (x.isNan = true → y.isNan = false → r.1 = b.toNat)
    ∧ (x.isNan = false → y.isNan = true → r.1 = a.toNat)
    ∧ (x.below y → r.1 = if m = true then b.toNat else a.toNat)
    ∧ (y.below x → r.1 = if m = true then a.toNat else b.toNat)
    ∧ (a = 0x80000000#32 → b = 0#32 → r.1 = if m = true then 0 else 0x80000000)
    ∧ (a = 0#32 → b = 0x80000000#32 → r.1 = if m = true then 0 else 0x80000000)

/-- A NaN operand: the result is the quiet form of the first NaN among the operands in the order A, B, C, and invalid is
raised exactly when an operand signals (02 R16). Stated of FP32, FP16 and BF16 codes. -/
def Obligations.NanOperands : Prop :=
  ∀ (f : Fmt) (m : Rnd) (r a b c : Nat), f = fp32 ∨ f = fp16 ∨ f = bf16 → a < 2 ^ f.width → b < 2 ^ f.width → c < 2 ^ f.width →
    let n := fun x => (f.decode x).isNan
    let g := fun x => (f.decode x).signals
    let q := fun x => x ||| 2 ^ (f.mb - 1)
    let two := fun (y : FRes) => ((n a || n b) = true → y = (q (if n a = true then a else b), if (g a || g b) = true then flNv else flNone))
    two (f.add m r a b) ∧ two (f.sub m r a b) ∧ two (f.mul m r a b) ∧ (f = fp32 → two (fdiv m r a b))
    ∧ ((n a || n b || n c) = true → f.fma m r a b c =
        (q (if n a = true then a else if n b = true then b else c), if (g a || g b || g c) = true then flNv else flNone))

/-- A result is the exact one, rounded once. The delivered magnitude is the neighbour that the rounding mode names of the two
codes between which the exact magnitude m x 2^e lies, and NX is raised exactly when it lies on neither (02 R21, R23); one
beyond the range gives the code of 02 Table 2.6, with OF and NX (02 R22); that SR, like the directed modes, overflows as soon as a
magnitude exceeds the largest finite value, where the last sentence of 02 R23 reads otherwise, is the model's reading (log 26). That
VFRND tests the operand itself for 02 R30's conditions, so that it raises UF for a subnormal operand and never OF, is its reading
too (log 37). Magnitudes are measured in units of 2^u, the lowest
place that matters; where only the bits down to a place are known, and that something lies below, it is as if a half of that
place did. Sums, products and fused products round the exact number that their operands give, a zero of addends of opposite
signs being +0, or -0 under RD (06 R105, R106); quotients and roots round the number whose first bits bracket them (06
R110). -/
def Obligations.RoundsOnce : Prop :=
  (∀ (f : Fmt) (mode : Rnd) (r : Nat) (neg : Bool) (m : Nat) (e : Int), f ∈ [fp32, fp16, bf16, e4m3, e5m2, e2m1] → m ≠ 0 →
    r < 2 ^ 32 →
      let y := f.round mode r neg ⟨m, e, false⟩
      let v := min (f.topE - 1) e
      let top := f.topM * 2 ^ (f.topE - v).toNat
      let beyond := if mode = .rne then 2 * top + 2 ^ (f.topE - v).toNat ≤ 2 * (m * 2 ^ (e - v).toNat)
        else top < m * 2 ^ (e - v).toNat
      (beyond → y = (f.sign neg + (if f.inf = false then f.top else match mode with
          | .rne | .sr => f.infCode
          | .rz => f.top
          | .ru => if neg = true then f.top else f.infCode
          | .rd => if neg = true then f.infCode else f.top), flOf ||| flNx))
      ∧ (¬ beyond →
        let u := min f.low e
        let x := m * 2 ^ (e - u).toNat
        let at' := fun k => f.magUnits k * 2 ^ (f.low - u).toNat
        ∃ k, at' k ≤ x ∧ x < at' (k + 1)
          ∧ y.1 = f.sign neg + (if goesUp mode neg r k (x - at' k) (at' (k + 1) - at' k) = true then k + 1 else k)
          ∧ (y.2.getLsbD 4 = true ↔ x ≠ at' k))
      ∧ (2 ^ 60 ≤ m → f.round mode r neg ⟨m, e, true⟩ = f.round mode r neg ⟨2 * m + 1, e - 1, false⟩))
  ∧ ∀ (f : Fmt) (mode : Rnd) (r a b : Nat) (n1 n2 : Bool) (m1 m2 : Nat) (e1 e2 : Int), f = fp32 ∨ f = fp16 ∨ f = bf16 →
      a < 2 ^ f.width → b < 2 ^ f.width → f.decode a = .fin n1 m1 e1 → f.decode b = .fin n2 m2 e2 →
      let exact := fun (y : FRes) (same neg : Bool) (x q : Int) =>
        (x = 0 → y = (f.sign (if same = true then neg else mode == .rd), flNone))
        ∧ (x ≠ 0 → y = f.round mode r (decide (x < 0)) ⟨x.natAbs, q, false⟩)
      let brackets := fun (y : FRes) (neg : Bool) (q : Int) (below : Nat → Prop) (equal : Nat → Prop) =>
        ∃ k st, 2 ^ 60 ≤ k ∧ below k ∧ ¬ below (k + 1) ∧ (st = false ↔ equal k) ∧ y = fp32.round mode r neg ⟨k, q, st⟩
      let q := min e1 e2
      exact (f.add mode r a b) (n1 == n2) n1 (scaled n1 m1 e1 q + scaled n2 m2 e2 q) q
      ∧ exact (f.sub mode r a b) (n1 != n2) n1 (scaled n1 m1 e1 q - scaled n2 m2 e2 q) q
      ∧ exact (f.mul mode r a b) true (n1 != n2) (scaled n1 m1 0 0 * scaled n2 m2 0 0) (e1 + e2)
      ∧ (∀ d n3 m3 e3, d < 2 ^ f.width → f.decode d = .fin n3 m3 e3 → let q := min (e1 + e2) e3
          exact (f.fma mode r a b d) ((n1 != n2) == n3) n3 (scaled (n1 != n2) (m1 * m2) (e1 + e2) q + scaled n3 m3 e3 q) q)
      ∧ (f = fp32 →
        (m1 ≠ 0 → m2 ≠ 0 → brackets (fdiv mode r a b) (n1 != n2) (e1 - e2 - 96) (fun k => k * m2 ≤ m1 * 2 ^ 96)
          fun k => k * m2 = m1 * 2 ^ 96)
        ∧ (m1 ≠ 0 → n1 = false →
          let p := if e1 % 2 = 0 then m1 else 2 * m1
          let h := e1 / 2
          brackets (fsqrt mode r a) false (h - 80) (fun k => k * k ≤ p * 2 ^ 160) (fun k => k * k = p * 2 ^ 160)
          ∧ brackets (frsq mode r a) false (-h - 100) (fun k => k * k * p ≤ 2 ^ 200) fun k => k * k * p = 2 ^ 200)
        ∧ (m1 ≠ 0 → e1 < 0 →
          let u := 2 ^ (-e1).toNat
          let k := m1 / u
          m1 < 2 ^ 23 * u → r < 2 ^ 32 →
          (frnd mode r a).1 = (fp32.round .rne 0 n1 ⟨if goesUp mode n1 r k (m1 % u) u = true then k + 1 else k, 0, false⟩).1
          ∧ ((frnd mode r a).2 = if m1 % u = 0 then flNone else if m1 * 2 ^ 126 < u then flUf ||| flNx else flNx)))

/-- VCVT converts each element by 02 R17 and packs the results; elements past the count are 0 (06 R112). A conversion gives 02
Table 2.4: rounded, saturated with its flags, or a NaN's code; an integer into a narrower type saturates and raises nothing. -/
def Obligations.Conversions : Prop :=
  (∀ (s : State) (t : Nat) (w : Thread) (e : Entry) (c : Clause) (m : Rnd) (dt sty : ETy) (g : Guard) (d : VReg) (a : CvtSrc),
    Issues s (.vcvt m dt sty g d a) t w e c →
      let wide := sty.perWord = 1 ∧ dt.perWord ≠ 1
      let n := if dt.perWord = 1 ∧ sty.perWord = 1 then 1 else if dt.perWord = 1 ∨ sty.perWord = 1 then 2
        else min dt.perWord sty.perWord
      let x := fun l => match a with
        | .v r => if wide then (w.vpair r.toNat l).toNat else (w.vreg r.toNat l).toNat
        | .s r => if wide then (w.sreg r.toNat).toNat else (w.sreg r.toNat).toNat % 2 ^ 32
      let y := fun l => convertedWord dt sty m (s.srOf w e l) (x l) n
      ∃ fl, (∀ k, k < 5 → (fl.getLsbD k = true ↔ ∃ l j, l < 128 ∧ j < n ∧ TakesPart w e g l = true
            ∧ (convert dt sty m (s.srOf w e l j) (x l / 2 ^ (etyBits sty * j) % 2 ^ etyBits sty)).2.getLsbD k = true))
        ∧ if dt.perWord = 1 ∧ sty.perWord ≠ 1
          then WritesPair s (.vcvt m dt sty g d a) t w e g d (fun l => BitVec.ofNat 64 (y l)) fl
          else WritesV s (.vcvt m dt sty g d a) t w e g d (fun l => BitVec.ofNat 32 (y l)) fl)
  ∧ ∀ (dt sty : ETy) (mode : Rnd) (r x : Nat), r < 2 ^ 32 → x < 2 ^ etyBits sty →
    let y := convert dt sty mode r x
    let lo := (etyRange dt).1
    let hi := (etyRange dt).2
    let code := fun j : Int => (j % 2 ^ etyBits dt).toNat
    (∀ f g, etyFmt dt = some f → etyFmt sty = some g → dt ≠ sty →
      (∀ n m e, g.decode x = .fin n m e → y = f.round mode r n ⟨m, e, false⟩)
      ∧ (∀ n, g.decode x = .inf n → y = if f.inf = true then (f.sign n + f.infCode, flNone) else (f.sign n + f.top, flNv))
      ∧ ∀ n sig pay, g.decode x = .nan n sig pay → y =
          if f.inf = true then (f.sign n + (f.infCode ||| 2 ^ (f.mb - 1) ||| pay / 2 ^ (23 - f.mb)), if sig = true then flNv else flNone)
          else (if dt = .e4m3 then f.sign n + 0x7F else 0, flNv))
    ∧ (∀ g, etyFmt dt = none → etyFmt sty = some g →
      (∀ n sig pay, g.decode x = .nan n sig pay → y = (0, flNv))
      ∧ (∀ n, g.decode x = .inf n → y = (code (if n = true then lo else hi), flNv))
      ∧ ∀ n m e, g.decode x = .fin n m e →
          let gap := 2 ^ (-e).toNat
          let z := m * 2 ^ e.toNat
          let k : Nat := if goesUp mode n r (z / gap) (z % gap) gap = true then z / gap + 1 else z / gap
          let v : Int := if n = true then -(k : Int) else k
          y = if v < lo then (code lo, flNv) else if hi < v then (code hi, flNv)
            else (code v, if z % gap = 0 then flNone else flNx))
    ∧ (∀ f, etyFmt dt = some f → etyFmt sty = none →
        y = f.round mode r (decide (etyInt sty x < 0)) ⟨(etyInt sty x).natAbs, 0, false⟩)
    ∧ (etyFmt dt = none → etyFmt sty = none →
      (lo ≤ etyInt sty x → etyInt sty x ≤ hi → y = (code (etyInt sty x), flNone))
      ∧ (etyBits dt < etyBits sty → y = (code (max lo (min hi (etyInt sty x))), flNone)))

/-- VSHFL takes the value of the lane that its operand names, or the fallback where that lane does not take part; VBCAST
gives every lane the value of the lane that its 64-bit operand names, or 0 where it names none that takes part (06 R115). -/
def Obligations.Shuffles : Prop :=
  ∀ (s : State) (t : Nat) (w : Thread) (e : Entry) (c : Clause) (g : Guard) (d a : VReg),
    (∀ (n : VSrc) (fb : VMovSrc), Issues s (.vshfl g d a n fb) t w e c →
      WritesV s (.vshfl g d a n fb) t w e g d (fun l =>
        let j := (n.value w l).toNat
        if j < 128 ∧ TakesPart w e g j = true then w.vreg a.toNat j else fb.value w l) flNone)
    ∧ ∀ n : SSrc, Issues s (.vbcast g d a n) t w e c →
      WritesV s (.vbcast g d a n) t w e g d (fun _ =>
        let j := (n.value w).toNat
        if j < 128 ∧ TakesPart w e g j = true then w.vreg a.toNat j else 0#32) flNone

/-- VSCAN gives each lane the combination of the lanes that take part up to it, or below it with EXCL; VREDUCE gives the
combination of all of them to every lane, or to an s register, which takes the identity where there is none (06 R117). -/
def Obligations.ScansAndReductions : Prop :=
  ∀ (s : State) (t : Nat) (w : Thread) (e : Entry) (c : Clause) (op : RedOp) (ty : RedTy) (g : Guard) (a : VReg),
    let ls := partLanes w e g
    let of := fun (p : Nat → Bool) => reduce op ty ((ls.filter p).map fun k => w.vreg a.toNat k)
    (∀ (d : VReg) (excl : Bool), Issues s (.vscan op ty excl g d a) t w e c →
      let r := fun l => of fun k => decide (k < l ∨ (excl = false ∧ k = l))
      ∃ fl, RaisedBy w e g (fun l => (r l).2) fl ∧ WritesV s (.vscan op ty excl g d a) t w e g d (fun l => (r l).1) fl)
    ∧ (∀ d : VReg, Issues s (.vreduce op ty g (.v d) a) t w e c →
      WritesV s (.vreduce op ty g (.v d) a) t w e g d (fun _ => (of fun _ => true).1) (of fun _ => true).2)
    ∧ ∀ d : SReg, Issues s (.vreduce op ty g (.s d) a) t w e c →
      Performs s (.vreduce op ty g (.s d) a) s t
        (w.setS d.toNat (if ls = [] then BitVec.ofNat 64 (redIdentity op ty) else (of fun _ => true).1.setWidth 64)) e
        (fun y => y.raise (of fun _ => true).2)

/-- VBALLOT writes the predicate bits of the lanes that take part to an even pair of s registers (06 R116). VCOMPACT packs
the values of the lanes whose predicate is set into the first lanes that take part; the rest keep their value (06 R118). -/
def Obligations.BallotsAndCompacts : Prop :=
  ∀ (s : State) (t : Nat) (w : Thread) (e : Entry) (c : Clause) (g : Guard) (p : PReg),
    (∀ d : SReg, Issues s (.vballot g d p) t w e c → ∃ s' x, exec (.vballot g d p) s = .next s' ∧ RunsOn s s' t w x e id
      ∧ (∀ l, l < 128 → ((x.sreg (d.toNat + 1) ++ x.sreg d.toNat).getLsbD l = true ↔
          TakesPart w e g l = true ∧ (w.preg p.toNat).getLsbD l = true))
      ∧ (∀ r, r ≠ d.toNat → r ≠ d.toNat + 1 → x.sreg r = w.sreg r)
      ∧ (∀ r l, x.vreg r l = w.vreg r l) ∧ ∀ r, x.preg r = w.preg r)
    ∧ ∀ d a : VReg, Issues s (.vcompact g d a p) t w e c → ∃ s' x, exec (.vcompact g d a p) s = .next s' ∧ RunsOn s s' t w x e id
      ∧ (∀ r l, l < 128 →
          let from' := (partLanes w e g).filter fun k => (w.preg p.toNat).getLsbD k
          let n := ((partLanes w e g).filter fun k => decide (k < l)).length
          x.vreg r l = if r = d.toNat ∧ TakesPart w e g l = true ∧ n < from'.length then w.vreg a.toNat (from'.getD n 0)
            else w.vreg r l)
      ∧ (∀ r, x.sreg r = w.sreg r) ∧ ∀ r, x.preg r = w.preg r

/-- An F32 sum of lanes does not depend on the order of its members where none is a NaN (02 R26, R28). -/
def Obligations.SumsIgnoreOrder : Prop :=
  ∀ l k : List Word, l.Perm k → (∀ x ∈ l, (fp32.decode x.toNat).isNan = false) → reduce .add .f32 l = reduce .add .f32 k

/-- SLD reads a word or doubleword of global space, or of the private segment of the lowest active lane, into an s register (06
R95): it waits for the step's close, for its tables and for its home (07 R125, 22 R337), and a misaligned address traps ALIGN,
an access that its page forbids PAGE or PROT, one past the private segment PROT. A word that is lost reads 0 with its record, and
in a STRICT context or page traps MEMERR; a line that the L1 or L2 holds answers whether or not the home is reached (13 R277). The
model's own readings: the wait comes before the address is looked at (log 38); a trap
of a private access names its one lane (log 31), and has the private offset as its TRAPADDR (log 17); where no lane is active the
lowest launched one stands for it (log 87). -/
def Obligations.ScalarLoads : Prop :=
  ∀ (s : State) (t : Nat) (w : Thread) (e : Entry) (c : Clause) (priv wide : Bool) (d a : SReg) (b : SSrc),
    Issues s (.sld priv wide d a b) t w e c →
      let i := Instr.sld priv wide d a b
      let n := if wide = true then 8 else 4
      let x := w.sreg a.toNat + b.value w
      let lane := if e.mask = 0#128 then w.frameLane else lowestLane e.mask
      let va := if priv = true then s.privAddr w lane x.toNat else x
      let lanes := if priv = true then laneBit lane &&& e.mask else e.mask
      let found := if priv = true then s.privPa w lane x.toNat n .read else s.access w.mmu w.ctx x .read
      (priv = false → s.gridReadWaits w e = true → Stalls s i t w)
      ∧ (s.walkReached w.mmu w.ctx va = false → Stalls s i t w)
      ∧ ((priv = true ∨ s.gridReadWaits w e = false) → s.walkReached w.mmu w.ctx va = true →
        (x.toNat % n ≠ 0 → Traps s i t w c ⟨.align, x, lanes⟩)
        ∧ (x.toNat % n = 0 →
          (∀ k, (priv = true → (s.grid? w.grid).isSome = true) → found = .error k → TrapsAt s i t w c ⟨k, x, lanes⟩ [(lane, va)])
          ∧ ∀ pa leaf, found = .ok (pa, leaf) →
            let u := if priv = true then privUse w true va pa leaf n else s.globalUse w true false none x pa leaf n
            let comes := s.near u = true ∨ s.reaches w.die pa = true
            (¬ comes → Stalls s i t w)
            ∧ (∀ bs, comes → (s.near u = true ∨ cxlPortOf pa = none ∨ Config.cxlAnswers s.tick pa = true) → s.Finds u bs →
                Performs s i ((s.fills w e.gstep [(s.gkey w lane, u)]).touched w [(va.toNat, n)]) t
                  (w.setS d.toNat (BitVec.ofNat 64 (leNat bs))) e id)
            ∧ (∀ src bs, comes → s.Loses u src bs →
                let found : LaneRead := ⟨bs, some src, s.strictAt w leaf, false, x, va, [u]⟩
                let s0 := (s.noteReads w e [(lane, found)]).touched w [(va.toNat, n)]
                let s1 := if src = 2 then s0.dropLate w [pa] else s0
                (s.strictAt w leaf = false → Performs s i s1 t (w.setS d.toNat (BitVec.ofNat 64 (leNat bs))) e id)
                ∧ (s.strictAt w leaf = true → s.trapReached w .memerr = true → TrapsOver s i s1 t w c ⟨.memerr, x, lanes⟩)
                ∧ (s.strictAt w leaf = true → s.trapReached w .memerr = false → Stalls s i t w))))

/-- LD and LDU take their data at issue: the instruction retires with an operation outstanding that holds its flag, its
registers pending, and the words that it will bring (07 R123 to R128); its accesses to global and private memory, a lane each in
ascending order, are what TLBs, pins and caches see of it (19 R318, 22 R342): the first level that holds a line answers at once, a
.STREAM allocates no L1 line, and .KEEP marks the line that the L2 takes as retained (13 R277, R278). -/
def Obligations.Loads : Prop :=
  ∀ (s : State) (t : Nat) (w : Thread) (e : Entry) (c : Clause) (h : Hint) (home : Option (BitVec 4)) (q : Bool) (f : Nat),
    c.flag q = some f →
      let issued := fun (i : Instr) (regs : List Nat) (sreg : Option Nat) (kind : OpKind) (sp : Space) (n : Nat)
          (vas : Option (List (Nat × DWord))) =>
        ∃ (uses : List (Nat × LineUse)) (far : List Far),
          List.Forall₂ (fun x f => f.lane = x.1 ∧ f.va = x.2.va ∧ f.len = x.2.n ∧ f.sent = (s.near x.2 || s.reaches w.die x.2.pa)) uses far
          ∧ (∀ l, vas = some l → uses.map (fun x => (x.1, x.2.va)) = l ∧ ∀ x ∈ uses, ∃ pa leaf,
              x.2 = if sp = .priv then privUse w (h != .stream) x.2.va pa leaf n
                else s.globalUse w (h != .stream) (h == .keep) home x.2.va pa leaf n)
          ∧ Performs s i { (s.fills w e.gstep (uses.map fun x => (s.gkey w x.1, x.2))).touched w (uses.map fun x => (x.2.va.toNat, x.2.n))
                with uid := s.uid + 1 } t
              (w.addOp { uid := s.uid, flag := f, regs := regs, sreg := sreg, kind := kind, far := far, since := s.time }) e id
      (∀ (sz : Size) (sp : Space) (g : Guard) (d : VReg) (a : LdBase) (b : Off) (rd : Nat → List Byte),
        let i := Instr.ld sz sp h home q g d a b
        let addr := fun l => a.value w l + BitVec.ofNat 64 (b.value w l)
        Issues s i t w e c → (partLanes w e g = [] ∨ s.readWaits w e sp = false) →
        (∀ l, l < 128 → TakesPart w e g l = true → s.xlatReached w sp a sz l (addr l) = true ∧ s.Reads w sp h home a sz l (addr l) (rd l)) →
          issued i ((List.range sz.regs).map (d.toNat + ·)) none
            (.load ((partLanes w e g).flatMap fun l => (List.range sz.regs).map fun k =>
              (vix (d.toNat + k) l, loadedWord sz (addr l) (rd l) k))) sp sz.bytes
            (match sp with
              | .global => some ((partLanes w e g).map fun l => (l, byteAddr sz (addr l)))
              | .priv => some ((partLanes w e g).map fun l => (l, s.privAddr w l (byteAddr sz (addr l)).toNat))
              | .stash => some []
              | .window => none))
      ∧ ∀ (stash wide : Bool) (d a : SReg) (b : SSrc) (rd : List Byte),
        let i := Instr.ldu stash wide h home q d a b
        let sp := if stash = true then Space.stash else Space.global
        let sz := if wide = true then Size.b64 else Size.b32
        let va := w.sreg a.toNat + b.value w
        Issues s i t w e c → s.readWaits w e sp = false → s.xlatReached w sp (.s a) sz 0 va = true → s.Reads w sp h home (.s a) sz 0 va rd →
          issued i [] (some d.toNat) (.loadS d.toNat (BitVec.ofNat 64 (leNat rd))) sp sz.bytes
            (some (if stash = true then [] else [(lowestLane e.mask, va)]))

/-- A load that must wait for the close of its step stalls (07 R125), before its addresses are looked at, which is the model's
choice (log 38). The data of an outstanding LD, LDU or FBRD arrives:
its registers are written, and the operation is outstanding no longer, so that its flag clears; nothing else changes (03 R38,
07 R123, R127, 09 R227). -/
def Obligations.LoadsWaitAndArrive : Prop :=
  (∀ (s : State) (t : Nat) (w : Thread) (e : Entry) (c : Clause) (h : Hint) (home : Option (BitVec 4)) (q : Bool),
    (∀ (sz : Size) (sp : Space) (g : Guard) (d : VReg) (a : LdBase) (b : Off), Issues s (.ld sz sp h home q g d a b) t w e c →
      partLanes w e g ≠ [] → s.readWaits w e sp = true → Stalls s (.ld sz sp h home q g d a b) t w)
    ∧ ∀ (stash wide : Bool) (d a : SReg) (b : SSrc), Issues s (.ldu stash wide h home q d a b) t w e c →
      s.readWaits w e (if stash = true then .stash else .global) = true → Stalls s (.ldu stash wide h home q d a b) t w)
  ∧ ∀ (s : State) (t : Nat) (w : Thread) (o : Op), s.thread? t = some w → (w.ops.find? fun x => x.uid == o.uid) = some o →
    s.farReached w.die o.far = true → w.badV = [] → w.badS = [] →
      let lands := fun (i : Instr) (v : Nat → Nat → Word) (r : Nat → DWord) =>
        ∃ x, exec i s = .next (s.setThread t x)
          ∧ x = { w with v := x.v, s := x.s, ops := w.ops.filter fun y => y.uid ≠ o.uid }
          ∧ (∀ k l, l < 128 → x.vreg k l = v k l) ∧ ∀ k, x.sreg k = r k
      (∀ ws, o.kind = .load ws →
        let v := fun k l => ((ws.reverse.find? fun x => x.1 == vix k l).map (·.2)).getD (w.vreg k l)
        lands (.loadDataArrives t o.uid) v w.sreg ∧ lands (.fbrdDataArrives t o.uid) v w.sreg)
      ∧ ∀ d x, o.kind = .loadS d x →
        lands (.loadDataArrives t o.uid) w.vreg fun k => if k = d then x else w.sreg k

/-- ST and STF of global and stash space change no byte: the writes of the lanes that take part are pending until the close
of their step, with the commit-log entries that it reserves; an STF holds its registers pending besides (07 R129, R134, 11
R259). Of the lanes whose page forbids the store those of the first cause trap, PAGE before PROT, and of those to a TWIN page all
trap TWIN_PARTIAL (07 R122, R133); of the stash those past STASH trap PROT, and then those in a tile that moves or that another wave
has changed TILE_BUSY (07 R140). Where the reservations fail the whole instruction traps LOGFULL, or RLOG_FULL at the ring's base (07
R132, 20 R329); a ring that is not reached is waited for (22 R337). The TRAPADDR of a 4-bit access is its nibble address, the
model's reading (log 24). -/
def Obligations.PendingStores : Prop :=
  ∀ (s : State) (i : Instr) (f : StoreForm) (t : Nat) (w : Thread) (e : Entry) (c : Clause) (g : Grid) (p : Group)
    (pa : Nat → Nat) (flag : Nat),
    Issues s i t w e c → storeForm i = some f → s.grid? w.grid = some g → s.group? w.group = some p →
    (∀ q d, f.stf = some (q, d) → c.flag q = some flag) →
      let va := fun l => byteAddr f.sz (f.addr w l)
      let ls := partLanes w e f.g
      let n := ls.length * (if f.sz = .b128 then 2 else 1)
      let k := if f.rule = .any ∧ g.pkt.det = false ∧ s.recording w.ctx = true then ls.length else 0
      let stf := f.stf.map fun _ => s.uid
      let w' := match f.stf with
        | some (_, d) => w.addOp { uid := s.uid, flag := flag, regs := (List.range f.sz.regs).map (d.toNat + ·), sreg := none
                                   kind := .stf (f.sp == .global) (if f.sp = .global then e.gstep else e.wstep) d.toNat
                                     (f.sz == .b64) (active w e f.g), far := [], since := s.time }
        | none => w
      let ws := fun step strict => f.writes s w step ls pa stf (s.uid + if f.stf.isSome = true then 1 else 0) strict
      let open' := k = 0 ∨ s.ringOpen w.die .resolution = true
      let fails := fun (k : Cause) (a : DWord) => Traps s i t w c ⟨k, a, maskOf ls⟩
      (∀ l ∈ ls, misaligned f.sz (f.addr w l) = false) →
      (f.sp = .global → (∀ l ∈ ls, s.walkReached w.mmu w.ctx (va l) = true) → ∀ (x : Cause) (low : Nat),
        let found := fun l y => s.access w.mmu w.ctx (va l) .write = .error y
        let bad := ls.filter fun l => decide (found l x)
        bad.head? = some low → (∀ l ∈ ls, ∀ y, found l y → x.own ≤ y.own) →
          TrapsAt s i t w c ⟨x, f.addr w low, maskOf bad⟩ (bad.map fun l => (l, va l)))
      ∧ (f.sp = .global → ∀ leaf : Nat → DWord,
        (∀ l ∈ ls, s.walkReached w.mmu w.ctx (va l) = true ∧ s.access w.mmu w.ctx (va l) .write = .ok (pa l, leaf l)) →
        let onTwin := ls.filter fun l => leafTwin (leaf l)
        (∀ low, onTwin.head? = some low → Traps s i t w c ⟨.twinPartial, f.addr w low, maskOf onTwin⟩)
        ∧ (onTwin = [] → ¬ open' → Stalls s i t w)
        ∧ (onTwin = [] → open' → n ≠ 0 → s.logFree w.ctx < n → fails .logfull (f.addr w (ls.headD 0)))
        ∧ (onTwin = [] → open' → (n = 0 ∨ n ≤ s.logFree w.ctx) → k ≠ 0 → s.ringFull w.die (32 * k) = true →
            fails .rlogFull (s.die w.die).rring.base)
        ∧ (onTwin = [] → open' → (n = 0 ∨ n ≤ s.logFree w.ctx) → (k = 0 ∨ s.ringFull w.die (32 * k) = false) →
        ∃ s1, Performs s i s1 t w' e id
          ∧ s1.grid? w.grid = some { g with
              pend := g.pend ++ ws e.gstep fun l => s.strictAt w (leaf l)
              logRes := if n = 0 then g.logRes else g.logRes ++ [(e.gstep, n)]
              rlRes := if k = 0 then g.rlRes else g.rlRes ++ [(e.gstep, w.die, k)] }
          ∧ (∀ j, j ≠ w.grid → s1.grid? j = s.grid? j)
          ∧ (k = 0 → { s1 with grids := s.grids, uid := s.uid } = s.touched w (ls.map fun l => ((va l).toNat, f.sz.bytes)))))
      ∧ (f.sp = .stash → (∀ l ∈ ls, pa l = (byteAddr f.sz (f.addr w l)).toNat) →
        let past := ls.filter fun l => decide (g.stashBytes < pa l + f.sz.bytes)
        let busy := ls.filter fun l => p.busyAt w.wix (pa l) f.sz.bytes
        (∀ low, past.head? = some low → Traps s i t w c ⟨.prot, f.addr w low, maskOf past⟩)
        ∧ (∀ low, past = [] → busy.head? = some low → Traps s i t w c ⟨.tileBusy, f.addr w low, maskOf busy⟩)
        ∧ (past = [] → busy = [] → ¬ open' → Stalls s i t w)
        ∧ (past = [] → busy = [] → open' → k ≠ 0 → s.ringFull w.die (32 * k) = true → fails .rlogFull (s.die w.die).rring.base)
        ∧ (past = [] → busy = [] → open' → (k = 0 ∨ s.ringFull w.die (32 * k) = false) →
        ∃ s1, Performs s i s1 t w' e id
          ∧ s1.group? w.group = some { p with
              pend := p.pend ++ ws e.wstep fun _ => s.strict w.ctx
              rlRes := if k = 0 then p.rlRes else p.rlRes ++ [(e.wstep, w.die, k)] }
          ∧ (∀ j, j ≠ w.group → s1.group? j = s.group? j)
          ∧ (k = 0 → { s1 with groups := s.groups, uid := s.uid } = s.touched w [])))

/-- ST of private space completes at once: each lane's bytes stand in its own segment, in ascending lane, and every byte
outside them is as before (07 R129, 13 R280). They stand in lines of the L1, which has yet to write them back (13 R281): bytes of memory
are here as their lane sees them, the model's choice (log 97). Lanes whose page is a TWIN page trap TWIN_PARTIAL there too (07 R133). -/
def Obligations.PrivateStores : Prop :=
  ∀ (s : State) (sz : Size) (rule : Rule) (fsum : Bool) (g : Guard) (a : StBase) (b : Off) (v : VReg) (t : Nat) (w : Thread)
    (e : Entry) (c : Clause) (pa : Nat → Nat) (leaf : Nat → DWord),
    let i := Instr.st sz .priv rule fsum g a b v
    let addr := fun l => a.value w l + BitVec.ofNat 64 (b.value w l)
    let va := fun l => s.privAddr w l (byteAddr sz (addr l)).toNat
    Issues s i t w e c → s.badMem = [] → s.badL3 = [] → s.writesWhole → (∀ l ∈ partLanes w e g, misaligned sz (addr l) = false
      ∧ s.privReached w (va l) sz.bytes = true ∧ (∀ x, covers (pa l) sz.bytes x → s.linkDown x = false)
      ∧ s.privPa w l (byteAddr sz (addr l)).toNat sz.bytes .write = .ok (pa l, leaf l)) →
      let onTwin := (partLanes w e g).filter fun l => leafTwin (leaf l)
      (∀ low, onTwin.head? = some low → Traps s i t w c ⟨.twinPartial, addr low, maskOf onTwin⟩)
      ∧ (onTwin = [] → let last := fun l x => l ∈ partLanes w e g ∧ covers (pa l) sz.bytes x
        ∧ ∀ k ∈ partLanes w e g, l < k → ¬ covers (pa k) sz.bytes x
      ∃ s1, Performs s i s1 t w e id
        ∧ { s1 with mem := s.mem, caches := s.caches } = s.touched w ((partLanes w e g).map fun l => ((va l).toNat, sz.bytes))
        ∧ (∀ l, (partLanes w e g).getLast? = some l → ∃ x r, s1.caches.l1At w.mmu = x :: r ∧ x.priv = true
            ∧ x.line = (pa l + sz.bytes - 1) / 128
            ∧ ∃ d ∈ x.dirty, d.pa = (pa l + sz.bytes - 1) / 16 * 16 ∧ d.grid = w.grid ∧ d.key = s.gkey w l)
        ∧ (∀ x, (∀ l ∈ partLanes w e g, ¬ covers (pa l) sz.bytes x) → s1.readByte x = s.readByte x)
        ∧ (sz ≠ .b4 → ∀ l x, last l x → s.holdsMemory x = true →
            s1.readByte x = (storeBytes w sz v l).getD (x - pa l) 0#8)
        ∧ (sz = .b4 → ∀ l x, last l x → s.holdsMemory x = true →
            let nib := if (addr l).getLsbD 0 = true then (s1.readByte x).extractLsb' 4 4 else (s1.readByte x).extractLsb' 0 4
            nib = (w.vreg v.toNat l).extractLsb' 0 4))

/-- STL stores 16 bytes of four registers in each lane: on CELL pages the writes are pending with two commit-log entries a
lane; an octet of lanes on a TWIN page that covers one aligned line writes the line whole, with one entry; an octet that meets
a TWIN page in any other way traps TWIN_PARTIAL, which names its eight lanes (07 R136, 11 R260); that an ember's trap names its own
lane alone is the model's reading (log 41). -/
def Obligations.LineStores : Prop :=
  ∀ (s : State) (t : Nat) (w : Thread) (e : Entry) (c : Clause) (rule : Rule) (g : Guard) (a : StBase) (b : Off) (v : VReg)
    (gr : Grid) (pa : Nat → Nat) (leaf : Nat → DWord),
    let i := Instr.stl rule g a b v
    let ls := partLanes w e g
    let f : StoreForm := ⟨.b128, .global, rule, false, g, a, b, v, none⟩
    let base := s.touched w (ls.map fun l => ((f.addr w l).toNat, 16))
    Issues s i t w e c → s.grid? w.grid = some gr →
    (∀ l ∈ ls, (f.addr w l).toNat % 16 = 0 ∧ s.walkReached w.mmu w.ctx (f.addr w l) = true
      ∧ s.access w.mmu w.ctx (f.addr w l) .write = .ok (pa l, leaf l)) →
      let k := if rule = .any ∧ gr.pkt.det = false ∧ s.recording w.ctx = true then ls.length else 0
      ((∀ l ∈ ls, leafTwin (leaf l) = false) → (ls = [] ∨ 2 * ls.length ≤ s.logFree w.ctx) →
        (k = 0 ∨ s.ringOpen w.die .resolution = true ∧ s.ringFull w.die (32 * k) = false) →
        ∃ s1, Performs s i s1 t w e id
          ∧ s1.grid? w.grid = some { gr with
              pend := gr.pend ++ f.writes s w e.gstep ls pa none s.uid fun l => s.strictAt w (leaf l)
              logRes := if ls = [] then gr.logRes else gr.logRes ++ [(e.gstep, 2 * ls.length)]
              rlRes := if k = 0 then gr.rlRes else gr.rlRes ++ [(e.gstep, w.die, k)] }
          ∧ (k = 0 → { s1 with grids := s.grids, uid := s.uid } = base))
      ∧ (∀ m, ls = (List.range 8).map (8 * m + ·) → w.ember = none → (f.addr w (8 * m)).toNat % 128 = 0 →
          (∀ j, j < 8 → f.addr w (8 * m + j) = f.addr w (8 * m) + BitVec.ofNat 64 (16 * j) ∧ leafTwin (leaf (8 * m + j)) = true) →
          1 ≤ s.logFree w.ctx → k = 0 →
          Performs s i ((base.setGrid w.grid { gr with logRes := gr.logRes ++ [(e.gstep, 1)] }).twinWrite
            (pa (8 * m)) gr.pkt.det
            { grid := w.grid, step := e.gstep, va := (f.addr w (8 * m)).toNat
              data := (List.range 8).flatMap fun j => storeBytes w .b128 v (8 * m + j)
              rule := rule, w := ⟨s.gkey w (8 * m), 0, 0⟩, die := w.die }) t w e id)
      ∧ (let whole := fun m => (∀ j, j < 8 → 8 * m + j ∈ ls ∧ f.addr w (8 * m + j) = f.addr w (8 * m) + BitVec.ofNat 64 (16 * j))
          ∧ (f.addr w (8 * m)).toNat % 128 = 0
         let fails := fun l => (∃ k ∈ ls, k / 8 = l / 8 ∧ leafTwin (leaf k) = true) ∧ (w.ember.isSome = true ∨ ¬ whole (l / 8))
         ∀ low lanes, low ∈ ls → fails low → (∀ l ∈ ls, fails l → low ≤ l) →
          (∀ l, l < 128 → (lanes.getLsbD l = true ↔ (w.ember = none ∨ l ∈ ls) ∧ ∃ k ∈ ls, fails k ∧ k / 8 = l / 8)) →
            Traps s i t w c ⟨.twinPartial, f.addr w low, lanes⟩)

/-- A misaligned lane makes LD and ST trap ALIGN for the lanes that are misaligned, with the address of the lowest of them:
ALIGN comes before every other cause of an access (07 R122). -/
def Obligations.MisalignedAccesses : Prop :=
  ∀ (s : State) (t : Nat) (w : Thread) (e : Entry) (c : Clause) (sz : Size) (sp : Space) (g : Guard) (low : Nat),
    sp ≠ .window → sz ≠ .b4 →
      let traps := fun (i : Instr) (addr : Nat → DWord) =>
        let bad := (partLanes w e g).filter fun l => decide ((addr l).toNat % sz.bytes ≠ 0)
        bad.head? = some low → Traps s i t w c ⟨.align, addr low, maskOf bad⟩
      (∀ (h : Hint) (home : Option (BitVec 4)) (q : Bool) (d : VReg) (a : LdBase) (b : Off),
        Issues s (.ld sz sp h home q g d a b) t w e c → s.readWaits w e sp = false →
          (∀ l ∈ partLanes w e g, s.xlatReached w sp a sz l (a.value w l + BitVec.ofNat 64 (b.value w l)) = true) →
          traps (.ld sz sp h home q g d a b) fun l => a.value w l + BitVec.ofNat 64 (b.value w l))
      ∧ ∀ (rule : Rule) (fsum : Bool) (a : StBase) (b : Off) (v : VReg), Issues s (.st sz sp rule fsum g a b v) t w e c →
          (∀ l ∈ partLanes w e g, s.storeReached w sp sz l (a.value w l + BitVec.ofNat 64 (b.value w l)) = true) →
          traps (.st sz sp rule fsum g a b v) fun l => a.value w l + BitVec.ofNat 64 (b.value w l)

/-- NOP changes nothing but its retirement, and PREF nothing beside the caches, the TLBs and the pinned ranges that its lanes touch, and
the records of what their walks meet (07 R137, 08 R191, 19 R316). A global read of a line that no L1 has leaves it in the L2 that it
looks in, marked retained by .KEEP, and in the L1 of its place as committed, unless it is a .STREAM (13 R278). PAUSE n lowers the
priority of its path, and PAUSE 0 has no effect (07 R147): in normal mode until PAUSE_END finds its n clocks passed, and a pipe starts a path under PAUSE only where no other wave is ready; in deterministic mode for n visits of
its slot, each of which passes the wave over (18 R301); on an ember core another context that can issue comes first. -/
def Obligations.HintsAndPauses : Prop :=
  (∀ (s : State) (t : Nat) (w : Thread) (e : Entry) (c : Clause),
    (Issues s .nop t w e c → Performs s .nop s t w e id)
    ∧ (∀ (h : Hint) (home : Option (BitVec 4)) (g : Guard) (a : LdBase) (b : Off), Issues s (.pref h home g a b) t w e c →
        let addr := fun l => a.value w l + BitVec.ofNat 64 (b.value w l)
        let s1 := s.noteMalformed w ((partLanes w e g).filterMap fun l => (s.prefVa w a (addr l)).map fun va => (l, va))
        let s2 := s1.fills w e.gstep ((partLanes w e g).flatMap fun l => (s.prefUse w h home a (addr l)).map fun u => (s.gkey w l, u))
        Performs s (.pref h home g a b) (s2.touched w ((partLanes w e g).flatMap fun l => s.prefSpan w a (addr l))) t w e id)
    ∧ (∀ n : Word, Issues s (.pause n) t w e c → Performs s (.pause n) s t w e fun y =>
        if n = 0#32 then y else { y with pause := n.toNat, pausedAt := (s.die w.die).clock })
    ∧ (s.thread? t = some w →
        let passed := fun y : Entry => s.detGrid w.grid = false ∧ y.pause ≠ 0 ∧ y.pause ≤ ((s.die w.die).clock - y.pausedAt).toNat
        ∃ x : Thread, exec (.pauseEnd t) s = .next (s.setThread t x) ∧ { x with stack := w.stack } = w ∧ x.stack.length = w.stack.length
          ∧ ∀ (k : Nat) (y z : Entry), w.stack[k]? = some y → x.stack[k]? = some z →
              (passed y → z = { y with pause := 0 }) ∧ (¬ passed y → z = y)))
  ∧ (∀ (s : State) (die c : Nat) (step : Word) (key : Nat) (u : LineUse), u.priv = false → u.looks = true → s.l1Line? u = none →
      (∀ l, s.l2Line? u = some l → l.bad = []) → s.lineWhole u = true →
      let s' := s.useLine die c step key u
      (∀ d, u.l2 = some d → ∃ l r, s'.caches.l2At d = l :: r ∧ l.line = u.line ∧ l.kept = ((s.l2Line? u).any (·.kept) || u.kept))
      ∧ (u.puts = true → ∃ l r, s'.caches.l1At u.place = l :: r ∧ l.line = u.line ∧ l.priv = false ∧ l.bad = []
          ∧ l.bytes = s.readBytes (128 * u.line) 128)
      ∧ (u.puts = false → s'.caches.l1 = s.caches.l1))
  ∧ ∀ s : State,
    (∀ l u, s.choose l = some u → (∃ x ∈ l, x.2.ready.isSome = true ∧ s.pauseOf x.2 = 0) →
      ∃ x ∈ l, x.1 = u ∧ x.2.ready.isSome = true ∧ s.pauseOf x.2 = 0)
    ∧ (∀ (l : List (Nat × Thread)) slot t w, (l.find? fun x => x.2.slot == slot) = some (t, w) → s.pauseOf w ≠ 0 →
      s.visit l slot = .pass
      ∧ s.countVisit l slot = s.setThread t { w with stack := onRunning (fun y => { y with pause := y.pause - 1 }) w.stack })
    ∧ ∀ core x, s.coreTurn core = some x → (∃ y ∈ s.threads, ∃ m, y.2.ember = some m ∧ m.core = core
        ∧ s.canIssue y.1 y.2 = true ∧ s.pauseOf y.2 = 0) → s.pauseOf x.2 = 0

/-- TDEF defines a tile, READY or EMPTY by its descriptor, with the wave as owner; TFREE undefines it; TSTATE reads the state
that the wave sees, whether it is defined, and whether the wave owns it. A descriptor with a reserved value traps
RESERVED_ENC (07 R148 to R151). -/
def Obligations.TileTable : Prop :=
  ∀ (s : State) (t : Nat) (w : Thread) (e : Entry) (c : Clause) (n : TileNo) (g : Grid) (p : Group),
    s.grid? w.grid = some g → s.group? w.group = some p → s.groupReadWaits w e = false →
      let x := p.tile n.toNat
      (∀ lo hi : SReg, Issues s (.tdef n lo hi) t w e c →
        let y := { x with defined := true, desc := w.sreg hi.toNat ++ w.sreg lo.toNat }
        (descReserved y = true → Traps s (.tdef n lo hi) t w c ⟨.reservedEnc, 0#64, e.mask⟩)
        ∧ (descReserved y = false → g.stashBytes < y.base + y.bytes →
            Traps s (.tdef n lo hi) t w c ⟨.prot, BitVec.ofNat 64 y.base, e.mask⟩)
        ∧ (descReserved y = false → y.base + y.bytes ≤ g.stashBytes → s.tileFit w p n.toNat notMoving true true = .ok →
            Performs s (.tdef n lo hi) (s.setGroup w.group (p.setTile n.toNat
              { y with actual := if y.desc.getLsbD 68 = true then .ready else .empty, owner := some w.wix
                       changedBy := some w.wix })) t w e id))
      ∧ (Issues s (.tfree n) t w e c →
        (x.defined = false → Performs s (.tfree n) s t w e id)
        ∧ (x.defined = true → s.tileFit w p n.toNat notMoving true true = .ok →
            Performs s (.tfree n) (s.setGroup w.group (p.setTile n.toNat
              { x with defined := false, actual := .empty, owner := some w.wix, changedBy := some w.wix })) t w e id))
      ∧ ∀ d : SReg, Issues s (.tstate d n) t w e c →
          let st := if x.owner = some w.wix then x.actual else x.published
          WritesS s (.tstate d n) t w e d (BitVec.ofNat 64
            ((match st with | .empty => 0 | .filling => 1 | .ready => 2 | .draining => 3)
              + (if x.defined = true then 4 else 0) + if x.owner = some w.wix then 8 else 0))

/-- CPIN, CPOUT and CPTT put a copy in flight: its tiles are FILLING and DRAINING, its bytes are added to its fill counter,
and nothing has landed. A wave that is not the group's copy wave traps COPY_RIGHTS; the copy wave waits for the close of the
group step before, and a CPIN for that of the grid step (07 R154 to R161, 12 R267); the first cause in the order of 07 R369 among
the lines traps. The model's own readings: a CPIN waits for the grid's close and for its tables before its own addresses are looked
at (log 38); a tile that TFREE has made undefined is looked at by the descriptor it had (log 89); CPTT's TILE_STATE for sizes or an
overlap comes before its owner's stall (log 90). -/
def Obligations.CopiesStart : Prop :=
  ∀ (s : State) (t : Nat) (w : Thread) (e : Entry) (c : Clause) (fc : FcReg) (g : Grid) (p : Group),
    s.grid? w.grid = some g → s.group? w.group = some p →
      let starts := fun (i : Instr) (s1 : Copy → State) (w' : Thread) (kind : CopyKind) (tile : Nat) (twins : List Nat)
          (lines : List (Nat × Nat × Nat × List Byte)) (vas : Option (List DWord)) =>
        ∃ cp, cp.kind = kind ∧ cp.tile = tile ∧ cp.lines = lines ∧ cp.landed = [] ∧ cp.t = t ∧ cp.group = w.group
          ∧ cp.fc = fc.toNat ∧ cp.gstep = e.gstep ∧ cp.wstep = e.wstep ∧ cp.mask = e.mask ∧ cp.since = s.time ∧ cp.twins = twins
          ∧ (∀ l, vas = some l → cp.far.map (·.va) = l)
          ∧ Performs s i ({ s1 cp with uid := s.uid + 1 }.modHearth w.home fun h => { h with copies := h.copies ++ [cp] }) t
              (w'.setFc fc.toNat (w.fcount fc.toNat + 128 * lines.length)) e id
      let free := w.wix = g.copywave ∧ s.groupReadWaits w e = false ∧ (s.hearth w.home).copies.length < 64
      let rights := fun (i : Instr) => Issues s i t w e c →
        (w.wix ≠ g.copywave → Traps s i t w c ⟨.copyRights, 0#64, e.mask⟩)
        ∧ (w.wix = g.copywave → s.groupReadWaits w e = true → Stalls s i t w)
      (∀ (n : TileNo) (a : CpSrc) (b : SSrc),
        let i := Instr.cpin n a b fc
        let x := p.tile n.toNat
        let rs := s.cpinLines w a (b.value w) (x.bytes / 128)
        rights i ∧ (Issues s i t w e c → w.wix = g.copywave → s.groupReadWaits w e = false →
          (s.gridReadWaits w e = true ∨ s.cpinReached w a (b.value w) (x.bytes / 128) = false → Stalls s i t w)
          ∧ (s.gridReadWaits w e = false → s.cpinReached w a (b.value w) (x.bytes / 128) = true →
            (∀ k, firstOwn (rs.flatMap readErrs) = some k →
              TrapsAt s i t w c ⟨k.cause, k.addr, e.mask⟩ (pageWalks e (rs.flatMap readErrs)))
            ∧ (rs.flatMap readErrs = [] → (∀ l ∈ rs.map readOks, ∀ r ∈ l, r.lost = none ∧ r.past = false) →
              s.changeFit w e p [(n.toNat, notMoving)] = .ok () → (s.hearth w.home).copies.length < 64 →
              let uses := (rs.map readOks).flatten.flatMap fun r => r.uses.map fun u => (0, u)
              starts i (fun cp => ((s.fills w e.gstep uses).setGroup w.group (p.setTile n.toNat (x.change w.wix .filling))).touched w
                  (cp.far.map fun f => (f.va.toNat, f.len))) w .cpin n.toNat []
                (((List.range rs.length).zip (rs.map readOks)).map fun y => (y.1, x.base + 128 * y.1, 0, y.2.flatMap (·.bytes)))
                (match a with
                  | .s r => some ((List.range (16 * (x.bytes / 128))).map fun k => w.sreg r.toNat + b.value w + BitVec.ofNat 64 (8 * k))
                  | .w _ => none)))))
      ∧ (∀ (rule : Rule) (fr zero : Bool) (a : SReg) (n : TileNo) (pas : Nat → Nat × DWord),
        let i := Instr.cpout rule fr zero a n fc
        let x := p.tile n.toNat
        let va := w.sreg a.toNat
        let ls := (List.range (x.bytes / 128)).map pas
        let cells := ls.filter fun y => !isPeer y.1 && !leafTwin y.2
        let entries := 16 * cells.length + if ∃ y ∈ ls, isPeer y.1 = false ∧ leafTwin y.2 = true then 1 else 0
        let k := if rule = .any ∧ g.pkt.det = false ∧ s.recording w.ctx = true then x.bytes / 128 else 0
        rights i ∧ (Issues s i t w e c → free →
          (va.toNat % 128 ≠ 0 → Traps s i t w c ⟨.align, va, e.mask⟩)
          ∧ (va.toNat % 128 = 0 → (∀ j, j < x.bytes / 128 → s.walkReached w.mmu w.ctx (va + BitVec.ofNat 64 (128 * j)) = true) →
            let errs := readErrs ((List.range (x.bytes / 128)).map fun j => s.cpoutLine w rule (va + BitVec.ofNat 64 (128 * j)))
            ∀ k, firstOwn errs = some k → TrapsAt s i t w c ⟨k.cause, k.addr, e.mask⟩ (pageWalks e errs))
          ∧ (va.toNat % 128 = 0 →
            (∀ j, j < x.bytes / 128 → s.walkReached w.mmu w.ctx (va + BitVec.ofNat 64 (128 * j)) = true
              ∧ s.cpoutLine w rule (va + BitVec.ofNat 64 (128 * j)) = .ok (pas j)) →
            s.changeFit w e p [(n.toNat, fun st => st == .ready || (zero && st == .empty))] = .ok () →
            (entries = 0 ∨ entries ≤ s.logFree w.ctx) →
            (k = 0 ∨ s.ringOpen w.die .resolution = true ∧ s.ringFull w.die (32 * k) = false) →
            p.stashLost x.base x.bytes = false →
            starts i (fun _ => ((s.reserveGlobal w e.gstep entries k).setGroup w.group
                (p.setTile n.toNat (x.change w.wix .draining))).touched w [(va.toNat, 128 * (x.bytes / 128))])
              (w.countCpout e) (.cpout rule fr) n.toNat
              ((List.range (x.bytes / 128)).filterMap fun j => if leafTwin (pas j).2 = true then some (va.toNat + 128 * j) else none)
              ((List.range (x.bytes / 128)).map fun j => (j, va.toNat + 128 * j, (pas j).1, if x.seen w.wix = .ready then
                (List.range 128).map fun m => tget 0#8 p.stash (x.base + 128 * j + m) else List.replicate 128 0#8))
              (some ((List.range (x.bytes / 128)).map fun j => va + BitVec.ofNat 64 (128 * j))))))
      ∧ ∀ d n : TileNo,
        let i := Instr.cptt d n fc
        let dt := p.tile d.toNat
        let x := p.tile n.toNat
        rights i ∧ (Issues s i t w e c → free →
          (d = n ∨ (dt.defined = true ∧ x.defined = true ∧ (dt.bytes < x.bytes ∨ tilesOverlap dt x = true)) →
            Traps s i t w c ⟨.tileState, BitVec.ofNat 64 dt.base, e.mask⟩)
          ∧ (d ≠ n → x.bytes ≤ dt.bytes → tilesOverlap dt x = false →
            s.changeFit w e p [(d.toNat, notMoving), (n.toNat, isReadyTile)] = .ok () → p.stashLost x.base x.bytes = false →
            starts i (fun _ => s.setGroup w.group
                ((p.setTile d.toNat (dt.change w.wix .filling)).setTile n.toNat (x.change w.wix .draining))) w
              (.cptt n.toNat) d.toNat [] ((List.range (x.bytes / 128)).map fun j =>
                (j, dt.base + 128 * j, 0, (List.range 128).map fun k => tget 0#8 p.stash (x.base + 128 * j + k))) (some [])))

/-- A line of a copy lands, or its peer acknowledges it: the counter falls by 128, a CPIN or CPTT line stands in the stash,
and the last line completes the copy: its tiles become READY, or EMPTY where a CPOUT frees its tile. The copies of a hearth move
lines in rotation, in the order of their issue (13 R274); that one which cannot move is passed over is the model's choice (log
68). A peer line that is not acknowledged within PEERTMO counts as landed and owes MEMERR in a STRICT context (07 R155, Table
7.6, 22 R338); that STRICT is there the context's bit alone, and not its page's, is the model's reading (log 66). -/
def Obligations.LinesLand : Prop :=
  ∀ (s : State) (h : Nat) (x : Copy) (line va pa : Nat) (bs : List Byte) (w : Thread) (p : Group),
    s.copyLine? h x.uid line = some (x, va, pa, bs) → s.thread? x.t = some w → s.group? x.group = some p →
    w.group = x.group → w.ended = false → w.home = h →
      let rest := x.lines.filter fun l => l.1 ≠ line
      let q := match x.kind with
        | .cpin | .cptt _ => p.writeStash va bs
        | .cpout _ _ => p
      let done := match x.kind with
        | .cpin => q.complete x.tile w.wix .ready
        | .cpout _ free => q.complete x.tile w.wix (if free = true then .empty else .ready)
        | .cptt src => (q.complete x.tile w.wix .ready).complete src w.wix .ready
      let lands := fun (i : Instr) (owed : List TrapInfo) => ∃ s' : State, exec i s = .next s'
        ∧ s'.thread? x.t = some ((w.setFc x.fc (w.fcount x.fc - 128)).owe owed (.cwait x.fc))
        ∧ s'.group? x.group = some (if rest = [] then done else q)
        ∧ (rest = [] → ∀ y ∈ (s'.hearth h).copies, y.uid ≠ x.uid)
        ∧ (rest ≠ [] → ∃ y ∈ (s'.hearth h).copies, y.uid = x.uid ∧ y.lines = rest)
      let movable := (s.hearth h).copies.filter fun y => y.lines.any fun l => !isPeer l.2.2.1 && s.lineReached h y l.1
      let last := (s.hearth h).copyTurn
      (isPeer pa = false → s.lineReached h x line = true →
        (∀ before' after, movable = before' ++ x :: after →
          ((∀ y ∈ before', y.uid ≤ last) ∧ last < x.uid) ∨ (before' = [] ∧ ∀ y ∈ movable, y.uid ≤ last) →
            lands (.copyLineLands h x.uid line) [])
        ∧ (∀ y before' after, movable = before' ++ y :: after → y.uid ≠ x.uid →
          ((∀ z ∈ before', z.uid ≤ last) ∧ last < y.uid) ∨ (before' = [] ∧ ∀ z ∈ movable, z.uid ≤ last) →
            exec (.copyLineLands h x.uid line) s = .next s))
      ∧ (isPeer pa = true →
          (s.lineReached h x line = true → lands (.peerLineAck h x.uid line) [])
          ∧ (s.lineReached h x line = false → exec (.peerLineAck h x.uid line) s = .next s)
          ∧ ∀ refused : Bool,
            let ends := if refused = true then s.lineReached h x line else s.msPassed x.since (s.flue (h / 512)).peertmo
            (ends = true → lands (.peerLineTimeout h x.uid ⟨line, refused⟩)
              (if s.strict w.ctx = true then ([⟨.memerr, BitVec.ofNat 64 va, x.mask⟩] : List TrapInfo) else []))
            ∧ (ends = false → exec (.peerLineTimeout h x.uid ⟨line, refused⟩) s = .next s))

/-- CWAIT retires once its counter is at most the number, and waits until then; a trap owed at the counter comes first (07
R155, R162). -/
def Obligations.CounterWaits : Prop :=
  ∀ (s : State) (t : Nat) (w : Thread) (e : Entry) (c : Clause) (fc : FcReg) (n : SSrc), Issues s (.cwait fc n) t w e c →
    let due := fun o => o ∈ w.owed ∧ o.due = .cwait fc.toNat
    (w.handler = false → (∃ o, due o) → ∃ o, due o ∧ (∀ k, due k → o.info.cause.rank ≤ k.info.cause.rank)
      ∧ exec (.cwait fc n) s = .next (s.takeOwed t w o c.here c.hdr))
    ∧ ((w.handler = true ∨ ∀ o, ¬ due o) →
      (w.fcount fc.toNat ≤ (n.value w).toNat → Performs s (.cwait fc n) s t w e id)
      ∧ ((n.value w).toNat < w.fcount fc.toNat → Stalls s (.cwait fc n) t w))

/-- WBIND, WUNBIND, LAUNCH and EVSIG leave their effect to the close of the grid step: it is recorded with the writer key,
a packet's bytes as committed, and a LAUNCH reserves a slot of its queue, or waits for one (07 R164, R165, 08 R193 to R195). The
model's own readings: a WBIND's and a LAUNCH's own causes come before their wait for the close (log 38), the key of a path with
no lane is lane 0's (log 93), and older copies of what they read leave the thread's L1 (log 99). -/
def Obligations.CloseEffects : Prop :=
  ∀ (s : State) (t : Nat) (w : Thread) (e : Entry) (c : Clause) (g : Grid), s.grid? w.grid = some g →
    let records := fun (i : Instr) (s0 : State) (key : Nat) (o : CloseOp) =>
      Performs s i ({ s0 with uid := s.uid + 1 }.setGrid w.grid
        { g with sysops := g.sysops ++ [SysOp.mk e.gstep key s.uid o] }) t w e id
    let low := s.gkey w (lowestLane e.mask % 128)
    (∀ ev, Issues s (.evsig ev) t w e c → records (.evsig ev) s low (.evsig ev))
    ∧ (∀ n : WinNo, Issues s (.wunbind n) t w e c → records (.wunbind n) s (s.gkey w 0) (.wunbind n.toNat))
    ∧ ∀ (a : SReg) (pa : Nat) (leaf : DWord), let va := w.sreg a.toNat
        (∀ n : WinNo, Issues s (.wbind n a) t w e c →
          (va.toNat % 32 ≠ 0 → Traps s (.wbind n a) t w c ⟨.align, va, e.mask⟩)
          ∧ (va.toNat % 32 = 0 → s.walkReached w.mmu w.ctx va = true → s.access w.mmu w.ctx va .read = .ok (pa, leaf) →
            (s.gridReadWaits w e = true ∨ s.reaches w.die pa = false → Stalls s (.wbind n a) t w)
            ∧ (s.gridReadWaits w e = false → s.reaches w.die pa = true → s.rangeLost pa 32 = none →
              let d := BitVec.ofNat 256 (leNat (s.readBytes pa 32))
              let s1 := (s.touched w [(va.toNat, 32)]).readPast w va pa 32
              if winBad d = true then TrapsOver s (.wbind n a) s1 t w c ⟨.reservedEnc, va, e.mask⟩
              else records (.wbind n a) s1 (s.gkey w 0) (.wbind n.toNat d))))
        ∧ (Issues s (.launch a) t w e c →
          (va.toNat % 128 ≠ 0 → Traps s (.launch a) t w c ⟨.align, va, e.mask⟩)
          ∧ (va.toNat % 128 = 0 → s.walkReached w.mmu w.ctx va = true → s.access w.mmu w.ctx va .read = .ok (pa, leaf) →
            (s.gridReadWaits w e = true ∨ s.reaches w.die pa = false → Stalls s (.launch a) t w)
            ∧ (s.gridReadWaits w e = false → s.reaches w.die pa = true → s.rangeLost pa 128 = none →
              let bs := s.readBytes pa 128
              let q := bits (leNat bs) 406 6
              let s1 := (s.touched w [(va.toNat, 128)]).readPast w va pa 128
              ∀ x, s.context? w.ctx = some x →
                (∀ u, aget? x.queues q = some u → if u.free = 0 then Stalls s (.launch a) t w
                  else records (.launch a)
                    (s1.modContext w.ctx fun y => { y with queues := aset y.queues q { u with reserved := u.reserved + 1 } })
                    low (.launch bs va q true))
                ∧ (aget? x.queues q = none → records (.launch a) s1 low (.launch bs va q false)))))

/-- PIN grants a range a free number, or answers all ones and counts the refusal; a reserved operand traps RESERVED_ENC; UNPIN
releases the number (07 R166, R167). The walks that tell whether it fits are waited for, and leave the records of malformed entries
(19 R316, 22 R337); the pages of a granted range stand in L3 until its release (22 R342). The model's own: the number is the lowest
free one (log 91), and a range above 1 GiB is refused like any that does not fit (log 33). -/
def Obligations.Pins : Prop :=
  ∀ (s : State) (t : Nat) (w : Thread) (e : Entry) (c : Clause) (x : Context), s.context? w.ctx = some x →
    (∀ d base bytes : SReg,
      let i := Instr.pin d base bytes
      let a := w.sreg base.toNat
      let z := (w.sreg bytes.toNat).toNat
      let n := z % 2 ^ 48
      let fade := z / 2 ^ 56
      let bad := a.toNat % 65536 ≠ 0 ∨ a = 0#64 ∨ n % 65536 ≠ 0 ∨ n = 0 ∨ fade = 0 ∨ z / 2 ^ 48 % 256 ≠ 0
      Issues s i t w e c →
        (bad → Traps s i t w c ⟨.reservedEnc, 0#64, e.mask⟩)
        ∧ (¬ bad → ((∀ k, k < 32 → (aget? x.pins k).isSome = true) ∨ 2 ^ 30 < n) →
            Performs s i (s.setContext w.ctx { x with pinRef := x.pinRef + 1 }) t (w.setS d.toNat (BitVec.allOnes 64)) e id)
        ∧ (¬ bad → n ≤ 2 ^ 30 → ∀ k, k < 32 → aget? x.pins k = none → (∀ j, j < k → (aget? x.pins j).isSome = true) →
          let walked := ∀ j, j < n / 65536 → s.walkReached w.mmu w.ctx (a + BitVec.ofNat 64 (65536 * j)) = true
          let changes := fun (f : Context → Context) => (s.noteMalformed w (pinWalks e a n)).modContext w.ctx f
          (¬ walked → Stalls s i t w)
          ∧ (walked → s.pinFits w.die w.ctx x a n = true →
            Performs s i (((s.noteMalformed w (pinWalks e a n)).pinPages w.ctx k (s.pinPas w (pinWalks e a n))).modContext w.ctx
                fun y => { y with pins := aset y.pins k ⟨a, n, fade, fade, false, s.time⟩ }) t
              (w.setS d.toNat (BitVec.ofNat 64 k)) e id)
          ∧ (walked → s.pinFits w.die w.ctx x a n = false →
            Performs s i (changes fun y => { y with pinRef := y.pinRef + 1 }) t (w.setS d.toNat (BitVec.allOnes 64)) e id)))
    ∧ ∀ a : SReg, Issues s (.unpin a) t w e c →
        let k := (w.sreg a.toNat).toNat
        Performs s (.unpin a) ((s.unpinPages fun c' j => c' == w.ctx && j == k).setContext w.ctx { x with pins := adel x.pins k }) t w e id

/-- The matrix engine's instructions on tiles issue into the hearth's queue of 16, and wait while it is full; they change no
accumulator, tile byte or memory before they run (09 R198, R200). -/
def Obligations.GrateCaptures : Prop :=
  ∀ (s : State) (i : Instr) (t : Nat) (w : Thread) (e : Entry) (c : Clause) (g : Grid) (p : Group) (q : Bool) (dests : List Nat),
    Issues s i t w e c → grateForm i = some (q, dests) → s.grid? w.grid = some g → s.group? w.group = some p →
    (∀ o ∈ w.owed, ∀ k, o.due = .grate k → w.handler = true) → s.grateUnread t w = false → s.groupReadWaits w e = false →
    s.grateFits t w e g p i →
      ((s.hearth w.home).grate.length < 16 → Captured s i t w e c q dests)
      ∧ (16 ≤ (s.hearth w.home).grate.length → Stalls s i t w)

/-- A matrix engine instruction of any form, on tiles, fibres and row indexes (09 R200, R201): an error owed by an earlier one is
taken first; one that an earlier one may still meet, a close, and the tables of its operands are waited for; then the first cause
in the order of 07 R369 that an operand meets traps, one after TILE_STATE only once no tile of it is moving; and where there is
none the queue captures it as soon as it has room and the homes of its global operands are reached. That an earlier instruction's
possible error is waited for is the model's choice (log 21), and its readings that the waits come before the operands are looked at
(logs 38, 39), and that only an open fibre of 16-bit coordinates is RESERVED_ENC, a closed one being FIBRE_RANGE (log 44). -/
def Obligations.GrateIssues : Prop :=
  ∀ (s : State) (i : Instr) (t : Nat) (w : Thread) (e : Entry) (c : Clause) (g : Grid) (p : Group) (q : Bool) (dests : List Nat),
    Issues s i t w e c → grateForm i = some (q, dests) → s.grid? w.grid = some g → s.group? w.group = some p →
      let owes := w.handler = false ∧ ∃ o ∈ w.owed, ∃ k, o.due = .grate k
      let n := s.grateNeeds t w e p i
      let err := GrateErr s w e g p i n
      (owes → ∃ o ∈ w.owed, ∃ k, o.due = .grate k ∧ exec i s = .next (s.takeOwed t w o c.here c.hdr))
      ∧ (¬ owes → s.grateUnread t w = true ∨ s.grateWaits w e i n → Stalls s i t w)
      ∧ (¬ owes → s.grateUnread t w = false → ¬ s.grateWaits w e i n →
        ((∃ k a, err k a) → ∃ k a, err k a ∧ (∀ k' a', err k' a' → k.own ≤ k'.own)
          ∧ (¬ (s.grateMoving w p n ∧ Cause.own .tileState < k.own) → ∃ l, (∀ x ∈ l, x.1 = lowestLane e.mask ∧ err .page x.2)
            ∧ (∀ b, err .page b → (lowestLane e.mask, b) ∈ l) ∧ TrapsAt s i t w c ⟨k, a, e.mask⟩ l)
          ∧ (s.grateMoving w p n ∧ Cause.own .tileState < k.own → Stalls s i t w))
        ∧ ((∀ k a, ¬ err k a) →
          let ready := ¬ s.grateMoving w p n ∧ (s.hearth w.home).grate.length < 16 ∧ s.rangesReached w (grateSlots w i) = true
          (ready → Captured s i t w e c q dests) ∧ (¬ ready → Stalls s i t w)))

/-- The first instruction of a hearth's queue starts: it has read its operands from the stash, and owes its thread the error
that they hold, if any. As the running one completes, it leaves the queue, its destination tiles become READY or, after an
error, what they were before, and an error has changed no accumulator and no byte (09 R198, R199, R201, R202). Without one, the
result stands: MMIP, MMOP and MMRW leave the elements of C that 09 R216 gives their operands, in the accumulator, in the rows of
a dense tile or as the entries of a sparse one (R208); MMZERO zeros (R215), MMDRAIN the rows of drain(i, j) (R220), MMLDB the
resident B (R217), MMLDA the latch (R218), VQLUT 256 entries of its table (R221), and SPDG the mask, the counts and the weights of
its drop-and-grow (R222). The model's own: the flags of a path that has diverged since the issue are raised on what has become of it
(log 77), and all 64 rows of a sparse tile are written again (log 46). -/
def Obligations.GrateRuns : Prop :=
  ∀ (s : State) (h : Nat) (x : Hearth) (o : GrateOp) (r : List GrateOp) (w : Thread) (g : Grid) (p : Group),
    aget? s.hearths h = some x → x.grate = o :: r → s.thread? o.t = some w → w.home = h → w.ended = false →
    s.grid? w.grid = some g → s.group? w.group = some p →
      (x.running = false → startLost o w p (s.residentOf o.t w) = [] →
        let o' := { o with bytes := o.fill p }
        let err := o'.error s w p
        exec (.grateStart h) s = .next ((s.setThread o.t (w.owe err.toList (.grate o.flag))).setHearth h
          { x with grate := { o' with fail := err } :: r, running := true }))
      ∧ (x.running = true → ∃ s' y q, exec (.grateCompletion h) s = .next s' ∧ s'.thread? o.t = some y
          ∧ (s'.hearth h).grate = r ∧ (s'.hearth h).running = false ∧ s'.group? w.group = some q
          ∧ (∀ n st, (o.prior.map (·.1)).Nodup → (n, st) ∈ o.prior →
              (q.tile n).actual = (if o.fail.isSome = true then st else .ready) ∧ (q.tile n).changedBy = some w.wix)
          ∧ (o.fail.isSome = true → y = w ∧ ∀ k, tget 0#8 q.stash k = tget 0#8 p.stash k)
          ∧ (o.fail = none →
              let keeps := fun (region : Nat → Prop) => ∀ k, ¬ region k → tget 0#8 q.stash k = tget 0#8 p.stash k
              let rows := fun (y : Tile) (n k : Nat) => ∃ i, i < 64 ∧ covers (y.base + i * y.pitch) n k
              let accKeeps := y.acc = w.acc
              let others := fun d => ∀ b k, b ≠ d → k < 4096 → y.accWord o.t b k = w.accWord o.t b k
              (∀ qs d, o.i = .mmzero qs d → keeps (fun _ => False) ∧ others d.toNat ∧ ∀ k, k < 4096 → y.accWord o.t d.toNat k = 0#32)
              ∧ (∀ df qs a ri, o.i = .mmlda df qs a ri → keeps (fun _ => False) ∧ accKeeps ∧ (s'.hearth h).latch = some (o.t, o.i))
              ∧ (∀ qs a, o.i = .mmldb qs a → keeps (fun _ => False) ∧ accKeeps ∧ (s'.hearth h).resB = some (residentFrom o p x.vq a))
              ∧ (∀ tbl qs a, o.i = .vqlut tbl qs a → keeps (fun _ => False) ∧ accKeeps ∧ w.ctx ∈ (s'.hearth h).vqUsers
                ∧ ∀ k, tget 0#32 (s'.hearth h).vq k = if tbl.toNat * 4096 ≤ k ∧ k < tbl.toNat * 4096 + 256
                    then BitVec.ofNat 32 (bits (o.slot 1) (32 * (k - tbl.toNat * 4096)) 24) else tget 0#32 x.vq k)
              ∧ (∀ m, mformOf o.i = some m →
                let res := s.residentOf o.t w
                let k := kShared p m res (fmtAf o.fmt)
                let product := gMatrix (fmtAcc o.fmt) (fmtAf o.fmt) (bfOf m res o.fmt) (opA o p x.vq m k) (opB o p x.vq m res k)
                let raises := fun (c : List CElem) => w.susp = none → w.stackHeld →
                  y.stack = if flagsOf c = flNone then w.stack else raiseAt (o.exec &&& ~~~w.exited) o.join (flagsOf c) w.stack
                (∀ d, m.dest = none → accRead o.i = some d →
                  let res' := product fun ix => (w.accWord o.t d ix).toNat
                  keeps (fun _ => False) ∧ others d ∧ raises res' ∧ ∀ ix, ix < 4096 → some (y.accWord o.t d ix) = (res'[ix]?).map fun z => BitVec.ofNat 32 z.val)
                ∧ ∀ n, m.dest = some n → accKeeps ∧
                  let z := p.tile n
                  let read := fun i => rowNum (o.slot 5) z.pitch i
                  (sparseC o.fa o.fb m res = false → p.badStash = [] → 256 ≤ z.pitch →
                    let res' := product fun ix => if o.wasEmpty n = true then 0 else bits (read (ix / 64)) (32 * (ix % 64)) 32
                    keeps (rows z 256) ∧ raises res' ∧ ∀ i j, i < 64 → j < 64 →
                      some (q.num (z.base + i * z.pitch + 4 * j) 4) = (res'[64 * i + j]?).map fun y => y.val % 2 ^ 32)
                  ∧ (sparseC o.fa o.fb m res = true → p.badStash = [] → 516 ≤ z.pitch →
                    let old := fun i => if o.wasEmpty n = true then [] else segAt (o.slot 5) z.pitch i
                    let c := product fun ix => (((old (ix / 64)).find? fun y => y.1 == ix % 64).map (·.2)).getD 0
                    keeps (rows z 516) ∧ raises c ∧ ∀ i, i < 64 →
                      let l := ((List.range 64).zip ((c.drop (64 * i)).take 64)).filter fun y => y.2.got || (old i).any fun u => u.1 == y.1
                      q.num (z.base + i * z.pitch) 516 = leNat (segBytes (l.map fun y => (y.1, y.2.val)))))
              ∧ (∀ rnd relu bias qs d a sa sb, o.i = .mmdrain rnd relu bias qs d a sa sb →
                let z := p.tile d.toNat
                let b := gBits z.ef
                let drain := drainOf o g (s.gkey w 0) z.ef rnd relu bias.isSome sa.isSome sb.isSome
                accKeeps ∧ (p.badStash = [] → 8 * b ≤ z.pitch → keeps (rows z (8 * b))
                  ∧ ∀ i j, i < 64 → j < 64 → bits (q.num (z.base + i * z.pitch) (8 * b)) (b * j) b =
                      (drainElem drain i j (w.accWord o.t a.toNat (64 * i + j)).toNat).1 % 2 ^ b))
              ∧ ∀ qs m n gr z, o.i = .spdg qs m n gr z →
                let mt := p.tile m.toNat
                let wt := p.tile n.toNat
                let gt := p.tile gr.toNat
                let b := gBits wt.ef
                let mask := fun k => (rowNum (o.slot 5) mt.pitch (k / 64)).testBit (k % 64)
                let weight := fun k => bits (rowNum (o.slot 3) wt.pitch (k / 64)) (b * (k % 64)) b
                let grad := fun k => bits (rowNum (o.slot 1) gt.pitch (k / 64)) (gBits gt.ef * (k % 64)) (gBits gt.ef)
                let cut := dropGrow mask (fun k => magKey wt.ef (weight k)) (fun k => magKey gt.ef (grad k)) (min (o.sv.headD 0#64).toNat 4096)
                accKeeps ∧ (p.badStash = [] → 8 ≤ mt.pitch → 8 * b ≤ wt.pitch →
                  mt.base + 64 * mt.pitch + 8 ≤ wt.base ∨ wt.base + 64 * wt.pitch ≤ mt.base →
                  keeps (fun k => rows mt 8 k ∨ rows wt (8 * b) k ∨ covers (mt.base + 64 * mt.pitch) 8 k)
                  ∧ (∀ k, k < 4096 →
                    (q.num (mt.base + k / 64 * mt.pitch) 8).testBit (k % 64)
                        = (!cut.1.contains k && (cut.2.contains k || mask k))
                    ∧ bits (q.num (wt.base + k / 64 * wt.pitch) (8 * b)) (b * (k % 64)) b = if cut.2.contains k = true then 0 else weight k)
                  ∧ ∀ j, j < 2 → q.num (mt.base + 64 * mt.pitch + 4 * j) 4 =
                      (bits (o.slot 5) (8 * (64 * mt.pitch + 4 * j)) 32 + (if j = 0 then cut.1.length else cut.2.length)) % 2 ^ 32)))

/-- An INT32 product of dense operands adds every product exactly and wraps modulo 2^32: zeros add nothing, and blocks do not
matter (09 R203, R216). -/
def Obligations.IntegerProducts : Prop :=
  ∀ (af bf kk : Nat) (a b : Nat → Nat → Nat) (init : Nat → Nat) (i j : Nat),
    af = 5 ∨ af = 6 → bf = 5 ∨ bf = 6 → i < 64 → j < 64 →
      let m : GMat := ⟨fun i => (List.range kk).map fun k => (k, a i k), fun _ _ => none⟩
      let n : GMat := ⟨fun _ => [], fun k j => if k < kk then some (b k j) else none⟩
      ((gMatrix 1 af bf m n init)[64 * i + j]?).map (·.val) =
        some (BitVec.ofInt 32 (gInt 9 (init (64 * i + j))
          + ((List.range kk).map fun k => gInt af (a i k) * gInt bf (b k j)).sum)).toNat

/-- A sparse operand that omits zeros and the dense operand that holds them give the same elements, under every accumulator
type (02 R29). -/
def Obligations.SparseEqualsDense : Prop :=
  ∀ (acc af bf : Nat) (row : Nat → List (Nat × Nat)) (b : Nat → Nat → Option Nat) (init : Nat → Nat),
    gMatrix acc af bf ⟨fun i => (row i).filter fun x => !gZero af x.2, fun _ _ => none⟩
        ⟨fun _ => [], fun k j => (b k j).filter fun y => !gZero bf y⟩ init
      = gMatrix acc af bf ⟨row, fun _ _ => none⟩ ⟨fun _ => [], b⟩ init

/-- FBOPEN opens a fibre at position 0; FBADV moves its position on, never past its length, or to the first coordinate of a
stash fibre that reaches the number; FBEND writes the predicate of its end; FBCLOSE closes it (09 R223 to R226). FBRD of a
stash fibre gives lane l the coordinate or value at position POS + l, and a lane past the fibre's end 0xFFFFFFFF or 0; it is a
load whose data arrives later (09 R227), and traps TILE_BUSY where a byte that a lane reads is in a tile that moves or that another
wave owns (07 R140). That FBADV and FBRD of a stash fibre wait for the close of the group step is the model's choice (log 39). -/
def Obligations.Fibres : Prop :=
  ∀ (s : State) (t : Nat) (w : Thread) (e : Entry) (c : Clause) (g : Grid) (p : Group), s.grid? w.grid = some g →
    s.group? w.group = some p → (∀ o ∈ w.owed, ∀ k, o.due = .grate k → w.handler = true) → s.grateUnread t w = false →
      (∀ (wide stash : Bool) (vt : BitVec 4) (d : FReg) (crd val len : SReg),
        let i := Instr.fbopen wide stash vt d crd val len
        let ca := (w.sreg crd.toNat).toNat
        let va := (w.sreg val.toNat).toNat
        let n := (w.sreg len.toNat).toNat
        let cs := if wide = true then 4 else 2
        let vb := fibBits vt.toNat
        Issues s i t w e c → n < 2 ^ 32 → ca % cs = 0 → va % max 1 (vb / 8) = 0 →
          (stash = true → n ≠ 0 → ca + cs * n ≤ g.stashBytes ∧ 8 * va + n * vb ≤ 8 * g.stashBytes) →
          Performs s i s t (w.setF d.toNat (fibreOf ca va n 0 true stash wide vt.toNat)) e id)
      ∧ (∀ (d : FReg) (n : SSrc),
        let f := w.freg d.toNat
        let x := (n.value w).toNat
        (Issues s (.fbadv false d n) t w e c → fbOpen f = true →
          Performs s (.fbadv false d n) s t (w.setF d.toNat (fbSetPos f (min (fbPos f + x) (fbLen f)))) e id)
        ∧ (Issues s (.fbadv true d n) t w e c → fbOpen f = true → fbStash f = true → s.groupReadWaits w e = true →
            Stalls s (.fbadv true d n) t w)
        ∧ (Issues s (.fbadv true d n) t w e c → fbOpen f = true → fbStash f = true → s.groupReadWaits w e = false →
            p.rangeBusy (fbC f + fbCs f * fbPos f) (fbCs f * (fbLen f - fbPos f)) = true →
            Traps s (.fbadv true d n) t w c ⟨.tileBusy, BitVec.ofNat 64 (fbC f + fbCs f * fbPos f), e.mask⟩)
        ∧ (Issues s (.fbadv true d n) t w e c → fbOpen f = true → fbStash f = true → s.groupReadWaits w e = false →
            p.rangeBusy (fbC f + fbCs f * fbPos f) (fbCs f * (fbLen f - fbPos f)) = false → p.badStash = [] →
            ∀ k, fbPos f ≤ k → k ≤ fbLen f →
              let crd := fun j => leNat ((List.range (fbCs f)).map fun b => tget 0#8 p.stash (fbC f + fbCs f * j + b))
              (∀ j, fbPos f ≤ j → j < k → crd j < x) → (k = fbLen f ∨ x ≤ crd k) →
              Performs s (.fbadv true d n) s t (w.setF d.toNat (fbSetPos f k)) e id)
        ∧ ∀ upTo, Issues s (.fbadv upTo d n) t w e c → fbOpen f = false →
            Traps s (.fbadv upTo d n) t w c ⟨.fibreRange, 0#64, e.mask⟩)
      ∧ (∀ (d : PReg) (a : FReg), Issues s (.fbend d a) t w e c →
          WritesP s (.fbend d a) t w e ⟨false, 0⟩ d
            (fun _ => fbOpen (w.freg a.toNat) = false ∨ fbPos (w.freg a.toNat) = fbLen (w.freg a.toNat)) flNone)
      ∧ (∀ d : FReg, Issues s (.fbclose d) t w e c →
          Performs s (.fbclose d) s t (w.setF d.toNat (fbSetOpen (w.freg d.toNat) false)) e id)
      ∧ ∀ (val q : Bool) (d : VReg) (a : FReg) (flag : Nat),
        let i := Instr.fbrd val q d a
        let f := w.freg a.toNat
        let place := fun l => if val = true then valRange f (fbPos f + l) 1 else crdRange f (fbPos f + l) 1
        let busy := fun l => l ∈ lanesOf e.mask ∧ fbPos f + l < fbLen f ∧ p.busyAt w.wix (place l).1 (place l).2 = true
        Issues s i t w e c → c.flag q = some flag →
          (fbOpen f = false → Traps s i t w c ⟨.fibreRange, BitVec.ofNat 64 (fbC f), e.mask⟩)
          ∧ (fbOpen f = true → fbStash f = true → s.groupReadWaits w e = true → Stalls s i t w)
          ∧ (fbOpen f = true → fbStash f = true → s.groupReadWaits w e = false → p.badStash = [] →
          (fbPos f = fbLen f → Traps s i t w c ⟨.fibreRange, BitVec.ofNat 64 (fbC f), e.mask⟩)
          ∧ (∀ l, fbPos f ≠ fbLen f → busy l → (∀ k, k < l → ¬ busy k) →
              Traps s i t w c ⟨.tileBusy, BitVec.ofNat 64 (place l).1, e.mask⟩)
          ∧ (fbPos f ≠ fbLen f → (∀ l, ¬ busy l) →
              let word := fun l =>
                let k := fbPos f + l
                let b := fibBits (fbVt f)
                let at' := fun o n => leNat ((List.range n).map fun j => tget 0#8 p.stash (o + j))
                if fbLen f ≤ k then (if val = true then 0#32 else 0xFFFFFFFF#32)
                else if val = true then BitVec.ofNat 32 (at' (place l).1 (place l).2 / 2 ^ (k * b % 8) % 2 ^ b)
                else BitVec.ofNat 32 (at' (fbC f + fbCs f * k) (fbCs f))
              Performs s i { s with uid := s.uid + 1 } t
                (w.addOp { uid := s.uid, flag := flag, regs := [d.toNat], sreg := none, far := [], since := s.time
                           kind := .load ((lanesOf e.mask).map fun l => (vix d.toNat l, word l)) }) e id))

/-- BR goes to X + 8 x TGT, CALL too with the return address in its link register, and RET to the address that a register
holds, which traps ALIGN unless it is a multiple of 8 (05 R77, 08 R176, R177, R182). -/
def Obligations.Branches : Prop :=
  ∀ (s : State) (t : Nat) (w : Thread) (e : Entry) (c : Clause),
    let goes := fun (i : Instr) (w' : Thread) (a : DWord) => Performs s i s t w' e fun y => { y with pc := pcField a }
    (∀ tgt, Issues s (.br tgt) t w e c → goes (.br tgt) w (c.at8 tgt))
    ∧ (∀ l tgt, Issues s (.call l tgt) t w e c → goes (.call l tgt) (w.setS l.toNat (c.here + 8#64)) (c.at8 tgt))
    ∧ ∀ l : SReg, Issues s (.ret l) t w e c →
        ((w.sreg l.toNat).toNat % 8 = 0 → goes (.ret l) w (w.sreg l.toNat))
        ∧ ((w.sreg l.toNat).toNat % 8 ≠ 0 → Traps s (.ret l) t w c ⟨.align, w.sreg l.toNat, e.mask⟩)

/-- BRC and JT send every lane of their path to its target. Where the targets agree the path goes there. Where they are two
and nothing is ejected, the larger part runs first (the lower target of equal parts), the other waits beneath it, and the
branching entry becomes the join entry, with the lanes whose target is the join (08 R169, R170, R178, R179). A JT whose index
reaches the count of its table traps JT_RANGE in the lanes concerned; one of a path with no lane has no effect. -/
def Obligations.ConditionalBranches : Prop :=
  (∀ (s s1 : State) (i : Instr) (t : Nat) (w : Thread) (e : Entry) (c : Clause) (to' : Nat → BitVec 56) (jn : BitVec 56) (ej : Bool),
    Issues s i t w e c → SendsLanes s w e c i to' jn ej s1 →
      exec i s = .next (s1.branch t w e c ((lanesOf e.mask).map fun l => (l, to' l)) jn ej)
      ∧ (e.mask = 0#128 → Performs s i s1 t w e id)
      ∧ (∀ p, e.mask ≠ 0#128 → (∀ l ∈ lanesOf e.mask, to' l = p) → Performs s i s1 t w e fun y => { y with pc := p })
      ∧ ∀ a b, a.toNat < b.toNat → (∀ l ∈ lanesOf e.mask, to' l = a ∨ to' l = b) → lanesTo e to' a ≠ 0#128 →
          lanesTo e to' b ≠ 0#128 → ej = false ∨ w.ember.isSome = true → w.spilled = 0 → w.stack.length + 2 ≤ 16 →
          let x := if laneCount (lanesTo e to' b) ≤ laneCount (lanesTo e to' a) ∧ a ≠ jn ∨ b = jn then a else b
          let y := if x = a then b else a
          let child := fun (p : BitVec 56) (st : PathState) =>
            { e with mask := lanesTo e to' p, icnt := e.icnt + 1, pc := p, join := jn, st := st, ej := false }
          let join := fun (m : Mask) => onRunning (fun _ => { e with mask := m, icnt := e.icnt + 1, pc := jn, st := .parked }) w.stack
          ∃ s' w', exec i s = .next s' ∧ s'.cur = none ∧ RunsOn s1 s' t w w' e (fun _ => child x .running)
            ∧ w'.spilled = 0 ∧ w'.sameRegs w
            ∧ w'.stack = child x .running ::
                (if y = jn then join (lanesTo e to' jn) else child y .waiting :: join 0#128))
  ∧ ∀ (s : State) (t : Nat) (w : Thread) (e : Entry) (c : Clause) (a : VReg) (tgt jn : BitVec 20) (ej : Bool) (m : Nat),
    Issues s (.jt a tgt jn ej) t w e c →
      (e.mask = 0#128 → Performs s (.jt a tgt jn ej) s t w e id)
      ∧ (e.mask ≠ 0#128 → s.pageReached w.mmu w.ctx (c.at8 tgt) = false → Stalls s (.jt a tgt jn ej) t w)
      ∧ (s.codeWord w (c.at8 tgt) = .ok (BitVec.ofNat 64 m) → 0 < m → m ≤ 4096 → s.pageReached w.mmu w.ctx (c.at8 tgt) = true →
        let out := (lanesOf e.mask).filter fun l => decide (m ≤ (w.vreg a.toNat l).toNat)
        out ≠ [] → TrapsOver s (.jt a tgt jn ej) (s.noteRead w e (c.at8 tgt) 8) t w c ⟨.jtRange, c.at8 tgt, maskOf out⟩)

/-- JOIN parks its path at the join entry, which then holds the lanes of both; a waiting path runs next, or else the join
entry itself; on the base entry it does nothing, and an ember lane goes back to its wave (08 R171, R172, R181, 10 R237). EXIT
ends the lanes that pass its guard, in a handler those of FAULTMASK: the rest go on, a path that it empties merges into its join
entry and another runs, outside a handler, and a wave with no lane left is gone (08 R171, R172, R183). An ember lane's EXIT frees
its context at once, and its counts stay with its entry of the wave. Entries that the stack refills are waited for (22 R337). That the
guard of an EXIT in a handler is read in the p registers of the thread that executes it, for a lane on an ember too, is the model's
reading (log 92). -/
def Obligations.JoinAndExit : Prop :=
  ∀ (s : State) (t : Nat) (w : Thread) (e : Entry) (c : Clause),
    let held := fun (m : Mask) (l : List Entry) => ∀ z ∈ l, z.mask &&& ~~~m ≠ 0#128 ∨ z.st = .parked
    (Issues s .join t w e c →
      (w.ember = none → canPark (s.entries w) = false → Performs s .join s t w e id)
      ∧ (∀ m, w.ember = some m → ∃ s' x, exec .join s = .next s' ∧ s'.thread? t = some x ∧ x.sameRegs w ∧ s'.cur = none
          ∧ x.ember = some { m with phase := .rejoining, atStepg := false })
      ∧ (∀ j r, w.ember = none → w.spilled = 0 → w.stack = e :: j :: r → r.length ≤ 14 → e.mask ≠ 0#128 → j.st = .parked →
          j.pc = e.join → held 0#128 r →
          let g := maxWord w.gcnt j.gstep
          let n := maxWord w.wcnt j.wstep
          let top := { j with mask := j.mask ||| e.mask, icnt := maxDWord j.icnt (e.icnt + 1), flg := j.flg ||| e.flg
                              st := .running, gstep := g, wstep := n }
          ∃ s' x, exec .join s = .next s' ∧ s'.cur = none ∧ x.stack = top :: r ∧ x.sameRegs w
            ∧ RunsOn (s.reach w g n r) s' t (w.counted g n) x e fun _ => top)
      ∧ (w.ember = none → canPark (s.entries w) = true → s.refillReached w = false → Stalls s .join t w)
      ∧ ∀ y j r, w.ember = none → w.spilled = 0 → w.stack = e :: y :: j :: r → r.length ≤ 13 → y.st = .waiting →
          y.ej = false → y.mask ≠ 0#128 → j.st = .parked → j.pc = e.join → held 0#128 r →
          let y' := { y with st := .running }
          ∃ s' x, exec .join s = .next s' ∧ s'.cur = none ∧ x.sameRegs w
            ∧ x.stack = y' :: { j with mask := j.mask ||| e.mask, icnt := maxDWord j.icnt (e.icnt + 1), flg := j.flg ||| e.flg } :: r
            ∧ RunsOn (s.reach w w.gcnt w.wcnt []) s' t (w.counted w.gcnt w.wcnt) x e fun _ => y')
    ∧ ∀ g : Guard, Issues s (.exit g) t w e c →
        w.handler = true ∨ ((∀ o ∈ w.owed, o.atExit = false) ∧ s.grateUnread t w = false) →
        let m := maskOf ((lanesOf (if w.handler = true then w.faultmask else e.mask)).filter fun l =>
          (w.preg g.p.toNat).getLsbD l != g.neg) &&& w.launched
        let stack := onRunning (fun y => { y with icnt := y.icnt + 1 }) w.stack
        let left := { w with exited := w.exited ||| m, ops := w.ops.map (·.without m) }
        (m = 0#128 → Performs s (.exit g) s t w e id)
        ∧ (w.ember = none → w.susp = none → w.stackHeld → (∀ y ∈ s.threads, y.2.isChild t = false) → m ≠ 0#128 →
            (w.launched &&& ~~~(w.exited ||| m) ≠ 0#128 →
              (w.handler = true ∨ e.mask &&& ~~~m ≠ 0#128 → held m (w.stack.filter fun z => !(w.handler && z.st == .running)) →
                ∃ s' x, exec (.exit g) s = .next s' ∧ x.sameRegs w ∧ x.stack = removeLanes m stack
                  ∧ RunsOn s s' t left x e fun y => { y with mask := y.mask &&& ~~~m })
              ∧ (∀ j r, w.handler = false → e.mask &&& ~~~m = 0#128 → w.stack = e :: j :: r → j.st = .parked → j.pc = e.join →
                j.mask &&& ~~~m ≠ 0#128 → held m r →
                let a := maxWord w.gcnt j.gstep
                let b := maxWord w.wcnt j.wstep
                let top := { j with mask := j.mask &&& ~~~m, icnt := maxDWord j.icnt (e.icnt + 1), flg := j.flg ||| e.flg
                                    st := .running, gstep := a, wstep := b }
                ∃ s' x, exec (.exit g) s = .next s' ∧ s'.cur = none ∧ x.sameRegs w ∧ x.stack = top :: removeLanes m r
                  ∧ RunsOn (s.reach w a b r) s' t (left.counted a b) x e fun _ => top)
              ∧ ∀ y j r, w.handler = false → e.mask &&& ~~~m = 0#128 → w.stack = e :: y :: j :: r → y.st = .waiting →
                y.ej = false → y.mask &&& ~~~m ≠ 0#128 → j.st = .parked → j.pc = e.join → held m r →
                let y' := { y with mask := y.mask &&& ~~~m, st := .running }
                ∃ s' x, exec (.exit g) s = .next s' ∧ s'.cur = none ∧ x.sameRegs w
                  ∧ x.stack = y' :: { j with mask := j.mask &&& ~~~m, icnt := maxDWord j.icnt (e.icnt + 1), flg := j.flg ||| e.flg }
                      :: removeLanes m r
                  ∧ RunsOn (s.reach w w.gcnt w.wcnt []) s' t (left.counted w.gcnt w.wcnt) x e fun _ => y')
            ∧ (w.launched &&& ~~~(w.exited ||| m) = 0#128 → (∀ y ∈ (s.hearth w.home).copies, y.t ≠ t) →
              (∀ o ∈ (s.hearth w.home).grate, o.t ≠ t) →
              ∃ s', exec (.exit g) s = .next s' ∧ s'.thread? t = none ∧ s'.cur ≠ some t ∧ ∀ a, s'.readByte a = s.readByte a))
        ∧ ∀ k p q, w.ember = some k → m ≠ 0#128 → k.parent ≠ t → s.thread? k.parent = some p → p.ember = none → p.susp = none →
            w.stackHeld → p.stackHeld → s.path? p = some q → held (laneBit k.lane) p.stack → q.mask &&& ~~~laneBit k.lane ≠ 0#128 →
            p.launched &&& ~~~(p.exited ||| laneBit k.lane) ≠ 0#128 →
            ∃ s' x, exec (.exit g) s = .next s' ∧ s'.thread? t = none ∧ s'.cur ≠ some t ∧ s'.thread? k.parent = some x
              ∧ x.sameRegs p ∧ x.exited = p.exited ||| laneBit k.lane ∧ (∀ a, s'.readByte a = s.readByte a)
              ∧ x.stack = removeLanes (laneBit k.lane) (p.stack.map fun z =>
                  if z.ej = true ∧ z.mask.getLsbD k.lane = true
                    then { z with icnt := maxDWord z.icnt (e.icnt + 1), flg := z.flg ||| e.flg } else z)

/-- An instruction that fails a check at issue traps there, and nothing of it happens: RESERVED_ENC for a register or tile beyond
its declared count and for a flag that the header does not mark valid, then EMBER_ILLEGAL, PRIV, HAZARD for a register that is
pending, and MEMERR of a STRICT context for one that cannot be corrected (05 R66, R67, R87, 03 R32, R35, 19 R307, 23 R351). TRAP and
BKPT trap the lanes that take part, with their code as TRAPADDR, and are NOPs where none does (08 R185, R186).
Taking a trap writes TRAPCAUSE, TRAPPC, TRAPADDR and FAULTMASK, stores a frame at TSP - 64 and goes to TBA in handler mode
with every register as it was; a PAGE trap halts the thread; in handler mode, or with no handler, the context is faulted (08
R184, 19 R306 to R308). Choices of the model: that a PAGE trap with no handler faults the context too, rather than halting (log
81); that the frame has the SA, QA, SB and QB of the header at its address at a trap of the clause start too, and of a malformed
header (log 25); that a register held pending traps whatever lanes take part in its operation (log 32). -/
def Obligations.TakingATrap : Prop :=
  ∀ (s : State) (t : Nat) (w : Thread) (e : Entry) (c : Clause),
    (∀ (g : Guard) (code : BitVec 16), let m := maskOf (partLanes w e g)
      (Issues s (.trap g code) t w e c → (m = 0#128 → Performs s (.trap g code) s t w e id)
        ∧ (m ≠ 0#128 → Traps s (.trap g code) t w c ⟨.trap, code.setWidth 64, m⟩))
      ∧ (Issues s (.bkpt g code) t w e c → (m = 0#128 → Performs s (.bkpt g code) s t w e id)
        ∧ (m ≠ 0#128 → Traps s (.bkpt g code) t w c ⟨.bkpt, code.setWidth 64, m⟩)))
    ∧ (∀ (i : Instr) (g : Grid), i.encoded = true → s.cur = some t → s.thread? t = some w → s.path? w = some e → w.clause = some c →
        s.grid? w.grid = some g →
        let u := uses i
        let traps := fun (k : Cause) => Traps s i t w c ⟨k, 0#64, e.mask⟩
        let outside := (∃ r ∈ u.vr ++ u.vw, 8 * g.desc.vregs ≤ r) ∨ (∃ r ∈ u.sr ++ u.sw, 8 * g.desc.sregs ≤ r)
          ∨ (∃ r ∈ u.a, g.desc.accs ≤ r) ∨ (∃ r ∈ u.t, g.desc.tiles ≤ r) ∨ ∃ q, qselOf i = some q ∧ c.flag q = none
        let onEmber := w.ember.isSome = true ∧ (engineOf i = some 3 ∨ engineOf i = some 4 ∨ u.sw ≠ [])
        let priv := (needsHandler i = true ∧ w.handler = false) ∨ ((i = .stepw ∨ i = .stepg) ∧ w.handler = true)
          ∨ ∃ r a, i = .csrw r a ∧ r ≠ .tsp ∧ r ≠ .tscratch
        let pending := ∃ o ∈ w.ops, c.wait.getLsbD o.flag = false
          ∧ ((∃ r ∈ u.vr ++ u.vw, r ∈ o.regs) ∨ ∃ r ∈ u.sr ++ u.sw, o.sreg = some r)
        (outside → traps .reservedEnc) ∧ (¬ outside → onEmber → traps .emberIllegal)
        ∧ (¬ outside → ¬ onEmber → priv → traps .priv) ∧ (¬ outside → ¬ onEmber → ¬ priv → pending → traps .hazard)
        ∧ (¬ outside → ¬ onEmber → ¬ priv → ¬ pending → s.strict w.ctx = true →
          let bad := maskOf ((lanesOf e.mask).filter fun l => u.vr.any fun r => w.badV.contains (vix r l))
          (bad ≠ 0#128 → TrapsOver s i (s.recordLost w e i) t w c ⟨.memerr, 0#64, bad⟩)
          ∧ (bad = 0#128 → (∃ r ∈ u.sr, r ∈ w.badS) → TrapsOver s i (s.recordLost w e i) t w c ⟨.memerr, 0#64, e.mask⟩)))
    ∧ ∀ (k : TrapInfo) (pc hdr : DWord) (x : Context), s.thread? t = some w → s.path? w = some e → s.context? w.ctx = some x →
      let s' := s.takeTrap t w k pc hdr
      (w.handler = false → k.cause ≠ .page → k.cause ≠ .rlogFull → x.tba ≠ 0#64 → 64 ≤ w.tsp.toNat → w.stackHeld →
        ∀ pas, s.framePas w (w.tsp.toNat - 64) .write = .ok pas →
          s'.cur = none
          ∧ (∃ y, s'.thread? t = some y ∧ y.trapcause = BitVec.ofNat 64 k.cause.code ∧ y.trappc = pc ∧ y.trapaddr = k.addr
            ∧ y.faultmask = k.mask ∧ y.handler = true ∧ y.tsp = w.tsp - 64#64 ∧ y.clause = none ∧ y.sameRegs w
            ∧ s'.path? y = some { e with pc := pcField x.tba })
          ∧ ∀ a, s'.readByte a = (({ s with cur := none }.touchPas (pas.map fun pa => (pa, 16))).writeGranules w e.gstep (w.tsp.toNat - 64) pas (frameBytes hdr e.mask e.fmt e.flg (s.frameFlags w hdr) w.ember.isSome
              w.susp.isSome)).readByte a)
      ∧ (w.handler = true → s'.faultedNow w.ctx)
      ∧ (x.tba = 0#64 → s'.faultedNow w.ctx)
      ∧ (w.handler = false → k.cause = .page → x.fpolicy.getLsbD 0 = true → s'.faultedNow w.ctx)
      ∧ (w.handler = false → k.cause = .page → x.tba ≠ 0#64 → x.fpolicy.getLsbD 0 = false → ∃ y, s'.thread? t = some y ∧ y.halted = true
          ∧ y.trapcause = 0x11#64 ∧ y.trappc = pc ∧ y.trapaddr = k.addr ∧ y.faultmask = k.mask ∧ y.handler = false
          ∧ y.stack = w.stack ∧ y.sameRegs w)

/-- RTE restores EXEC (less the lanes that have exited), FMT and FPFLAGS from the frame at TSP, pops it, leaves handler mode
and resumes at TRAPPC: inside its clause, with the frame's SA, QA, SB and QB, where the frame's address holds a header and TRAPPC
one of the words of that clause; else at a clause that starts at TRAPPC. A path which no lane is left in leaves the stack, and
select() follows; from a trap path the wave returns to the stack it held, and select() follows (08 R172, R187, 10 R243, 19 R306). RTE
waits until the homes of the frame and of spilled entries are reached (22 R337). That a frame which cannot be read faults the context
is the model's choice (log 13). -/
def Obligations.Returns : Prop :=
  ∀ (s : State) (t : Nat) (w : Thread) (e : Entry) (c : Clause), Issues s .rte t w e c → w.ended = false →
    (s.frameReached w w.tsp.toNat = false ∨ s.refillReached w = false → Stalls s .rte t w)
    ∧ (∀ pas, s.frameReached w w.tsp.toNat = true → s.framePas w w.tsp.toNat .read = .ok pas → w.stackHeld →
      let fr := leNat (pas.flatMap fun pa => s.privRead w pa 16)
      let hdr : DWord := BitVec.ofNat 64 fr
      let clean := s.writesWhole ∧ s.badMem = [] ∧ s.badL3 = [] ∧ ∀ a, s.linkDown a = false
      let word := match (s.noteFrameLost w w.tsp.toNat pas).codeWord w hdr with
        | .ok x => x.toNat
        | .error _ => 0
      let n := (w.trappc.toNat - hdr.toNat) / 8
      let inside := bits word 55 9 = 0x1FF ∧ hdr.toNat < w.trappc.toNat ∧ (w.trappc.toNat - hdr.toNat) % 8 = 0 ∧ n ≤ bits word 48 4 + 1
      let q := bits fr 192 64
      let m : Mask := BitVec.ofNat 128 (fr / 2 ^ 64) &&& ~~~w.exited
      let back := fun (f : State → Thread → Prop) => ∃ s' x, exec .rte s = .next s' ∧ s'.cur = none ∧ s'.thread? t = some x
        ∧ x.handler = false ∧ x.hcause = none ∧ x.tsp = w.tsp + 64#64 ∧ x.sameRegs w ∧ (clean → ∀ a, s'.readByte a = s.readByte a) ∧ f s' x
      (w.susp = none → m ≠ 0#128 → back fun s' x =>
        ∃ p, s'.path? x = some { e with icnt := e.icnt + 1, mask := m, fmt := BitVec.ofNat 32 (fr / 2 ^ 224)
                                        flg := BitVec.ofNat 5 (fr / 2 ^ 192), pc := p }
          ∧ (∀ k, x.clause = some k → k.hdr = hdr ∧ k.here = w.trappc ∧ p = pcField k.next)
          ∧ (x.clause = none → p = pcField w.trappc)
          ∧ (¬ inside → x.clause = none) ∧ (inside → x.clause = some
            { hdr := hdr, cnt := bits word 48 4, ix := n - 1, eng := bits word 52 3, wait := BitVec.ofNat 12 (bits word 36 12)
              sa := q.testBit 21, qa := BitVec.ofNat 4 (bits q 17 4), sb := q.testBit 16, qb := BitVec.ofNat 4 (bits q 12 4) }))
      ∧ (∀ y j r, w.susp = none → m = 0#128 → w.ember = none → w.stack = e :: y :: j :: r → y.st = .waiting → y.ej = false →
          y.mask ≠ 0#128 → j.st = .parked → j.pc = e.join → (∀ z ∈ r, z.mask ≠ 0#128 ∨ z.st = .parked) → back fun _ x =>
            x.clause = none ∧ x.stack = { y with st := .running }
              :: { j with icnt := maxDWord j.icnt (e.icnt + 1), flg := j.flg ||| BitVec.ofNat 5 (fr / 2 ^ 192) } :: r)
      ∧ ∀ u, w.susp = some u → u.spilled = 0 → u.stack.length ≤ 16 → (∀ o ∈ w.owed, o.due ≠ .wave) → back fun _ x =>
          x.susp = none ∧ x.clause = none ∧ (w.ember = none → x.stack = (PathSet.select ⟨u.stack, w.gcnt, w.wcnt⟩).es))
    ∧ ∀ k, s.frameReached w w.tsp.toNat = true → s.refillReached w = true → s.framePas w w.tsp.toNat .read = .error k → (s.context? w.ctx).isSome = true →
        ∃ s', exec .rte s = .next s' ∧ s'.faultedNow w.ctx

/-- CSRR reads a register of 08 Table 8.5; CSRW writes TSP, which takes multiples of 64, and TSCRATCH (08 R196). What needs
handler mode traps PRIV outside it. LIVE takes an entry of the liveness table and is not counted in ICOUNT (08 R188); that it
sets the live set of the ember lane which runs it, as of a wave, is the model's choice (log 19). LIVE waits until its entry's pages are reached, and MARK, which writes its
record where the context records, until the ring is (08 R192, 20 Table 20.7, 22 R337). -/
def Obligations.SystemRegisters : Prop :=
  ∀ (s : State) (t : Nat) (w : Thread) (e : Entry) (c : Clause),
    (∀ (d : SReg) (r : Csr) (x : Context), Issues s (.csrr d r) t w e c → s.context? w.ctx = some x →
      let y := s.die w.die
      WritesS s (.csrr d r) t w e d (match r with
        | .tba => x.tba | .tsp => w.tsp | .tscratch => w.tscratch | .fpolicy => x.fpolicy | .ctxcfg => x.ctxcfg
        | .ctxid => BitVec.ofNat 64 w.ctx | .steplimit => x.steplimit | .hanglimit => x.hanglimit
        | .dtbase => y.dring.base | .dtsize => y.dring.size | .rlbase => y.rring.base | .rlsize => y.rring.size
        | .elbase => y.ering.base | .elsize => y.ering.size | .clbase => x.clbase | .clsize => x.clsize))
    ∧ (∀ a : SSrc, Issues s (.csrw .tsp a) t w e c →
        ((a.value w).toNat % 64 = 0 → Performs s (.csrw .tsp a) s t { w with tsp := a.value w } e id)
        ∧ ((a.value w).toNat % 64 ≠ 0 → Traps s (.csrw .tsp a) t w c ⟨.reservedEnc, 0#64, e.mask⟩))
    ∧ (∀ a : SSrc, Issues s (.csrw .tscratch a) t w e c →
        Performs s (.csrw .tscratch a) s t { w with tscratch := a.value w } e id)
    ∧ (∀ (i : Instr) (g : Grid), s.cur = some t → s.thread? t = some w → s.path? w = some e → w.clause = some c →
        s.grid? w.grid = some g → reservedHere g.desc c i = false → emberIllegal w i = false →
        needsHandler i = true ∧ w.handler = false ∨ (∃ r a, i = .csrw r a ∧ r ≠ .tsp ∧ r ≠ .tscratch) →
          Traps s i t w c ⟨.priv, 0#64, e.mask⟩)
    ∧ (∀ (n : BitVec 8) (g : Grid), Issues s (.live n) t w e c → s.grid? w.grid = some g →
        let a := g.desc.ltab + BitVec.ofNat 64 (64 * n.toNat)
        let near := ∀ p ∈ rangePages a 64, s.pageReached w.mmu w.ctx p.1 = true
        let read := (rangePages a 64).foldl (fun s p => s.noteRead w e p.1 p.2) s
        (g.desc.lcount ≤ n.toNat → Traps s (.live n) t w c ⟨.reservedEnc, 0#64, e.mask⟩)
        ∧ (n.toNat < g.desc.lcount → ¬ near → Stalls s (.live n) t w)
        ∧ (n.toNat < g.desc.lcount → near →
          (∀ k b, s.ctxBytes w a 64 = .error (k, b) → Traps s (.live n) t w c ⟨k, b, e.mask⟩)
          ∧ ∀ bs, s.ctxBytes w a 64 = .ok bs →
            let k := min 64 (65536 - a.toNat % 65536)
            (∀ pa leaf, s.access w.mmu w.ctx a .read = .ok (pa, leaf) → bs.take k = s.cleanBytes pa k)
            ∧ (∀ pa leaf, k < 64 → s.access w.mmu w.ctx (a + BitVec.ofNat 64 k) .read = .ok (pa, leaf) →
                bs.drop k = s.cleanBytes pa (64 - k)) ∧
            let word := fun k j => bits (leNat bs) (256 + 64 * k + 32 * j) (19 + j)
            ((∃ k, k < 4 ∧ word k 1 ≠ 0 ∧ g.stashBytes < word k 0 + word k 1) →
              TrapsOver s (.live n) read t w c ⟨.reservedEnc, 0#64, e.mask⟩)
            ∧ ((∀ k, k < 4 → word k 1 ≠ 0 → word k 0 + word k 1 ≤ g.stashBytes) →
              ∃ s' x l, exec (.live n) s = .next s' ∧ s' = { read.setThread t x with cur := s'.cur } ∧ x.live = some l
                ∧ x.stack = w.stack ∧ x.sameRegs w ∧ (w.stackHeld → s'.path? x = some e)
                ∧ (∀ r, r < 256 → l.vmap.getLsbD r = (bs.getD (r / 8) 0#8).getLsbD (r % 8))
                ∧ (∀ o z, (o, z) ∈ l.ranges ↔ z ≠ 0 ∧ ∃ k, k < 4 ∧ o = word k 0 ∧ z = word k 1)
                ∧ (x.stopped = true ↔ w.stopped = true ∨ g.stopLive = true ∧ w.handler = false))))
    ∧ ∀ v : Word, Issues s (.mark v) t w e c →
        (s.recording w.ctx = false → Performs s (.mark v) s t w e id)
        ∧ (s.recording w.ctx = true → s.ringOpen w.die .resolution = false → Stalls s (.mark v) t w)
        ∧ (s.recording w.ctx = true → s.ringOpen w.die .resolution = true → s.ringFull w.die 32 = true →
            Traps s (.mark v) t w c ⟨.rlogFull, (s.die w.die).rring.base, e.mask⟩)
        ∧ (s.recording w.ctx = true → s.ringOpen w.die .resolution = true → s.ringFull w.die 32 = false →
            Performs s (.mark v) (s.ringPut w.die .resolution
              (leBytes 8 (0x22 * 2 ^ 56 + w.ctx % 65536 * 2 ^ 32)
                ++ leBytes 8 (v.toNat * 2 ^ 32 + s.gkey w (lowestLane e.mask % 128) % 2 ^ 32)
                ++ leBytes 8 e.icnt.toNat ++ leBytes 8 (e.wstep.toNat * 2 ^ 32 + e.gstep.toNat))) t w e id)

/-- At a STEPW or STEPG, with nothing owed and the previous step closed, the path arrives: its counts rise by one, and a
waiting path of the wave runs; once every path has arrived the wave's count rises and the path goes on. An ember lane arrives
as a path of one lane; a step that still waits for a close stalls (07 R142, R143, 08 R173, 10 R231). A trap that is owed at the
STEP comes first (23 R355), and then the RESERVED_ENC of a STEPG in a grid that does not step (07 R146). That the STEP waits too
until no grate instruction of the wave has operands to read is the model's choice (log 21). It waits until the homes of the
entries that the stack may refill are reached (22 R337). -/
def Obligations.Steps : Prop :=
  ∀ (s : State) (t : Nat) (w : Thread) (e : Entry) (c : Clause) (grid : Bool),
    let i := if grid = true then Instr.stepg else .stepw
    Issues s i t w e c → w.held = [] →
      let skips := grid = true ∧ ∃ g, s.grid? w.grid = some g ∧ g.desc.stepping = false
      let waits := s.grateUnread t w || s.groupReadWaits w e || (grid && s.gridReadWaits w e) || (w.ember.isNone && !s.refillReached w)
      let kept := fun (l : List Entry) => ∀ z ∈ l, z.mask ≠ 0#128 ∨ z.st = .parked
      (∀ o, firstOwed (w.owed.filter (·.atStep grid)) = some o →
        exec i s = .next ((s.setThread t w).takeOwed t w o c.here c.hdr))
      ∧ ((∀ o ∈ w.owed, o.atStep grid = false) →
      (skips → TrapsOver s i (s.setThread t w) t w c ⟨.reservedEnc, 0#64, e.mask⟩)
      ∧ (¬ skips → waits = true → Stalls s i t w)
      ∧ (¬ skips → waits = false →
        (w.ember.isSome = true → Performs s i
          (let s1 := if grid = true then s.modGrid w.grid fun g => { g with reached := maxWord g.reached (e.gstep + 1) } else s
           s1.modGroup w.group fun p => { p with
             reached := maxWord p.reached (e.wstep + 1)
             edge := if grid = true then maxWord p.edge (e.wstep + 1) else p.edge }) t w e (·.step grid))
        ∧ (w.ember = none → w.spilled = 0 → w.stack = [e] → e.mask ≠ 0#128 → e.ej = false → e.gstep = w.gcnt →
          e.wstep = w.wcnt →
          let g := if grid = true then w.gcnt + 1 else w.gcnt
          ∃ s' x, exec i s = .next s' ∧ s'.cur = none ∧ x.sameRegs w
            ∧ x.stack = [{ e with icnt := e.icnt + 1, gstep := g, wstep := w.wcnt + 1 }]
            ∧ RunsOn (s.reach w g (w.wcnt + 1) [{ (e.step grid) with st := .arrived }]) s' t (w.counted g (w.wcnt + 1)) x e (·.step grid))
        ∧ ∀ y r, w.ember = none → w.spilled = 0 → w.stack = e :: y :: r → r.length ≤ 14 → e.mask ≠ 0#128 → y.st = .waiting →
          y.ej = false → y.mask ≠ 0#128 → kept r →
          let y' := { y with st := .running }
          ∃ s' x, exec i s = .next s' ∧ s'.cur = none ∧ x.sameRegs w
            ∧ x.stack = { (e.step grid) with icnt := e.icnt + 1, st := .arrived } :: y' :: r
            ∧ RunsOn (s.reach w w.gcnt w.wcnt []) s' t (w.counted w.gcnt w.wcnt) x e fun _ => y'))

/-- A thread that is ready, whose pipe is in no other clause and to whom the selector grants its turn (18 R300, R301) parks its
path where it stands at its join, takes a trap that its wave owes as a whole, or starts the clause whose header stands at its
address: a word that is no header traps ILLEGAL_OP, a malformed header RESERVED_ENC, a WAIT that names the flag of an STF not yet
arrived at HAZARD, a busy flag of its WAIT holds the clause back, and a trap owed for a flag that it waits on is taken there unless it opens
with a STEP (05 R61 to R67, 08 R171, 10 R243, 23 R355). What must trap waits until its frame is reached (22 R337). The lanes of an
ejected group run on their embers once none of them waits for a pending register, with the registers that they waited for, and bring
their registers back, once the ember core has written back their dirty private lines (10 R233, R234, R237, 13 R281); that a wave's L1
writes them back at the hand-over is the model's choice (log 97). -/
def Obligations.ClausesAndEmbers : Prop :=
  (∀ (s : State) (t : Nat) (w : Thread), s.thread? t = some w →
    (s.isReady t w = false ∨ s.pipeBusy t w = true ∨ s.grant t w = none → exec (.clauseStart t) s = .next s)
    ∧ ∀ (s1 : State) (x : Thread) (e : Entry), s.isReady t w = true → s.pipeBusy t w = false → s.grant t w = some s1 →
      s1.thread? t = some x → x.badCtl = false → s1.path? x = some e →
      let joins := e.pc = e.join ∧ (x.ember.isSome = true ∨ canPark (s1.entries x) = true)
      let owes := x.owed.filter fun o => !x.handler && o.due == .wave
      let b := s1.pastSlot x
      let s2 := b.noteRead x e e.addr 8
      let traps := fun (k : Cause) (a : DWord) (x' : Thread) (pc : DWord) =>
        exec (.clauseStart t) s = .next (if b.trapReached x k = true then s2.takeTrap t x' ⟨k, a, e.mask⟩ pc e.addr else b)
      (joins → exec (.clauseStart t) s = .next (s1.park t x))
      ∧ (¬ joins → ∀ o, firstOwed owes = some o → exec (.clauseStart t) s = .next (b.takeOwed t x o e.addr e.addr))
      ∧ (¬ joins → owes = [] → x.handler = true ∨ s1.stopsNow x = false → ∀ k, s1.codeWord x e.addr = .error k → traps k e.addr x e.addr)
      ∧ (¬ joins → owes = [] → x.handler = true ∨ s1.stopsNow x = false → ∀ h, s1.codeWord x e.addr = .ok h →
        (bits h.toNat 55 9 ≠ 0x1FF → traps .illegalOp 0#64 x e.addr)
        ∧ (bits h.toNat 55 9 = 0x1FF →
          let q := fun lo => (bits h.toNat lo 4)
          let bad := 5 < bits h.toNat 52 3 ∨ bits h.toNat 0 26 ≠ 0
            ∨ (h.getLsbD 35 = true ∧ 12 ≤ q 31) ∨ (h.getLsbD 30 = true ∧ 12 ≤ q 26) ∨ (h.getLsbD 35 = false ∧ q 31 ≠ 0)
            ∨ (h.getLsbD 30 = false ∧ q 26 ≠ 0) ∨ (h.getLsbD 30 = true ∧ h.getLsbD 35 = false)
            ∨ (h.getLsbD 35 = true ∧ h.getLsbD 30 = true ∧ q 31 = q 26)
          let wait := BitVec.ofNat 12 (bits h.toNat 36 12)
          let clause : Clause := { hdr := e.addr, cnt := bits h.toNat 48 4, ix := 0, eng := bits h.toNat 52 3, wait := wait
                                   sa := h.getLsbD 35, qa := BitVec.ofNat 4 (q 31), sb := h.getLsbD 30, qb := BitVec.ofNat 4 (q 26) }
          (bad → traps .reservedEnc 0#64 x e.addr)
          ∧ (¬ bad → x.waitHazard e wait = true → traps .hazard 0#64 { x with clause := some clause } (e.addr + 8#64))
          ∧ (¬ bad → x.waitHazard e wait = false →
            (b.waitBusy t x wait = true → exec (.clauseStart t) s = .next b)
            ∧ (∀ o, b.waitBusy t x wait = false → firstOwed (x.owed.filter fun o => !x.handler && o.atWait wait) = some o →
              b.opensStep x e.addr = false → exec (.clauseStart t) s = .next (if b.trapReached x o.info.cause = true
                then s2.takeOwed t x o e.addr e.addr else b))
            ∧ (b.waitBusy t x wait = false → (∀ o ∈ x.owed, x.handler = true ∨ o.atWait wait = false) → x.stackHeld →
              ∃ s' y, exec (.clauseStart t) s = .next s' ∧ s'.cur = some t ∧ s'.thread? t = some y ∧ y.sameRegs x
                ∧ (∀ a, s'.readByte a = s2.readByte a) ∧ y.clause = some clause
                ∧ s'.path? y = some { e with pc := pcField (e.addr + BitVec.ofNat 64 (8 * (bits h.toNat 48 4 + 2))) })))))
  ∧ (∀ (s : State) (t u : Nat) (w x : Thread) (m : Ember) (target : DWord), s.thread? t = some w → s.thread? u = some x →
      x.ember = some m → m.parent = t → (x.stack.head?.map (·.pc)) = some (pcField target) →
        (let waits := ∃ y ∈ s.threads, ∃ k, y.2.ember = some k
            ∧ (w.awaits y.2.live k.lane = true ∨ s.lanesReached w.mmu w.grid (s.gkey w k.lane) = false) ∧ k.parent = t ∧ k.batch = m.batch
         (m.phase = .handover → ¬ waits → ∃ s', exec (.handoverComplete t target) s = .next s'
            ∧ s'.thread? u = some { x with ember := some { m with phase := .running } }
            ∧ ∀ l ∈ s'.caches.l1At w.mmu, ∀ d ∈ l.dirty, d.of w.grid (s.gkey w m.lane) = false)
          ∧ (m.phase = .handover ∨ m.phase = .waiting → waits → ∃ s', exec (.handoverComplete t target) s = .next s'
          ∧ s'.thread? u = some x)
          ∧ (m.phase = .waiting → ¬ waits → ∃ s' y, exec (.handoverComplete t target) s = .next s'
          ∧ s'.thread? u = some y ∧ y.ember = some { m with phase := .running, awaited := [] } ∧ y.tsp = w.tsp
          ∧ (∀ r, y.sreg r = w.sreg r)
          ∧ ∀ r l, m.lane < 128 → l < 128 → y.vreg r l = if l = m.lane ∧ r ∈ m.awaited then w.vreg r l else x.vreg r l)))
  ∧ (∀ (s : State) (u : Nat) (x w : Thread) (m : Ember) (e : Entry) (g : Grid), s.thread? u = some x → x.ember = some m →
      s.path? x = some e → s.thread? m.parent = some w → s.grid? x.grid = some g → m.parent ≠ u →
      (m.phase ≠ .rejoining ∨ w.handler = true ∨ x.awaits x.live m.lane = true ∨ s.refillReached w = false
          ∨ s.lanesReached x.mmu x.grid (s.gkey x m.lane) = false → exec (.emberRejoin u) s = .next s)
      ∧ (m.phase = .rejoining → m.lane < 128 → w.handler = false → x.awaits x.live m.lane = false → x.badV = [] →
        x.launched = laneBit m.lane → w.launched.getLsbD m.lane = true → w.stackHeld → (∀ o ∈ w.owed ++ x.owed, o.due ≠ .wave) →
        s.lanesReached x.mmu x.grid (s.gkey x m.lane) = true →
        ∃ s' y, exec (.emberRejoin u) s = .next s' ∧ s'.thread? u = none ∧ s'.thread? m.parent = some y
          ∧ (∀ r, r < 8 * g.desc.vregs → LiveSet.has x.live r = true → y.vreg r m.lane = x.vreg r m.lane)
          ∧ (∀ r l, l < 128 → l ≠ m.lane → y.vreg r l = w.vreg r l)
          ∧ (∀ p l, p < 8 → l < 128 → (y.preg p).getLsbD l = if l = m.lane then (x.preg p).getLsbD l else (w.preg p).getLsbD l)
          ∧ ∀ l ∈ s'.caches.l1At x.mmu, ∀ d ∈ l.dirty, d.of x.grid (s.gkey x m.lane) = false))
  ∧ ∀ (s : State) (t : Nat) (w : Thread) (e : Entry) (l : Nat), s.thread? t = some w → t ≠ s.uid → lanesOf e.mask = [l] →
      ∃ x m, (s.ejectEntry t e).thread? s.uid = some x ∧ x.ember = some m ∧ m.parent = t ∧ m.lane = l
        ∧ m.cluster = w.die * 16 + w.hearth / 8 ∧ x.launched = laneBit l ∧ x.stack.map (·.pc) = [e.pc]

/-- The close of a group step puts the step's stores in the stash, publishes its tiles and writes the results of its STFs; the
close of a grid step counts it closed, commits to each byte of memory what the rules give it, closes the steps of its groups, and
then brings about the effects that WBIND, WUNBIND, LAUNCH and EVSIG have left to it: a window takes the descriptor of the lowest
writer, and of one writer the last; packets reach their queues in writer order; events are set (07 R144, R164, R165, 08 R193,
R195, 11 R252). After it no hearth's L1 holds a global line, and no L2 one that was committed (11 R262). A step that is not complete
does not close. -/
def Obligations.StepCloses : Prop :=
  (∀ (s : State) (p : Nat) (q : Group) (g : Grid), s.group? p = some q → s.grid? q.grid = some g →
    (s.groupArrived p = false ∨ s.groupHeld p = true → exec (.groupStepClose p) s = .next s)
    ∧ (s.groupArrived p = true → s.groupHeld p = false → ∃ s', exec (.groupStepClose p) s = .next s'
        ∧ ((s.threads.any fun x => x.2.group == p) = true → (s'.group? p).isSome = true)
        ∧ (∀ q', s'.group? p = some q' → GroupShut s g q q')
        ∧ let r := resolve (s.closing g q.closed true) (tget 0#8 q.stash) (q.pend.filter fun x => x.step == q.closed)
          ∀ t w o d ls l v, s.thread? t = some w → w.group = p → w.ops = [o] → o.kind = .stf false q.closed d false ls →
            l ∈ lanesOf ls → q.badStash = [] → (r.results.find? fun x => x.1 == o.uid && x.2.1 == s.gkey w 0 + l) = some v →
            ∃ y, s'.thread? t = some y ∧ y.ops = [] ∧ y.vreg d l = BitVec.ofNat 32 v.2.2))
  ∧ ∀ (s : State) (n : Nat) (g : Grid), s.grid? n = some g →
    (s.gridArrived n = false ∨ s.gridHeld n g = true → exec (.gridStepClose n) s = .next s)
    ∧ (s.gridArrived n = true → s.gridHeld n g = false →
      (∃ s' b, exec (.gridStepClose n) s = .next s'
        ∧ s'.grid? n = some { g with
          closed := g.closed + 1, watch := 0, commitFault := b
          pend := g.pend.filter fun x => decide (x.step ≠ g.closed)
          sysops := g.sysops.filter fun x => decide (x.step ≠ g.closed)
          logRes := g.logRes.filter fun x => decide (x.1 ≠ g.closed)
          rlRes := g.rlRes.filter fun x => decide (x.1 ≠ g.closed) }
        ∧ (∀ x ∈ s'.caches.l1, x.1 / 16 < 2049 → ∀ l ∈ x.2, l.priv = true)
        ∧ (∀ p q q', s.openGroups n = [p] → s.group? p = some q → s'.group? p = some q' → GroupShut s g q q')
        ∧ let ops := g.sysops.filter fun x => x.step == g.closed
          (∀ o e, o ∈ ops → o.op = .evsig e → s'.eventSet g.ctx e.toNat = true)
          ∧ ∀ x, s.context? g.ctx = some x → ∃ y, s'.context? g.ctx = some y
            ∧ (∀ o k d, o ∈ ops → o.op.binds = some (k, d) →
                (∀ z ∈ ops, ∀ d', z.op.binds = some (k, d') → z = o ∨ o.key < z.key ∨ o.key = z.key ∧ z.order < o.order) →
                aget? y.windows k = d)
            ∧ (∀ k, (∀ o ∈ ops, ∀ d, o.op.binds ≠ some (k, d)) → aget? y.windows k = aget? x.windows k)
            ∧ ∀ k u, aget? x.queues k = some u →
                let sent := (sortBy SysOp.le ops).filterMap fun o => o.op.sends k u.widx
                aget? y.queues k = some { u with enq := u.enq ++ sent, reserved := u.reserved - sent.length })
      ∧ (let r := resolve (s.closing g g.closed false) s.oldByte (g.pend.filter fun x => x.step == g.closed)
         s.twins = [] → s.peersIn = [] → s.badMem = [] → s.badL3 = [] → (∀ x ∈ r.puts, s.linkDown x.1 = false) → g.sysops = [] →
         g.rlRes = [] → s.openGroups n = [] → r.recs = [] → r.anys = [] → r.fails = [] → r.lost = [] →
         ∃ s', exec (.gridStepClose n) s = .next s' ∧ (∀ a, s'.readByte a = match r.put a with
           | some b => if s.holdsMemory a = true then b else s.readByte a
           | none => s.readByte a)
           ∧ ∀ x ∈ s'.caches.l2, ∀ l ∈ x.2, ∀ p ∈ r.puts, l.line ≠ p.1 / 128))

/-- What the pending stores of a step put at a byte: under LO the byte of the lowest writer, under ANY that of some writer, which in
deterministic mode is the lowest, under FLT nothing where two writers meet, and nothing where two rules meet, in any byte of a SUM cell
among them; a SUM cell gets its old value and every contribution, modulo 2^32 or 2^64, and of F32 their order-independent sum (02 R27,
07 R130, 11 R252 to R254). Of 4-bit stores each half of a byte is a unit of its own. A region of which the commit log has lost a store
keeps its bytes (23 R352). -/
def Obligations.StoreRules : Prop :=
  ∀ (k : Closing) (old : Nat → Byte) (ws : List PWrite),
    let r := resolve k old ws
    let first := fun (p q : PWrite) => q = p ∨ p.w.lt q.w = true ∨ (p.w = q.w ∧ q.order < p.order)
    ((∀ p ∈ ws, p.nib.isSome = true ∧ p.rule = .lo ∧ p.lost = false) → ∀ (a : Nat) (h : Bool),
      let half := fun (b : Byte) => b.toNat / (if h = true then 16 else 1) % 16
      (∀ p ∈ ws, p.pa = a → p.nib = some h → (∀ q ∈ ws, q.pa = a → q.nib = some h → first p q) →
        (r.put a).map half = some ((p.data.headD 0#8).toNat % 16))
      ∧ ((∃ p ∈ ws, p.pa = a) → (∀ p ∈ ws, p.pa = a → p.nib ≠ some h) → (r.put a).map half = some (half (old a)))
      ∧ ((∀ p ∈ ws, p.pa ≠ a) → r.put a = none))
    ∧ ((∀ p ∈ ws, p.nib = none) →
    ((∀ p ∈ ws, p.rule ≠ .sum) →
      (∀ a, (∀ p ∈ ws, ¬ p.at a) → r.put a = none)
      ∧ ∀ a b, ∀ p ∈ ws, p.lost = true → p.at b → a / 8 = b / 8 → r.put a = none)
    ∧ ((∀ p ∈ ws, p.lost = false) →
    ((∀ p ∈ ws, p.rule = .lo) → ∀ a, ∀ p ∈ ws, p.at a →
        (∀ q ∈ ws, q.at a → first p q) → r.put a = some (p.byteAt a))
    ∧ (k.det = true → (∀ p ∈ ws, p.rule = .any ∧ p.pa / 128 = (p.pa + p.data.length - 1) / 128) → ∀ a, ∀ p ∈ ws, p.at a →
        (∀ q ∈ ws, q.at a → first p q) → r.put a = some (p.byteAt a))
    ∧ ((∀ p ∈ ws, p.rule = .any) → ∀ a, ∀ p ∈ ws, p.at a → ∃ q ∈ ws, q.at a ∧ r.put a = some (q.byteAt a))
    ∧ ((∀ p ∈ ws, p.rule = .flt) → ∀ a, ∀ p ∈ ws, ∀ q ∈ ws, p.at a → q.at a → p.w ≠ q.w → r.put a = none)
    ∧ ((∀ p ∈ ws, p.rule = .sum → (p.data.length = 4 ∨ p.data.length = 8) ∧ p.pa % p.data.length = 0) →
        ∀ a, ∀ p ∈ ws, ∀ q ∈ ws, p.at a → q.at a → p.rule ≠ q.rule → r.put a = none ∧ (p.rule = .sum → ∀ b, p.at b → r.put b = none))
    ∧ ∀ (ty : SumTy) (n : Nat), n = (match ty with | .i32 => 4 | .i64 => 8 | .f32 => 4) → ws.length < 2 ^ 31 →
        (∀ p ∈ ws, p.rule = .sum ∧ p.sum = some ty ∧ p.data.length = n ∧ p.pa % n = 0) → ∀ p ∈ ws, ∀ i, i < n →
        let more := (ws.filter fun q => q.pa == p.pa).map fun q => leNat q.data
        let v := match ty with
          | .i32 => numAt old p.pa 4 + more.sum
          | .i64 => numAt old p.pa 8 + more.sum
          | .f32 => (oiFinish ((numAt old p.pa 4 :: more).map fp32.decode) 63).1
        r.put (p.pa + i) = some (BitVec.ofNat 8 (v / 256 ^ i))))

/-- A wave that holds a step open beyond STEPLIMIT owes STEP_WATCHDOG with the lanes that have not arrived, and the count
starts again; one whose context has retired nothing for HANGLIMIT owes it with all its lanes; one that waits for ejected
lanes beyond REJOIN traps REJOIN_TIMEOUT with those lanes (10 R238, R245, R246). One trap serves for a step watchdog and the hang
watchdog together, and where both are due at once both counts start again (23 R354). A wave in which no path runs takes the trap at once, on a trap path (10 R243). A watchdog that is not
due does nothing. -/
def Obligations.Watchdogs : Prop :=
  ∀ (s : State) (n t : Nat) (w : Thread), s.thread? t = some w →
    (∀ grid : Bool, let due := s.watchdogDue grid n
      (due = [] → exec (.stepWatchdog grid n) s = .next s)
      ∧ (due ≠ [] → s.hangDue (s.domainCtx grid n) = true →
          exec (.stepWatchdog grid n) s = exec (.hangWatchdog (s.domainCtx grid n)) s)
      ∧ ∀ m, due = [(t, m)] → s.hangDue (s.domainCtx grid n) = false → w.handler = false →
        let reset := if grid = true then { w with gwatch := 0 } else { w with wwatch := 0 }
        let info : TrapInfo := ⟨.stepWatchdog, if grid = true then 0#64 else 2#64, m⟩
        let hangs := ∃ o ∈ w.owed, o.info.cause = .stepWatchdog ∧ o.info.addr = 1#64
        ∃ s', exec (.stepWatchdog grid n) s = .next s'
          ∧ (grid = true → ∀ g, s'.grid? n = some g → g.watch = 0) ∧ (grid = false → ∀ g, s'.group? n = some g → g.watch = 0)
          ∧ (hangs → s'.thread? t = some reset)
          ∧ (¬ hangs → (s.path? w).isSome = true ∨ w.halted = true → s'.thread? t = some (reset.owe [info] .wave))
          ∧ (¬ hangs → s.path? w = none → s.trapReached w .stepWatchdog = false → (∀ o ∈ w.owed, o.due ≠ .wave) →
              s'.thread? t = some (reset.owe [info] .wave))
          ∧ (¬ hangs → s.path? w = none → w.halted = false → (∀ o ∈ w.owed, o.due ≠ .wave) →
              s.trapReached w .stepWatchdog = true → ∀ x, s.context? w.ctx = some x →
              x.fpolicy.getLsbD 0 = false → ∃ y, s'.thread? t = some y ∧ y.trapcause = 0x50#64 ∧ y.trapaddr = info.addr
                ∧ y.faultmask = m ∧ y.susp = some ⟨w.stack, w.spilled⟩))
    ∧ (s.hangDue n = false → exec (.hangWatchdog n) s = .next s)
    ∧ (s.hangDue n = true → (s.threads.filter fun x => x.2.ctx == n && x.2.ember.isNone && !x.2.ended) = [(t, w)] →
        w.handler = false → (s.path? w).isSome = true ∨ (∃ o ∈ w.owed, o.info.cause = .stepWatchdog) →
        let rest := { w with owed := w.owed.filter fun o => decide (o.info.cause ≠ Cause.stepWatchdog) }
        ∃ s' a b, exec (.hangWatchdog n) s = .next s'
          ∧ s'.thread? t = some (Thread.owe { rest with gwatch := a, wwatch := b }
              [⟨.stepWatchdog, 1#64, w.launched &&& ~~~w.exited⟩] .wave)
          ∧ (a = 0 ∨ a = w.gwatch) ∧ (b = 0 ∨ b = w.wwatch)
          ∧ ((∀ d ∈ s.stepsDue n, d.2.2 = []) → a = w.gwatch ∧ b = w.wwatch)
          ∧ ∀ x, s'.context? n = some x → x.lastRetire = s.time)
    ∧ (s.rejoinDue w = false ∨ s.trapReached w .rejoinTimeout = false → exec (.rejoinTimeout t) s = .next s)
    ∧ (s.rejoinDue w = true → s.trapReached w .rejoinTimeout = true → ∀ x, s.context? w.ctx = some x → x.fpolicy.getLsbD 0 = false →
        ∃ s' y, exec (.rejoinTimeout t) s = .next s' ∧ s'.thread? t = some y ∧ y.trapcause = 0x42#64 ∧ y.trapaddr = 0#64
          ∧ y.faultmask = (s.entries w).foldl (fun m e => if e.ej = true then m ||| e.mask else m) 0#128
          ∧ y.susp = some ⟨w.stack, w.spilled⟩ ∧ y.rejoinCount = 0)

/-- A doorbell gives a queue its write index, and clears an event; the scheduler takes the packet at a queue's head, which
becomes a grid or is refused; placement gives a group its hearth, and its waves start at CODE with every register 0; a grid
that is done leaves the machine, with its record (18 R291 to R303, 03 R43). Waiting groups come before the first round of a packet
that is taken later (18 R299); that an earlier grid's group which finds no room holds back the groups of every later grid is the
model's choice (log 56). A taken packet is checked in the order of 18 Table 18.3, and then for circuits and its trace (22 R337, 20
R324, R325); that the seventh check alone tests the limit of 128 registers at width 128 is the model's choice (log 51), as is the die
that counts a refusal (log 23). -/
def Obligations.Launching : Prop :=
  ∀ s : State,
    (∀ (die page : Nat) (val : DWord),
      (s.accepts die = false ∨ s.pageOwner page = none →
        (∀ q, exec (.queueDoorbell die page q val) s = .next (s.modDie die fun d => { d with dropped := d.dropped + 1 }))
        ∧ exec (.eventClearDoorbell die page val) s = .next (s.modDie die fun d => { d with dropped := d.dropped + 1 }))
      ∧ ∀ c x, s.accepts die = true → s.pageOwner page = some c → s.context? c = some x →
        (∀ q u, aget? x.queues q = some u → exec (.queueDoorbell die page q val) s =
          .next (s.setContext c { x with queues := aset x.queues q { u with widx := val.extractLsb' 0 32 } }))
        ∧ ∃ s', exec (.eventClearDoorbell die page val) s = .next s' ∧ ∀ a b, s'.eventSet a b =
          (s.eventSet a b && !(a == c && b == val.toNat % 65536)))
    ∧ (∀ (c q k : Nat) (h : Head) (x : Context), s.taken = none → s.pickHead = some (c, q, k, h) → s.context? c = some x →
        (∀ g, s.checkPacket c q x h = .ok g → ∃ s', exec .packetTake s = .next s' ∧ s'.grid? s.uid = some g
          ∧ s'.uid = s.uid + 1 ∧ s'.rotation = some (c, q) ∧ (s'.taken.map (·.grid)) = some s.uid
          ∧ ∃ y, s'.context? c = some y ∧ y.queues = aset x.queues q h.rest)
        ∧ ∀ r, s.checkPacket c q x h = .error r → ∃ s', exec .packetTake s = .next s' ∧ s'.taken = none ∧ s'.grids = s.grids
          ∧ s'.rotation = some (c, q) ∧ (∃ y, s'.context? c = some y ∧ y.queues = aset x.queues q h.rest)
          ∧ ∀ d, s.lowestLiveIn x.dieset = some d → d < s.dies.length → (s'.die d).refused = (s.die d).refused + 1)
    ∧ (∀ (c q : Nat) (x : Context) (h : Head),
      (s.launchReads c (s.launchDie x) h = none → s.checkPacket c q x h = .error 0x001A)
      ∧ ∀ kb args, s.launchReads c (s.launchDie x) h = some (kb, args) →
        let p := packetOf h.bytes
        let pw := leNat h.bytes
        let d := kdescOf kb
        let g := newGrid c d p h.addr q s.uid args
        let ds := s.diesOf x p
        let ring := (s.die (ds.headD 0)).dring
        let rows : List (Prop × Nat) := [
          (bits pw 608 416 ≠ 0 ∨ bits pw 515 61 ≠ 0 ∨ bits pw 384 8 ≠ 0 ∨ p.n = 0 ∨ 8 < p.e ∨ 65536 < p.spilln ∨ 16384 < p.privsz
            ∨ p.kdesc.toNat % 32 ≠ 0 ∨ p.cpladdr.toNat % 16 ≠ 0, 0x0010),
          (leNat kb % 4096 ≠ 0 ∨ d.code.toNat % 8 ≠ 0 ∨ 3 ≤ d.width ∨ 4096 < d.arglen ∨ 256 < d.lcount ∨ d.vregs < 2 ∨ 32 < d.vregs
            ∨ d.sregs < 1 ∨ 8 < d.sregs ∨ 4096 < d.stash ∨ 64 < d.tiles ∨ 8 < d.accs ∨ 8 < d.eject, 0x0011),
          (p.step ≠ d.stepping, 0x0019), (ds = [], 0x0013), (p.waves ≤ (if p.ovr = true then p.copywave else d.copywave), 0x0014),
          (d.width = 2 ∧ 128 < 8 * d.vregs, 0x0015), (d.groupsPerHearth (g.wavesOf 0) = 0, 0x0016),
          (d.stepping = true ∧ g.fitsWhole (128 * ds.length) = false, 0x0017), (g.reservesFit (128 * ds.length) = false, 0x0018),
          ((∃ a ∈ ds, ∃ b ∈ ds, s.circuitUp (a / 4) (b / 4) = false), 0x001D),
          (p.det = true ∧ p.dtsel ≠ 0 ∧ g.traceMatches ((s.readAt (traceAddr ring p.dtsel) g.blockBytes).take 32) = false, 0x001B),
          (p.det = true ∧ p.dtsel = 0 ∧ ring.enabled .dispatch = true ∧ ring.size.toNat < g.blockBytes, 0x001C)]
        (∀ i, i < 12 → (rows.getD i (False, 0)).1 → (∀ j, j < i → ¬ (rows.getD j (False, 0)).1) →
          s.checkPacket c q x h = .error (rows.getD i (False, 0)).2)
        ∧ ((∀ r ∈ rows, ¬ r.1) → ∃ y, s.checkPacket c q x h = .ok y ∧ { y with trace := none } = g
            ∧ (y.trace.isSome = true ↔ p.det = true ∧ p.dtsel ≠ 0)))
    ∧ (let s1 := s.serveWaiting s.waitingGrids
       exec .groupPlaceDeferred s = .next s1
       ∧ (∀ k r, s.waitingGrids = k :: r → let s2 := s.placeGrid k
          s1 = if (∃ g, s2.grid? k = some g ∧ g.groupCount ≤ g.nextGroup) then s2.serveWaiting r else s2)
       ∧ (∀ s' : State, s1.firstRound = some s' → exec .gridPlace s = .next s' ∧ s'.taken = none)
       ∧ (s1.firstRound = none → exec .gridPlace s = .next s1))
    ∧ (∀ (k gix home : Nat) (g : Grid) (slots : List Nat) (v : Nat), s.grid? k = some g → v < slots.length →
        let s' := s.placeGroup k g gix home slots
        ∃ p x n, s'.group? s.uid = some p ∧ s'.thread? (s.uid + 1 + v) = some x
          ∧ (p.grid = k ∧ p.gix = gix ∧ p.die = home / 128 ∧ p.hearth = home % 128 ∧ p.stash = [] ∧ p.tiles = [])
          ∧ (x.grid = k ∧ x.group = s.uid ∧ x.wix = v ∧ x.pipe = slots.getD v 0 / 16 ∧ x.slot = slots.getD v 0 % 16)
          ∧ n = min g.width (g.pkt.n - waveKey g gix v) ∧ x.launched = BitVec.ofNat 128 (2 ^ n - 1) ∧ x.exited = 0#128
          ∧ (∀ r, x.sreg r = 0#64) ∧ (∀ r l, x.vreg r l = 0#32) ∧ (∀ r, r ≠ 0 → x.preg r = 0#128) ∧ x.preg 0 = x.launched
          ∧ s'.path? x = some { mask := x.launched, icnt := 0#64, pc := pcField g.desc.code, join := BitVec.allOnes 56
                                gstep := 0#32, wstep := 0#32, fmt := 0#32, flg := 0#5, st := .running, ej := false }
          ∧ x.tsp = BitVec.ofNat 64 (g.privBytes / 64 * 64) ∧ x.eject = BitVec.ofNat 4 g.e ∧ x.handler = false)
    ∧ ∀ (k : Nat) (g : Grid), s.grid? k = some g →
      (s.gridDone k = false → exec (.gridComplete k) s = .next s)
      ∧ (s.gridDone k = true → ∃ s', exec (.gridComplete k) s = .next s' ∧ s'.grid? k = none
          ∧ (g.pkt.sigv = true → s'.eventSet g.ctx g.pkt.sigev.toNat = true)
          ∧ ∀ x pa leaf, g.pend = [] → g.sysops = [] → g.rlRes = [] → g.commitFault = false → g.pkt.sigv = false → s.twins = [] → s.peersIn = [] →
            s.context? g.ctx = some x → s.badMem = [] → s.badL3 = [] → s.writesWhole →
            let die := (s.lowestLiveIn x.dieset).getD 0
            let a := g.pkt.cpladdr
            (a = 0#64 → ∀ b, s'.readByte b = s.readByte b)
            ∧ (a ≠ 0#64 → s.pageReached die g.ctx a = true → s.access die g.ctx a .write = .ok (pa, leaf) → s.linkDown pa = false →
              let bs := leBytes 8 ((maxWord g.closed g.reached).toNat * 2 ^ 32) ++ leBytes 8 s.time.toNat
              ∀ b, s'.readByte b = if pa ≤ b ∧ b < pa + 16 ∧ s.holdsMemory b = true then bs.getD (b - pa) 0#8 else s.readByte b)
            ∧ (a ≠ 0#64 → s.pageReached die g.ctx a = false → die < s.dies.length →
              (s'.die die).posted = (s.die die).posted ++ [.complete g.ctx a (maxWord g.closed g.reached) 0]))

/-- CFG_SET changes the setting that its selector names and answers with the old value; a value outside the setting's limits
is refused with 0x0041; a setting of a context needs a die of it (22 R348, Table 22.8). The order of the checks, the setting's
limits before its context and that before the die, is the model's choice (log 52). -/
def Obligations.Settings : Prop :=
  ∀ (s : State) (i : Instr) (die : Nat) (c : Cmd) (sel : Nat), Accepts s die → cmdCode c = 0x0A → c.w1 = BitVec.ofNat 64 sel →
    let s0 := s.begun die c
    (∀ x : Setting, dieSetting i = some (die, c, sel, x) → cmdReserved c false wholeWord wholeWord 0#64 = false →
      (x.ok c.w2 → EndsWith s i die (x.new s0) 0 [x.old s0])
      ∧ (¬ x.ok c.w2 → EndsWith s i die s0 0x0041 []))
    ∧ ∀ ok old new, ctxSetting i = some (die, c, sel, ok, old, new) → cmdReserved c true wholeWord wholeWord 0#64 = false →
      (¬ ok c.w2 → EndsWith s i die s0 0x0041 [])
      ∧ (ok c.w2 → s.context? (cmdCtx c) = none → EndsWith s i die s0 0x0043 [])
      ∧ ∀ y, ok c.w2 → s.context? (cmdCtx c) = some y →
          (y.dieset.getLsbD die = true → EndsWith s i die (s0.setContext (cmdCtx c) (new y)) 0 [old y])
          ∧ (y.dieset.getLsbD die = false → EndsWith s i die s0 0x0047 [])

/-- The commands that concern a context (22 R346 to R350, 19 R308, R310, R313, R319): it is created from its record and
destroyed with its grids; its queues are set; a halted wave resumes; a range is invalidated; its grids are pre-empted, and
restored from a save area; its counts are written to memory. Beside the spec's words these clauses rest on choices of the model:
that CTX_CREATE of an address which holds no memory answers 0x0041 (log 75); that WAVE_RESUME of a place which holds no halted wave,
or of a faulted context, answers 0x0041 (log 27); that a save area names
its image (log 28); the order in which the statuses are tested (log 52); that CTX_DESTROY drops a save which has not begun (log
53). A command whose operand in memory is not reached waits, with BUSY set (22 R337). -/
def Obligations.ContextCommands : Prop :=
  ∀ (s : State) (die : Nat) (c : Cmd), Accepts s die →
    let s0 := s.begun die c
    let k := cmdCtx c
    let ends := fun (i : Instr) => EndsWith s i die
    (cmdCode c = 0x01 → cmdReserved c false wholeWord 0#64 0#64 = false →
      let i := Instr.ctxCreate die c
      let bs := s.cleanBytes c.w1.toNat 128
      let word := fun n => BitVec.ofNat 64 (leNat ((bs.drop (8 * n)).take 8))
      let s1 := s0.noteOperand die c.w1 128
      let id := bits (word 0).toNat 0 16
      let taken := (s.context? id).isSome = true ∨ (s.pageOwner (bits (word 0).toNat 32 12)).isSome = true
      (c.w1.toNat % 128 ≠ 0 ∨ s.holdsMemory c.w1.toNat = false → ends i s0 0x0041 [])
      ∧ (c.w1.toNat % 128 = 0 → s.holdsMemory c.w1.toNat = true → s.opReached die c.w1 = false →
          exec i s = .next (s0.post die (.command c)))
      ∧ (c.w1.toNat % 128 = 0 → s.holdsMemory c.w1.toNat = true → s.opReached die c.w1 = true →
        let live := ∀ d, d < 16 → (word 0).getLsbD (16 + d) = true → (s.die d).mode = .run
        let ok := recordOk bs = true ∧ bits (word 0).toNat 16 16 ≠ 0
        (¬ ok → ends i s1 0x0041 []) ∧ (ok → taken → ends i s1 0x0044 []) ∧ (ok → ¬ taken → ¬ live → ends i s1 0x0047 [])
        ∧ (ok → ¬ taken → live → ∃ x, ends i
            ({ s1 with events := s.events.filter fun e => e.1 != id, evSpill := s.evSpill.filter fun e => e.1 != id }.setContext id x) 0 []
          ∧ x.dieset = BitVec.ofNat 16 (bits (word 0).toNat 16 16) ∧ x.root = word 1 ∧ x.tba = word 2 ∧ x.fpolicy = word 3
          ∧ x.ctxcfg = word 4 ∧ x.steplimit = word 5 ∧ x.hanglimit = word 6 ∧ x.clbase = word 7 ∧ x.clsize = word 8
          ∧ x.queues = [] ∧ x.windows = [] ∧ x.pins = [] ∧ x.status = .running)))
    ∧ (cmdCode c = 0x0B → cmdReserved c false wholeWord 0xFFFF#64 0#64 = false → c.w1.toNat % 64 = 0 →
        (c.w1.getLsbD 63 = true ∨ s.holdsMemory c.w1.toNat = true ∧ s.holdsMemory (c.w1.toNat + 511) = true) →
        (s.countsReached die c.w1 = false → exec (.countsRead die c) s = .next (s0.post die (.command c)))
        ∧ (s.countsReached die c.w1 = true → s.context? (bits c.w2.toNat 0 16) = none → ends (.countsRead die c) s0 0x0043 [])
        ∧ ∀ x, s.countsReached die c.w1 = true → s.context? (bits c.w2.toNat 0 16) = some x → ∃ l : List Nat, l.length = 64
          ∧ ends (.countsRead die c) ((if c.w1.getLsbD 63 = true then s0 else s0.touchPa c.w1.toNat 512).writeAt c.w1 (l.flatMap (leBytes 8))) 0 []
          ∧ (∀ j, j < 14 → l.getD j 0 = tget 0 (s.die die).corrected j ∧ l.getD (14 + j) 0 = tget 0 (s.die die).uncorrected j)
          ∧ (l.drop 40).take 8 = [(s.die die).refused, (s.die die).dropped, s.evSpills, x.pinRel, x.pinRef, (s.die die).sumDropped,
              s.cplDropped, s.peerRefused])
    ∧ (s.context? k = none → cmdCode c = 0x02 → cmdReserved c true 0#64 0#64 0#64 = false →
        ends (.ctxDestroy die c) s0 0x0043 [])
    ∧ ∀ x, s.context? k = some x → x.dieset.getLsbD die = true →
      (cmdCode c = 0x02 → cmdReserved c true 0#64 0#64 0#64 = false →
        let busy := (x.saving.any fun v => v.begun) || s.saves.any fun i => i.2.ctx == k && i.2.started
        (busy = true → ends (.ctxDestroy die c) s0 0x0046 [])
        ∧ (busy = false → ∃ s1, ends (.ctxDestroy die c) s1 0 [] ∧ s1.context? k = none ∧ ∀ g y, s1.grid? g = some y → y.ctx ≠ k))
      ∧ (cmdCode c = 0x03 → cmdReserved c true 0xF033F#64 wholeWord 0#64 = false → bits c.w1.toNat 16 4 ≤ 12 →
          c.w2.toNat % 128 = 0 →
          let q := bits c.w1.toNat 0 6
          let u : Queue := { prio := bits c.w1.toNat 8 2, base := c.w2, log2 := bits c.w1.toNat 16 4, widx := 0#32, ridx := 0#32
                             reserved := ((aget? x.queues q).map (·.reserved)).getD 0, enq := [] }
          ends (.queueSet die c) (s0.setContext k { x with
            queues := if bits c.w1.toNat 16 4 = 0 then adel x.queues q else aset x.queues q u }) 0 [])
      ∧ (cmdCode c = 0x07 → cmdReserved c true 0x3FFFF#64 0#64 0#64 = false →
          let near := x.dieset.getLsbD (bits c.w1.toNat 0 4) = true ∧ (s.die (bits c.w1.toNat 0 4)).mode = .run
          (¬ near → ends (.waveResume die c) s0 0x0047 [])
          ∧ (near → x.status ≠ .running ∨ s.haltedAt k c.w1 = none → ends (.waveResume die c) s0 0x0041 [])
          ∧ ∀ t w, near → x.status = .running → s.haltedAt k c.w1 = some t → s.thread? t = some w →
            ends (.waveResume die c) (s0.setThread t { w with halted := false }) 0 [])
      ∧ (cmdCode c = 0x06 → cmdReserved c true wholeWord wholeWord 0#64 = false → c.w1.toNat % 65536 = 0 →
          c.w2.toNat % 65536 = 0 → ∃ s', exec (.invalidate die c) s = .next s' ∧ s' = { s0 with dies := s'.dies, tlbs := s'.tlbs }
            ∧ (s'.die die).busy = true ∧ (s'.die die).inval = some ⟨k, c.w1, c.w2, s.uid⟩
            ∧ let hit := fun (e : TlbEntry) => e.ctx = k ∧ c.w1.toNat < e.vbase + 2 ^ levelBits e.level ∧ e.vbase < c.w1.toNat + c.w2.toNat
              (∀ d e, e ∈ (s'.die d).tlb → e ∈ (s.die d).tlb ∧ ¬ hit e)
              ∧ ∀ n l', aget? s'.tlbs n = some l' → ∃ l, aget? s.tlbs n = some l ∧ ∀ e ∈ l', e ∈ l ∧ ¬ hit e)
      ∧ (cmdCode c = 0x04 → cmdReserved c true 0xFFFF#64 wholeWord wholeWord = false → c.w2.toNat % 4096 = 0 →
          let m : BitVec 16 := c.w1.extractLsb' 0 16
          let gs := (s.grids.filter fun g => g.2.ctx == k && g.2.started
            && s.groups.any fun p => p.2.grid == g.1 && m.getLsbD p.2.die).map (·.1)
          let i := Instr.preempt die c
          (s.saveBusy k x = true → ends i s0 0x0046 [])
          ∧ (s.saveBusy k x = false → (s.allLive m = false ∨ m &&& ~~~x.dieset ≠ 0#16) → ends i s0 0x0047 [])
          ∧ (s.saveBusy k x = false → s.allLive m = true → m &&& ~~~x.dieset = 0#16 →
            (c.w3.toNat < s.saveBound gs → ends i s0 0x0041 [BitVec.ofNat 64 (s.saveBound gs)])
            ∧ (s.saveBound gs ≤ c.w3.toNat → s.taken = none → ∃ s1 y, ends i s1 0 [] ∧ s1.context? k = some y
              ∧ y.saving = some ⟨c.w2, c.w3.toNat, m, gs, false, s.time⟩
              ∧ ∀ g z, g ∈ gs → s.grid? g = some z → s1.grid? g = some (if z.desc.stepping = true
                  then { z with stopAt := some z.reached } else { z with stopLive := true }))))
      ∧ (cmdCode c = 0x05 → cmdReserved c true wholeWord 0#64 0#64 = false →
          let i := Instr.restore die c
          (s.saveBusy k x = true → ends i s0 0x0046 [])
          ∧ (s.saveBusy k x = false →
            (∀ y, aget? s.saves c.w1.toNat = some y → y.ctx = k → ends i
              ({ s0 with saves := aset s.saves c.w1.toNat { y with queued := true } }.setContext k { x with restoring := true }) 0 [])
            ∧ ((∀ y, aget? s.saves c.w1.toNat = some y → y.ctx ≠ k) → ends i s0 0x0041 [])))

/-- The commands that concern the module (22 R336, R337, R345, R349, R350, R341, 25 R364, R365): a code that the table lacks is
refused with 0x0040; circuits, P-states, power budgets and idle states are set; a die is reset, and the contexts with work on
it are lost; the notification ring, the inbox, the module's number and its flash are written. CMDSTS and CMDRES then hold the
answer, and BUSY is clear. An entry that is to go DOWN drains first, one in SETUP too (22 R337); that an entry which drains starts
again at SETUP where it is brought up is the model's choice (log 61), and so are the order among the statuses that are tested (log
52) and that the notification ring's LOST takes the records that found no ring before it was set (log 95). A FLASH_WRITE whose source
is not reached waits (22 R337). -/
def Obligations.ModuleCommands : Prop :=
  ∀ (s : State) (die : Nat) (c : Cmd), Accepts s die →
    let s0 := s.begun die c
    let f := die / 4
    let ends := fun (i : Instr) => EndsWith s i die
    let w := c.w1.toNat
    (∀ (s1 : State) st res, die < s1.dies.length → (s1.finish die st res).cur = s1.cur
      ∧ ((s1.finish die st res).die die).busy = false ∧ ((s1.finish die st res).die die).cmdsts = BitVec.ofNat 16 st
      ∧ ∀ j, j < res.length → ((s1.finish die st res).die die).cmdres.getD j 0#64 = res.getD j 0#64)
    ∧ (cmdCode c = 0 ∨ 0x11 < cmdCode c → ends (.unknownCommandCode die c) s0 0x0040 [])
    ∧ (cmdCode c = 0x08 → cmdReserved c false 0x3FF#64 0#64 0#64 = false →
        let p := bits w 0 2
        let x := (s.flue f).entry p
        let sets := fun (i : Instr) (y : Conn) =>
          ends i (s0.modFlue f fun z => { z with conn := aset z.conn p y }) 0
            [BitVec.ofNat 64 ((match y.state with | .down => 0 | .setup => 1 | .up => 2 | .drain => 3) * 2 ^ 62 + p * 2 ^ 60 + y.wl * 2 ^ 54)]
        let sane := p ≠ f ∧ 1 ≤ bits w 4 6 ∧ bits w 4 6 ≤ 32
        (∀ i, (bits w 2 2 = 0 ∧ i = Instr.connDown die c) ∨ (bits w 2 2 = 1 ∧ i = .connUp die c) ∨ (bits w 2 2 = 2 ∧ i = .connSetWl die c) →
          (¬ sane → ends i s0 0x0041 []) ∧ (sane → s.minimal = true → ends i s0 0x0045 []))
        ∧ (bits w 2 2 = 0 → sane → s.minimal = false → sets (.connDown die c)
            ⟨match x.state with | .down => .down | .setup => .drain | .up => .drain | .drain => .drain, x.wl⟩)
        ∧ (bits w 2 2 = 1 → sane → s.minimal = false → sets (.connUp die c)
            ⟨match x.state with | .down => .setup | .setup => .setup | .up => .up | .drain => .setup, x.wl⟩)
        ∧ (bits w 2 2 = 2 → sane → s.minimal = false → sets (.connSetWl die c) ⟨x.state, bits w 4 6⟩))
    ∧ (cmdCode c = 0x09 → cmdReserved c false 0x7FF07#64 0#64 0#64 = false → (s.die die).mode ≠ .tripped →
        (∀ p, p < 4 → w = 4 + p → s.minimal = false → ends (.powerPstate die c)
          (s0.modDie die fun d => { d with pstateNext := some (BitVec.ofNat 2 p) }) 0 [])
        ∧ (∀ b, 1 ≤ b → b ≤ 64 → w = 2 ^ 15 + 256 * b → ends (.powerBudget die c) (s0.modDie die fun d => { d with budget := b }) 0 [])
        ∧ (∀ m, m < 3 → w = 2 ^ 18 + 2 ^ 16 * m →
          (m ≠ 0 → s.holdsWork die (fun _ => true) = true → ends (.powerIdle die c) s0 0x0030 [])
          ∧ (m = 0 ∨ s.holdsWork die (fun _ => true) = false → ends (.powerIdle die c)
              (s0.modDie die fun d => { d with mode := if m = 0 then .run else if m = 1 then .gated else .off }) 0 [])))
    ∧ (cmdCode c = 0x0C → cmdReserved c false 0#64 0#64 0#64 = false → ∃ s1, ends (.dieReset die c) s1 0 []
        ∧ (s1.die die).afterReset
        ∧ (s.ownImages → ∀ k x, s.context? k = some x → x.status ≠ .lost → s.holdsWork die (fun y => y == k) = true → s1.lostNow k))
    ∧ (cmdCode c = 0x0E → cmdReserved c false wholeWord wholeWord 0#64 = false →
        let ok := c.w1.toNat % 4096 = 0 ∧ ∃ n, 13 ≤ n ∧ n ≤ 20 ∧ c.w2.toNat = 2 ^ n
        let s1 := s0.modDie die fun d => { d with nring := ⟨c.w1, c.w2⟩, nlost := 0 }
        let n := (s.die die).nlost
        (ok → n = 0 → ends (.notifySet die c) s1 0 [])
        ∧ (ok → n ≠ 0 → s1.ringOpen die .notify = true →
            ends (.notifySet die c) (s1.writeAt (c.w1 + 16#64) (leBytes 8 (s1.ringWord ⟨c.w1, c.w2⟩ 2 + n))) 0 [])
        ∧ (ok → n ≠ 0 → s1.ringOpen die .notify = false → ends (.notifySet die c) (s1.post die (.lost .notify n)) 0 [])
        ∧ (¬ ok → ends (.notifySet die c) s0 0x0041 []))
    ∧ (cmdCode c = 0x0F → cmdReserved c false 0xFF#64 0x8000FFFFFFFFFFFF#64 wholeWord = false → bits c.w2.toNat 0 32 ≤ 1048576 →
        c.w3.toNat % 65536 = 0 →
        let box := if c.w2.getLsbD 63 = true then aset s.inbox (bits w 0 8) ⟨c.w3, bits c.w2.toNat 32 16, bits c.w2.toNat 0 32⟩
          else adel s.inbox (bits w 0 8)
        ends (.inboxSet die c) { s0 with inbox := box } 0 [])
    ∧ (cmdCode c = 0x10 → cmdReserved c false 0x7F#64 0#64 0#64 = false → die = 0 →
        ends (.peerId die c) { s0 with moduleId := some (BitVec.ofNat 7 w) } 0 [])
    ∧ (cmdCode c = 0x11 → cmdReserved c false wholeWord wholeWord wholeWord = false →
        (c.w2.toNat % 4096 ≠ 0 ∨ c.w3.toNat % 4096 ≠ 0 → ends (.flashWrite die c) s0 0x0041 [])
        ∧ (c.w2.toNat % 4096 = 0 → c.w3.toNat % 4096 = 0 → s.flashReached die c.w1 c.w3.toNat = false →
            exec (.flashWrite die c) s = .next (s0.post die (.command c)))
        ∧ (c.w2.toNat % 4096 = 0 → c.w3.toNat % 4096 = 0 → s.flashReached die c.w1 c.w3.toNat = true → ∃ fl,
          ends (.flashWrite die c) { s0.noteOperand die c.w1 c.w3.toNat with flash := fl } 0 []
          ∧ ∀ a, tget 0#8 fl a = if c.w2.toNat ≤ a ∧ a < c.w2.toNat + c.w3.toNat
              then (s.readAt c.w1 c.w3.toNat).getD (a - c.w2.toNat) 0#8 else tget 0#8 s.flash a))

/-- What the host and the power supply do beside commands (22 R333, R334, R343, R350, 25 R361 to R363, R367): a write of CMDDB
while BUSY, or of a register that is not there, is dropped and counted; a write of CMDBUF stands there; a host write of memory
is committed; the states of a function follow its requests; a function's reset clears its die, and a reset of the module
leaves it at stage 1 of a start with its flash, its count of attempts and BOOTCAUSE; a start passes its stages or fails at one of
them. On die 0 CMDBUF takes a write too while a start has not completed, for the commands that die 0 answers then (22 R343, R345).
Choices of the model: that a MODULE_RESET on another die than 0 is refused with 0x0041 (log 27), and that a write at an offset which
is no multiple of 8 is dropped (log 85). -/
def Obligations.HostEvents : Prop :=
  ∀ (s : State) (die : Nat), die < s.dies.length →
    let drops := fun (i : Instr) => exec i s = .next (s.modDie die fun d => { d with dropped := d.dropped + 1 })
    let resets := fun (i : Instr) => ∃ s', exec i s = .next s' ∧ s'.bootStage = 1 ∧ s'.mem = [] ∧ s'.contexts = [] ∧ s'.grids = []
      ∧ s'.groups = [] ∧ s'.threads = [] ∧ s'.saves = [] ∧ s'.events = [] ∧ s'.dies = List.replicate 16 Die.reset ∧ s'.caches = ⟨[], [], [], []⟩
      ∧ s'.moduleId = none ∧ s'.flash = s.flash ∧ s'.hostMem = s.hostMem ∧ s'.bootAttempts = s.bootAttempts
      ∧ s'.bootcause = s.bootcause
    ((s.die die).busy = true → drops (.cmddbWriteWhileBusy die))
    ∧ ((s.die die).busy = false → exec (.cmddbWriteWhileBusy die) s = .next s)
    ∧ (∀ (off : Nat) (v : DWord), off < 0x1000000 → off ≠ 0x1040 →
        let open' := s.answers die = true ∧ (s.die die).tdisp = .run
        let cmd := open' ∨ (die = 0 ∧ s.answers die = false)
        (off % 8 ≠ 0 ∨ ¬ cmd ∨ (¬ open' ∧ (off < 0x1000 ∨ 0x1040 ≤ off)) → drops (.bar0WriteOther die off v))
        ∧ (∀ k, k < 8 → off = 0x1000 + 8 * k → cmd → ∃ c, exec (.bar0WriteOther die off v) s = .next (s.modDie die fun d => { d with cmdbuf := c })
          ∧ ∀ j, j < 8 → [c.w0, c.w1, c.w2, c.w3, c.w4, c.w5, c.w6, c.w7].getD j 0#64 = if j = k then v else
              let b := (s.die die).cmdbuf
              [b.w0, b.w1, b.w2, b.w3, b.w4, b.w5, b.w6, b.w7].getD j 0#64)
        ∧ (∀ k, k < 8 → off = 0x2000 + 8 * k → open' → (s.die die).msixPend = 0#4 → exec (.bar0WriteOther die off v) s =
            .next (s.modDie die fun d => { d with msix := d.msix.set k v }))
        ∧ (off < 0x1000 ∨ 0x1040 < off ∧ off < 0x2000 ∨ 0x2040 ≤ off → drops (.bar0WriteOther die off v)))
    ∧ (∀ (a : Nat) (bs : List Byte),
        (s.accepts die = false → ∀ b, drops (.hostMemoryRequest die b a bs))
        ∧ (s.accepts die = true → s.reaches die a = false → ∀ b, exec (.hostMemoryRequest die b a bs) s = .next s)
        ∧ (s.accepts die = true → s.reaches die a = true → (let n := max 1 bs.length
            exec (.hostMemoryRequest die false a bs) s = .next ((s.noteLostAt die 0 0#32 0 (BitVec.ofNat 64 a) a n).touchPa a n))
          ∧ (s.linkDown a = true → exec (.hostMemoryRequest die true a bs) s =
              .next ((s.touchPa a bs.length).uncorrected die 3 (BitVec.ofNat 64 a) 0#32 0 1 0))
          ∧ (s.linkDown a = false → s.badMem = [] → s.badL3 = [] →
            ∃ m, exec (.hostMemoryRequest die true a bs) s = .next ({ s.touchPa a bs.length with mem := m }.noticeLines (linesIn a bs.length))
            ∧ ∀ k, tget 0#8 m k = if a ≤ k ∧ k < a + bs.length ∧ s.holdsMemory k = true then bs.getD (k - a) 0#8 else s.readByte k)))
    ∧ (s.answers die = true →
        (∀ st, exec (.tdispStateChange die st) s = .next (s.modDie die fun d => { d with tdisp := st }))
        ∧ exec (.ideStreamKeyed die) s = .next (s.modDie die fun d => { d with keyed := true })
        ∧ ∃ s', exec (.functionLevelReset die) s = .next s' ∧ (s'.die die).afterReset
          ∧ (s'.die die).busy = (s.die die).busy ∧ (s'.die die).inval = (s.die die).inval)
    ∧ (∀ c, cmdCode c = 0x0D → cmdReserved c false 0#64 0#64 0#64 = false →
        (die = 0 → (s.answers 0 = false ∨ (s.die 0).busy = false ∧ (s.die 0).tdisp = .run) → resets (.moduleReset die c))
        ∧ (die ≠ 0 → Accepts s die → EndsWith s (.moduleReset die c) die (s.begun die c) 0x0041 []))
    ∧ resets .powerOn
    ∧ (s.bootStage = 1 → s.bootStopped = false →
        let fails := fun (i : Instr) (lo hi : Nat) => ∃ s' n, exec i s = .next s' ∧ lo ≤ n ∧ n ≤ hi
          ∧ s'.bootcause.toNat = (if s.minimal = true then 2 ^ 11 else 0) + 2 ^ 9 * min s.bootAttempts 3 + n
          ∧ s'.bootAttempts = s.bootAttempts + 1
          ∧ (s.minimal = true → s'.bootStopped = true)
          ∧ (s.minimal = false → s'.bootStage = 1 ∧ s'.minimal = decide (2 ≤ s.bootAttempts) ∧ s'.contexts = [])
        fails .powerGoodTimeout 1 1
        ∧ (fails .powerGood 2 6 ∨ ∃ s', exec .powerGood s = .next s' ∧ s'.bootStage = 7 ∧ s'.bootAttempts = 0
            ∧ ∀ d, d < 16 → d = 0 ∨ s.minimal = false → (s'.die d).mode = .run ∧ (s'.die d).tdisp = .configUnlocked))

/-- A save begins once the grids of its pre-emption have stopped, and ends once the engines have drained: the image stands
under its area, and the grids, groups and threads have left the machine. PRETMO stops the threads of non-stepping grids;
CPYTMO and SAVETMO lose the context; a restore puts the image in its places, and its threads resume as it is done (19 R310 to
R314). The commands and circuits that run on end too (19 R319, 22 R337, 25 R365). Choices of the model: that a save area names its
image, whatever its bytes (log 28), and that the first time-out to expire acts and the hang watchdog's count starts again after a
restore (log 60). A thread of a faulted context stays stopped (19 R307). A save and a restore wait until the memory of the area is
reached (22 R337). -/
def Obligations.Saves : Prop :=
  (∀ (s : State) (c : Nat) (x : Context) (v : Saving), s.context? c = some x → x.saving = some v →
    let gs := v.grids.filter fun g => (s.grid? g).isSome
    let ready := gs.all s.gridStopped = true ∧ s.saveElsewhere c gs = false
    let late := fun (us : Nat) => us ≠ 0 ∧ us * 1000 ≤ s.time.toNat - v.since.toNat
    (v.begun = false → ready → exec (.saveBegin c) s =
      .next (s.setContext c { x with saving := some { v with grids := gs, begun := true, since := s.time } }))
    ∧ (v.begun = true ∨ ¬ ready → exec (.saveBegin c) s = .next s)
    ∧ (v.begun = true → s.enginesBusy v.grids = true ∨ s.areaReached v.dies v.area (s.imageBytes v.grids) = false →
        exec (.saveDone c) s = .next s)
    ∧ (v.begun = true → s.enginesBusy v.grids = false → s.areaReached v.dies v.area (s.imageBytes v.grids) = true → ∃ s' i y, exec (.saveDone c) s = .next s'
        ∧ aget? s'.saves v.area.toNat = some i ∧ i.ctx = c ∧ i.queued = false ∧ i.started = false
        ∧ i.grids = s.grids.filter (fun g => v.grids.contains g.1)
        ∧ i.groups = s.groups.filter (fun p => v.grids.contains p.2.grid)
        ∧ i.threads = s.threads.filter (fun t => v.grids.contains t.2.grid)
        ∧ (∀ t w, s'.thread? t = some w → w.grid ∉ v.grids) ∧ (∀ g, g ∈ v.grids → s'.grid? g = none)
        ∧ (∀ p q, s'.group? p = some q → q.grid ∉ v.grids)
        ∧ s'.context? c = some y ∧ y.saving = none ∧ y.status = x.status)
    ∧ (v.begun = false → late (s.lowestOf v.dies (·.pretmo)) → ∃ s', exec (.pretmoExpiry c) s = .next s'
        ∧ ∀ g z, g ∈ v.grids → s.grid? g = some z → s'.grid? g = some (if z.desc.stepping = true then z else { z with stopNow := true }))
    ∧ (v.begun = true → s.copiesOf v.grids = true → late (s.lowestOf v.dies (·.cpytmo)) → ∃ s', exec (.cpytmoExpiry c) s = .next s' ∧ s'.lostNow c)
    ∧ (v.begun = true → late (s.lowestOf v.dies (·.savetmo)) → ∃ s', exec (.savetmoExpiry c) s = .next s' ∧ s'.lostNow c)
    ∧ (v.begun = false → exec (.cpytmoExpiry c) s = .next s ∧ exec (.savetmoExpiry c) s = .next s))
  ∧ (∀ (s : State) (base : Nat) (i : SaveImage), aget? s.saves base = some i →
    (i.queued = true → i.started = false → s.imageFits i = true → s.areaReached i.dies (BitVec.ofNat 64 base) i.bytes = true → ∃ s', exec (.restoreStart base) s = .next s'
      ∧ aget? s'.saves base = some { i with queued := false, started := true }
      ∧ (∀ g z, i.grids = [(g, z)] → s'.grid? g = some z) ∧ (∀ p q, i.groups = [(p, q)] → s'.group? p = some q)
      ∧ ∀ t w, i.threads = [(t, w)] → s'.thread? t = some { w with stopped := true })
    ∧ (i.queued = true → i.started = false → s.imageFits i = false ∨ s.areaReached i.dies (BitVec.ofNat 64 base) i.bytes = false → exec (.restoreStart base) s = .next s)
    ∧ (i.started = true → ∃ s', exec (.restoreDone base) s = .next s' ∧ aget? s'.saves base = none
      ∧ (∀ x, s.context? i.ctx = some x → s'.context? i.ctx = some { x with restoring := false, lastRetire := s.time })
      ∧ (∀ g z, i.grids = [(g, z)] → ∀ y, s.grid? g = some y →
          s'.grid? g = some { y with stopAt := none, stopLive := false, stopNow := false }
          ∧ ∀ t w, s.thread? t = some w → w.grid = g → ∃ w', s'.thread? t = some w' ∧ (w'.stopped = true ↔ s.faultedNow i.ctx) ∧ w'.stack = w.stack
            ∧ (∀ r, w'.sreg r = w.sreg r) ∧ ∀ r l, w.whole = true ∨ LiveSet.has w.live r = true → l < 128 → w'.vreg r l = w.vreg r l)))
  ∧ ∀ s : State,
    (∀ die v, (s.die die).inval = some v →
      (s.invalBusy v = true → exec (.invalidateComplete die) s = .next s)
      ∧ (s.invalBusy v = false → EndsWith s (.invalidateComplete die) die (s.modDie die fun d => { d with inval := none }) 0 []))
    ∧ (∀ f p, let x := (s.flue f).entry p
        let sets := fun (i : Instr) (st : ConnState) =>
          exec i s = .next (s.modFlue f fun y => { y with conn := aset y.conn p ⟨st, x.wl⟩ })
        (x.state = .drain → s.inFlight f p = false → sets (.circuitDrained f p) .down)
        ∧ (x.state ≠ .drain ∨ s.inFlight f p = true → exec (.circuitDrained f p) s = .next s)
        ∧ (x.state = .setup → sets (.circuitUp f p) .up)
        ∧ (x.state ≠ .setup → exec (.circuitUp f p) s = .next s))
    ∧ ∀ die p, (s.die die).pstateNext = some p → exec (.pstateChangeDone die) s =
        .next (s.modDie die fun d => { d with pstate := p, pstateNext := none })

/-- The units that act on their own: peer lines arrive or are refused, and those of a context whose transfers have arrived whole are
applied, in order; a load from an expander that does not answer in CXLTMO delivers zero; links come and go; a walk fills the TLB; pins fade each
millisecond; a bank that refreshes answers RETRY with a hint, and serves what waits in order, while its
flue die runs; and a die that trips loses its contexts (22 R335, R338 to R342, 19 R315 to R318, 24 R357 to R359, 25 R366). -/
def Obligations.Units : Prop :=
  ∀ s : State,
    (∀ (f : Nat) (o : BitVec 44) (bs : List Byte) (tr : Nat) (last : Bool),
      let i := Instr.peerLineArrives f o ⟨bs, tr, last⟩
      let mine := fun (l : PeerLine) => l.transfer == tr && !l.whole
      let shut := fun (ls : List PeerLine) => if last = true
        then ls.filter (fun l => !mine l) ++ (ls.filter mine).map fun l => { l with whole := true } else ls
      ((s.flue f).peerUp = false ∨ s.flueRuns f = false ∨ bs.length ≠ 128 → exec i s = .next s)
      ∧ ((s.flue f).peerUp = true → s.flueRuns f = true → bs.length = 128 →
        (∀ c va pa leaf, s.inboxPlace o.toNat = some (c, va, pa, leaf) →
          (s.circuitUp f (homeFlue pa) = false → exec i s = .next s)
          ∧ (s.circuitUp f (homeFlue pa) = true → exec i s = .next { s with
            peersIn := shut (s.peersIn ++ [⟨c, va.toNat, pa, leaf.getLsbD 61, bs, tr, false⟩]) }))
        ∧ (s.inboxPlace o.toNat = none → ∃ s', exec i s = .next s' ∧ s'.peerRefused = s.peerRefused + 1
          ∧ s'.peersIn = shut s.peersIn)))
    ∧ (∀ c, ((∀ l ∈ s.peersIn, l.ctx = c → l.whole = false) → s.applyPeers c = s)
      ∧ let ls := s.peersIn.filter fun l => decide (l.ctx = c ∧ l.whole = true)
        (s.applyPeers c).peersIn = s.peersIn.filter (fun l => decide (¬ (l.ctx = c ∧ l.whole = true)))
        ∧ (s.badMem = [] → s.badL3 = [] → (∀ l ∈ ls, l.data.length = 128 ∧ s.linkDown l.pa = false) → ∀ a,
          (s.applyPeers c).readByte a = ls.foldl (fun b l => if l.pa ≤ a ∧ a < l.pa + 128 ∧ s.holdsMemory a = true
            then l.data.getD (a - l.pa) 0#8 else b) (s.readByte a)))
    ∧ (∀ (t : Nat) (w : Thread) (o : Op), s.thread? t = some w → (w.ops.find? fun x => x.uid == o.uid) = some o →
        let late := s.cxlLate w.die o.since o.far
        (late = [] → exec (.cxlTimeout t o.uid) s = .next s)
        ∧ (late ≠ [] → w.badV = [] → w.badS = [] → ∃ s' y, exec (.cxlTimeout t o.uid) s = .next s'
          ∧ s'.thread? t = some y
          ∧ ((∀ x ∈ late, x.strict = false) → y.owed = w.owed)
          ∧ (∀ x, late = [x] → x.strict = true → y.owed = w.owed ++ [⟨⟨.memerr, x.addr, maskOf [x.lane]⟩, .flag o.flag⟩])
          ∧ (∀ d v, o.kind = .loadS d v → y.ops = (w.ops.filter fun x => decide (x.uid ≠ o.uid))
              ∧ ∀ r, y.sreg r = if r = d then 0#64 else w.sreg r)
          ∧ (∀ k v, o.kind = .load [(k, v)] → y.ops = (w.ops.filter fun x => decide (x.uid ≠ o.uid))
              ∧ ∀ r l, l < 128 → y.vreg r l = if vix r l = k
                then (if late.any fun f => f.lane == k % 128 then 0#32 else v) else w.vreg r l)))
    ∧ (∀ p, p < s.ports.length → ∃ l u, exec (.cxlLinkDown p) s = .next { s with ports := l } ∧ exec (.cxlLinkUp p) s = .next { s with ports := u }
        ∧ ∀ k, ((l.getD k ⟨false, 0⟩).up = if k = p then false else (s.ports.getD k ⟨false, 0⟩).up)
          ∧ ((u.getD k ⟨false, 0⟩).up = if k = p then true else (s.ports.getD k ⟨false, 0⟩).up)
          ∧ (l.getD k ⟨false, 0⟩).cap = (s.ports.getD k ⟨false, 0⟩).cap
          ∧ (k ≠ p → (u.getD k ⟨false, 0⟩).cap = (s.ports.getD k ⟨false, 0⟩).cap))
    ∧ (∀ f, exec (.peerLinkPortDown f) s = .next (s.modFlue f fun y => { y with peerUp := false })
        ∧ exec (.peerLinkPortUp f) s = .next (s.modFlue f fun y => { y with peerUp := true }))
    ∧ (∀ die c (va : DWord) x leaf lv pa, s.context? c = some x → va.toNat < 2 ^ 52 → die < s.dies.length → die < 16 →
        (s.die die).tlb.length < 12288 → ((s.die die).tlb.any fun e => e.covers c va.toNat) = false →
        s.walk va.toNat x.root.toNat 0 4 = (.ok pa leaf, lv, leaf) → ∃ s' e, exec (.pageWalk die c va) s = .next s'
          ∧ (s'.die die).tlb = (s.die die).tlb ++ [e] ∧ e.covers c va.toNat = true ∧ e.leaf = leaf ∧ e.level = lv
          ∧ s'.mem = s.mem ∧ s'.translate die c va = s.translate die c va)
    ∧ (∀ c n x p, s.context? c = some x → aget? x.pins n = some p → ∃ y, exec (.pinFadePeriod c n) s = .next
        (if (aget? y.pins n).isNone = true then (s.setContext c y).unpinPages (fun a k => a == c && k == n) else s.setContext c y)
        ∧ (s.time.toNat - p.since.toNat < 1000000 → y = x)
        ∧ (1000000 ≤ s.time.toNat - p.since.toNat →
          let p' := { p with since := p.since + 1000000#64 }
          (p.touched = true → y = { x with pins := aset x.pins n { p' with count := p.fade, touched := false } })
          ∧ (p.touched = false → 1 < p.count → y = { x with pins := aset x.pins n { p' with count := p.count - 1 } })
          ∧ (p.touched = false → p.count ≤ 1 → aget? y.pins n = none ∧ y.pinRel = x.pinRel + 1)))
    ∧ (∀ k b row (write : Bool) (hs : List Nat), k < s.hbm.length →
        let x := s.stack k
        let y := x.bank b
        let after := fun (i : Instr) (f : Stack → Prop) => ∃ z, exec i s = .next { s with hbm := s.hbm.set k z } ∧ f z
        let hinted := fun (a : DWord) => ∃ n, 1 ≤ n ∧ n ≤ 1000 ∧ a = s.time + BitVec.ofNat 64 n
          ∧ ∀ h l, y.hints = h :: l → 1 ≤ h → h ≤ 1000 → n = h
        let served := fun (z : Stack) (r' : Nat) => ∃ r ∈ (z.bank b).bufs, r.row = r' ∧ r.rank = 0
        after (.hbmRefresh k b hs) (fun z => z.bank b = { y with refreshing := true, hints := hs } ∧ z.retries = x.retries)
        ∧ after (.refreshEnd k b) (fun z => z.bank b = { y with refreshing := false, hints := [] } ∧ z.retries = x.retries)
        ∧ (s.flueRuns (k / 4) = false → exec (.hbmAccess k b row write) s = .next s ∧ exec (.retryReissue k b) s = .next s)
        ∧ (s.flueRuns (k / 4) = true → after (.hbmAccess k b row write) (fun z =>
          (y.refreshing = true → z.retries = x.retries + 1
            ∧ ∃ a, hinted a ∧ z.bank b = { y with waiting := y.waiting ++ [⟨row, write, a⟩], hints := y.hints.tail })
          ∧ (y.refreshing = false → y.waiting ≠ [] → z.retries = x.retries
            ∧ z.bank b = { y with waiting := y.waiting ++ [⟨row, write, s.time⟩] })
          ∧ (y.refreshing = false → y.waiting = [] → z.retries = x.retries ∧ served z row))
        ∧ after (.retryReissue k b) (fun z =>
          (y.waiting = [] → z = x)
          ∧ ∀ q l, y.waiting = q :: l →
            (s.time.toNat < q.due.toNat → z = x)
            ∧ (q.due.toNat ≤ s.time.toNat → y.refreshing = true → z.retries = x.retries + 1
              ∧ ∃ a, hinted a ∧ z.bank b = { y with waiting := { q with due := a } :: l, hints := y.hints.tail })
            ∧ (q.due.toNat ≤ s.time.toNat → y.refreshing = false → (z.bank b).waiting = l ∧ served z q.row))))
    ∧ (s.ownImages → ∀ die (hot : Bool), die < s.dies.length →
        let trips := fun (s' : State) (d : Nat) => (s'.die d).mode = .tripped ∧ (s'.die d).tripOver = !hot ∧ (s'.die d).tlb = []
        ((s.die die).mode = .run ∨ (s.die die).mode = .gated → ∃ s', exec (.dieTrip die hot) s = .next s' ∧ trips s' die
          ∧ ∀ k x, s.context? k = some x → x.status ≠ .lost → s.holdsWork die (fun y => y == k) = true → s'.lostNow k)
        ∧ ((s.die die).mode ≠ .run → (s.die die).mode ≠ .gated → exec (.dieTrip die hot) s = .next s))
    ∧ (s.ownImages → ∀ f (hot : Bool), 4 * f + 3 < s.dies.length → f < s.flues.length → (s.flue f).mode = .run →
        ∃ s', exec (.flueDieTrip f hot) s = .next s' ∧ (s'.flue f).mode = .tripped
          ∧ (∀ d, 4 * f ≤ d → d < 4 * f + 4 → (s'.die d).mode = .tripped ∧ (s'.die d).tripOver = !hot ∧ (s'.die d).tlb = [])
          ∧ (∀ d, 4 * f ≤ d → d < 4 * f + 4 → d < s.hbm.length → ∀ b, ((s'.stack d).bank b).bufs = [])
          ∧ ∀ k x, s.context? k = some x → x.status ≠ .lost → s'.lostNow k)

/-- The words that the spec works out bit by bit are the instructions it names: 05 Tables 5.18 to 5.20, 06 Tables 6.11 and
6.12, 07 Tables 7.10 and 7.11, 08 Tables 8.8 and 8.10, 09 Tables 9.12 and 9.13, 14 Table 14.4, 15 Table 15.4, 17 Table 17.4
and 21 Table 21.2; the variants that their text calls RESERVED_ENC are refused. -/
def Obligations.WorkedWords : Prop :=
  let all : Guard := ⟨false, 0#3⟩
  let p1 : Guard := ⟨false, 1#3⟩
  let bad := fun (w : DWord) => decodeWord w = .error .reservedEnc
  Header.ofWord 0xFFA0000980000000#64 = ⟨2, 0, 0#12, true, 3#4, false, 0#4, 0#26⟩
  ∧ decodeWord 0xB1801619A0022080#64 = .ok (.stf .b32 false .lo false all 5#8 (.s 12#6) (.int 32#6) 4#8)
  ∧ decodeWord 0xF097FC0000C0001A#64 = .ok (.brc ⟨false, 2#3⟩ 3#20 6#20 true)
  ∧ decodeWord 0xF0D7FC0000C0001A#64 = .ok (.brc ⟨true, 2#3⟩ 3#20 6#20 true) ∧ bad 0xF090000000C0001A#64
  ∧ decodeWord 0x6188100A06021000#64 = .ok (.vffma .rz p1 4#8 (.v 5#8) (.v 6#8) (.v 4#8))
  ∧ bad 0x6188100A06025000#64 ∧ bad 0x6188100BA0021000#64
  ∧ decodeWord 0x6C802805FFFF8610#64 = .ok (.vcvt .rne .e4m3 .f32 all 10#8 (.v 2#8))
  ∧ decodeWord 0xB107FE15A001A202#64 = .ok (.st .b32 .global .sum true all (.s 10#6) (.int 32#6) 3#8) ∧ bad 0xB107FE15A0019202#64
  ∧ decodeWord 0xD207FE2804AC0000#64 = .ok (.cpout .lo false false 20#6 4#6 0#4)
  ∧ decodeWord 0xD207FE2804AC0020#64 = .ok (.cpout .lo true false 20#6 4#6 0#4) ∧ bad 0xD207FE2804AC0200#64
  ∧ decodeWord 0xB387FFFFFFFF8000#64 = .ok .stepg ∧ decodeWord 0xB307FFFFFFFF8000#64 = .ok .stepw ∧ bad 0xB38FFFFFFFFF8000#64
  ∧ decodeWord 0xF1000C0004C00034#64 = .ok (.jt 3#8 19#20 13#20 false)
  ∧ decodeWord 0xF1000C000BC00062#64 = .ok (.jt 3#8 47#20 24#20 true)
  ∧ decodeWord 0xF38FFFFE00000042#64 = .ok (.trap p1 0x42#16) ∧ bad 0xF38FFFFE00010042#64
  ∧ decodeWord 0xE005200605FF8000#64 = .ok (.mmip false 0#3 (.tile 3#6) (.tile 5#6) none)
  ∧ decodeWord 0xE005200605A90000#64 = .ok (.mmip false 0#3 (.tile 3#6) (.tile 5#6) (some 2#3))
  ∧ decodeWord 0xE10022A3FFFF8000#64 = .ok (.mmrw false 8#6 (.fib 1#3) none)
  ∧ decodeWord 0xE3001A930E87CA80#64 = .ok (.mmdrain .sr true (some 16#6) false 6#6 1#3 (some 14#6) (some 15#6))
  ∧ bad 0xE3001A930E87C880#64
  ∧ decodeWord 0xB1802E0BA002A381#64 = .ok (.stf .b32 false .flt true all 11#8 (.s 5#6) (.int 32#6) 5#8)
  ∧ decodeWord 0x64050C130BFF8030#64 = .ok (.vfcmp .le all 3#3 (.v 9#8) (.s 11#6))
  ∧ bad 0x64050C13A0FF8030#64 ∧ bad 0x64050C130BFF8080#64
  ∧ decodeWord 0x0D848AE3FFFF8000#64 = .ok (.sget all (.s 34#6) .clock)

/-- Every well-formed instruction that the encoder gives a word is what the decoder reads from that word: every operand
at every value that the encoding admits. -/
def Obligations.EncodingsDecode : Prop :=
  ∀ (i : Instr) (w : DWord), i.wf = true → encode i = some w → decodeWord w = .ok i

/-- With no event on the agenda, a step lets time pass and then runs the instruction that the word at the issuing thread's
place in its clause decodes to (05 R61): step is exec of it, with that thread current and, on an ember core, the rotation gone on
(10 R242). The read of the word logs it where it is lost and touches pinned ranges (22 R342, 23 R351). A word that cannot be read,
or that is no instruction of the clause's class there, traps at its own address (05 R61, R64, R65, R87); a word whose circuit is
not UP is waited for (22 R337). An event of the agenda runs alone and ends the stalls; an encoded instruction on the agenda does
nothing (the model's own order of steps, log 1). -/
def Obligations.StepRunsDecoded : Prop :=
  ∀ s : State,
    (s.agenda = [] → ∀ (t : Nat) (w : Thread) (e : Entry) (c : Clause), s.pass.issuer = some (t, w) →
      s.pass.path? w = some e → w.clause = some c → w.badCtl = false →
      let n := s.pass.noteRead w e c.here 8
      let traps := fun (k : Cause) (a : DWord) => step s =
        .next (if s.pass.trapReached w k = true then n.takeTrap t w ⟨k, a, e.mask⟩ c.here c.hdr else s.pass.stallHere t w)
      (s.pass.pageReached w.mmu w.ctx c.here = false → step s = .next (s.pass.stallHere t w))
      ∧ (w.ember = none → n.turnTo t w = { n with cur := some t })
      ∧ (n.turnTo t w).cur = some t
      ∧ (s.pass.pageReached w.mmu w.ctx c.here = true →
        (∀ k, s.pass.codeWord w c.here = .error k → traps k c.here)
        ∧ ∀ x, s.pass.codeWord w c.here = .ok x →
          let o := bits x.toNat 55 9
          (∀ i, decodeWord x = .ok i → opcodeClass o = some c.eng → (endsClause o = true → c.ix = c.cnt) →
            i.wf = true ∧ step s = exec i (n.turnTo t w))
          ∧ (opcodeClass o ≠ some c.eng → traps .illegalOp 0#64)
          ∧ (opcodeClass o = some c.eng → (endsClause o = true ∧ c.ix ≠ c.cnt) ∨ decodeWord x = .error .reservedEnc →
              traps .reservedEnc 0#64)))
    ∧ ∀ i r, s.agenda = i :: r →
      (i.encoded = true → step s = .next { s.pass with agenda := r })
      ∧ (i.encoded = false → ∀ s', exec i { s.pass with agenda := r } = .next s' → step s = .next s'.unstall)

/-- At reset no context, grid, group or wave is held; no start attempt has failed; every die's CLOCK is 0, its rings are
disabled and its settings, like those of the flue dies, are the defaults of 22 Table 22.8; each flue die's circuits have 16
wavelengths; memory is in canonical form. Choices of the model, for which the spec gives no reset value: CONFIG_UNLOCKED as the TDISP
state (log 5), and 16 wavelengths before stage 4 (log 34). -/
def Obligations.ResetState : Prop :=
  let s := State.reset
  (s.contexts = [] ∧ s.grids = [] ∧ s.groups = [] ∧ s.threads = [] ∧ s.events = [] ∧ s.saves = [] ∧ s.caches = ⟨[], [], [], []⟩)
  ∧ (s.bootAttempts = 0 ∧ s.bootcause = 0#32 ∧ s.minimal = false)
  ∧ s.dies.length = 16
  ∧ (∀ d ∈ s.dies, d.clock = 0#64 ∧ d.tlb = [] ∧ d.keyed = false ∧ d.tdisp = .configUnlocked
      ∧ d.dring.base = 0#64 ∧ d.rring.base = 0#64 ∧ d.ering.base = 0#64
      ∧ d.cpytmo = 1000 ∧ d.savetmo = 2000 ∧ d.pretmo = 1000)
  ∧ s.flues.length = 4
  ∧ (∀ f ∈ s.flues, f.cxltmo = 4 ∧ f.peertmo = 10 ∧ f.actmax = 2048 ∧ f.conn.length = 3 ∧ ∀ e ∈ f.conn, e.2.wl = 16)
  ∧ Memory.wf s.mem = true ∧ Memory.wf s.hostMem = true ∧ Memory.wf s.flash = true

/-- Committed memory, host memory and flash keep their canonical form through every step: addresses rise strictly, and no
listed byte is 0, what an unlisted one reads as (log 4), so that equal memories are equal data. -/
def Obligations.MemoryCanonical : Prop :=
  ∀ s s' : State, Memory.wf s.mem = true → Memory.wf s.hostMem = true → Memory.wf s.flash = true → step s = .next s' →
    Memory.wf s'.mem = true ∧ Memory.wf s'.hostMem = true ∧ Memory.wf s'.flash = true
end

