-- ==== Sys2Proof/Laws/Tables.lean ====
section
/-! SUPPORT. Tables and keyed lists: a read after a write, and the canonical form. -/

namespace Sys2Proof.Machine

variable {α : Type}

/-! ## Tables -/

theorem tget_tput_same (d : α) (t : List (Nat × α)) (k : Nat) (v : α) : tget d (tput t k v) k = v := by
  induction t with
  | nil => simp [tput, tget]
  | cons y r ih =>
    obtain ⟨i, x⟩ := y
    by_cases h : k = i
    · simp [tput, tget, h]
    · by_cases h' : k < i
      · simp [tput, tget, h, h']
      · simpa [tput, tget, h, h'] using ih

theorem tget_tput_ne (d : α) (t : List (Nat × α)) {k j : Nat} (v : α) (h : j ≠ k) : tget d (tput t k v) j = tget d t j := by
  induction t with
  | nil => simp [tput, tget, h]
  | cons y r ih =>
    obtain ⟨i, x⟩ := y
    by_cases hk : k = i
    · subst hk; simp [tput, tget, h]
    · by_cases h' : k < i
      · simp [tput, tget, hk, h', h]
      · simp [tput, tget, hk, h', ih]

theorem tget_remove_same (d : α) (t : List (Nat × α)) (k : Nat) : tget d (t.filter fun x => x.1 != k) k = d := by
  induction t with
  | nil => rfl
  | cons y r ih =>
    obtain ⟨i, x⟩ := y
    by_cases h : i = k
    · simpa [h] using ih
    · have h' : ¬ k = i := fun e => h e.symm
      have hb : (i != k) = true := by simpa using h
      rw [List.filter_cons_of_pos (by simpa using hb)]
      simpa [tget, h'] using ih

theorem tget_remove_ne (d : α) (t : List (Nat × α)) {k j : Nat} (h : j ≠ k) :
    tget d (t.filter fun x => x.1 != k) j = tget d t j := by
  induction t with
  | nil => rfl
  | cons y r ih =>
    obtain ⟨i, x⟩ := y
    by_cases hi : i = k
    · subst hi; simpa [tget, h] using ih
    · have hb : (i != k) = true := by simpa using hi
      rw [List.filter_cons_of_pos (by simpa using hb)]
      simp only [tget, ih]

variable [DecidableEq α]

/-- A read after a write to the same place gives the value written. -/
@[simp] theorem tget_tset_same (d : α) (t : List (Nat × α)) (k : Nat) (v : α) : tget d (tset d t k v) k = v := by
  unfold tset
  split
  · next h => rw [h]; exact tget_remove_same d t k
  · exact tget_tput_same d t k v

/-- A write leaves every other place alone. -/
theorem tget_tset_ne (d : α) (t : List (Nat × α)) {k j : Nat} (v : α) (h : j ≠ k) : tget d (tset d t k v) j = tget d t j := by
  unfold tset
  split
  · exact tget_remove_ne d t h
  · exact tget_tput_ne d t v h

theorem tget_tset (d : α) (t : List (Nat × α)) (k j : Nat) (v : α) :
    tget d (tset d t k v) j = if j = k then v else tget d t j := by
  split
  · next h => subst h; exact tget_tset_same d t j v
  · next h => exact tget_tset_ne d t v h

/-! ## The canonical form -/

theorem twfFrom_mono (d : α) (t : List (Nat × α)) {lo lo' : Nat} (h : lo' ≤ lo) (w : twfFrom d lo t = true) :
    twfFrom d lo' t = true := by
  cases t with
  | nil => rfl
  | cons y r =>
    obtain ⟨i, x⟩ := y
    simp only [twfFrom, Bool.and_eq_true, decide_eq_true_eq] at w ⊢
    exact ⟨⟨Nat.le_trans h w.1.1, w.1.2⟩, w.2⟩

theorem twfFrom_filter (d : α) (p : Nat × α → Bool) (t : List (Nat × α)) (lo : Nat) (w : twfFrom d lo t = true) :
    twfFrom d lo (t.filter p) = true := by
  induction t generalizing lo with
  | nil => rfl
  | cons y r ih =>
    obtain ⟨i, x⟩ := y
    simp only [twfFrom, Bool.and_eq_true, decide_eq_true_eq] at w
    by_cases h : p (i, x) = true
    · simp only [List.filter, h, twfFrom, Bool.and_eq_true, decide_eq_true_eq]
      exact ⟨w.1, ih _ w.2⟩
    · simp only [List.filter, h]
      exact twfFrom_mono d _ (Nat.le_trans w.1.1 (Nat.le_succ i)) (ih _ w.2)

theorem twfFrom_tput (d : α) (t : List (Nat × α)) (k : Nat) (v : α) (hv : v ≠ d) (lo : Nat) (hk : lo ≤ k)
    (w : twfFrom d lo t = true) : twfFrom d lo (tput t k v) = true := by
  induction t generalizing lo with
  | nil => simp [tput, twfFrom, hv, hk]
  | cons y r ih =>
    obtain ⟨i, x⟩ := y
    have w' := w
    simp only [twfFrom, Bool.and_eq_true, decide_eq_true_eq] at w
    unfold tput
    split
    · next h => subst h; simp [twfFrom, hk, hv, w.2]
    · next h =>
      split
      · next h' =>
        have hi : k + 1 ≤ i := h'
        simp [twfFrom, hk, hv, hi, w.1.2, w.2]
      · next h' =>
        have hi : i + 1 ≤ k := by omega
        simp [twfFrom, w.1.1, w.1.2, ih _ hi w.2]

/-- A write keeps the canonical form. -/
theorem twf_tset (d : α) (t : List (Nat × α)) (k : Nat) (v : α) (w : twf d t = true) : twf d (tset d t k v) = true := by
  unfold twf tset at *
  split
  · exact twfFrom_filter d _ t 0 w
  · next h => exact twfFrom_tput d t k v h 0 (Nat.zero_le k) w

theorem twf_tsets (d : α) (l t : List (Nat × α)) (w : twf d t = true) : twf d (tsets d t l) = true := by
  induction l generalizing t with
  | nil => exact w
  | cons y r ih => exact ih _ (twf_tset d t y.1 y.2 w)

/-! ## Keyed lists -/

omit [DecidableEq α] in
/-- An entry after it is written. -/
@[simp] theorem aget_aset_same (l : List (Nat × α)) (k : Nat) (v : α) : aget? (aset l k v) k = some v := by
  induction l with
  | nil => simp [aset, aget?]
  | cons y r ih =>
    obtain ⟨i, x⟩ := y
    by_cases h : k = i
    · simp [aset, aget?, h]
    · by_cases h' : k < i
      · simp [aset, aget?, h, h']
      · simpa [aset, aget?, h, h'] using ih

omit [DecidableEq α] in
/-- A write leaves every other entry alone. -/
theorem aget_aset_ne (l : List (Nat × α)) {k j : Nat} (v : α) (h : j ≠ k) : aget? (aset l k v) j = aget? l j := by
  induction l with
  | nil => simp [aset, aget?, h]
  | cons y r ih =>
    obtain ⟨i, x⟩ := y
    by_cases hk : k = i
    · subst hk; simp [aset, aget?, h]
    · by_cases h' : k < i
      · simp [aset, aget?, hk, h', h]
      · simp [aset, aget?, hk, h', ih]

end Sys2Proof.Machine
end

