-- ==== Sys2Proof/Laws/Memory.lean ====
section
/-! SUPPORT. Memory: every operation keeps the canonical form, and a read after a write. -/

namespace Sys2Proof.Machine

theorem memory_wf_tset (m : List Host.Cell) (a : Nat) (b : Byte) (h : Memory.wf m = true) : Memory.wf (tset 0#8 m a b) = true :=
  twf_tset 0#8 m a b h

theorem memory_wf_tsets (m l : List Host.Cell) (h : Memory.wf m = true) : Memory.wf (tsets 0#8 m l) = true :=
  twf_tsets 0#8 l m h

/-- Reset memory, host memory and flash have the canonical form. -/
theorem reset_memory_wf : Memory.wf State.reset.mem = true ∧ Memory.wf State.reset.hostMem = true
    ∧ Memory.wf State.reset.flash = true := ⟨rfl, rfl, rfl⟩

/-! ## One byte -/

theorem writeByte_mem_wf (s : State) (a : Nat) (b : Byte) (h : Memory.wf s.mem = true) :
    Memory.wf (s.writeByte a b).mem = true := by
  unfold State.writeByte
  split
  · exact memory_wf_tset s.mem a b h
  · exact h

theorem writeByte_rest (s : State) (a : Nat) (b : Byte) : ∃ m, s.writeByte a b = { s with mem := m } := by
  unfold State.writeByte
  split
  · exact ⟨_, rfl⟩
  · exact ⟨s.mem, rfl⟩

@[simp] theorem writeByte_holdsMemory (s : State) (a k : Nat) (b : Byte) : (s.writeByte a b).holdsMemory k = s.holdsMemory k := by
  unfold State.writeByte
  split <;> rfl

/-- What a written byte reads as: the byte where memory stands, nothing written where none does (01 R368). -/
theorem read_after_writeByte (s : State) (a k : Nat) (b : Byte) :
    (s.writeByte a b).readByte k = if k = a ∧ s.holdsMemory a = true then b else s.readByte k := by
  unfold State.writeByte State.readByte
  by_cases h : s.holdsMemory a = true
  · simp [h, tget_tset]
  · simp [h]

/-! ## Ranges -/

theorem writeBytes_mem_wf (bs : List Byte) (s : State) (a : Nat) (h : Memory.wf s.mem = true) :
    Memory.wf (s.writeBytes a bs).mem = true := by
  induction bs generalizing s a with
  | nil => exact h
  | cons b r ih => exact ih _ _ (writeByte_mem_wf s a b h)

theorem writeBytes_rest (bs : List Byte) (s : State) (a : Nat) : ∃ m, s.writeBytes a bs = { s with mem := m } := by
  induction bs generalizing s a with
  | nil => exact ⟨s.mem, rfl⟩
  | cons b r ih =>
    obtain ⟨m, hm⟩ := writeByte_rest s a b
    obtain ⟨m', hm'⟩ := ih (s.writeByte a b) (a + 1)
    refine ⟨m', ?_⟩
    rw [State.writeBytes, hm', hm]

@[simp] theorem writeBytes_holdsMemory (bs : List Byte) (s : State) (a k : Nat) :
    (s.writeBytes a bs).holdsMemory k = s.holdsMemory k := by
  induction bs generalizing s a with
  | nil => rfl
  | cons b r ih => rw [State.writeBytes, ih, writeByte_holdsMemory]

/-- What a written range reads as. -/
theorem read_after_writeBytes (bs : List Byte) (s : State) (a k : Nat) :
    (s.writeBytes a bs).readByte k =
      if a ≤ k ∧ k < a + bs.length ∧ s.holdsMemory k = true then bs.getD (k - a) 0#8 else s.readByte k := by
  induction bs generalizing s a with
  | nil =>
    have h : ¬ (a ≤ k ∧ k < a + ([] : List Byte).length ∧ s.holdsMemory k = true) := fun h =>
      absurd (Nat.lt_of_le_of_lt h.1 h.2.1) (Nat.lt_irrefl a)
    rw [if_neg h]
    rfl
  | cons b r ih =>
    rw [State.writeBytes, ih, writeByte_holdsMemory, read_after_writeByte]
    by_cases hm : s.holdsMemory k = true
    · by_cases hk : k = a
      · subst hk; simp [hm]
      · by_cases ha : a + 1 ≤ k ∧ k < a + 1 + r.length
        · have h1 : a ≤ k ∧ k < a + (r.length + 1) := by omega
          have h2 : k - a = (k - (a + 1)) + 1 := by omega
          simp [hm, ha, h1, h2]
        · rw [if_neg (fun h => ha ⟨h.1, h.2.1⟩), if_neg (fun h => hk h.1), if_neg]
          rintro ⟨h1, h2, -⟩
          simp only [List.length_cons] at h2
          omega
    · have h3 : ¬ (k = a ∧ s.holdsMemory a = true) := fun h => hm (h.1 ▸ h.2)
      simp [hm, h3]

theorem writeAt_wf (s : State) (a : DWord) (bs : List Byte) (hm : Memory.wf s.mem = true) (hh : Memory.wf s.hostMem = true) :
    Memory.wf (s.writeAt a bs).mem = true ∧ Memory.wf (s.writeAt a bs).hostMem = true := by
  unfold State.writeAt
  split
  · exact ⟨hm, memory_wf_tsets _ _ hh⟩
  · refine ⟨writeBytes_mem_wf bs s _ hm, ?_⟩
    obtain ⟨m, h⟩ := writeBytes_rest bs s a.toNat
    rw [h]; exact hh

end Sys2Proof.Machine
end

