-- ==== Sys2Proof/Laws/Rings.lean ====
section
/-! SUPPORT. What a write of memory and the records of it can change: one lemma for each operation, which later proofs cite
instead of unfolding it. -/

namespace Sys2Proof.Machine

/-- Nothing changes but memory, host memory, the caches, the dies (their rings, counts and interrupts) and the marks of lost words. -/
def Stored (s s' : State) : Prop :=
  ∃ m h d b l c, s' = { s with mem := m, hostMem := h, dies := d, badMem := b, badL3 := l, caches := c }

theorem Stored.refl (s : State) : Stored s s := ⟨s.mem, s.hostMem, s.dies, s.badMem, s.badL3, s.caches, rfl⟩

theorem Stored.trans {a b c : State} (h : Stored a b) (k : Stored b c) : Stored a c := by
  obtain ⟨m, h', d, x, l, y, rfl⟩ := h
  obtain ⟨m2, h2, d2, x2, l2, y2, rfl⟩ := k
  exact ⟨m2, h2, d2, x2, l2, y2, rfl⟩

theorem stored_foldl {α : Type} (f : State → α → State) (hf : ∀ s a, Stored s (f s a)) (l : List α) (s : State) :
    Stored s (l.foldl f s) := by
  induction l generalizing s with
  | nil => exact .refl s
  | cons a r ih => exact (hf s a).trans (ih _)

theorem stored_writeBytes (s : State) (pa : Nat) (bs : List Byte) : Stored s (s.writeBytes pa bs) := by
  obtain ⟨m, h⟩ := writeBytes_rest bs s pa
  exact ⟨m, s.hostMem, s.dies, s.badMem, s.badL3, s.caches, h⟩

theorem stored_writeByte (s : State) (pa : Nat) (b : Byte) : Stored s (s.writeByte pa b) := by
  obtain ⟨m, h⟩ := writeByte_rest s pa b
  exact ⟨m, s.hostMem, s.dies, s.badMem, s.badL3, s.caches, h⟩

theorem stored_writeAt (s : State) (a : DWord) (bs : List Byte) : Stored s (s.writeAt a bs) := by
  unfold State.writeAt
  split
  · exact ⟨s.mem, _, s.dies, s.badMem, s.badL3, s.caches, rfl⟩
  · exact stored_writeBytes s _ bs

theorem stored_setRingWord (s : State) (r : Ring) (i x : Nat) : Stored s (s.setRingWord r i x) := stored_writeAt s _ _

theorem stored_modDie (s : State) (d : Nat) (f : Die → Die) : Stored s (s.modDie d f) :=
  ⟨s.mem, s.hostMem, _, s.badMem, s.badL3, s.caches, rfl⟩

theorem stored_raise (s : State) (die v : Nat) : Stored s (s.raise die v) := by
  unfold State.raise
  simp only []
  split
  · exact ⟨s.mem, s.hostMem, _, s.badMem, s.badL3, s.caches, rfl⟩
  · exact stored_writeAt s _ _

theorem stored_ringAppend (s : State) (r : Ring) (bs : List Byte) : Stored s (s.ringAppend r bs) :=
  (stored_writeAt s _ bs).trans (stored_setRingWord _ r 0 _)

theorem stored_post (s : State) (die : Nat) (p : Post) : Stored s (s.post die p) := stored_modDie s die _

theorem stored_loseNow (s : State) (die : Nat) (k : RingId) (n : Nat) : Stored s (s.loseNow die k n) := by
  unfold State.loseNow
  simp only []
  split
  · exact stored_setRingWord s _ _ _
  · exact stored_modDie s _ _

theorem stored_ite {s a b : State} {c : Prop} [Decidable c] (h : Stored s a) (k : Stored s b) : Stored s (if c then a else b) := by
  split
  · exact h
  · exact k

theorem stored_noticeNow (s : State) (die ty ctx info : Nat) (w1 w2 : DWord) : Stored s (s.noticeNow die ty ctx info w1 w2) := by
  unfold State.noticeNow
  exact stored_ite (stored_ite (stored_ringAppend s _ _) ((stored_ringAppend s _ _).trans (stored_raise _ die 1)))
    (stored_loseNow s die .notify 1)

theorem stored_notify (s : State) (die ty ctx info : Nat) (w1 w2 : DWord) : Stored s (s.notify die ty ctx info w1 w2) := by
  unfold State.notify
  have put := stored_ite (c := s.ringOpen die .notify = true) (stored_noticeNow s die ty ctx info w1 w2)
    (stored_post s die (.notice ty ctx info w1 w2))
  exact stored_ite (put.trans (stored_raise _ die 3)) (stored_ite (put.trans (stored_raise _ die 2)) put)

theorem stored_ringCheck (s : State) (die : Nat) (k : RingId) (before : Nat) : Stored s (s.ringCheck die k before) := by
  unfold State.ringCheck
  simp only []
  split
  · exact stored_notify s die _ _ _ _ _
  · exact .refl s

theorem stored_putNow (s : State) (die : Nat) (k : RingId) (bs : List Byte) : Stored s (s.putNow die k bs) := by
  unfold State.putNow
  simp only []
  split
  · exact (stored_ringAppend s _ bs).trans (stored_ringCheck _ die k _)
  · exact stored_loseNow s die k 1

theorem stored_ringPut (s : State) (die : Nat) (k : RingId) (bs : List Byte) : Stored s (s.ringPut die k bs) :=
  stored_ite (stored_putNow s die k bs) (stored_post s die _)

theorem stored_uncorrected (s : State) (die src : Nat) (addr : DWord) (step : Word) (key count ctx : Nat) :
    Stored s (s.uncorrected die src addr step key count ctx) :=
  (stored_modDie s die _).trans (stored_ringPut _ die .error _)

theorem stored_freshWords (s : State) (pa n : Nat) : Stored s (s.freshWords pa n) :=
  ⟨s.mem, s.hostMem, s.dies, _, _, s.caches, rfl⟩

theorem stored_commitByte (s : State) (pa : Nat) (b : Byte) : Stored s (s.commitByte pa b) := by
  unfold State.commitByte
  split
  · exact ((stored_ite (stored_writeBytes s _ _) (.refl s)).trans (stored_writeByte _ pa b)).trans (stored_freshWords _ _ _)
  · exact stored_writeByte s pa b

theorem stored_storeMem (s : State) (die : Nat) (step : Word) (key c : Nat) (va : DWord) (pa : Nat) (bs : List Byte) :
    Stored s (s.storeMem die step key c va pa bs) := by
  unfold State.storeMem
  simp only []
  split
  · exact stored_uncorrected s _ _ _ _ _ _ _
  · exact (stored_foldl _ (fun s a => stored_uncorrected s _ _ _ _ _ _ _) _ s).trans
      (stored_foldl _ (fun s x => stored_commitByte s _ _) _ _)

end Sys2Proof.Machine
end

