-- ==== Sys2Proof/Laws/Caches.lean ====
section
/-! SUPPORT. What a use of the caches and a private store can change: one lemma for each operation. -/

namespace Sys2Proof.Machine

theorem stored_caches (s : State) (c : Caches) : Stored s { s with caches := c } :=
  ⟨s.mem, s.hostMem, s.dies, s.badMem, s.badL3, c, rfl⟩

theorem stored_writeBack (s : State) (die : Nat) (bad : List Nat) (d : Dirty) : Stored s (s.writeBack die bad d) := by
  unfold State.writeBack
  simp only []
  refine stored_ite ((stored_writeBytes s _ _).trans (stored_uncorrected _ _ _ _ _ _ _ _)) ?_
  refine .trans ?_ (stored_freshWords _ _ _)
  have zero := stored_foldl _ (fun (s : State) (a : Nat) => stored_writeBytes s a (List.replicate 8 0#8))
    ((wordsIn d.pa 16).filter fun a => bad.contains (a / 8)) s
  exact stored_ite zero (zero.trans (stored_uncorrected _ _ _ _ _ _ _ _))

theorem stored_cleanLine (s : State) (place : Nat) (l : L1Line) (mine : Dirty → Bool) : Stored s (s.cleanLine place l mine).1 :=
  stored_foldl _ (fun s d => stored_writeBack s _ _ d) _ s

theorem stored_putL1 (s : State) (place : Nat) (l : L1Line) : Stored s (s.putL1 place l) :=
  (stored_caches s _).trans (stored_foldl _ (fun s x => stored_cleanLine s place x fun _ => true) _ _)

theorem stored_dropSpoiltL1 (s : State) (die c : Nat) (step : Word) (key : Nat) (u : LineUse) :
    Stored s (s.dropSpoiltL1 die c step key u) :=
  stored_ite ((stored_caches s _).trans (stored_uncorrected _ _ _ _ _ _ _ _)) (.refl s)

theorem stored_dropSpoiltL2 (s : State) (die c : Nat) (step : Word) (key : Nat) (u : LineUse) :
    Stored s (s.dropSpoiltL2 die c step key u) :=
  stored_ite ((stored_caches s _).trans (stored_uncorrected _ _ _ _ _ _ _ _)) (.refl s)

theorem stored_useL3 (s : State) (u : LineUse) : Stored s (s.useL3 u) :=
  stored_ite (stored_caches s _) (stored_ite (stored_caches s _) (.refl s))

theorem stored_useL2 (s : State) (u : LineUse) : Stored s (s.useL2 u) := by
  unfold State.useL2
  split
  · exact stored_caches s _
  · exact stored_ite ((stored_useL3 s u).trans (stored_caches _ _)) (stored_useL3 s u)
  · exact stored_useL3 s u

theorem stored_passL1 (s : State) (u : LineUse) : Stored s (s.passL1 u) :=
  stored_ite (.refl s) (stored_ite (stored_caches s _) (.refl s))

theorem stored_useLine (s : State) (die c : Nat) (step : Word) (key : Nat) (u : LineUse) : Stored s (s.useLine die c step key u) := by
  unfold State.useLine
  have drop := (stored_dropSpoiltL1 s die c step key u).trans (stored_dropSpoiltL2 _ die c step key u)
  generalize State.dropSpoiltL2 _ die c step key u = a at drop ⊢
  refine drop.trans ?_
  simp only []
  split
  · exact stored_caches a _
  · have use := stored_useL2 a u
    split
    · exact stored_ite (use.trans (stored_putL1 _ _ _)) use
    · exact use.trans (stored_passL1 _ u)

theorem stored_dirtyLine (s : State) (w : Thread) (step : Word) (key : Nat) (u : LineUse) (l : L1Line) (bs : List Byte) :
    Stored s (s.dirtyLine w step key u l bs) :=
  ((stored_caches s _).trans (stored_foldl _ (fun s a => stored_writeBytes s a _) _ _)).trans (stored_writeBytes _ _ _)

theorem stored_storeGranule (s : State) (w : Thread) (step : Word) (key : Nat) (va : DWord) (pa : Nat) (leaf : DWord)
    (bs : List Byte) : Stored s (s.storeGranule w step key va pa leaf bs) := by
  unfold State.storeGranule
  simp only []
  have use := stored_useLine s w.die w.ctx step key (privUse w true va pa leaf bs.length)
  generalize State.useLine s _ _ _ _ _ = a at use ⊢
  refine use.trans ?_
  split
  · exact stored_dirtyLine a _ _ _ _ _ _
  · exact stored_storeMem a _ _ _ _ _ _ _

theorem stored_storePrivate (s : State) (w : Thread) (step : Word) (key : Nat) (va : DWord) (pa : Nat) (bs : List Byte) :
    Stored s (s.storePrivate w step key va pa bs) :=
  stored_foldl _ (fun s _ => stored_storeGranule s w step key _ _ _ _) _ s

/-- What an access finds where nothing that it reads is lost. -/
theorem serve_clean (s : State) (u : LineUse) (bs : List Byte) (h : s.serve u = (bs, none)) :
    (∃ l, s.l1Hit u = some l ∧ l.priv = false ∧ bs = (l.bytes.drop (u.pa % 128)).take u.n)
      ∨ (bs = s.readBytes u.pa u.n ∧ ((s.l1Hit u).isSome = true ∨ (s.l2Hit u).isSome = true ∨ s.rangeLost u.pa u.n = none)) := by
  unfold State.serve at h
  split at h
  · rename_i l hl
    split at h
    · exact .inl ⟨l, hl, by simpa using ‹(!l.priv) = true›, by cases h; rfl⟩
    · split at h
      · cases h
      · cases h; exact .inr ⟨rfl, .inl (by rw [hl]; rfl)⟩
  · split at h
    · cases h; exact .inr ⟨rfl, .inr (.inl ‹_›)⟩
    · unfold State.loadBytes at h
      split at h
      · cases h
      · cases h; exact .inr ⟨rfl, .inr (.inr ‹_›)⟩

end Sys2Proof.Machine
end

