-- ==== Sys2Proof/Laws/Decode.lean ====
section
/-! SUPPORT. Every operand class, field and word is read back as it is encoded: the lemmas that the round trip of an
instruction rests on. -/

namespace Sys2Proof

/-! ## Register classes -/

theorem decCls_self (lo n : Nat) (r : BitVec n) (h : lo + 2 ^ n ≤ 512) :
    decCls lo n (BitVec.ofNat 9 (lo + r.toNat)) = some r := by
  have hr := r.isLt
  have ht : (BitVec.ofNat 9 (lo + r.toNat)).toNat = lo + r.toNat := by
    rw [BitVec.toNat_ofNat]; exact Nat.mod_eq_of_lt (by omega)
  unfold decCls
  rw [ht]
  have : lo ≤ lo + r.toNat ∧ lo + r.toNat < lo + 2 ^ n := by omega
  simp [this]

/-- A selector of one class names no register of another. -/
theorem decCls_other (lo n lo' n' : Nat) (r : BitVec n') (h : lo' + 2 ^ n' ≤ 512) (hd : lo' + 2 ^ n' ≤ lo ∨ lo + 2 ^ n ≤ lo') :
    decCls lo n (BitVec.ofNat 9 (lo' + r.toNat)) = none := by
  have hr := r.isLt
  have ht : (BitVec.ofNat 9 (lo' + r.toNat)).toNat = lo' + r.toNat := by
    rw [BitVec.toNat_ofNat]; exact Nat.mod_eq_of_lt (by omega)
  unfold decCls
  rw [ht]
  have : ¬ (lo ≤ lo' + r.toNat ∧ lo' + r.toNat < lo + 2 ^ n) := by omega
  simpa using this

@[simp] theorem decV_encV (r : VReg) : decV (encV r) = some r := by simpa [decV, encV] using decCls_self 0 8 r (by decide)
@[simp] theorem decS_encS (r : SReg) : decS (encS r) = some r := decCls_self 0x100 6 r (by decide)
@[simp] theorem decP_encP (r : PReg) : decP (encP r) = some r := decCls_self 0x140 3 r (by decide)
@[simp] theorem decA_encA (r : AReg) : decA (encA r) = some r := decCls_self 0x148 3 r (by decide)
@[simp] theorem decF_encF (r : FReg) : decF (encF r) = some r := decCls_self 0x150 3 r (by decide)
@[simp] theorem decFc_encFc (r : FcReg) : decFc (encFc r) = some r := decCls_self 0x158 4 r (by decide)
@[simp] theorem decInt_encInt (i : Inl) : decInt (encInt i) = some i := decCls_self 0x180 6 i (by decide)
@[simp] theorem decFlt_encFlt (i : Flt) : decFlt (encFlt i) = some i := decCls_self 0x1C0 5 i (by decide)
@[simp] theorem decT_encT (t : TileNo) : decT (encT t) = some t := by simpa [decT, encT] using decCls_self 0 6 t (by decide)
@[simp] theorem decW_encW (t : WinNo) : decW (encW t) = some t := by simpa [decW, encW] using decCls_self 0 4 t (by decide)

@[simp] theorem decS_encV (r : VReg) : decS (encV r) = none := by
  simpa [decS, encV] using decCls_other 0x100 6 0 8 r (by decide) (by decide)
@[simp] theorem decV_encS (r : SReg) : decV (encS r) = none := decCls_other 0 8 0x100 6 r (by decide) (by decide)
@[simp] theorem decV_encInt (r : Inl) : decV (encInt r) = none := decCls_other 0 8 0x180 6 r (by decide) (by decide)
@[simp] theorem decV_encFlt (r : Flt) : decV (encFlt r) = none := decCls_other 0 8 0x1C0 5 r (by decide) (by decide)
@[simp] theorem decS_encInt (r : Inl) : decS (encInt r) = none := decCls_other 0x100 6 0x180 6 r (by decide) (by decide)
@[simp] theorem decS_encFlt (r : Flt) : decS (encFlt r) = none := decCls_other 0x100 6 0x1C0 5 r (by decide) (by decide)
@[simp] theorem decS_encFc (r : FcReg) : decS (encFc r) = none := decCls_other 0x100 6 0x158 4 r (by decide) (by decide)
@[simp] theorem decFc_encInt (r : Inl) : decFc (encInt r) = none := decCls_other 0x158 4 0x180 6 r (by decide) (by decide)
@[simp] theorem decFc_encFlt (r : Flt) : decFc (encFlt r) = none := decCls_other 0x158 4 0x1C0 5 r (by decide) (by decide)
@[simp] theorem decInt_encFlt (r : Flt) : decInt (encFlt r) = none := decCls_other 0x180 6 0x1C0 5 r (by decide) (by decide)
@[simp] theorem decT_encF (r : FReg) : decT (encF r) = none := decCls_other 0 6 0x150 3 r (by decide) (by decide)
@[simp] theorem decP_encV (r : VReg) : decP (encV r) = none := by
  simpa [decP, encV] using decCls_other 0x140 3 0 8 r (by decide) (by decide)

/-! ## Operand kinds -/

@[simp] theorem decSSrc_enc (x : SSrc) : decSSrc (encSSrc x) = some x := by cases x <;> simp [decSSrc, encSSrc]
@[simp] theorem decSMovSrc_enc (x : SMovSrc) : decSMovSrc (encSMovSrc x) = some x := by cases x <;> simp [decSMovSrc, encSMovSrc]
@[simp] theorem decVSrc_enc (x : VSrc) : decVSrc (encVSrc x) = some x := by cases x <;> simp [decVSrc, encVSrc]
@[simp] theorem decVMovSrc_enc (x : VMovSrc) : decVMovSrc (encVMovSrc x) = some x := by cases x <;> simp [decVMovSrc, encVMovSrc]
@[simp] theorem decFSrc_enc (x : FSrc) : decFSrc (encFSrc x) = some x := by cases x <;> simp [decFSrc, encFSrc]
@[simp] theorem decCvtSrc_enc (x : CvtSrc) : decCvtSrc (encCvtSrc x) = some x := by cases x <;> simp [decCvtSrc, encCvtSrc]
@[simp] theorem decSVDst_enc (x : SVDst) : decSVDst (encSVDst x) = some x := by cases x <;> simp [decSVDst, encSVDst]
@[simp] theorem decStBase_enc (x : StBase) : decStBase (encStBase x) = some x := by cases x <;> simp [decStBase, encStBase]
@[simp] theorem decOff_enc (x : Off) : decOff (encOff x) = some x := by cases x <;> simp [decOff, encOff]
@[simp] theorem decGSrc_enc (x : GSrc) : decGSrc (encGSrc x) = some x := by cases x <;> simp [decGSrc, encGSrc]
@[simp] theorem decSpr_enc (x : Spr) : decSpr (encSpr x) = some x := by cases x <;> rfl
@[simp] theorem decCsr_enc (x : Csr) : decCsr (encCsr x) = some x := by cases x <;> rfl
@[simp] theorem decRnd_enc (x : Rnd) : decRnd (encRnd x) = some x := by cases x <;> rfl
@[simp] theorem decCond_enc (x : Cond) : decCond (encCond x) = some x := by cases x <;> rfl
@[simp] theorem decFCond_enc (x : FCond) : decFCond (encFCond x) = some x := by cases x <;> rfl
@[simp] theorem decRedOp_enc (x : RedOp) : decRedOp (encRedOp x) = some x := by cases x <;> rfl
@[simp] theorem decETy_enc (x : ETy) : decETy (encETy x) = some x := by cases x <;> rfl
@[simp] theorem decRule_enc (x : Rule) : decRule (encRule x) = x := by cases x <;> rfl
@[simp] theorem decFlow_enc (x : Flow) : decFlow (encFlow x) = x := by cases x <;> rfl
@[simp] theorem decRedTy_enc (x : RedTy) : decRedTy (encRedTy x) = some x := by cases x <;> rfl

/-! ## The word -/

theorem word_o (o : BitVec 9) (n : BitVec 1) (p : BitVec 3) (d a b c : BitVec 9) (m : BitVec 15) :
    (o ++ n ++ p ++ d ++ a ++ b ++ c ++ m).extractLsb' 55 9 = o := by
  ext i hi
  simp only [BitVec.getElem_extractLsb', BitVec.getLsbD_append]
  (repeat' split) <;> first | (exfalso; omega) | (rw [← BitVec.getLsbD_eq_getElem]; congr 1; omega)

theorem word_n (o : BitVec 9) (n : BitVec 1) (p : BitVec 3) (d a b c : BitVec 9) (m : BitVec 15) :
    (o ++ n ++ p ++ d ++ a ++ b ++ c ++ m).extractLsb' 54 1 = n := by
  ext i hi
  simp only [BitVec.getElem_extractLsb', BitVec.getLsbD_append]
  (repeat' split) <;> first | (exfalso; omega) | (rw [← BitVec.getLsbD_eq_getElem]; congr 1; omega)

theorem word_p (o : BitVec 9) (n : BitVec 1) (p : BitVec 3) (d a b c : BitVec 9) (m : BitVec 15) :
    (o ++ n ++ p ++ d ++ a ++ b ++ c ++ m).extractLsb' 51 3 = p := by
  ext i hi
  simp only [BitVec.getElem_extractLsb', BitVec.getLsbD_append]
  (repeat' split) <;> first | (exfalso; omega) | (rw [← BitVec.getLsbD_eq_getElem]; congr 1; omega)

theorem word_d (o : BitVec 9) (n : BitVec 1) (p : BitVec 3) (d a b c : BitVec 9) (m : BitVec 15) :
    (o ++ n ++ p ++ d ++ a ++ b ++ c ++ m).extractLsb' 42 9 = d := by
  ext i hi
  simp only [BitVec.getElem_extractLsb', BitVec.getLsbD_append]
  (repeat' split) <;> first | (exfalso; omega) | (rw [← BitVec.getLsbD_eq_getElem]; congr 1; omega)

theorem word_a (o : BitVec 9) (n : BitVec 1) (p : BitVec 3) (d a b c : BitVec 9) (m : BitVec 15) :
    (o ++ n ++ p ++ d ++ a ++ b ++ c ++ m).extractLsb' 33 9 = a := by
  ext i hi
  simp only [BitVec.getElem_extractLsb', BitVec.getLsbD_append]
  (repeat' split) <;> first | (exfalso; omega) | (rw [← BitVec.getLsbD_eq_getElem]; congr 1; omega)

theorem word_b (o : BitVec 9) (n : BitVec 1) (p : BitVec 3) (d a b c : BitVec 9) (m : BitVec 15) :
    (o ++ n ++ p ++ d ++ a ++ b ++ c ++ m).extractLsb' 24 9 = b := by
  ext i hi
  simp only [BitVec.getElem_extractLsb', BitVec.getLsbD_append]
  (repeat' split) <;> first | (exfalso; omega) | (rw [← BitVec.getLsbD_eq_getElem]; congr 1; omega)

theorem word_c (o : BitVec 9) (n : BitVec 1) (p : BitVec 3) (d a b c : BitVec 9) (m : BitVec 15) :
    (o ++ n ++ p ++ d ++ a ++ b ++ c ++ m).extractLsb' 15 9 = c := by
  ext i hi
  simp only [BitVec.getElem_extractLsb', BitVec.getLsbD_append]
  (repeat' split) <;> first | (exfalso; omega) | (rw [← BitVec.getLsbD_eq_getElem]; congr 1; omega)

theorem word_m (o : BitVec 9) (n : BitVec 1) (p : BitVec 3) (d a b c : BitVec 9) (m : BitVec 15) :
    (o ++ n ++ p ++ d ++ a ++ b ++ c ++ m).extractLsb' 0 15 = m := by
  ext i hi
  simp only [BitVec.getElem_extractLsb', BitVec.getLsbD_append]
  (repeat' split) <;> first | (exfalso; omega) | (rw [← BitVec.getLsbD_eq_getElem]; congr 1; omega)

/-- The fields of a word are those it was made of. -/
@[simp] theorem ofWord_word (f : Fields) : Fields.ofWord f.word = f := by
  obtain ⟨o, ⟨n, p⟩, d, a, b, c, m⟩ := f
  have hn : ∀ w : BitVec 64, w.getLsbD 54 = (w.extractLsb' 54 1).getLsbD 0 := by intro w; simp
  simp only [Fields.ofWord, Fields.word, hn, word_o, word_n, word_p, word_d, word_a, word_b, word_c, word_m]
  cases n <;> rfl

/-! ## I and J words -/

theorem imm_parts (i : Word) :
    ((0#1 ++ i.extractLsb' 24 8 : BitVec 9).extractLsb' 0 8 ++ i.extractLsb' 15 9 ++ i.extractLsb' 0 15 : BitVec 32) = i := by
  apply BitVec.eq_of_getLsbD_eq
  intro k hk
  simp only [BitVec.getLsbD_append, BitVec.getLsbD_extractLsb']
  interval_cases k <;> simp

@[simp] theorem fi_imm (o : Nat) (g : Guard) (d a : BitVec 9) (i : Word) : (fi o g d a i).imm = some i := by
  have h : (0#1 ++ i.extractLsb' 24 8 : BitVec 9).getLsbD 8 = false := by
    rw [BitVec.getLsbD_append]; simp
  simp only [Fields.imm, fi, h, imm_parts]
  rfl

theorem tgt_parts (t : BitVec 20) (j : BitVec 20) :
    (t.extractLsb' 11 9 ++ t.extractLsb' 2 9 ++ (t.extractLsb' 0 2 ++ j.extractLsb' 13 7 : BitVec 9).extractLsb' 7 2 : BitVec 20)
      = t := by
  apply BitVec.eq_of_getLsbD_eq
  intro k hk
  simp only [BitVec.getLsbD_append, BitVec.getLsbD_extractLsb']
  interval_cases k <;> simp

theorem jn_parts (t : BitVec 20) (j : BitVec 20) (e : Bool) :
    ((t.extractLsb' 0 2 ++ j.extractLsb' 13 7 : BitVec 9).extractLsb' 0 7
      ++ (j.extractLsb' 0 13 ++ BitVec.ofBool e ++ 0#1 : BitVec 15).extractLsb' 2 13 : BitVec 20) = j := by
  apply BitVec.eq_of_getLsbD_eq
  intro k hk
  simp only [BitVec.getLsbD_append, BitVec.getLsbD_extractLsb']
  interval_cases k <;> simp

@[simp] theorem fj_tgt (o : Nat) (g : Guard) (a : BitVec 9) (t j : BitVec 20) (e : Bool) : (fj o g a t j e).tgt = t := tgt_parts t j
@[simp] theorem fj_jn (o : Nat) (g : Guard) (a : BitVec 9) (t j : BitVec 20) (e : Bool) : (fj o g a t j e).jn = j := jn_parts t j e
@[simp] theorem fj_ej (o : Nat) (g : Guard) (a : BitVec 9) (t j : BitVec 20) (e : Bool) : (fj o g a t j e).ej = e := by
  simp only [Fields.ej, fj, BitVec.getLsbD_append]; simp
@[simp] theorem fj_m0 (o : Nat) (g : Guard) (a : BitVec 9) (t j : BitVec 20) (e : Bool) : (fj o g a t j e).m.getLsbD 0 = false := by
  simp only [fj, BitVec.getLsbD_append]; simp

/-! ## MOD -/

theorem vMod_parts (r : BitVec 3) (t s x : BitVec 4) : modRnd (vMod r t s x) = r ∧ modTy (vMod r t s x) = t
    ∧ modSel (vMod r t s x) = s ∧ modXs (vMod r t s x) = x := by
  refine ⟨?_, ?_, ?_, ?_⟩ <;>
  · ext k hk
    simp only [modRnd, modTy, modSel, modXs, vMod, BitVec.getElem_extractLsb', BitVec.getLsbD_append]
    (repeat' split) <;> first | (exfalso; omega) | (rw [← BitVec.getLsbD_eq_getElem]; congr 1; omega)

@[simp] theorem modRnd_vMod (r : BitVec 3) (t s x : BitVec 4) : modRnd (vMod r t s x) = r := (vMod_parts r t s x).1
@[simp] theorem modTy_vMod (r : BitVec 3) (t s x : BitVec 4) : modTy (vMod r t s x) = t := (vMod_parts r t s x).2.1
@[simp] theorem modSel_vMod (r : BitVec 3) (t s x : BitVec 4) : modSel (vMod r t s x) = s := (let ⟨_, _, h, _⟩ := vMod_parts r t s x; h)
@[simp] theorem modXs_vMod (r : BitVec 3) (t s x : BitVec 4) : modXs (vMod r t s x) = x := (let ⟨_, _, _, h⟩ := vMod_parts r t s x; h)

/-- What stands in a MOD of the M format. -/
structure MParts (m : BitVec 15) (z : BitVec 3) (sp r : BitVec 2) (f : BitVec 1) (h : BitVec 4) (v u q : BitVec 1) : Prop where
  size : m.extractLsb' 12 3 = z
  space : m.extractLsb' 10 2 = sp
  rule : m.extractLsb' 8 2 = r
  fetch : m.extractLsb' 7 1 = f
  home : m.extractLsb' 3 4 = h
  homed : m.extractLsb' 2 1 = v
  fsum : m.extractLsb' 1 1 = u
  flag : m.extractLsb' 0 1 = q

/-- MOD of the M format. -/
theorem mMod_parts (z : BitVec 3) (sp r : BitVec 2) (f : BitVec 1) (h : BitVec 4) (v u q : BitVec 1) :
    MParts (z ++ sp ++ r ++ f ++ h ++ v ++ u ++ q) z sp r f h v u q := by
  constructor <;>
  · ext k hk
    simp only [BitVec.getElem_extractLsb', BitVec.getLsbD_append]
    (repeat' split) <;> first | (exfalso; omega) | (rw [← BitVec.getLsbD_eq_getElem]; congr 1; omega)

theorem bit_of_extract (m : BitVec 15) (k : Nat) : m.getLsbD k = (m.extractLsb' k 1).getLsbD 0 := by simp

section
variable (z : BitVec 3) (sp r : BitVec 2) (f : Bool) (h : Option (BitVec 4)) (u q : Bool)

@[simp] theorem modSize_mMod : modSize (mMod z sp r f h u q) = z := (mMod_parts ..).size
@[simp] theorem modSpace_mMod : modSpace (mMod z sp r f h u q) = sp := (mMod_parts ..).space
@[simp] theorem modRule_mMod : modRule (mMod z sp r f h u q) = r := (mMod_parts ..).rule
@[simp] theorem modFetch_mMod : modFetch (mMod z sp r f h u q) = f := by
  unfold modFetch; rw [bit_of_extract, mMod, (mMod_parts ..).fetch]; cases f <;> rfl
@[simp] theorem modHome_mMod : modHome (mMod z sp r f h u q) = some h := by
  unfold modHome
  rw [bit_of_extract, mMod, (mMod_parts ..).homed, (mMod_parts ..).home]
  cases h <;> simp
@[simp] theorem modFsum_mMod : modFsum (mMod z sp r f h u q) = u := by
  unfold modFsum; rw [bit_of_extract, mMod, (mMod_parts ..).fsum]; cases u <;> rfl
@[simp] theorem modQ_mMod : modQ (mMod z sp r f h u q) = q := by
  unfold modQ; rw [bit_of_extract, mMod, (mMod_parts ..).flag]; cases q <;> rfl

/-- A store's MOD has no HOME. -/
@[simp] theorem modOnly_store : modOnly (mMod z sp r f none u q) 0x7F83#15 = true := by
  have hm : ∀ m : BitVec 15, m.extractLsb' 3 4 = 0#4 → m.extractLsb' 2 1 = 0#1 → modOnly m 0x7F83#15 = true := by
    intro m h1 h2
    have e : m &&& ~~~0x7F83#15 = 0#15 := by
      apply BitVec.eq_of_getLsbD_eq
      intro k hk
      have b2 : m.getLsbD 2 = false := by simpa using congrArg (fun x => BitVec.getLsbD x 0) h2
      have b3 : ∀ j, j < 4 → m.getLsbD (3 + j) = false := by
        intro j hj; simpa [hj] using congrArg (fun x => BitVec.getLsbD x j) h1
      have c3 := b3 0 (by decide); have c4 := b3 1 (by decide); have c5 := b3 2 (by decide); have c6 := b3 3 (by decide)
      interval_cases k <;> simp_all
    unfold modOnly; rw [e]; rfl
  exact hm _ (mMod_parts ..).home (mMod_parts ..).homed
end

@[simp] theorem decSize_enc (x : Size) : decSize (encSize x) = some x := by cases x <;> rfl
@[simp] theorem decSpace_enc (x : Space) : decSpace (encSpace x) = x := by cases x <;> rfl
@[simp] theorem decHint_enc (x : Hint) : decHint (encHint x) = some x := by cases x <;> rfl

/-- An unused slot names nothing. -/
@[simp] theorem encF_ne_noSel (r : FReg) : encF r ≠ noSel := by
  intro h; have := decF_encF r; rw [h, show decF noSel = none from rfl] at this; cases this
@[simp] theorem encS_ne_noSel (r : SReg) : encS r ≠ noSel := by
  intro h; have := decS_encS r; rw [h, show decS noSel = none from rfl] at this; cases this
@[simp] theorem decOpt_encF (x : Option FReg) : decOpt decF (encOpt encF x) = some x := by cases x <;> simp [decOpt, encOpt]
@[simp] theorem decOpt_encS (x : Option SReg) : decOpt decS (encOpt encS x) = some x := by cases x <;> simp [decOpt, encOpt]
@[simp] theorem decVote_enc (v : Vote) : decVote (encVoteMod v) (encVoteSrc v) = some v := by
  cases v <;> simp [decVote, encVoteMod, encVoteSrc]

@[simp] theorem modOnly_zero (k : BitVec 15) : modOnly 0#15 k = true := by simp [modOnly]
@[simp] theorem modOnly_rnd (r : Rnd) : modOnly (vMod (encRnd r) 0#4 0#4 0#4) 0x7000#15 = true := by cases r <;> rfl
@[simp] theorem modOnly_cond (c : Cond) : modOnly (vMod 0#3 0#4 (encCond c) 0#4) 0x0F0#15 = true := by cases c <;> rfl
@[simp] theorem modOnly_fcond (c : FCond) : modOnly (vMod 0#3 0#4 (encFCond c) 0#4) 0x0F0#15 = true := by cases c <;> rfl

/-! ## Parts of immediates and of the other MODs -/

@[simp] theorem extract_hi {w k : Nat} (x : BitVec w) (y : BitVec k) : (x ++ y).extractLsb' k w = x := by
  ext i hi
  simp only [BitVec.getElem_extractLsb', BitVec.getLsbD_append]
  split
  · omega
  · rw [← BitVec.getLsbD_eq_getElem]; congr 1; omega
@[simp] theorem extract_lo {w k : Nat} (x : BitVec w) (y : BitVec k) : (x ++ y).extractLsb' 0 k = y := by
  ext i hi
  simp only [BitVec.getElem_extractLsb', BitVec.getLsbD_append]
  split
  · rw [← BitVec.getLsbD_eq_getElem]; congr 1; omega
  · omega
theorem sldk_parts (x : BitVec 18) (y : BitVec 2) (z : BitVec 12) : (x ++ y ++ z : BitVec 32).extractLsb' 14 18 = x
    ∧ (x ++ y ++ z : BitVec 32).extractLsb' 12 2 = y := by
  refine ⟨?_, ?_⟩ <;>
  · ext k hk
    simp only [BitVec.getElem_extractLsb', BitVec.getLsbD_append]
    (repeat' split) <;> first | (exfalso; omega) | (rw [← BitVec.getLsbD_eq_getElem]; congr 1; omega)
@[simp] theorem sldk_rest (x : BitVec 18) (y : BitVec 2) (z : BitVec 12) :
    (x ++ y ++ z : BitVec 32).extractLsb' 14 18 = x := (sldk_parts x y z).1
@[simp] theorem sldk_mode (x : BitVec 18) (y : BitVec 2) (z : BitVec 12) :
    (x ++ y ++ z : BitVec 32).extractLsb' 12 2 = y := (sldk_parts x y z).2

/-- A MOD keeps to a mask when its bits outside the mask are zero. -/
theorem modOnly_of (m k : BitVec 15) (h : ∀ i, i < 15 → k.getLsbD i = false → m.getLsbD i = false) : modOnly m k = true := by
  have e : m &&& ~~~k = 0#15 := by
    apply BitVec.eq_of_getLsbD_eq
    intro i hi
    by_cases hk : k.getLsbD i
    · simp [hk]
    · simp [h i hi (by simpa using hk)]
  unfold modOnly; rw [e]; rfl
@[simp] theorem modOnly_vcvt (r : BitVec 3) (t s : BitVec 4) : modOnly (vMod r t s 0#4) 0x7FF0#15 = true := by
  apply modOnly_of; intro i hi hk
  simp only [vMod, BitVec.getLsbD_append]
  interval_cases i <;> simp_all
@[simp] theorem modOnly_vred (t s : BitVec 4) : modOnly (vMod 0#3 t s 0#4) 0x0FF0#15 = true := by
  apply modOnly_of; intro i hi hk
  simp only [vMod, BitVec.getLsbD_append]
  interval_cases i <;> simp_all
@[simp] theorem modOnly_vscan (t s : BitVec 4) (x : Bool) :
    modOnly (vMod 0#3 t s (bif x then 2#4 else 0#4)) 0x0FF2#15 = true := by
  apply modOnly_of; intro i hi hk
  simp only [vMod, BitVec.getLsbD_append]
  cases x <;> interval_cases i <;> simp_all
@[simp] theorem vscan_excl (r : BitVec 3) (t s : BitVec 4) (x : Bool) :
    (vMod r t s (bif x then 2#4 else 0#4)).getLsbD 1 = x := by
  simp only [vMod, BitVec.getLsbD_append]
  cases x <;> rfl

@[simp] theorem sldk_off (x : BitVec 18) (y : BitVec 2) (z : BitVec 12) :
    (x ++ y ++ z : BitVec 32).extractLsb' 0 12 = z := extract_lo (x ++ y) z
@[simp] theorem imm_8 (x : BitVec 24) (y : BitVec 8) : (x ++ y : BitVec 32).extractLsb' 8 24 = x
    ∧ (x ++ y : BitVec 32).extractLsb' 0 8 = y := ⟨extract_hi x y, extract_lo x y⟩
@[simp] theorem imm_12 (x : BitVec 20) (y : BitVec 12) : (x ++ y : BitVec 32).extractLsb' 12 20 = x
    ∧ (x ++ y : BitVec 32).extractLsb' 0 12 = y := ⟨extract_hi x y, extract_lo x y⟩
@[simp] theorem imm_13 (x : BitVec 19) (y : BitVec 13) : (x ++ y : BitVec 32).extractLsb' 13 19 = x
    ∧ (x ++ y : BitVec 32).extractLsb' 0 13 = y := ⟨extract_hi x y, extract_lo x y⟩
@[simp] theorem imm_16 (x y : BitVec 16) : (x ++ y : BitVec 32).extractLsb' 16 16 = x
    ∧ (x ++ y : BitVec 32).extractLsb' 0 16 = y := ⟨extract_hi x y, extract_lo x y⟩
@[simp] theorem vscan_excl_elem (r : BitVec 3) (t s : BitVec 4) (x : Bool) :
    (vMod r t s (bif x then 2#4 else 0#4))[1] = x := by
  rw [← BitVec.getLsbD_eq_getElem]; exact vscan_excl r t s x
@[simp] theorem fj_m0_elem (o : Nat) (g : Guard) (a : BitVec 9) (t j : BitVec 20) (e : Bool) :
    (fj o g a t j e).m[0] = false := by
  rw [← BitVec.getLsbD_eq_getElem]; exact fj_m0 o g a t j e

/-- MOD of MMDRAIN. -/
theorem drain_parts (r : Rnd) (relu q : Bool) (b : BitVec 1) (x : BitVec 6) (m : BitVec 15)
    (hm : m = (encRnd r ++ BitVec.ofBool relu ++ 0#1 ++ b ++ x ++ 0#2 ++ BitVec.ofBool q : BitVec 15)) :
    modRnd m = encRnd r ∧ m.getLsbD 11 = relu ∧ m.getLsbD 9 = b.getLsbD 0 ∧ m.extractLsb' 3 6 = x ∧ modQ m = q
      ∧ modOnly m 0x7BF9#15 = true := by
  subst hm
  refine ⟨?_, ?_, ?_, ?_, ?_, ?_⟩
  · ext k hk
    simp only [modRnd, BitVec.getElem_extractLsb', BitVec.getLsbD_append]
    (repeat' split) <;> first | (exfalso; omega) | (rw [← BitVec.getLsbD_eq_getElem]; congr 1; omega)
  · simp only [BitVec.getLsbD_append]; simp
  · simp only [BitVec.getLsbD_append]; simp
  · ext k hk
    simp only [BitVec.getElem_extractLsb', BitVec.getLsbD_append]
    (repeat' split) <;> first | (exfalso; omega) | (rw [← BitVec.getLsbD_eq_getElem]; congr 1; omega)
  · simp only [modQ, BitVec.getLsbD_append]; simp
  · apply modOnly_of; intro i hi hk
    simp only [BitVec.getLsbD_append]
    interval_cases i <;> simp_all

/-- MOD of FBOPEN. -/
theorem fbopen_parts (w st : Bool) (vt : BitVec 4) (m : BitVec 15)
    (hm : m = (BitVec.ofBool w ++ 0#1 ++ BitVec.ofBool st ++ vt ++ 0#8 : BitVec 15)) :
    m.getLsbD 14 = w ∧ m.getLsbD 12 = st ∧ m.extractLsb' 8 4 = vt ∧ modOnly m 0x5F00#15 = true := by
  subst hm
  refine ⟨?_, ?_, ?_, ?_⟩
  · simp only [BitVec.getLsbD_append]; simp
  · simp only [BitVec.getLsbD_append]; simp
  · ext k hk
    simp only [BitVec.getElem_extractLsb', BitVec.getLsbD_append]
    (repeat' split) <;> first | (exfalso; omega) | (rw [← BitVec.getLsbD_eq_getElem]; congr 1; omega)
  · apply modOnly_of; intro i hi hk
    simp only [BitVec.getLsbD_append]
    interval_cases i <;> simp_all

/-- A load's base goes with its space. -/
@[simp] theorem decLdBase_win (n : WinNo) : decLdBase true (encLdBase (.w n)) = some (.w n) := by simp [decLdBase, encLdBase]
@[simp] theorem decLdBase_s (r : SReg) : decLdBase false (encLdBase (.s r)) = some (.s r) := by simp [decLdBase, encLdBase]
@[simp] theorem decLdBase_v (r : VReg) : decLdBase false (encLdBase (.v r)) = some (.v r) := by simp [decLdBase, encLdBase]

/-! ## Fields of words by format -/

section
variable (o : Nat) (g : Guard) (d a b c : BitVec 9) (m : BitVec 15) (i : Word) (t j : BitVec 20) (e : Bool)

@[simp] theorem fv_opc : (fv o g d a b c m).opc = BitVec.ofNat 9 o := rfl
@[simp] theorem fv_g : (fv o g d a b c m).g = g := rfl
@[simp] theorem fv_d : (fv o g d a b c m).d = d := rfl
@[simp] theorem fv_a : (fv o g d a b c m).a = a := rfl
@[simp] theorem fv_b : (fv o g d a b c m).b = b := rfl
@[simp] theorem fv_c : (fv o g d a b c m).c = c := rfl
@[simp] theorem fv_m : (fv o g d a b c m).m = m := rfl
@[simp] theorem fi_opc : (fi o g d a i).opc = BitVec.ofNat 9 o := rfl
@[simp] theorem fi_g : (fi o g d a i).g = g := rfl
@[simp] theorem fi_d : (fi o g d a i).d = d := rfl
@[simp] theorem fi_a : (fi o g d a i).a = a := rfl
@[simp] theorem fj_opc : (fj o g a t j e).opc = BitVec.ofNat 9 o := rfl
@[simp] theorem fj_g : (fj o g a t j e).g = g := rfl
@[simp] theorem fj_d : (fj o g a t j e).d = a := rfl
end

end Sys2Proof
end

