-- ==== Sys2Proof/Laws/State.lean ====
section
/-! SUPPORT. The fields of State under each named update of Machine/Memory.lean: an update of one unit leaves the rest. -/

namespace Sys2Proof.Machine

/-! ## setThread -/

@[simp] theorem State.setThread_agenda (s : State) (t : Nat) (w : Thread) : (s.setThread t w).agenda = s.agenda := rfl
@[simp] theorem State.setThread_cur (s : State) (t : Nat) (w : Thread) : (s.setThread t w).cur = s.cur := rfl
@[simp] theorem State.setThread_tick (s : State) (t : Nat) (w : Thread) : (s.setThread t w).tick = s.tick := rfl
@[simp] theorem State.setThread_turn (s : State) (t : Nat) (w : Thread) : (s.setThread t w).turn = s.turn := rfl
@[simp] theorem State.setThread_uid (s : State) (t : Nat) (w : Thread) : (s.setThread t w).uid = s.uid := rfl
@[simp] theorem State.setThread_time (s : State) (t : Nat) (w : Thread) : (s.setThread t w).time = s.time := rfl
@[simp] theorem State.setThread_mem (s : State) (t : Nat) (w : Thread) : (s.setThread t w).mem = s.mem := rfl
@[simp] theorem State.setThread_hostMem (s : State) (t : Nat) (w : Thread) : (s.setThread t w).hostMem = s.hostMem := rfl
@[simp] theorem State.setThread_flash (s : State) (t : Nat) (w : Thread) : (s.setThread t w).flash = s.flash := rfl
@[simp] theorem State.setThread_badMem (s : State) (t : Nat) (w : Thread) : (s.setThread t w).badMem = s.badMem := rfl
@[simp] theorem State.setThread_events (s : State) (t : Nat) (w : Thread) : (s.setThread t w).events = s.events := rfl
@[simp] theorem State.setThread_taken (s : State) (t : Nat) (w : Thread) : (s.setThread t w).taken = s.taken := rfl
@[simp] theorem State.setThread_rotation (s : State) (t : Nat) (w : Thread) : (s.setThread t w).rotation = s.rotation := rfl
@[simp] theorem State.setThread_twins (s : State) (t : Nat) (w : Thread) : (s.setThread t w).twins = s.twins := rfl
@[simp] theorem State.setThread_saves (s : State) (t : Nat) (w : Thread) : (s.setThread t w).saves = s.saves := rfl
@[simp] theorem State.setThread_dies (s : State) (t : Nat) (w : Thread) : (s.setThread t w).dies = s.dies := rfl
@[simp] theorem State.setThread_flues (s : State) (t : Nat) (w : Thread) : (s.setThread t w).flues = s.flues := rfl
@[simp] theorem State.setThread_ports (s : State) (t : Nat) (w : Thread) : (s.setThread t w).ports = s.ports := rfl
@[simp] theorem State.setThread_hbm (s : State) (t : Nat) (w : Thread) : (s.setThread t w).hbm = s.hbm := rfl
@[simp] theorem State.setThread_hearths (s : State) (t : Nat) (w : Thread) : (s.setThread t w).hearths = s.hearths := rfl
@[simp] theorem State.setThread_pipes (s : State) (t : Nat) (w : Thread) : (s.setThread t w).pipes = s.pipes := rfl
@[simp] theorem State.setThread_badL3 (s : State) (t : Nat) (w : Thread) : (s.setThread t w).badL3 = s.badL3 := rfl
@[simp] theorem State.setThread_caches (s : State) (t : Nat) (w : Thread) : (s.setThread t w).caches = s.caches := rfl
@[simp] theorem State.setThread_heldRecs (s : State) (t : Nat) (w : Thread) : (s.setThread t w).heldRecs = s.heldRecs := rfl
@[simp] theorem State.setThread_bootAttempts (s : State) (t : Nat) (w : Thread) : (s.setThread t w).bootAttempts = s.bootAttempts := rfl
@[simp] theorem State.setThread_bootcause (s : State) (t : Nat) (w : Thread) : (s.setThread t w).bootcause = s.bootcause := rfl
@[simp] theorem State.setThread_bootStage (s : State) (t : Nat) (w : Thread) : (s.setThread t w).bootStage = s.bootStage := rfl
@[simp] theorem State.setThread_minimal (s : State) (t : Nat) (w : Thread) : (s.setThread t w).minimal = s.minimal := rfl
@[simp] theorem State.setThread_bootStopped (s : State) (t : Nat) (w : Thread) : (s.setThread t w).bootStopped = s.bootStopped := rfl
@[simp] theorem State.setThread_moduleId (s : State) (t : Nat) (w : Thread) : (s.setThread t w).moduleId = s.moduleId := rfl
@[simp] theorem State.setThread_inbox (s : State) (t : Nat) (w : Thread) : (s.setThread t w).inbox = s.inbox := rfl
@[simp] theorem State.setThread_peersIn (s : State) (t : Nat) (w : Thread) : (s.setThread t w).peersIn = s.peersIn := rfl
@[simp] theorem State.setThread_peerRefused (s : State) (t : Nat) (w : Thread) : (s.setThread t w).peerRefused = s.peerRefused := rfl
@[simp] theorem State.setThread_evSpill (s : State) (t : Nat) (w : Thread) : (s.setThread t w).evSpill = s.evSpill := rfl
@[simp] theorem State.setThread_evWaits (s : State) (t : Nat) (w : Thread) : (s.setThread t w).evWaits = s.evWaits := rfl
@[simp] theorem State.setThread_evWaitSpill (s : State) (t : Nat) (w : Thread) : (s.setThread t w).evWaitSpill = s.evWaitSpill := rfl
@[simp] theorem State.setThread_evSpills (s : State) (t : Nat) (w : Thread) : (s.setThread t w).evSpills = s.evSpills := rfl
@[simp] theorem State.setThread_cplDropped (s : State) (t : Nat) (w : Thread) : (s.setThread t w).cplDropped = s.cplDropped := rfl
@[simp] theorem State.setThread_cores (s : State) (t : Nat) (w : Thread) : (s.setThread t w).cores = s.cores := rfl
@[simp] theorem State.setThread_tlbs (s : State) (t : Nat) (w : Thread) : (s.setThread t w).tlbs = s.tlbs := rfl
@[simp] theorem State.setThread_contexts (s : State) (t : Nat) (w : Thread) : (s.setThread t w).contexts = s.contexts := rfl
@[simp] theorem State.setThread_grids (s : State) (t : Nat) (w : Thread) : (s.setThread t w).grids = s.grids := rfl
@[simp] theorem State.setThread_groups (s : State) (t : Nat) (w : Thread) : (s.setThread t w).groups = s.groups := rfl

/-! ## setContext -/

@[simp] theorem State.setContext_agenda (s : State) (c : Nat) (x : Context) : (s.setContext c x).agenda = s.agenda := rfl
@[simp] theorem State.setContext_cur (s : State) (c : Nat) (x : Context) : (s.setContext c x).cur = s.cur := rfl
@[simp] theorem State.setContext_tick (s : State) (c : Nat) (x : Context) : (s.setContext c x).tick = s.tick := rfl
@[simp] theorem State.setContext_turn (s : State) (c : Nat) (x : Context) : (s.setContext c x).turn = s.turn := rfl
@[simp] theorem State.setContext_uid (s : State) (c : Nat) (x : Context) : (s.setContext c x).uid = s.uid := rfl
@[simp] theorem State.setContext_time (s : State) (c : Nat) (x : Context) : (s.setContext c x).time = s.time := rfl
@[simp] theorem State.setContext_mem (s : State) (c : Nat) (x : Context) : (s.setContext c x).mem = s.mem := rfl
@[simp] theorem State.setContext_hostMem (s : State) (c : Nat) (x : Context) : (s.setContext c x).hostMem = s.hostMem := rfl
@[simp] theorem State.setContext_flash (s : State) (c : Nat) (x : Context) : (s.setContext c x).flash = s.flash := rfl
@[simp] theorem State.setContext_badMem (s : State) (c : Nat) (x : Context) : (s.setContext c x).badMem = s.badMem := rfl
@[simp] theorem State.setContext_events (s : State) (c : Nat) (x : Context) : (s.setContext c x).events = s.events := rfl
@[simp] theorem State.setContext_taken (s : State) (c : Nat) (x : Context) : (s.setContext c x).taken = s.taken := rfl
@[simp] theorem State.setContext_rotation (s : State) (c : Nat) (x : Context) : (s.setContext c x).rotation = s.rotation := rfl
@[simp] theorem State.setContext_twins (s : State) (c : Nat) (x : Context) : (s.setContext c x).twins = s.twins := rfl
@[simp] theorem State.setContext_saves (s : State) (c : Nat) (x : Context) : (s.setContext c x).saves = s.saves := rfl
@[simp] theorem State.setContext_dies (s : State) (c : Nat) (x : Context) : (s.setContext c x).dies = s.dies := rfl
@[simp] theorem State.setContext_flues (s : State) (c : Nat) (x : Context) : (s.setContext c x).flues = s.flues := rfl
@[simp] theorem State.setContext_ports (s : State) (c : Nat) (x : Context) : (s.setContext c x).ports = s.ports := rfl
@[simp] theorem State.setContext_hbm (s : State) (c : Nat) (x : Context) : (s.setContext c x).hbm = s.hbm := rfl
@[simp] theorem State.setContext_hearths (s : State) (c : Nat) (x : Context) : (s.setContext c x).hearths = s.hearths := rfl
@[simp] theorem State.setContext_pipes (s : State) (c : Nat) (x : Context) : (s.setContext c x).pipes = s.pipes := rfl
@[simp] theorem State.setContext_badL3 (s : State) (c : Nat) (x : Context) : (s.setContext c x).badL3 = s.badL3 := rfl
@[simp] theorem State.setContext_caches (s : State) (c : Nat) (x : Context) : (s.setContext c x).caches = s.caches := rfl
@[simp] theorem State.setContext_heldRecs (s : State) (c : Nat) (x : Context) : (s.setContext c x).heldRecs = s.heldRecs := rfl
@[simp] theorem State.setContext_bootAttempts (s : State) (c : Nat) (x : Context) : (s.setContext c x).bootAttempts = s.bootAttempts := rfl
@[simp] theorem State.setContext_bootcause (s : State) (c : Nat) (x : Context) : (s.setContext c x).bootcause = s.bootcause := rfl
@[simp] theorem State.setContext_bootStage (s : State) (c : Nat) (x : Context) : (s.setContext c x).bootStage = s.bootStage := rfl
@[simp] theorem State.setContext_minimal (s : State) (c : Nat) (x : Context) : (s.setContext c x).minimal = s.minimal := rfl
@[simp] theorem State.setContext_bootStopped (s : State) (c : Nat) (x : Context) : (s.setContext c x).bootStopped = s.bootStopped := rfl
@[simp] theorem State.setContext_moduleId (s : State) (c : Nat) (x : Context) : (s.setContext c x).moduleId = s.moduleId := rfl
@[simp] theorem State.setContext_inbox (s : State) (c : Nat) (x : Context) : (s.setContext c x).inbox = s.inbox := rfl
@[simp] theorem State.setContext_peersIn (s : State) (c : Nat) (x : Context) : (s.setContext c x).peersIn = s.peersIn := rfl
@[simp] theorem State.setContext_peerRefused (s : State) (c : Nat) (x : Context) : (s.setContext c x).peerRefused = s.peerRefused := rfl
@[simp] theorem State.setContext_evSpill (s : State) (c : Nat) (x : Context) : (s.setContext c x).evSpill = s.evSpill := rfl
@[simp] theorem State.setContext_evWaits (s : State) (c : Nat) (x : Context) : (s.setContext c x).evWaits = s.evWaits := rfl
@[simp] theorem State.setContext_evWaitSpill (s : State) (c : Nat) (x : Context) : (s.setContext c x).evWaitSpill = s.evWaitSpill := rfl
@[simp] theorem State.setContext_evSpills (s : State) (c : Nat) (x : Context) : (s.setContext c x).evSpills = s.evSpills := rfl
@[simp] theorem State.setContext_cplDropped (s : State) (c : Nat) (x : Context) : (s.setContext c x).cplDropped = s.cplDropped := rfl
@[simp] theorem State.setContext_cores (s : State) (c : Nat) (x : Context) : (s.setContext c x).cores = s.cores := rfl
@[simp] theorem State.setContext_tlbs (s : State) (c : Nat) (x : Context) : (s.setContext c x).tlbs = s.tlbs := rfl
@[simp] theorem State.setContext_grids (s : State) (c : Nat) (x : Context) : (s.setContext c x).grids = s.grids := rfl
@[simp] theorem State.setContext_groups (s : State) (c : Nat) (x : Context) : (s.setContext c x).groups = s.groups := rfl
@[simp] theorem State.setContext_threads (s : State) (c : Nat) (x : Context) : (s.setContext c x).threads = s.threads := rfl

/-! ## setGrid -/

@[simp] theorem State.setGrid_agenda (s : State) (g : Nat) (x : Grid) : (s.setGrid g x).agenda = s.agenda := rfl
@[simp] theorem State.setGrid_cur (s : State) (g : Nat) (x : Grid) : (s.setGrid g x).cur = s.cur := rfl
@[simp] theorem State.setGrid_tick (s : State) (g : Nat) (x : Grid) : (s.setGrid g x).tick = s.tick := rfl
@[simp] theorem State.setGrid_turn (s : State) (g : Nat) (x : Grid) : (s.setGrid g x).turn = s.turn := rfl
@[simp] theorem State.setGrid_uid (s : State) (g : Nat) (x : Grid) : (s.setGrid g x).uid = s.uid := rfl
@[simp] theorem State.setGrid_time (s : State) (g : Nat) (x : Grid) : (s.setGrid g x).time = s.time := rfl
@[simp] theorem State.setGrid_mem (s : State) (g : Nat) (x : Grid) : (s.setGrid g x).mem = s.mem := rfl
@[simp] theorem State.setGrid_hostMem (s : State) (g : Nat) (x : Grid) : (s.setGrid g x).hostMem = s.hostMem := rfl
@[simp] theorem State.setGrid_flash (s : State) (g : Nat) (x : Grid) : (s.setGrid g x).flash = s.flash := rfl
@[simp] theorem State.setGrid_badMem (s : State) (g : Nat) (x : Grid) : (s.setGrid g x).badMem = s.badMem := rfl
@[simp] theorem State.setGrid_events (s : State) (g : Nat) (x : Grid) : (s.setGrid g x).events = s.events := rfl
@[simp] theorem State.setGrid_taken (s : State) (g : Nat) (x : Grid) : (s.setGrid g x).taken = s.taken := rfl
@[simp] theorem State.setGrid_rotation (s : State) (g : Nat) (x : Grid) : (s.setGrid g x).rotation = s.rotation := rfl
@[simp] theorem State.setGrid_twins (s : State) (g : Nat) (x : Grid) : (s.setGrid g x).twins = s.twins := rfl
@[simp] theorem State.setGrid_saves (s : State) (g : Nat) (x : Grid) : (s.setGrid g x).saves = s.saves := rfl
@[simp] theorem State.setGrid_dies (s : State) (g : Nat) (x : Grid) : (s.setGrid g x).dies = s.dies := rfl
@[simp] theorem State.setGrid_flues (s : State) (g : Nat) (x : Grid) : (s.setGrid g x).flues = s.flues := rfl
@[simp] theorem State.setGrid_ports (s : State) (g : Nat) (x : Grid) : (s.setGrid g x).ports = s.ports := rfl
@[simp] theorem State.setGrid_hbm (s : State) (g : Nat) (x : Grid) : (s.setGrid g x).hbm = s.hbm := rfl
@[simp] theorem State.setGrid_hearths (s : State) (g : Nat) (x : Grid) : (s.setGrid g x).hearths = s.hearths := rfl
@[simp] theorem State.setGrid_pipes (s : State) (g : Nat) (x : Grid) : (s.setGrid g x).pipes = s.pipes := rfl
@[simp] theorem State.setGrid_badL3 (s : State) (g : Nat) (x : Grid) : (s.setGrid g x).badL3 = s.badL3 := rfl
@[simp] theorem State.setGrid_caches (s : State) (g : Nat) (x : Grid) : (s.setGrid g x).caches = s.caches := rfl
@[simp] theorem State.setGrid_heldRecs (s : State) (g : Nat) (x : Grid) : (s.setGrid g x).heldRecs = s.heldRecs := rfl
@[simp] theorem State.setGrid_bootAttempts (s : State) (g : Nat) (x : Grid) : (s.setGrid g x).bootAttempts = s.bootAttempts := rfl
@[simp] theorem State.setGrid_bootcause (s : State) (g : Nat) (x : Grid) : (s.setGrid g x).bootcause = s.bootcause := rfl
@[simp] theorem State.setGrid_bootStage (s : State) (g : Nat) (x : Grid) : (s.setGrid g x).bootStage = s.bootStage := rfl
@[simp] theorem State.setGrid_minimal (s : State) (g : Nat) (x : Grid) : (s.setGrid g x).minimal = s.minimal := rfl
@[simp] theorem State.setGrid_bootStopped (s : State) (g : Nat) (x : Grid) : (s.setGrid g x).bootStopped = s.bootStopped := rfl
@[simp] theorem State.setGrid_moduleId (s : State) (g : Nat) (x : Grid) : (s.setGrid g x).moduleId = s.moduleId := rfl
@[simp] theorem State.setGrid_inbox (s : State) (g : Nat) (x : Grid) : (s.setGrid g x).inbox = s.inbox := rfl
@[simp] theorem State.setGrid_peersIn (s : State) (g : Nat) (x : Grid) : (s.setGrid g x).peersIn = s.peersIn := rfl
@[simp] theorem State.setGrid_peerRefused (s : State) (g : Nat) (x : Grid) : (s.setGrid g x).peerRefused = s.peerRefused := rfl
@[simp] theorem State.setGrid_evSpill (s : State) (g : Nat) (x : Grid) : (s.setGrid g x).evSpill = s.evSpill := rfl
@[simp] theorem State.setGrid_evWaits (s : State) (g : Nat) (x : Grid) : (s.setGrid g x).evWaits = s.evWaits := rfl
@[simp] theorem State.setGrid_evWaitSpill (s : State) (g : Nat) (x : Grid) : (s.setGrid g x).evWaitSpill = s.evWaitSpill := rfl
@[simp] theorem State.setGrid_evSpills (s : State) (g : Nat) (x : Grid) : (s.setGrid g x).evSpills = s.evSpills := rfl
@[simp] theorem State.setGrid_cplDropped (s : State) (g : Nat) (x : Grid) : (s.setGrid g x).cplDropped = s.cplDropped := rfl
@[simp] theorem State.setGrid_cores (s : State) (g : Nat) (x : Grid) : (s.setGrid g x).cores = s.cores := rfl
@[simp] theorem State.setGrid_tlbs (s : State) (g : Nat) (x : Grid) : (s.setGrid g x).tlbs = s.tlbs := rfl
@[simp] theorem State.setGrid_contexts (s : State) (g : Nat) (x : Grid) : (s.setGrid g x).contexts = s.contexts := rfl
@[simp] theorem State.setGrid_groups (s : State) (g : Nat) (x : Grid) : (s.setGrid g x).groups = s.groups := rfl
@[simp] theorem State.setGrid_threads (s : State) (g : Nat) (x : Grid) : (s.setGrid g x).threads = s.threads := rfl

/-! ## setGroup -/

@[simp] theorem State.setGroup_agenda (s : State) (p : Nat) (x : Group) : (s.setGroup p x).agenda = s.agenda := rfl
@[simp] theorem State.setGroup_cur (s : State) (p : Nat) (x : Group) : (s.setGroup p x).cur = s.cur := rfl
@[simp] theorem State.setGroup_tick (s : State) (p : Nat) (x : Group) : (s.setGroup p x).tick = s.tick := rfl
@[simp] theorem State.setGroup_turn (s : State) (p : Nat) (x : Group) : (s.setGroup p x).turn = s.turn := rfl
@[simp] theorem State.setGroup_uid (s : State) (p : Nat) (x : Group) : (s.setGroup p x).uid = s.uid := rfl
@[simp] theorem State.setGroup_time (s : State) (p : Nat) (x : Group) : (s.setGroup p x).time = s.time := rfl
@[simp] theorem State.setGroup_mem (s : State) (p : Nat) (x : Group) : (s.setGroup p x).mem = s.mem := rfl
@[simp] theorem State.setGroup_hostMem (s : State) (p : Nat) (x : Group) : (s.setGroup p x).hostMem = s.hostMem := rfl
@[simp] theorem State.setGroup_flash (s : State) (p : Nat) (x : Group) : (s.setGroup p x).flash = s.flash := rfl
@[simp] theorem State.setGroup_badMem (s : State) (p : Nat) (x : Group) : (s.setGroup p x).badMem = s.badMem := rfl
@[simp] theorem State.setGroup_events (s : State) (p : Nat) (x : Group) : (s.setGroup p x).events = s.events := rfl
@[simp] theorem State.setGroup_taken (s : State) (p : Nat) (x : Group) : (s.setGroup p x).taken = s.taken := rfl
@[simp] theorem State.setGroup_rotation (s : State) (p : Nat) (x : Group) : (s.setGroup p x).rotation = s.rotation := rfl
@[simp] theorem State.setGroup_twins (s : State) (p : Nat) (x : Group) : (s.setGroup p x).twins = s.twins := rfl
@[simp] theorem State.setGroup_saves (s : State) (p : Nat) (x : Group) : (s.setGroup p x).saves = s.saves := rfl
@[simp] theorem State.setGroup_dies (s : State) (p : Nat) (x : Group) : (s.setGroup p x).dies = s.dies := rfl
@[simp] theorem State.setGroup_flues (s : State) (p : Nat) (x : Group) : (s.setGroup p x).flues = s.flues := rfl
@[simp] theorem State.setGroup_ports (s : State) (p : Nat) (x : Group) : (s.setGroup p x).ports = s.ports := rfl
@[simp] theorem State.setGroup_hbm (s : State) (p : Nat) (x : Group) : (s.setGroup p x).hbm = s.hbm := rfl
@[simp] theorem State.setGroup_hearths (s : State) (p : Nat) (x : Group) : (s.setGroup p x).hearths = s.hearths := rfl
@[simp] theorem State.setGroup_pipes (s : State) (p : Nat) (x : Group) : (s.setGroup p x).pipes = s.pipes := rfl
@[simp] theorem State.setGroup_badL3 (s : State) (p : Nat) (x : Group) : (s.setGroup p x).badL3 = s.badL3 := rfl
@[simp] theorem State.setGroup_caches (s : State) (p : Nat) (x : Group) : (s.setGroup p x).caches = s.caches := rfl
@[simp] theorem State.setGroup_heldRecs (s : State) (p : Nat) (x : Group) : (s.setGroup p x).heldRecs = s.heldRecs := rfl
@[simp] theorem State.setGroup_bootAttempts (s : State) (p : Nat) (x : Group) : (s.setGroup p x).bootAttempts = s.bootAttempts := rfl
@[simp] theorem State.setGroup_bootcause (s : State) (p : Nat) (x : Group) : (s.setGroup p x).bootcause = s.bootcause := rfl
@[simp] theorem State.setGroup_bootStage (s : State) (p : Nat) (x : Group) : (s.setGroup p x).bootStage = s.bootStage := rfl
@[simp] theorem State.setGroup_minimal (s : State) (p : Nat) (x : Group) : (s.setGroup p x).minimal = s.minimal := rfl
@[simp] theorem State.setGroup_bootStopped (s : State) (p : Nat) (x : Group) : (s.setGroup p x).bootStopped = s.bootStopped := rfl
@[simp] theorem State.setGroup_moduleId (s : State) (p : Nat) (x : Group) : (s.setGroup p x).moduleId = s.moduleId := rfl
@[simp] theorem State.setGroup_inbox (s : State) (p : Nat) (x : Group) : (s.setGroup p x).inbox = s.inbox := rfl
@[simp] theorem State.setGroup_peersIn (s : State) (p : Nat) (x : Group) : (s.setGroup p x).peersIn = s.peersIn := rfl
@[simp] theorem State.setGroup_peerRefused (s : State) (p : Nat) (x : Group) : (s.setGroup p x).peerRefused = s.peerRefused := rfl
@[simp] theorem State.setGroup_evSpill (s : State) (p : Nat) (x : Group) : (s.setGroup p x).evSpill = s.evSpill := rfl
@[simp] theorem State.setGroup_evWaits (s : State) (p : Nat) (x : Group) : (s.setGroup p x).evWaits = s.evWaits := rfl
@[simp] theorem State.setGroup_evWaitSpill (s : State) (p : Nat) (x : Group) : (s.setGroup p x).evWaitSpill = s.evWaitSpill := rfl
@[simp] theorem State.setGroup_evSpills (s : State) (p : Nat) (x : Group) : (s.setGroup p x).evSpills = s.evSpills := rfl
@[simp] theorem State.setGroup_cplDropped (s : State) (p : Nat) (x : Group) : (s.setGroup p x).cplDropped = s.cplDropped := rfl
@[simp] theorem State.setGroup_cores (s : State) (p : Nat) (x : Group) : (s.setGroup p x).cores = s.cores := rfl
@[simp] theorem State.setGroup_tlbs (s : State) (p : Nat) (x : Group) : (s.setGroup p x).tlbs = s.tlbs := rfl
@[simp] theorem State.setGroup_contexts (s : State) (p : Nat) (x : Group) : (s.setGroup p x).contexts = s.contexts := rfl
@[simp] theorem State.setGroup_grids (s : State) (p : Nat) (x : Group) : (s.setGroup p x).grids = s.grids := rfl
@[simp] theorem State.setGroup_threads (s : State) (p : Nat) (x : Group) : (s.setGroup p x).threads = s.threads := rfl

/-! ## setDie -/

@[simp] theorem State.setDie_agenda (s : State) (d : Nat) (x : Die) : (s.setDie d x).agenda = s.agenda := rfl
@[simp] theorem State.setDie_cur (s : State) (d : Nat) (x : Die) : (s.setDie d x).cur = s.cur := rfl
@[simp] theorem State.setDie_tick (s : State) (d : Nat) (x : Die) : (s.setDie d x).tick = s.tick := rfl
@[simp] theorem State.setDie_turn (s : State) (d : Nat) (x : Die) : (s.setDie d x).turn = s.turn := rfl
@[simp] theorem State.setDie_uid (s : State) (d : Nat) (x : Die) : (s.setDie d x).uid = s.uid := rfl
@[simp] theorem State.setDie_time (s : State) (d : Nat) (x : Die) : (s.setDie d x).time = s.time := rfl
@[simp] theorem State.setDie_mem (s : State) (d : Nat) (x : Die) : (s.setDie d x).mem = s.mem := rfl
@[simp] theorem State.setDie_hostMem (s : State) (d : Nat) (x : Die) : (s.setDie d x).hostMem = s.hostMem := rfl
@[simp] theorem State.setDie_flash (s : State) (d : Nat) (x : Die) : (s.setDie d x).flash = s.flash := rfl
@[simp] theorem State.setDie_badMem (s : State) (d : Nat) (x : Die) : (s.setDie d x).badMem = s.badMem := rfl
@[simp] theorem State.setDie_events (s : State) (d : Nat) (x : Die) : (s.setDie d x).events = s.events := rfl
@[simp] theorem State.setDie_taken (s : State) (d : Nat) (x : Die) : (s.setDie d x).taken = s.taken := rfl
@[simp] theorem State.setDie_rotation (s : State) (d : Nat) (x : Die) : (s.setDie d x).rotation = s.rotation := rfl
@[simp] theorem State.setDie_twins (s : State) (d : Nat) (x : Die) : (s.setDie d x).twins = s.twins := rfl
@[simp] theorem State.setDie_saves (s : State) (d : Nat) (x : Die) : (s.setDie d x).saves = s.saves := rfl
@[simp] theorem State.setDie_flues (s : State) (d : Nat) (x : Die) : (s.setDie d x).flues = s.flues := rfl
@[simp] theorem State.setDie_ports (s : State) (d : Nat) (x : Die) : (s.setDie d x).ports = s.ports := rfl
@[simp] theorem State.setDie_hbm (s : State) (d : Nat) (x : Die) : (s.setDie d x).hbm = s.hbm := rfl
@[simp] theorem State.setDie_hearths (s : State) (d : Nat) (x : Die) : (s.setDie d x).hearths = s.hearths := rfl
@[simp] theorem State.setDie_pipes (s : State) (d : Nat) (x : Die) : (s.setDie d x).pipes = s.pipes := rfl
@[simp] theorem State.setDie_badL3 (s : State) (d : Nat) (x : Die) : (s.setDie d x).badL3 = s.badL3 := rfl
@[simp] theorem State.setDie_caches (s : State) (d : Nat) (x : Die) : (s.setDie d x).caches = s.caches := rfl
@[simp] theorem State.setDie_heldRecs (s : State) (d : Nat) (x : Die) : (s.setDie d x).heldRecs = s.heldRecs := rfl
@[simp] theorem State.setDie_bootAttempts (s : State) (d : Nat) (x : Die) : (s.setDie d x).bootAttempts = s.bootAttempts := rfl
@[simp] theorem State.setDie_bootcause (s : State) (d : Nat) (x : Die) : (s.setDie d x).bootcause = s.bootcause := rfl
@[simp] theorem State.setDie_bootStage (s : State) (d : Nat) (x : Die) : (s.setDie d x).bootStage = s.bootStage := rfl
@[simp] theorem State.setDie_minimal (s : State) (d : Nat) (x : Die) : (s.setDie d x).minimal = s.minimal := rfl
@[simp] theorem State.setDie_bootStopped (s : State) (d : Nat) (x : Die) : (s.setDie d x).bootStopped = s.bootStopped := rfl
@[simp] theorem State.setDie_moduleId (s : State) (d : Nat) (x : Die) : (s.setDie d x).moduleId = s.moduleId := rfl
@[simp] theorem State.setDie_inbox (s : State) (d : Nat) (x : Die) : (s.setDie d x).inbox = s.inbox := rfl
@[simp] theorem State.setDie_peersIn (s : State) (d : Nat) (x : Die) : (s.setDie d x).peersIn = s.peersIn := rfl
@[simp] theorem State.setDie_peerRefused (s : State) (d : Nat) (x : Die) : (s.setDie d x).peerRefused = s.peerRefused := rfl
@[simp] theorem State.setDie_evSpill (s : State) (d : Nat) (x : Die) : (s.setDie d x).evSpill = s.evSpill := rfl
@[simp] theorem State.setDie_evWaits (s : State) (d : Nat) (x : Die) : (s.setDie d x).evWaits = s.evWaits := rfl
@[simp] theorem State.setDie_evWaitSpill (s : State) (d : Nat) (x : Die) : (s.setDie d x).evWaitSpill = s.evWaitSpill := rfl
@[simp] theorem State.setDie_evSpills (s : State) (d : Nat) (x : Die) : (s.setDie d x).evSpills = s.evSpills := rfl
@[simp] theorem State.setDie_cplDropped (s : State) (d : Nat) (x : Die) : (s.setDie d x).cplDropped = s.cplDropped := rfl
@[simp] theorem State.setDie_cores (s : State) (d : Nat) (x : Die) : (s.setDie d x).cores = s.cores := rfl
@[simp] theorem State.setDie_tlbs (s : State) (d : Nat) (x : Die) : (s.setDie d x).tlbs = s.tlbs := rfl
@[simp] theorem State.setDie_contexts (s : State) (d : Nat) (x : Die) : (s.setDie d x).contexts = s.contexts := rfl
@[simp] theorem State.setDie_grids (s : State) (d : Nat) (x : Die) : (s.setDie d x).grids = s.grids := rfl
@[simp] theorem State.setDie_groups (s : State) (d : Nat) (x : Die) : (s.setDie d x).groups = s.groups := rfl
@[simp] theorem State.setDie_threads (s : State) (d : Nat) (x : Die) : (s.setDie d x).threads = s.threads := rfl

/-! ## modDie -/

@[simp] theorem State.modDie_agenda (s : State) (d : Nat) (f : Die → Die) : (s.modDie d f).agenda = s.agenda := rfl
@[simp] theorem State.modDie_cur (s : State) (d : Nat) (f : Die → Die) : (s.modDie d f).cur = s.cur := rfl
@[simp] theorem State.modDie_tick (s : State) (d : Nat) (f : Die → Die) : (s.modDie d f).tick = s.tick := rfl
@[simp] theorem State.modDie_turn (s : State) (d : Nat) (f : Die → Die) : (s.modDie d f).turn = s.turn := rfl
@[simp] theorem State.modDie_uid (s : State) (d : Nat) (f : Die → Die) : (s.modDie d f).uid = s.uid := rfl
@[simp] theorem State.modDie_time (s : State) (d : Nat) (f : Die → Die) : (s.modDie d f).time = s.time := rfl
@[simp] theorem State.modDie_mem (s : State) (d : Nat) (f : Die → Die) : (s.modDie d f).mem = s.mem := rfl
@[simp] theorem State.modDie_hostMem (s : State) (d : Nat) (f : Die → Die) : (s.modDie d f).hostMem = s.hostMem := rfl
@[simp] theorem State.modDie_flash (s : State) (d : Nat) (f : Die → Die) : (s.modDie d f).flash = s.flash := rfl
@[simp] theorem State.modDie_badMem (s : State) (d : Nat) (f : Die → Die) : (s.modDie d f).badMem = s.badMem := rfl
@[simp] theorem State.modDie_events (s : State) (d : Nat) (f : Die → Die) : (s.modDie d f).events = s.events := rfl
@[simp] theorem State.modDie_taken (s : State) (d : Nat) (f : Die → Die) : (s.modDie d f).taken = s.taken := rfl
@[simp] theorem State.modDie_rotation (s : State) (d : Nat) (f : Die → Die) : (s.modDie d f).rotation = s.rotation := rfl
@[simp] theorem State.modDie_twins (s : State) (d : Nat) (f : Die → Die) : (s.modDie d f).twins = s.twins := rfl
@[simp] theorem State.modDie_saves (s : State) (d : Nat) (f : Die → Die) : (s.modDie d f).saves = s.saves := rfl
@[simp] theorem State.modDie_flues (s : State) (d : Nat) (f : Die → Die) : (s.modDie d f).flues = s.flues := rfl
@[simp] theorem State.modDie_ports (s : State) (d : Nat) (f : Die → Die) : (s.modDie d f).ports = s.ports := rfl
@[simp] theorem State.modDie_hbm (s : State) (d : Nat) (f : Die → Die) : (s.modDie d f).hbm = s.hbm := rfl
@[simp] theorem State.modDie_hearths (s : State) (d : Nat) (f : Die → Die) : (s.modDie d f).hearths = s.hearths := rfl
@[simp] theorem State.modDie_pipes (s : State) (d : Nat) (f : Die → Die) : (s.modDie d f).pipes = s.pipes := rfl
@[simp] theorem State.modDie_badL3 (s : State) (d : Nat) (f : Die → Die) : (s.modDie d f).badL3 = s.badL3 := rfl
@[simp] theorem State.modDie_caches (s : State) (d : Nat) (f : Die → Die) : (s.modDie d f).caches = s.caches := rfl
@[simp] theorem State.modDie_heldRecs (s : State) (d : Nat) (f : Die → Die) : (s.modDie d f).heldRecs = s.heldRecs := rfl
@[simp] theorem State.modDie_bootAttempts (s : State) (d : Nat) (f : Die → Die) : (s.modDie d f).bootAttempts = s.bootAttempts := rfl
@[simp] theorem State.modDie_bootcause (s : State) (d : Nat) (f : Die → Die) : (s.modDie d f).bootcause = s.bootcause := rfl
@[simp] theorem State.modDie_bootStage (s : State) (d : Nat) (f : Die → Die) : (s.modDie d f).bootStage = s.bootStage := rfl
@[simp] theorem State.modDie_minimal (s : State) (d : Nat) (f : Die → Die) : (s.modDie d f).minimal = s.minimal := rfl
@[simp] theorem State.modDie_bootStopped (s : State) (d : Nat) (f : Die → Die) : (s.modDie d f).bootStopped = s.bootStopped := rfl
@[simp] theorem State.modDie_moduleId (s : State) (d : Nat) (f : Die → Die) : (s.modDie d f).moduleId = s.moduleId := rfl
@[simp] theorem State.modDie_inbox (s : State) (d : Nat) (f : Die → Die) : (s.modDie d f).inbox = s.inbox := rfl
@[simp] theorem State.modDie_peersIn (s : State) (d : Nat) (f : Die → Die) : (s.modDie d f).peersIn = s.peersIn := rfl
@[simp] theorem State.modDie_peerRefused (s : State) (d : Nat) (f : Die → Die) : (s.modDie d f).peerRefused = s.peerRefused := rfl
@[simp] theorem State.modDie_evSpill (s : State) (d : Nat) (f : Die → Die) : (s.modDie d f).evSpill = s.evSpill := rfl
@[simp] theorem State.modDie_evWaits (s : State) (d : Nat) (f : Die → Die) : (s.modDie d f).evWaits = s.evWaits := rfl
@[simp] theorem State.modDie_evWaitSpill (s : State) (d : Nat) (f : Die → Die) : (s.modDie d f).evWaitSpill = s.evWaitSpill := rfl
@[simp] theorem State.modDie_evSpills (s : State) (d : Nat) (f : Die → Die) : (s.modDie d f).evSpills = s.evSpills := rfl
@[simp] theorem State.modDie_cplDropped (s : State) (d : Nat) (f : Die → Die) : (s.modDie d f).cplDropped = s.cplDropped := rfl
@[simp] theorem State.modDie_cores (s : State) (d : Nat) (f : Die → Die) : (s.modDie d f).cores = s.cores := rfl
@[simp] theorem State.modDie_tlbs (s : State) (d : Nat) (f : Die → Die) : (s.modDie d f).tlbs = s.tlbs := rfl
@[simp] theorem State.modDie_contexts (s : State) (d : Nat) (f : Die → Die) : (s.modDie d f).contexts = s.contexts := rfl
@[simp] theorem State.modDie_grids (s : State) (d : Nat) (f : Die → Die) : (s.modDie d f).grids = s.grids := rfl
@[simp] theorem State.modDie_groups (s : State) (d : Nat) (f : Die → Die) : (s.modDie d f).groups = s.groups := rfl
@[simp] theorem State.modDie_threads (s : State) (d : Nat) (f : Die → Die) : (s.modDie d f).threads = s.threads := rfl

/-! ## modFlue -/

@[simp] theorem State.modFlue_agenda (s : State) (f : Nat) (k : Flue → Flue) : (s.modFlue f k).agenda = s.agenda := rfl
@[simp] theorem State.modFlue_cur (s : State) (f : Nat) (k : Flue → Flue) : (s.modFlue f k).cur = s.cur := rfl
@[simp] theorem State.modFlue_tick (s : State) (f : Nat) (k : Flue → Flue) : (s.modFlue f k).tick = s.tick := rfl
@[simp] theorem State.modFlue_turn (s : State) (f : Nat) (k : Flue → Flue) : (s.modFlue f k).turn = s.turn := rfl
@[simp] theorem State.modFlue_uid (s : State) (f : Nat) (k : Flue → Flue) : (s.modFlue f k).uid = s.uid := rfl
@[simp] theorem State.modFlue_time (s : State) (f : Nat) (k : Flue → Flue) : (s.modFlue f k).time = s.time := rfl
@[simp] theorem State.modFlue_mem (s : State) (f : Nat) (k : Flue → Flue) : (s.modFlue f k).mem = s.mem := rfl
@[simp] theorem State.modFlue_hostMem (s : State) (f : Nat) (k : Flue → Flue) : (s.modFlue f k).hostMem = s.hostMem := rfl
@[simp] theorem State.modFlue_flash (s : State) (f : Nat) (k : Flue → Flue) : (s.modFlue f k).flash = s.flash := rfl
@[simp] theorem State.modFlue_badMem (s : State) (f : Nat) (k : Flue → Flue) : (s.modFlue f k).badMem = s.badMem := rfl
@[simp] theorem State.modFlue_events (s : State) (f : Nat) (k : Flue → Flue) : (s.modFlue f k).events = s.events := rfl
@[simp] theorem State.modFlue_taken (s : State) (f : Nat) (k : Flue → Flue) : (s.modFlue f k).taken = s.taken := rfl
@[simp] theorem State.modFlue_rotation (s : State) (f : Nat) (k : Flue → Flue) : (s.modFlue f k).rotation = s.rotation := rfl
@[simp] theorem State.modFlue_twins (s : State) (f : Nat) (k : Flue → Flue) : (s.modFlue f k).twins = s.twins := rfl
@[simp] theorem State.modFlue_saves (s : State) (f : Nat) (k : Flue → Flue) : (s.modFlue f k).saves = s.saves := rfl
@[simp] theorem State.modFlue_dies (s : State) (f : Nat) (k : Flue → Flue) : (s.modFlue f k).dies = s.dies := rfl
@[simp] theorem State.modFlue_ports (s : State) (f : Nat) (k : Flue → Flue) : (s.modFlue f k).ports = s.ports := rfl
@[simp] theorem State.modFlue_hbm (s : State) (f : Nat) (k : Flue → Flue) : (s.modFlue f k).hbm = s.hbm := rfl
@[simp] theorem State.modFlue_hearths (s : State) (f : Nat) (k : Flue → Flue) : (s.modFlue f k).hearths = s.hearths := rfl
@[simp] theorem State.modFlue_pipes (s : State) (f : Nat) (k : Flue → Flue) : (s.modFlue f k).pipes = s.pipes := rfl
@[simp] theorem State.modFlue_badL3 (s : State) (f : Nat) (k : Flue → Flue) : (s.modFlue f k).badL3 = s.badL3 := rfl
@[simp] theorem State.modFlue_caches (s : State) (f : Nat) (k : Flue → Flue) : (s.modFlue f k).caches = s.caches := rfl
@[simp] theorem State.modFlue_heldRecs (s : State) (f : Nat) (k : Flue → Flue) : (s.modFlue f k).heldRecs = s.heldRecs := rfl
@[simp] theorem State.modFlue_bootAttempts (s : State) (f : Nat) (k : Flue → Flue) : (s.modFlue f k).bootAttempts = s.bootAttempts := rfl
@[simp] theorem State.modFlue_bootcause (s : State) (f : Nat) (k : Flue → Flue) : (s.modFlue f k).bootcause = s.bootcause := rfl
@[simp] theorem State.modFlue_bootStage (s : State) (f : Nat) (k : Flue → Flue) : (s.modFlue f k).bootStage = s.bootStage := rfl
@[simp] theorem State.modFlue_minimal (s : State) (f : Nat) (k : Flue → Flue) : (s.modFlue f k).minimal = s.minimal := rfl
@[simp] theorem State.modFlue_bootStopped (s : State) (f : Nat) (k : Flue → Flue) : (s.modFlue f k).bootStopped = s.bootStopped := rfl
@[simp] theorem State.modFlue_moduleId (s : State) (f : Nat) (k : Flue → Flue) : (s.modFlue f k).moduleId = s.moduleId := rfl
@[simp] theorem State.modFlue_inbox (s : State) (f : Nat) (k : Flue → Flue) : (s.modFlue f k).inbox = s.inbox := rfl
@[simp] theorem State.modFlue_peersIn (s : State) (f : Nat) (k : Flue → Flue) : (s.modFlue f k).peersIn = s.peersIn := rfl
@[simp] theorem State.modFlue_peerRefused (s : State) (f : Nat) (k : Flue → Flue) : (s.modFlue f k).peerRefused = s.peerRefused := rfl
@[simp] theorem State.modFlue_evSpill (s : State) (f : Nat) (k : Flue → Flue) : (s.modFlue f k).evSpill = s.evSpill := rfl
@[simp] theorem State.modFlue_evWaits (s : State) (f : Nat) (k : Flue → Flue) : (s.modFlue f k).evWaits = s.evWaits := rfl
@[simp] theorem State.modFlue_evWaitSpill (s : State) (f : Nat) (k : Flue → Flue) : (s.modFlue f k).evWaitSpill = s.evWaitSpill := rfl
@[simp] theorem State.modFlue_evSpills (s : State) (f : Nat) (k : Flue → Flue) : (s.modFlue f k).evSpills = s.evSpills := rfl
@[simp] theorem State.modFlue_cplDropped (s : State) (f : Nat) (k : Flue → Flue) : (s.modFlue f k).cplDropped = s.cplDropped := rfl
@[simp] theorem State.modFlue_cores (s : State) (f : Nat) (k : Flue → Flue) : (s.modFlue f k).cores = s.cores := rfl
@[simp] theorem State.modFlue_tlbs (s : State) (f : Nat) (k : Flue → Flue) : (s.modFlue f k).tlbs = s.tlbs := rfl
@[simp] theorem State.modFlue_contexts (s : State) (f : Nat) (k : Flue → Flue) : (s.modFlue f k).contexts = s.contexts := rfl
@[simp] theorem State.modFlue_grids (s : State) (f : Nat) (k : Flue → Flue) : (s.modFlue f k).grids = s.grids := rfl
@[simp] theorem State.modFlue_groups (s : State) (f : Nat) (k : Flue → Flue) : (s.modFlue f k).groups = s.groups := rfl
@[simp] theorem State.modFlue_threads (s : State) (f : Nat) (k : Flue → Flue) : (s.modFlue f k).threads = s.threads := rfl

/-! ## setHearth -/

@[simp] theorem State.setHearth_agenda (s : State) (h : Nat) (x : Hearth) : (s.setHearth h x).agenda = s.agenda := rfl
@[simp] theorem State.setHearth_cur (s : State) (h : Nat) (x : Hearth) : (s.setHearth h x).cur = s.cur := rfl
@[simp] theorem State.setHearth_tick (s : State) (h : Nat) (x : Hearth) : (s.setHearth h x).tick = s.tick := rfl
@[simp] theorem State.setHearth_turn (s : State) (h : Nat) (x : Hearth) : (s.setHearth h x).turn = s.turn := rfl
@[simp] theorem State.setHearth_uid (s : State) (h : Nat) (x : Hearth) : (s.setHearth h x).uid = s.uid := rfl
@[simp] theorem State.setHearth_time (s : State) (h : Nat) (x : Hearth) : (s.setHearth h x).time = s.time := rfl
@[simp] theorem State.setHearth_mem (s : State) (h : Nat) (x : Hearth) : (s.setHearth h x).mem = s.mem := rfl
@[simp] theorem State.setHearth_hostMem (s : State) (h : Nat) (x : Hearth) : (s.setHearth h x).hostMem = s.hostMem := rfl
@[simp] theorem State.setHearth_flash (s : State) (h : Nat) (x : Hearth) : (s.setHearth h x).flash = s.flash := rfl
@[simp] theorem State.setHearth_badMem (s : State) (h : Nat) (x : Hearth) : (s.setHearth h x).badMem = s.badMem := rfl
@[simp] theorem State.setHearth_events (s : State) (h : Nat) (x : Hearth) : (s.setHearth h x).events = s.events := rfl
@[simp] theorem State.setHearth_taken (s : State) (h : Nat) (x : Hearth) : (s.setHearth h x).taken = s.taken := rfl
@[simp] theorem State.setHearth_rotation (s : State) (h : Nat) (x : Hearth) : (s.setHearth h x).rotation = s.rotation := rfl
@[simp] theorem State.setHearth_twins (s : State) (h : Nat) (x : Hearth) : (s.setHearth h x).twins = s.twins := rfl
@[simp] theorem State.setHearth_saves (s : State) (h : Nat) (x : Hearth) : (s.setHearth h x).saves = s.saves := rfl
@[simp] theorem State.setHearth_dies (s : State) (h : Nat) (x : Hearth) : (s.setHearth h x).dies = s.dies := rfl
@[simp] theorem State.setHearth_flues (s : State) (h : Nat) (x : Hearth) : (s.setHearth h x).flues = s.flues := rfl
@[simp] theorem State.setHearth_ports (s : State) (h : Nat) (x : Hearth) : (s.setHearth h x).ports = s.ports := rfl
@[simp] theorem State.setHearth_hbm (s : State) (h : Nat) (x : Hearth) : (s.setHearth h x).hbm = s.hbm := rfl
@[simp] theorem State.setHearth_pipes (s : State) (h : Nat) (x : Hearth) : (s.setHearth h x).pipes = s.pipes := rfl
@[simp] theorem State.setHearth_badL3 (s : State) (h : Nat) (x : Hearth) : (s.setHearth h x).badL3 = s.badL3 := rfl
@[simp] theorem State.setHearth_caches (s : State) (h : Nat) (x : Hearth) : (s.setHearth h x).caches = s.caches := rfl
@[simp] theorem State.setHearth_heldRecs (s : State) (h : Nat) (x : Hearth) : (s.setHearth h x).heldRecs = s.heldRecs := rfl
@[simp] theorem State.setHearth_bootAttempts (s : State) (h : Nat) (x : Hearth) : (s.setHearth h x).bootAttempts = s.bootAttempts := rfl
@[simp] theorem State.setHearth_bootcause (s : State) (h : Nat) (x : Hearth) : (s.setHearth h x).bootcause = s.bootcause := rfl
@[simp] theorem State.setHearth_bootStage (s : State) (h : Nat) (x : Hearth) : (s.setHearth h x).bootStage = s.bootStage := rfl
@[simp] theorem State.setHearth_minimal (s : State) (h : Nat) (x : Hearth) : (s.setHearth h x).minimal = s.minimal := rfl
@[simp] theorem State.setHearth_bootStopped (s : State) (h : Nat) (x : Hearth) : (s.setHearth h x).bootStopped = s.bootStopped := rfl
@[simp] theorem State.setHearth_moduleId (s : State) (h : Nat) (x : Hearth) : (s.setHearth h x).moduleId = s.moduleId := rfl
@[simp] theorem State.setHearth_inbox (s : State) (h : Nat) (x : Hearth) : (s.setHearth h x).inbox = s.inbox := rfl
@[simp] theorem State.setHearth_peersIn (s : State) (h : Nat) (x : Hearth) : (s.setHearth h x).peersIn = s.peersIn := rfl
@[simp] theorem State.setHearth_peerRefused (s : State) (h : Nat) (x : Hearth) : (s.setHearth h x).peerRefused = s.peerRefused := rfl
@[simp] theorem State.setHearth_evSpill (s : State) (h : Nat) (x : Hearth) : (s.setHearth h x).evSpill = s.evSpill := rfl
@[simp] theorem State.setHearth_evWaits (s : State) (h : Nat) (x : Hearth) : (s.setHearth h x).evWaits = s.evWaits := rfl
@[simp] theorem State.setHearth_evWaitSpill (s : State) (h : Nat) (x : Hearth) : (s.setHearth h x).evWaitSpill = s.evWaitSpill := rfl
@[simp] theorem State.setHearth_evSpills (s : State) (h : Nat) (x : Hearth) : (s.setHearth h x).evSpills = s.evSpills := rfl
@[simp] theorem State.setHearth_cplDropped (s : State) (h : Nat) (x : Hearth) : (s.setHearth h x).cplDropped = s.cplDropped := rfl
@[simp] theorem State.setHearth_cores (s : State) (h : Nat) (x : Hearth) : (s.setHearth h x).cores = s.cores := rfl
@[simp] theorem State.setHearth_tlbs (s : State) (h : Nat) (x : Hearth) : (s.setHearth h x).tlbs = s.tlbs := rfl
@[simp] theorem State.setHearth_contexts (s : State) (h : Nat) (x : Hearth) : (s.setHearth h x).contexts = s.contexts := rfl
@[simp] theorem State.setHearth_grids (s : State) (h : Nat) (x : Hearth) : (s.setHearth h x).grids = s.grids := rfl
@[simp] theorem State.setHearth_groups (s : State) (h : Nat) (x : Hearth) : (s.setHearth h x).groups = s.groups := rfl
@[simp] theorem State.setHearth_threads (s : State) (h : Nat) (x : Hearth) : (s.setHearth h x).threads = s.threads := rfl

/-! ## modHearth -/

@[simp] theorem State.modHearth_agenda (s : State) (h : Nat) (f : Hearth → Hearth) : (s.modHearth h f).agenda = s.agenda := rfl
@[simp] theorem State.modHearth_cur (s : State) (h : Nat) (f : Hearth → Hearth) : (s.modHearth h f).cur = s.cur := rfl
@[simp] theorem State.modHearth_tick (s : State) (h : Nat) (f : Hearth → Hearth) : (s.modHearth h f).tick = s.tick := rfl
@[simp] theorem State.modHearth_turn (s : State) (h : Nat) (f : Hearth → Hearth) : (s.modHearth h f).turn = s.turn := rfl
@[simp] theorem State.modHearth_uid (s : State) (h : Nat) (f : Hearth → Hearth) : (s.modHearth h f).uid = s.uid := rfl
@[simp] theorem State.modHearth_time (s : State) (h : Nat) (f : Hearth → Hearth) : (s.modHearth h f).time = s.time := rfl
@[simp] theorem State.modHearth_mem (s : State) (h : Nat) (f : Hearth → Hearth) : (s.modHearth h f).mem = s.mem := rfl
@[simp] theorem State.modHearth_hostMem (s : State) (h : Nat) (f : Hearth → Hearth) : (s.modHearth h f).hostMem = s.hostMem := rfl
@[simp] theorem State.modHearth_flash (s : State) (h : Nat) (f : Hearth → Hearth) : (s.modHearth h f).flash = s.flash := rfl
@[simp] theorem State.modHearth_badMem (s : State) (h : Nat) (f : Hearth → Hearth) : (s.modHearth h f).badMem = s.badMem := rfl
@[simp] theorem State.modHearth_events (s : State) (h : Nat) (f : Hearth → Hearth) : (s.modHearth h f).events = s.events := rfl
@[simp] theorem State.modHearth_taken (s : State) (h : Nat) (f : Hearth → Hearth) : (s.modHearth h f).taken = s.taken := rfl
@[simp] theorem State.modHearth_rotation (s : State) (h : Nat) (f : Hearth → Hearth) : (s.modHearth h f).rotation = s.rotation := rfl
@[simp] theorem State.modHearth_twins (s : State) (h : Nat) (f : Hearth → Hearth) : (s.modHearth h f).twins = s.twins := rfl
@[simp] theorem State.modHearth_saves (s : State) (h : Nat) (f : Hearth → Hearth) : (s.modHearth h f).saves = s.saves := rfl
@[simp] theorem State.modHearth_dies (s : State) (h : Nat) (f : Hearth → Hearth) : (s.modHearth h f).dies = s.dies := rfl
@[simp] theorem State.modHearth_flues (s : State) (h : Nat) (f : Hearth → Hearth) : (s.modHearth h f).flues = s.flues := rfl
@[simp] theorem State.modHearth_ports (s : State) (h : Nat) (f : Hearth → Hearth) : (s.modHearth h f).ports = s.ports := rfl
@[simp] theorem State.modHearth_hbm (s : State) (h : Nat) (f : Hearth → Hearth) : (s.modHearth h f).hbm = s.hbm := rfl
@[simp] theorem State.modHearth_pipes (s : State) (h : Nat) (f : Hearth → Hearth) : (s.modHearth h f).pipes = s.pipes := rfl
@[simp] theorem State.modHearth_badL3 (s : State) (h : Nat) (f : Hearth → Hearth) : (s.modHearth h f).badL3 = s.badL3 := rfl
@[simp] theorem State.modHearth_caches (s : State) (h : Nat) (f : Hearth → Hearth) : (s.modHearth h f).caches = s.caches := rfl
@[simp] theorem State.modHearth_heldRecs (s : State) (h : Nat) (f : Hearth → Hearth) : (s.modHearth h f).heldRecs = s.heldRecs := rfl
@[simp] theorem State.modHearth_bootAttempts (s : State) (h : Nat) (f : Hearth → Hearth) : (s.modHearth h f).bootAttempts = s.bootAttempts := rfl
@[simp] theorem State.modHearth_bootcause (s : State) (h : Nat) (f : Hearth → Hearth) : (s.modHearth h f).bootcause = s.bootcause := rfl
@[simp] theorem State.modHearth_bootStage (s : State) (h : Nat) (f : Hearth → Hearth) : (s.modHearth h f).bootStage = s.bootStage := rfl
@[simp] theorem State.modHearth_minimal (s : State) (h : Nat) (f : Hearth → Hearth) : (s.modHearth h f).minimal = s.minimal := rfl
@[simp] theorem State.modHearth_bootStopped (s : State) (h : Nat) (f : Hearth → Hearth) : (s.modHearth h f).bootStopped = s.bootStopped := rfl
@[simp] theorem State.modHearth_moduleId (s : State) (h : Nat) (f : Hearth → Hearth) : (s.modHearth h f).moduleId = s.moduleId := rfl
@[simp] theorem State.modHearth_inbox (s : State) (h : Nat) (f : Hearth → Hearth) : (s.modHearth h f).inbox = s.inbox := rfl
@[simp] theorem State.modHearth_peersIn (s : State) (h : Nat) (f : Hearth → Hearth) : (s.modHearth h f).peersIn = s.peersIn := rfl
@[simp] theorem State.modHearth_peerRefused (s : State) (h : Nat) (f : Hearth → Hearth) : (s.modHearth h f).peerRefused = s.peerRefused := rfl
@[simp] theorem State.modHearth_evSpill (s : State) (h : Nat) (f : Hearth → Hearth) : (s.modHearth h f).evSpill = s.evSpill := rfl
@[simp] theorem State.modHearth_evWaits (s : State) (h : Nat) (f : Hearth → Hearth) : (s.modHearth h f).evWaits = s.evWaits := rfl
@[simp] theorem State.modHearth_evWaitSpill (s : State) (h : Nat) (f : Hearth → Hearth) : (s.modHearth h f).evWaitSpill = s.evWaitSpill := rfl
@[simp] theorem State.modHearth_evSpills (s : State) (h : Nat) (f : Hearth → Hearth) : (s.modHearth h f).evSpills = s.evSpills := rfl
@[simp] theorem State.modHearth_cplDropped (s : State) (h : Nat) (f : Hearth → Hearth) : (s.modHearth h f).cplDropped = s.cplDropped := rfl
@[simp] theorem State.modHearth_cores (s : State) (h : Nat) (f : Hearth → Hearth) : (s.modHearth h f).cores = s.cores := rfl
@[simp] theorem State.modHearth_tlbs (s : State) (h : Nat) (f : Hearth → Hearth) : (s.modHearth h f).tlbs = s.tlbs := rfl
@[simp] theorem State.modHearth_contexts (s : State) (h : Nat) (f : Hearth → Hearth) : (s.modHearth h f).contexts = s.contexts := rfl
@[simp] theorem State.modHearth_grids (s : State) (h : Nat) (f : Hearth → Hearth) : (s.modHearth h f).grids = s.grids := rfl
@[simp] theorem State.modHearth_groups (s : State) (h : Nat) (f : Hearth → Hearth) : (s.modHearth h f).groups = s.groups := rfl
@[simp] theorem State.modHearth_threads (s : State) (h : Nat) (f : Hearth → Hearth) : (s.modHearth h f).threads = s.threads := rfl

/-! ## modThread -/

@[simp] theorem State.modThread_agenda (s : State) (t : Nat) (f : Thread → Thread) : (s.modThread t f).agenda = s.agenda := by
  unfold State.modThread; split <;> rfl
@[simp] theorem State.modThread_cur (s : State) (t : Nat) (f : Thread → Thread) : (s.modThread t f).cur = s.cur := by
  unfold State.modThread; split <;> rfl
@[simp] theorem State.modThread_tick (s : State) (t : Nat) (f : Thread → Thread) : (s.modThread t f).tick = s.tick := by
  unfold State.modThread; split <;> rfl
@[simp] theorem State.modThread_turn (s : State) (t : Nat) (f : Thread → Thread) : (s.modThread t f).turn = s.turn := by
  unfold State.modThread; split <;> rfl
@[simp] theorem State.modThread_uid (s : State) (t : Nat) (f : Thread → Thread) : (s.modThread t f).uid = s.uid := by
  unfold State.modThread; split <;> rfl
@[simp] theorem State.modThread_time (s : State) (t : Nat) (f : Thread → Thread) : (s.modThread t f).time = s.time := by
  unfold State.modThread; split <;> rfl
@[simp] theorem State.modThread_mem (s : State) (t : Nat) (f : Thread → Thread) : (s.modThread t f).mem = s.mem := by
  unfold State.modThread; split <;> rfl
@[simp] theorem State.modThread_hostMem (s : State) (t : Nat) (f : Thread → Thread) : (s.modThread t f).hostMem = s.hostMem := by
  unfold State.modThread; split <;> rfl
@[simp] theorem State.modThread_flash (s : State) (t : Nat) (f : Thread → Thread) : (s.modThread t f).flash = s.flash := by
  unfold State.modThread; split <;> rfl
@[simp] theorem State.modThread_badMem (s : State) (t : Nat) (f : Thread → Thread) : (s.modThread t f).badMem = s.badMem := by
  unfold State.modThread; split <;> rfl
@[simp] theorem State.modThread_events (s : State) (t : Nat) (f : Thread → Thread) : (s.modThread t f).events = s.events := by
  unfold State.modThread; split <;> rfl
@[simp] theorem State.modThread_taken (s : State) (t : Nat) (f : Thread → Thread) : (s.modThread t f).taken = s.taken := by
  unfold State.modThread; split <;> rfl
@[simp] theorem State.modThread_rotation (s : State) (t : Nat) (f : Thread → Thread) : (s.modThread t f).rotation = s.rotation := by
  unfold State.modThread; split <;> rfl
@[simp] theorem State.modThread_twins (s : State) (t : Nat) (f : Thread → Thread) : (s.modThread t f).twins = s.twins := by
  unfold State.modThread; split <;> rfl
@[simp] theorem State.modThread_saves (s : State) (t : Nat) (f : Thread → Thread) : (s.modThread t f).saves = s.saves := by
  unfold State.modThread; split <;> rfl
@[simp] theorem State.modThread_dies (s : State) (t : Nat) (f : Thread → Thread) : (s.modThread t f).dies = s.dies := by
  unfold State.modThread; split <;> rfl
@[simp] theorem State.modThread_flues (s : State) (t : Nat) (f : Thread → Thread) : (s.modThread t f).flues = s.flues := by
  unfold State.modThread; split <;> rfl
@[simp] theorem State.modThread_ports (s : State) (t : Nat) (f : Thread → Thread) : (s.modThread t f).ports = s.ports := by
  unfold State.modThread; split <;> rfl
@[simp] theorem State.modThread_hbm (s : State) (t : Nat) (f : Thread → Thread) : (s.modThread t f).hbm = s.hbm := by
  unfold State.modThread; split <;> rfl
@[simp] theorem State.modThread_hearths (s : State) (t : Nat) (f : Thread → Thread) : (s.modThread t f).hearths = s.hearths := by
  unfold State.modThread; split <;> rfl
@[simp] theorem State.modThread_pipes (s : State) (t : Nat) (f : Thread → Thread) : (s.modThread t f).pipes = s.pipes := by
  unfold State.modThread; split <;> rfl
@[simp] theorem State.modThread_badL3 (s : State) (t : Nat) (f : Thread → Thread) : (s.modThread t f).badL3 = s.badL3 := by
  unfold State.modThread; split <;> rfl
@[simp] theorem State.modThread_caches (s : State) (t : Nat) (f : Thread → Thread) : (s.modThread t f).caches = s.caches := by
  unfold State.modThread; split <;> rfl
@[simp] theorem State.modThread_heldRecs (s : State) (t : Nat) (f : Thread → Thread) : (s.modThread t f).heldRecs = s.heldRecs := by
  unfold State.modThread; split <;> rfl
@[simp] theorem State.modThread_bootAttempts (s : State) (t : Nat) (f : Thread → Thread) : (s.modThread t f).bootAttempts = s.bootAttempts := by
  unfold State.modThread; split <;> rfl
@[simp] theorem State.modThread_bootcause (s : State) (t : Nat) (f : Thread → Thread) : (s.modThread t f).bootcause = s.bootcause := by
  unfold State.modThread; split <;> rfl
@[simp] theorem State.modThread_bootStage (s : State) (t : Nat) (f : Thread → Thread) : (s.modThread t f).bootStage = s.bootStage := by
  unfold State.modThread; split <;> rfl
@[simp] theorem State.modThread_minimal (s : State) (t : Nat) (f : Thread → Thread) : (s.modThread t f).minimal = s.minimal := by
  unfold State.modThread; split <;> rfl
@[simp] theorem State.modThread_bootStopped (s : State) (t : Nat) (f : Thread → Thread) : (s.modThread t f).bootStopped = s.bootStopped := by
  unfold State.modThread; split <;> rfl
@[simp] theorem State.modThread_moduleId (s : State) (t : Nat) (f : Thread → Thread) : (s.modThread t f).moduleId = s.moduleId := by
  unfold State.modThread; split <;> rfl
@[simp] theorem State.modThread_inbox (s : State) (t : Nat) (f : Thread → Thread) : (s.modThread t f).inbox = s.inbox := by
  unfold State.modThread; split <;> rfl
@[simp] theorem State.modThread_peersIn (s : State) (t : Nat) (f : Thread → Thread) : (s.modThread t f).peersIn = s.peersIn := by
  unfold State.modThread; split <;> rfl
@[simp] theorem State.modThread_peerRefused (s : State) (t : Nat) (f : Thread → Thread) : (s.modThread t f).peerRefused = s.peerRefused := by
  unfold State.modThread; split <;> rfl
@[simp] theorem State.modThread_evSpill (s : State) (t : Nat) (f : Thread → Thread) : (s.modThread t f).evSpill = s.evSpill := by
  unfold State.modThread; split <;> rfl
@[simp] theorem State.modThread_evWaits (s : State) (t : Nat) (f : Thread → Thread) : (s.modThread t f).evWaits = s.evWaits := by
  unfold State.modThread; split <;> rfl
@[simp] theorem State.modThread_evWaitSpill (s : State) (t : Nat) (f : Thread → Thread) : (s.modThread t f).evWaitSpill = s.evWaitSpill := by
  unfold State.modThread; split <;> rfl
@[simp] theorem State.modThread_evSpills (s : State) (t : Nat) (f : Thread → Thread) : (s.modThread t f).evSpills = s.evSpills := by
  unfold State.modThread; split <;> rfl
@[simp] theorem State.modThread_cplDropped (s : State) (t : Nat) (f : Thread → Thread) : (s.modThread t f).cplDropped = s.cplDropped := by
  unfold State.modThread; split <;> rfl
@[simp] theorem State.modThread_cores (s : State) (t : Nat) (f : Thread → Thread) : (s.modThread t f).cores = s.cores := by
  unfold State.modThread; split <;> rfl
@[simp] theorem State.modThread_tlbs (s : State) (t : Nat) (f : Thread → Thread) : (s.modThread t f).tlbs = s.tlbs := by
  unfold State.modThread; split <;> rfl
@[simp] theorem State.modThread_contexts (s : State) (t : Nat) (f : Thread → Thread) : (s.modThread t f).contexts = s.contexts := by
  unfold State.modThread; split <;> rfl
@[simp] theorem State.modThread_grids (s : State) (t : Nat) (f : Thread → Thread) : (s.modThread t f).grids = s.grids := by
  unfold State.modThread; split <;> rfl
@[simp] theorem State.modThread_groups (s : State) (t : Nat) (f : Thread → Thread) : (s.modThread t f).groups = s.groups := by
  unfold State.modThread; split <;> rfl

/-! ## modContext -/

@[simp] theorem State.modContext_agenda (s : State) (c : Nat) (f : Context → Context) : (s.modContext c f).agenda = s.agenda := by
  unfold State.modContext; split <;> rfl
@[simp] theorem State.modContext_cur (s : State) (c : Nat) (f : Context → Context) : (s.modContext c f).cur = s.cur := by
  unfold State.modContext; split <;> rfl
@[simp] theorem State.modContext_tick (s : State) (c : Nat) (f : Context → Context) : (s.modContext c f).tick = s.tick := by
  unfold State.modContext; split <;> rfl
@[simp] theorem State.modContext_turn (s : State) (c : Nat) (f : Context → Context) : (s.modContext c f).turn = s.turn := by
  unfold State.modContext; split <;> rfl
@[simp] theorem State.modContext_uid (s : State) (c : Nat) (f : Context → Context) : (s.modContext c f).uid = s.uid := by
  unfold State.modContext; split <;> rfl
@[simp] theorem State.modContext_time (s : State) (c : Nat) (f : Context → Context) : (s.modContext c f).time = s.time := by
  unfold State.modContext; split <;> rfl
@[simp] theorem State.modContext_mem (s : State) (c : Nat) (f : Context → Context) : (s.modContext c f).mem = s.mem := by
  unfold State.modContext; split <;> rfl
@[simp] theorem State.modContext_hostMem (s : State) (c : Nat) (f : Context → Context) : (s.modContext c f).hostMem = s.hostMem := by
  unfold State.modContext; split <;> rfl
@[simp] theorem State.modContext_flash (s : State) (c : Nat) (f : Context → Context) : (s.modContext c f).flash = s.flash := by
  unfold State.modContext; split <;> rfl
@[simp] theorem State.modContext_badMem (s : State) (c : Nat) (f : Context → Context) : (s.modContext c f).badMem = s.badMem := by
  unfold State.modContext; split <;> rfl
@[simp] theorem State.modContext_events (s : State) (c : Nat) (f : Context → Context) : (s.modContext c f).events = s.events := by
  unfold State.modContext; split <;> rfl
@[simp] theorem State.modContext_taken (s : State) (c : Nat) (f : Context → Context) : (s.modContext c f).taken = s.taken := by
  unfold State.modContext; split <;> rfl
@[simp] theorem State.modContext_rotation (s : State) (c : Nat) (f : Context → Context) : (s.modContext c f).rotation = s.rotation := by
  unfold State.modContext; split <;> rfl
@[simp] theorem State.modContext_twins (s : State) (c : Nat) (f : Context → Context) : (s.modContext c f).twins = s.twins := by
  unfold State.modContext; split <;> rfl
@[simp] theorem State.modContext_saves (s : State) (c : Nat) (f : Context → Context) : (s.modContext c f).saves = s.saves := by
  unfold State.modContext; split <;> rfl
@[simp] theorem State.modContext_dies (s : State) (c : Nat) (f : Context → Context) : (s.modContext c f).dies = s.dies := by
  unfold State.modContext; split <;> rfl
@[simp] theorem State.modContext_flues (s : State) (c : Nat) (f : Context → Context) : (s.modContext c f).flues = s.flues := by
  unfold State.modContext; split <;> rfl
@[simp] theorem State.modContext_ports (s : State) (c : Nat) (f : Context → Context) : (s.modContext c f).ports = s.ports := by
  unfold State.modContext; split <;> rfl
@[simp] theorem State.modContext_hbm (s : State) (c : Nat) (f : Context → Context) : (s.modContext c f).hbm = s.hbm := by
  unfold State.modContext; split <;> rfl
@[simp] theorem State.modContext_hearths (s : State) (c : Nat) (f : Context → Context) : (s.modContext c f).hearths = s.hearths := by
  unfold State.modContext; split <;> rfl
@[simp] theorem State.modContext_pipes (s : State) (c : Nat) (f : Context → Context) : (s.modContext c f).pipes = s.pipes := by
  unfold State.modContext; split <;> rfl
@[simp] theorem State.modContext_badL3 (s : State) (c : Nat) (f : Context → Context) : (s.modContext c f).badL3 = s.badL3 := by
  unfold State.modContext; split <;> rfl
@[simp] theorem State.modContext_caches (s : State) (c : Nat) (f : Context → Context) : (s.modContext c f).caches = s.caches := by
  unfold State.modContext; split <;> rfl
@[simp] theorem State.modContext_heldRecs (s : State) (c : Nat) (f : Context → Context) : (s.modContext c f).heldRecs = s.heldRecs := by
  unfold State.modContext; split <;> rfl
@[simp] theorem State.modContext_bootAttempts (s : State) (c : Nat) (f : Context → Context) : (s.modContext c f).bootAttempts = s.bootAttempts := by
  unfold State.modContext; split <;> rfl
@[simp] theorem State.modContext_bootcause (s : State) (c : Nat) (f : Context → Context) : (s.modContext c f).bootcause = s.bootcause := by
  unfold State.modContext; split <;> rfl
@[simp] theorem State.modContext_bootStage (s : State) (c : Nat) (f : Context → Context) : (s.modContext c f).bootStage = s.bootStage := by
  unfold State.modContext; split <;> rfl
@[simp] theorem State.modContext_minimal (s : State) (c : Nat) (f : Context → Context) : (s.modContext c f).minimal = s.minimal := by
  unfold State.modContext; split <;> rfl
@[simp] theorem State.modContext_bootStopped (s : State) (c : Nat) (f : Context → Context) : (s.modContext c f).bootStopped = s.bootStopped := by
  unfold State.modContext; split <;> rfl
@[simp] theorem State.modContext_moduleId (s : State) (c : Nat) (f : Context → Context) : (s.modContext c f).moduleId = s.moduleId := by
  unfold State.modContext; split <;> rfl
@[simp] theorem State.modContext_inbox (s : State) (c : Nat) (f : Context → Context) : (s.modContext c f).inbox = s.inbox := by
  unfold State.modContext; split <;> rfl
@[simp] theorem State.modContext_peersIn (s : State) (c : Nat) (f : Context → Context) : (s.modContext c f).peersIn = s.peersIn := by
  unfold State.modContext; split <;> rfl
@[simp] theorem State.modContext_peerRefused (s : State) (c : Nat) (f : Context → Context) : (s.modContext c f).peerRefused = s.peerRefused := by
  unfold State.modContext; split <;> rfl
@[simp] theorem State.modContext_evSpill (s : State) (c : Nat) (f : Context → Context) : (s.modContext c f).evSpill = s.evSpill := by
  unfold State.modContext; split <;> rfl
@[simp] theorem State.modContext_evWaits (s : State) (c : Nat) (f : Context → Context) : (s.modContext c f).evWaits = s.evWaits := by
  unfold State.modContext; split <;> rfl
@[simp] theorem State.modContext_evWaitSpill (s : State) (c : Nat) (f : Context → Context) : (s.modContext c f).evWaitSpill = s.evWaitSpill := by
  unfold State.modContext; split <;> rfl
@[simp] theorem State.modContext_evSpills (s : State) (c : Nat) (f : Context → Context) : (s.modContext c f).evSpills = s.evSpills := by
  unfold State.modContext; split <;> rfl
@[simp] theorem State.modContext_cplDropped (s : State) (c : Nat) (f : Context → Context) : (s.modContext c f).cplDropped = s.cplDropped := by
  unfold State.modContext; split <;> rfl
@[simp] theorem State.modContext_cores (s : State) (c : Nat) (f : Context → Context) : (s.modContext c f).cores = s.cores := by
  unfold State.modContext; split <;> rfl
@[simp] theorem State.modContext_tlbs (s : State) (c : Nat) (f : Context → Context) : (s.modContext c f).tlbs = s.tlbs := by
  unfold State.modContext; split <;> rfl
@[simp] theorem State.modContext_grids (s : State) (c : Nat) (f : Context → Context) : (s.modContext c f).grids = s.grids := by
  unfold State.modContext; split <;> rfl
@[simp] theorem State.modContext_groups (s : State) (c : Nat) (f : Context → Context) : (s.modContext c f).groups = s.groups := by
  unfold State.modContext; split <;> rfl
@[simp] theorem State.modContext_threads (s : State) (c : Nat) (f : Context → Context) : (s.modContext c f).threads = s.threads := by
  unfold State.modContext; split <;> rfl

/-! ## modGrid -/

@[simp] theorem State.modGrid_agenda (s : State) (g : Nat) (f : Grid → Grid) : (s.modGrid g f).agenda = s.agenda := by
  unfold State.modGrid; split <;> rfl
@[simp] theorem State.modGrid_cur (s : State) (g : Nat) (f : Grid → Grid) : (s.modGrid g f).cur = s.cur := by
  unfold State.modGrid; split <;> rfl
@[simp] theorem State.modGrid_tick (s : State) (g : Nat) (f : Grid → Grid) : (s.modGrid g f).tick = s.tick := by
  unfold State.modGrid; split <;> rfl
@[simp] theorem State.modGrid_turn (s : State) (g : Nat) (f : Grid → Grid) : (s.modGrid g f).turn = s.turn := by
  unfold State.modGrid; split <;> rfl
@[simp] theorem State.modGrid_uid (s : State) (g : Nat) (f : Grid → Grid) : (s.modGrid g f).uid = s.uid := by
  unfold State.modGrid; split <;> rfl
@[simp] theorem State.modGrid_time (s : State) (g : Nat) (f : Grid → Grid) : (s.modGrid g f).time = s.time := by
  unfold State.modGrid; split <;> rfl
@[simp] theorem State.modGrid_mem (s : State) (g : Nat) (f : Grid → Grid) : (s.modGrid g f).mem = s.mem := by
  unfold State.modGrid; split <;> rfl
@[simp] theorem State.modGrid_hostMem (s : State) (g : Nat) (f : Grid → Grid) : (s.modGrid g f).hostMem = s.hostMem := by
  unfold State.modGrid; split <;> rfl
@[simp] theorem State.modGrid_flash (s : State) (g : Nat) (f : Grid → Grid) : (s.modGrid g f).flash = s.flash := by
  unfold State.modGrid; split <;> rfl
@[simp] theorem State.modGrid_badMem (s : State) (g : Nat) (f : Grid → Grid) : (s.modGrid g f).badMem = s.badMem := by
  unfold State.modGrid; split <;> rfl
@[simp] theorem State.modGrid_events (s : State) (g : Nat) (f : Grid → Grid) : (s.modGrid g f).events = s.events := by
  unfold State.modGrid; split <;> rfl
@[simp] theorem State.modGrid_taken (s : State) (g : Nat) (f : Grid → Grid) : (s.modGrid g f).taken = s.taken := by
  unfold State.modGrid; split <;> rfl
@[simp] theorem State.modGrid_rotation (s : State) (g : Nat) (f : Grid → Grid) : (s.modGrid g f).rotation = s.rotation := by
  unfold State.modGrid; split <;> rfl
@[simp] theorem State.modGrid_twins (s : State) (g : Nat) (f : Grid → Grid) : (s.modGrid g f).twins = s.twins := by
  unfold State.modGrid; split <;> rfl
@[simp] theorem State.modGrid_saves (s : State) (g : Nat) (f : Grid → Grid) : (s.modGrid g f).saves = s.saves := by
  unfold State.modGrid; split <;> rfl
@[simp] theorem State.modGrid_dies (s : State) (g : Nat) (f : Grid → Grid) : (s.modGrid g f).dies = s.dies := by
  unfold State.modGrid; split <;> rfl
@[simp] theorem State.modGrid_flues (s : State) (g : Nat) (f : Grid → Grid) : (s.modGrid g f).flues = s.flues := by
  unfold State.modGrid; split <;> rfl
@[simp] theorem State.modGrid_ports (s : State) (g : Nat) (f : Grid → Grid) : (s.modGrid g f).ports = s.ports := by
  unfold State.modGrid; split <;> rfl
@[simp] theorem State.modGrid_hbm (s : State) (g : Nat) (f : Grid → Grid) : (s.modGrid g f).hbm = s.hbm := by
  unfold State.modGrid; split <;> rfl
@[simp] theorem State.modGrid_hearths (s : State) (g : Nat) (f : Grid → Grid) : (s.modGrid g f).hearths = s.hearths := by
  unfold State.modGrid; split <;> rfl
@[simp] theorem State.modGrid_pipes (s : State) (g : Nat) (f : Grid → Grid) : (s.modGrid g f).pipes = s.pipes := by
  unfold State.modGrid; split <;> rfl
@[simp] theorem State.modGrid_badL3 (s : State) (g : Nat) (f : Grid → Grid) : (s.modGrid g f).badL3 = s.badL3 := by
  unfold State.modGrid; split <;> rfl
@[simp] theorem State.modGrid_caches (s : State) (g : Nat) (f : Grid → Grid) : (s.modGrid g f).caches = s.caches := by
  unfold State.modGrid; split <;> rfl
@[simp] theorem State.modGrid_heldRecs (s : State) (g : Nat) (f : Grid → Grid) : (s.modGrid g f).heldRecs = s.heldRecs := by
  unfold State.modGrid; split <;> rfl
@[simp] theorem State.modGrid_bootAttempts (s : State) (g : Nat) (f : Grid → Grid) : (s.modGrid g f).bootAttempts = s.bootAttempts := by
  unfold State.modGrid; split <;> rfl
@[simp] theorem State.modGrid_bootcause (s : State) (g : Nat) (f : Grid → Grid) : (s.modGrid g f).bootcause = s.bootcause := by
  unfold State.modGrid; split <;> rfl
@[simp] theorem State.modGrid_bootStage (s : State) (g : Nat) (f : Grid → Grid) : (s.modGrid g f).bootStage = s.bootStage := by
  unfold State.modGrid; split <;> rfl
@[simp] theorem State.modGrid_minimal (s : State) (g : Nat) (f : Grid → Grid) : (s.modGrid g f).minimal = s.minimal := by
  unfold State.modGrid; split <;> rfl
@[simp] theorem State.modGrid_bootStopped (s : State) (g : Nat) (f : Grid → Grid) : (s.modGrid g f).bootStopped = s.bootStopped := by
  unfold State.modGrid; split <;> rfl
@[simp] theorem State.modGrid_moduleId (s : State) (g : Nat) (f : Grid → Grid) : (s.modGrid g f).moduleId = s.moduleId := by
  unfold State.modGrid; split <;> rfl
@[simp] theorem State.modGrid_inbox (s : State) (g : Nat) (f : Grid → Grid) : (s.modGrid g f).inbox = s.inbox := by
  unfold State.modGrid; split <;> rfl
@[simp] theorem State.modGrid_peersIn (s : State) (g : Nat) (f : Grid → Grid) : (s.modGrid g f).peersIn = s.peersIn := by
  unfold State.modGrid; split <;> rfl
@[simp] theorem State.modGrid_peerRefused (s : State) (g : Nat) (f : Grid → Grid) : (s.modGrid g f).peerRefused = s.peerRefused := by
  unfold State.modGrid; split <;> rfl
@[simp] theorem State.modGrid_evSpill (s : State) (g : Nat) (f : Grid → Grid) : (s.modGrid g f).evSpill = s.evSpill := by
  unfold State.modGrid; split <;> rfl
@[simp] theorem State.modGrid_evWaits (s : State) (g : Nat) (f : Grid → Grid) : (s.modGrid g f).evWaits = s.evWaits := by
  unfold State.modGrid; split <;> rfl
@[simp] theorem State.modGrid_evWaitSpill (s : State) (g : Nat) (f : Grid → Grid) : (s.modGrid g f).evWaitSpill = s.evWaitSpill := by
  unfold State.modGrid; split <;> rfl
@[simp] theorem State.modGrid_evSpills (s : State) (g : Nat) (f : Grid → Grid) : (s.modGrid g f).evSpills = s.evSpills := by
  unfold State.modGrid; split <;> rfl
@[simp] theorem State.modGrid_cplDropped (s : State) (g : Nat) (f : Grid → Grid) : (s.modGrid g f).cplDropped = s.cplDropped := by
  unfold State.modGrid; split <;> rfl
@[simp] theorem State.modGrid_cores (s : State) (g : Nat) (f : Grid → Grid) : (s.modGrid g f).cores = s.cores := by
  unfold State.modGrid; split <;> rfl
@[simp] theorem State.modGrid_tlbs (s : State) (g : Nat) (f : Grid → Grid) : (s.modGrid g f).tlbs = s.tlbs := by
  unfold State.modGrid; split <;> rfl
@[simp] theorem State.modGrid_contexts (s : State) (g : Nat) (f : Grid → Grid) : (s.modGrid g f).contexts = s.contexts := by
  unfold State.modGrid; split <;> rfl
@[simp] theorem State.modGrid_groups (s : State) (g : Nat) (f : Grid → Grid) : (s.modGrid g f).groups = s.groups := by
  unfold State.modGrid; split <;> rfl
@[simp] theorem State.modGrid_threads (s : State) (g : Nat) (f : Grid → Grid) : (s.modGrid g f).threads = s.threads := by
  unfold State.modGrid; split <;> rfl

/-! ## modGroup -/

@[simp] theorem State.modGroup_agenda (s : State) (p : Nat) (f : Group → Group) : (s.modGroup p f).agenda = s.agenda := by
  unfold State.modGroup; split <;> rfl
@[simp] theorem State.modGroup_cur (s : State) (p : Nat) (f : Group → Group) : (s.modGroup p f).cur = s.cur := by
  unfold State.modGroup; split <;> rfl
@[simp] theorem State.modGroup_tick (s : State) (p : Nat) (f : Group → Group) : (s.modGroup p f).tick = s.tick := by
  unfold State.modGroup; split <;> rfl
@[simp] theorem State.modGroup_turn (s : State) (p : Nat) (f : Group → Group) : (s.modGroup p f).turn = s.turn := by
  unfold State.modGroup; split <;> rfl
@[simp] theorem State.modGroup_uid (s : State) (p : Nat) (f : Group → Group) : (s.modGroup p f).uid = s.uid := by
  unfold State.modGroup; split <;> rfl
@[simp] theorem State.modGroup_time (s : State) (p : Nat) (f : Group → Group) : (s.modGroup p f).time = s.time := by
  unfold State.modGroup; split <;> rfl
@[simp] theorem State.modGroup_mem (s : State) (p : Nat) (f : Group → Group) : (s.modGroup p f).mem = s.mem := by
  unfold State.modGroup; split <;> rfl
@[simp] theorem State.modGroup_hostMem (s : State) (p : Nat) (f : Group → Group) : (s.modGroup p f).hostMem = s.hostMem := by
  unfold State.modGroup; split <;> rfl
@[simp] theorem State.modGroup_flash (s : State) (p : Nat) (f : Group → Group) : (s.modGroup p f).flash = s.flash := by
  unfold State.modGroup; split <;> rfl
@[simp] theorem State.modGroup_badMem (s : State) (p : Nat) (f : Group → Group) : (s.modGroup p f).badMem = s.badMem := by
  unfold State.modGroup; split <;> rfl
@[simp] theorem State.modGroup_events (s : State) (p : Nat) (f : Group → Group) : (s.modGroup p f).events = s.events := by
  unfold State.modGroup; split <;> rfl
@[simp] theorem State.modGroup_taken (s : State) (p : Nat) (f : Group → Group) : (s.modGroup p f).taken = s.taken := by
  unfold State.modGroup; split <;> rfl
@[simp] theorem State.modGroup_rotation (s : State) (p : Nat) (f : Group → Group) : (s.modGroup p f).rotation = s.rotation := by
  unfold State.modGroup; split <;> rfl
@[simp] theorem State.modGroup_twins (s : State) (p : Nat) (f : Group → Group) : (s.modGroup p f).twins = s.twins := by
  unfold State.modGroup; split <;> rfl
@[simp] theorem State.modGroup_saves (s : State) (p : Nat) (f : Group → Group) : (s.modGroup p f).saves = s.saves := by
  unfold State.modGroup; split <;> rfl
@[simp] theorem State.modGroup_dies (s : State) (p : Nat) (f : Group → Group) : (s.modGroup p f).dies = s.dies := by
  unfold State.modGroup; split <;> rfl
@[simp] theorem State.modGroup_flues (s : State) (p : Nat) (f : Group → Group) : (s.modGroup p f).flues = s.flues := by
  unfold State.modGroup; split <;> rfl
@[simp] theorem State.modGroup_ports (s : State) (p : Nat) (f : Group → Group) : (s.modGroup p f).ports = s.ports := by
  unfold State.modGroup; split <;> rfl
@[simp] theorem State.modGroup_hbm (s : State) (p : Nat) (f : Group → Group) : (s.modGroup p f).hbm = s.hbm := by
  unfold State.modGroup; split <;> rfl
@[simp] theorem State.modGroup_hearths (s : State) (p : Nat) (f : Group → Group) : (s.modGroup p f).hearths = s.hearths := by
  unfold State.modGroup; split <;> rfl
@[simp] theorem State.modGroup_pipes (s : State) (p : Nat) (f : Group → Group) : (s.modGroup p f).pipes = s.pipes := by
  unfold State.modGroup; split <;> rfl
@[simp] theorem State.modGroup_badL3 (s : State) (p : Nat) (f : Group → Group) : (s.modGroup p f).badL3 = s.badL3 := by
  unfold State.modGroup; split <;> rfl
@[simp] theorem State.modGroup_caches (s : State) (p : Nat) (f : Group → Group) : (s.modGroup p f).caches = s.caches := by
  unfold State.modGroup; split <;> rfl
@[simp] theorem State.modGroup_heldRecs (s : State) (p : Nat) (f : Group → Group) : (s.modGroup p f).heldRecs = s.heldRecs := by
  unfold State.modGroup; split <;> rfl
@[simp] theorem State.modGroup_bootAttempts (s : State) (p : Nat) (f : Group → Group) : (s.modGroup p f).bootAttempts = s.bootAttempts := by
  unfold State.modGroup; split <;> rfl
@[simp] theorem State.modGroup_bootcause (s : State) (p : Nat) (f : Group → Group) : (s.modGroup p f).bootcause = s.bootcause := by
  unfold State.modGroup; split <;> rfl
@[simp] theorem State.modGroup_bootStage (s : State) (p : Nat) (f : Group → Group) : (s.modGroup p f).bootStage = s.bootStage := by
  unfold State.modGroup; split <;> rfl
@[simp] theorem State.modGroup_minimal (s : State) (p : Nat) (f : Group → Group) : (s.modGroup p f).minimal = s.minimal := by
  unfold State.modGroup; split <;> rfl
@[simp] theorem State.modGroup_bootStopped (s : State) (p : Nat) (f : Group → Group) : (s.modGroup p f).bootStopped = s.bootStopped := by
  unfold State.modGroup; split <;> rfl
@[simp] theorem State.modGroup_moduleId (s : State) (p : Nat) (f : Group → Group) : (s.modGroup p f).moduleId = s.moduleId := by
  unfold State.modGroup; split <;> rfl
@[simp] theorem State.modGroup_inbox (s : State) (p : Nat) (f : Group → Group) : (s.modGroup p f).inbox = s.inbox := by
  unfold State.modGroup; split <;> rfl
@[simp] theorem State.modGroup_peersIn (s : State) (p : Nat) (f : Group → Group) : (s.modGroup p f).peersIn = s.peersIn := by
  unfold State.modGroup; split <;> rfl
@[simp] theorem State.modGroup_peerRefused (s : State) (p : Nat) (f : Group → Group) : (s.modGroup p f).peerRefused = s.peerRefused := by
  unfold State.modGroup; split <;> rfl
@[simp] theorem State.modGroup_evSpill (s : State) (p : Nat) (f : Group → Group) : (s.modGroup p f).evSpill = s.evSpill := by
  unfold State.modGroup; split <;> rfl
@[simp] theorem State.modGroup_evWaits (s : State) (p : Nat) (f : Group → Group) : (s.modGroup p f).evWaits = s.evWaits := by
  unfold State.modGroup; split <;> rfl
@[simp] theorem State.modGroup_evWaitSpill (s : State) (p : Nat) (f : Group → Group) : (s.modGroup p f).evWaitSpill = s.evWaitSpill := by
  unfold State.modGroup; split <;> rfl
@[simp] theorem State.modGroup_evSpills (s : State) (p : Nat) (f : Group → Group) : (s.modGroup p f).evSpills = s.evSpills := by
  unfold State.modGroup; split <;> rfl
@[simp] theorem State.modGroup_cplDropped (s : State) (p : Nat) (f : Group → Group) : (s.modGroup p f).cplDropped = s.cplDropped := by
  unfold State.modGroup; split <;> rfl
@[simp] theorem State.modGroup_cores (s : State) (p : Nat) (f : Group → Group) : (s.modGroup p f).cores = s.cores := by
  unfold State.modGroup; split <;> rfl
@[simp] theorem State.modGroup_tlbs (s : State) (p : Nat) (f : Group → Group) : (s.modGroup p f).tlbs = s.tlbs := by
  unfold State.modGroup; split <;> rfl
@[simp] theorem State.modGroup_contexts (s : State) (p : Nat) (f : Group → Group) : (s.modGroup p f).contexts = s.contexts := by
  unfold State.modGroup; split <;> rfl
@[simp] theorem State.modGroup_grids (s : State) (p : Nat) (f : Group → Group) : (s.modGroup p f).grids = s.grids := by
  unfold State.modGroup; split <;> rfl
@[simp] theorem State.modGroup_threads (s : State) (p : Nat) (f : Group → Group) : (s.modGroup p f).threads = s.threads := by
  unfold State.modGroup; split <;> rfl

end Sys2Proof.Machine
end

