-- ==== Sys2Proof/Laws/Issue.lean ====
section
/-! SUPPORT. What issuing an instruction and retiring it do: the lemmas that a proof about one instruction cites instead of
unfolding them. -/

namespace Sys2Proof.Machine

/-! ## Issue -/

theorem reportLost_sound (s : State) (t : Nat) (w : Thread) (e : Entry) (i : Instr) (hv : w.badV = []) (hs : w.badS = []) :
    s.reportLost t w e i = s := by simp [State.reportLost, hv, hs]

/-- An instruction that passes the checks of R87 goes on to its own meaning. -/
theorem issue_next {s : State} {i : Instr} {t : Nat} {w : Thread} {e : Entry} {c : Clause} (h : Issues s i t w e c)
    (k : State → Nat → Thread → Entry → Clause → Out) : issue i s k = k s t w e c := by
  simp [issue, h.cur, h.thread, h.path, h.clause, h.passes, reportLost_sound s t w e i h.soundV h.soundS]

/-- One that fails a check takes that check's trap, and nothing of its own happens (05 R87); MEMERR for a lost register word alone comes
with that word's record. -/
theorem issue_trap {s : State} {i : Instr} {t : Nat} {w : Thread} {e : Entry} {c : Clause} {r : TrapInfo} (h : s.cur = some t)
    (ht : s.thread? t = some w) (hp : s.path? w = some e) (hc : w.clause = some c) (hr : s.issueTrap w e c i = some r)
    (k : State → Nat → Thread → Entry → Clause → Out) : issue i s k = .next (s.trapIssue t w e c i r) := by
  simp [issue, h, ht, hp, hc, hr]

/-! ## Records after an update of one of them -/

theorem modContext_context (s : State) (c : Nat) (f : Context → Context) (k : Nat) (x : Context) (h : s.context? k = some x) :
    (s.modContext c f).context? k = some (if k = c then f x else x) := by
  unfold State.modContext
  by_cases hk : k = c
  · subst hk; rw [h]; simp [State.setContext, State.context?]
  · cases hc : s.context? c with
    | none => simp only [hk, if_false]; exact h
    | some y => simp only [hk, if_false]; rw [← h]; simp [State.setContext, State.context?, aget_aset_ne _ _ hk]

theorem modGrid_grid (s : State) (c : Nat) (f : Grid → Grid) (k : Nat) (x : Grid) (h : s.grid? k = some x) :
    (s.modGrid c f).grid? k = some (if k = c then f x else x) := by
  unfold State.modGrid
  by_cases hk : k = c
  · subst hk; rw [h]; simp [State.setGrid, State.grid?]
  · cases hc : s.grid? c with
    | none => simp only [hk, if_false]; exact h
    | some y => simp only [hk, if_false]; rw [← h]; simp [State.setGrid, State.grid?, aget_aset_ne _ _ hk]

theorem modGroup_group (s : State) (c : Nat) (f : Group → Group) (k : Nat) (x : Group) (h : s.group? k = some x) :
    (s.modGroup c f).group? k = some (if k = c then f x else x) := by
  unfold State.modGroup
  by_cases hk : k = c
  · subst hk; rw [h]; simp [State.setGroup, State.group?]
  · cases hc : s.group? c with
    | none => simp only [hk, if_false]; exact h
    | some y => simp only [hk, if_false]; rw [← h]; simp [State.setGroup, State.group?, aget_aset_ne _ _ hk]

theorem modThread_thread (s : State) (c : Nat) (f : Thread → Thread) (k : Nat) (x : Thread) (h : s.thread? k = some x) :
    (s.modThread c f).thread? k = some (if k = c then f x else x) := by
  unfold State.modThread
  by_cases hk : k = c
  · subst hk; rw [h]; simp [State.setThread, State.thread?]
  · cases hc : s.thread? c with
    | none => simp only [hk, if_false]; exact h
    | some y => simp only [hk, if_false]; rw [← h]; simp [State.setThread, State.thread?, aget_aset_ne _ _ hk]

@[simp] theorem setThread_thread_same (s : State) (t : Nat) (w : Thread) : (s.setThread t w).thread? t = some w := by
  simp [State.setThread, State.thread?]

theorem setThread_thread_ne (s : State) {t u : Nat} (w : Thread) (h : u ≠ t) : (s.setThread t w).thread? u = s.thread? u := by
  simp [State.setThread, State.thread?, aget_aset_ne _ _ h]

/-! ## Retiring -/

/-- An update of one record changes that kind of record alone. -/
theorem modContext_rest (s : State) (c : Nat) (f : Context → Context) : ∃ l, s.modContext c f = { s with contexts := l } := by
  unfold State.modContext; split
  · exact ⟨_, rfl⟩
  · exact ⟨s.contexts, rfl⟩
theorem modGrid_rest (s : State) (c : Nat) (f : Grid → Grid) : ∃ l, s.modGrid c f = { s with grids := l } := by
  unfold State.modGrid; split
  · exact ⟨_, rfl⟩
  · exact ⟨s.grids, rfl⟩
theorem modGroup_rest (s : State) (c : Nat) (f : Group → Group) : ∃ l, s.modGroup c f = { s with groups := l } := by
  unfold State.modGroup; split
  · exact ⟨_, rfl⟩
  · exact ⟨s.groups, rfl⟩
theorem modThread_rest (s : State) (c : Nat) (f : Thread → Thread) : ∃ l, s.modThread c f = { s with threads := l } := by
  unfold State.modThread; split
  · exact ⟨_, rfl⟩
  · exact ⟨s.threads, rfl⟩

theorem modGrid_watch (s : State) (c : Nat) (f : Grid → Grid) (hf : ∀ x, ∃ n, f x = { x with watch := n }) :
    ∃ l, s.modGrid c f = { s with grids := l }
      ∧ ∀ k x, s.grid? k = some x → ∃ n, State.grid? { s with grids := l } k = some { x with watch := n } := by
  obtain ⟨l, h⟩ := modGrid_rest s c f
  refine ⟨l, h, fun k x hx => ?_⟩
  rw [← h, modGrid_grid _ _ _ _ _ hx]
  by_cases hk : k = c
  · obtain ⟨n, hn⟩ := hf x; exact ⟨n, by simp [hk, hn]⟩
  · exact ⟨x.watch, by simp [hk]⟩

theorem modGroup_watch (s : State) (c : Nat) (f : Group → Group) (hf : ∀ x, ∃ n, f x = { x with watch := n }) :
    ∃ l, s.modGroup c f = { s with groups := l }
      ∧ ∀ k x, s.group? k = some x → ∃ n, State.group? { s with groups := l } k = some { x with watch := n } := by
  obtain ⟨l, h⟩ := modGroup_rest s c f
  refine ⟨l, h, fun k x hx => ?_⟩
  rw [← h, modGroup_group _ _ _ _ _ hx]
  by_cases hk : k = c
  · obtain ⟨n, hn⟩ := hf x; exact ⟨n, by simp [hk, hn]⟩
  · exact ⟨x.watch, by simp [hk]⟩

theorem modThread_count (s : State) (c : Nat) (f : Thread → Thread) (hf : ∀ x, ∃ n, f x = { x with rejoinCount := n }) :
    ∃ l, s.modThread c f = { s with threads := l }
      ∧ ∀ k x, s.thread? k = some x → ∃ n, State.thread? { s with threads := l } k = some { x with rejoinCount := n } := by
  obtain ⟨l, h⟩ := modThread_rest s c f
  refine ⟨l, h, fun k x hx => ?_⟩
  rw [← h, modThread_thread _ _ _ _ _ hx]
  by_cases hk : k = c
  · obtain ⟨n, hn⟩ := hf x; exact ⟨n, by simp [hk, hn]⟩
  · exact ⟨x.rejoinCount, by simp [hk]⟩

theorem ite_count (b : Bool) (x : Thread) :
    ∃ n, (if b = true then { x with rejoinCount := x.rejoinCount + 1 } else x) = { x with rejoinCount := n } := by
  cases b
  · exact ⟨x.rejoinCount, rfl⟩
  · exact ⟨_, rfl⟩

/-- What the counts of a retirement leave: nothing but `lastRetire`, `watch` and `rejoinCount` changes. -/
def Counted (s s' : State) : Prop :=
  (∃ a b c d, s' = { s with contexts := a, grids := b, groups := c, threads := d })
    ∧ Kept s s' ∧ ∀ u x, s.thread? u = some x → ∃ n, s'.thread? u = some { x with rejoinCount := n }

theorem counted_grids (s : State) (l1 : List (Nat × Context))
    (hc : ∀ k x, s.context? k = some x → ∃ r, State.context? { s with contexts := l1 } k = some { x with lastRetire := r })
    (g p : Nat) (f2 : Grid → Grid) (f3 : Group → Group) (h2 : ∀ x, ∃ n, f2 x = { x with watch := n })
    (h3 : ∀ x, ∃ n, f3 x = { x with watch := n }) (em : Option Nat) (f4 : Thread → Thread)
    (h4 : ∀ x, ∃ n, f4 x = { x with rejoinCount := n }) :
    Counted s (match em with
      | some m => (State.modGroup (State.modGrid { s with contexts := l1 } g f2) p f3).modThread m f4
      | none => State.modGroup (State.modGrid { s with contexts := l1 } g f2) p f3) := by
  obtain ⟨l2, e2, g2⟩ := modGrid_watch { s with contexts := l1 } g f2 h2
  rw [e2]
  obtain ⟨l3, e3, p3⟩ := modGroup_watch { s with contexts := l1, grids := l2 } p f3 h3
  rw [e3]
  cases em with
  | none => exact ⟨⟨l1, l2, l3, s.threads, rfl⟩, ⟨rfl, hc, g2, p3⟩, fun k x h => ⟨x.rejoinCount, h⟩⟩
  | some m =>
    obtain ⟨l4, e4, t4⟩ := modThread_count { s with contexts := l1, grids := l2, groups := l3 } m f4 h4
    simp only [e4]
    exact ⟨⟨l1, l2, l3, l4, rfl⟩, ⟨rfl, hc, g2, p3⟩, t4⟩

theorem countRetire_counted (s : State) (w : Thread) (e : Entry) : Counted s (s.countRetire w e) := by
  obtain ⟨l1, h1⟩ := modContext_rest s w.ctx fun x => { x with lastRetire := s.time }
  have hc : ∀ k x, s.context? k = some x → ∃ r,
      (s.modContext w.ctx fun x => { x with lastRetire := s.time }).context? k = some { x with lastRetire := r } := by
    intro k x h
    rw [modContext_context _ _ _ _ _ h]
    by_cases hk : k = w.ctx
    · exact ⟨s.time, by simp [hk]⟩
    · exact ⟨x.lastRetire, by simp [hk]⟩
  unfold State.countRetire
  simp only [h1] at hc ⊢
  have stop : Counted s { s with contexts := l1 } :=
    ⟨⟨l1, s.grids, s.groups, s.threads, rfl⟩, ⟨rfl, hc, fun k x h => ⟨x.watch, h⟩, fun k x h => ⟨x.watch, h⟩⟩,
      fun k x h => ⟨x.rejoinCount, h⟩⟩
  cases hgr : State.grid? { s with contexts := l1 } w.grid with
  | none => exact stop
  | some g =>
    simp only []
    split
    · exact stop
    · have key := fun f2 f3 h2 h3 f4 h4 => counted_grids s l1 hc w.grid w.group f2 f3 h2 h3 (w.ember.map (·.parent)) f4 h4
      cases hm : w.ember with
      | none =>
        simp only [hm, Option.map_none] at key
        refine key _ _ ?_ ?_ id (fun x => ⟨x.rejoinCount, rfl⟩)
        · intro x; split; exacts [⟨_, rfl⟩, ⟨x.watch, rfl⟩]
        · intro x; split; exacts [⟨_, rfl⟩, ⟨x.watch, rfl⟩]
      | some m =>
        simp only [hm, Option.map_some] at key
        refine key _ _ ?_ ?_ _ ?_
        · intro x; split; exacts [⟨_, rfl⟩, ⟨x.watch, rfl⟩]
        · intro x; split; exacts [⟨_, rfl⟩, ⟨x.watch, rfl⟩]
        · exact fun x => ite_count _ x

end Sys2Proof.Machine
end

