-- ==== Sys2Proof/Laws/PerInstr.lean ====
section
/-! SUPPORT. The round trip of every instruction: a well-formed one is what its word decodes to. An event has no word. -/

namespace Sys2Proof.Laws.Encoding

/-- A well-formed instruction is what the decoder reads from its word. -/
def Statement (i : Instr) : Prop := i.wf = true → ∀ w, encode i = some w → decodeWord w = .ok i

/-- An instruction is read back when its fields are. -/
theorem of_fields {i : Instr} {f : Fields} (he : encodeFields i = some f) (hc : (opcodeClass f.opc.toNat).isSome = true)
    (hr : i.wf = true → f.raw = some i) : Statement i := by
  intro hw w h
  have : w = f.word := by simpa [encode, he] using h.symm
  subst this
  obtain ⟨c, hc'⟩ := Option.isSome_iff_exists.1 hc
  simp [decodeWord, ofWord_word, hc', hr hw, hw]

/-- An event has no word. -/
theorem of_event {i : Instr} (he : encodeFields i = none) : Statement i := by
  intro _ w h
  simp [encode, he] at h

theorem clauseStart (t : Nat) : Statement (.clauseStart t) := of_event rfl
theorem smov (d : SReg) (a : SMovSrc) : Statement (.smov d a) := of_fields rfl rfl fun hw => by
  simp [Fields.raw, Fields.decScalar, Fields.plain, Fields.okB, Fields.okC, guard]
theorem smovi (d : SReg) (imm : Word) : Statement (.smovi d imm) := of_fields rfl rfl fun hw => by
  simp [Fields.raw, Fields.decScalar, Fields.okA, guard]
theorem smovhi (d : SReg) (imm : Word) : Statement (.smovhi d imm) := of_fields rfl rfl fun hw => by
  simp [Fields.raw, Fields.decScalar, Fields.okA, guard]
theorem sadd (d : SReg) (a b : SSrc) : Statement (.sadd d a b) := of_fields rfl rfl fun hw => by
  simp [Fields.raw, Fields.decScalar, Fields.sss, Fields.plain, Fields.okC, guard]
theorem saddi (d a : SReg) (imm : Word) : Statement (.saddi d a imm) := of_fields rfl rfl fun hw => by
  simp [Fields.raw, Fields.decScalar, guard]
theorem ssub (d : SReg) (a b : SSrc) : Statement (.ssub d a b) := of_fields rfl rfl fun hw => by
  simp [Fields.raw, Fields.decScalar, Fields.sss, Fields.plain, Fields.okC, guard]
theorem smul (d : SReg) (a b : SSrc) : Statement (.smul d a b) := of_fields rfl rfl fun hw => by
  simp [Fields.raw, Fields.decScalar, Fields.sss, Fields.plain, Fields.okC, guard]
theorem smulh (d : SReg) (a b : SSrc) : Statement (.smulh d a b) := of_fields rfl rfl fun hw => by
  simp [Fields.raw, Fields.decScalar, Fields.sss, Fields.plain, Fields.okC, guard]
theorem smulhu (d : SReg) (a b : SSrc) : Statement (.smulhu d a b) := of_fields rfl rfl fun hw => by
  simp [Fields.raw, Fields.decScalar, Fields.sss, Fields.plain, Fields.okC, guard]
theorem sand (d : SReg) (a b : SSrc) : Statement (.sand d a b) := of_fields rfl rfl fun hw => by
  simp [Fields.raw, Fields.decScalar, Fields.sss, Fields.plain, Fields.okC, guard]
theorem sor (d : SReg) (a b : SSrc) : Statement (.sor d a b) := of_fields rfl rfl fun hw => by
  simp [Fields.raw, Fields.decScalar, Fields.sss, Fields.plain, Fields.okC, guard]
theorem sxor (d : SReg) (a b : SSrc) : Statement (.sxor d a b) := of_fields rfl rfl fun hw => by
  simp [Fields.raw, Fields.decScalar, Fields.sss, Fields.plain, Fields.okC, guard]
theorem snot (d : SReg) (a : SSrc) : Statement (.snot d a) := of_fields rfl rfl fun hw => by
  simp [Fields.raw, Fields.decScalar, Fields.plain, Fields.okB, Fields.okC, guard]
theorem sshl (d : SReg) (a b : SSrc) : Statement (.sshl d a b) := of_fields rfl rfl fun hw => by
  simp [Fields.raw, Fields.decScalar, Fields.sss, Fields.plain, Fields.okC, guard]
theorem sshr (d : SReg) (a b : SSrc) : Statement (.sshr d a b) := of_fields rfl rfl fun hw => by
  simp [Fields.raw, Fields.decScalar, Fields.sss, Fields.plain, Fields.okC, guard]
theorem ssar (d : SReg) (a b : SSrc) : Statement (.ssar d a b) := of_fields rfl rfl fun hw => by
  simp [Fields.raw, Fields.decScalar, Fields.sss, Fields.plain, Fields.okC, guard]
theorem smin (d : SReg) (a b : SSrc) : Statement (.smin d a b) := of_fields rfl rfl fun hw => by
  simp [Fields.raw, Fields.decScalar, Fields.sss, Fields.plain, Fields.okC, guard]
theorem smax (d : SReg) (a b : SSrc) : Statement (.smax d a b) := of_fields rfl rfl fun hw => by
  simp [Fields.raw, Fields.decScalar, Fields.sss, Fields.plain, Fields.okC, guard]
theorem sminu (d : SReg) (a b : SSrc) : Statement (.sminu d a b) := of_fields rfl rfl fun hw => by
  simp [Fields.raw, Fields.decScalar, Fields.sss, Fields.plain, Fields.okC, guard]
theorem smaxu (d : SReg) (a b : SSrc) : Statement (.smaxu d a b) := of_fields rfl rfl fun hw => by
  simp [Fields.raw, Fields.decScalar, Fields.sss, Fields.plain, Fields.okC, guard]
theorem scmp (c : Cond) (d : SReg) (a b : SSrc) : Statement (.scmp c d a b) := of_fields rfl rfl fun hw => by
  simp [Fields.raw, Fields.decScalar, Fields.scmp, Fields.plain, Fields.okC, guard]
theorem scmpu (c : Cond) (d : SReg) (a b : SSrc) : Statement (.scmpu c d a b) := of_fields rfl rfl fun hw => by
  simp [Fields.raw, Fields.decScalar, Fields.scmp, Fields.plain, Fields.okC, guard]
theorem ssel (d : SReg) (a b c : SSrc) : Statement (.ssel d a b c) := of_fields rfl rfl fun hw => by
  simp [Fields.raw, Fields.decScalar, Fields.plain, guard]
theorem spopc (d a : SReg) : Statement (.spopc d a) := of_fields rfl rfl fun hw => by
  simp [Fields.raw, Fields.decScalar, Fields.ss, Fields.plain, Fields.okB, Fields.okC, guard]
theorem sclz (d a : SReg) : Statement (.sclz d a) := of_fields rfl rfl fun hw => by
  simp [Fields.raw, Fields.decScalar, Fields.ss, Fields.plain, Fields.okB, Fields.okC, guard]
theorem sld (priv wide : Bool) (d a : SReg) (b : SSrc) : Statement (.sld priv wide d a b) := of_fields rfl rfl fun hw => by
  cases priv <;> cases wide <;> simp [Fields.raw, Fields.decScalar, Fields.okC, guard, mMod]
theorem sldk (d : SReg) (mode : BitVec 2) (off : BitVec 12) : Statement (.sldk d mode off) := of_fields rfl rfl fun hw => by
  simp [Fields.raw, Fields.decScalar, Fields.okA, guard]
theorem sget (g : Guard) (d : SVDst) (r : Spr) : Statement (.sget g d r) := of_fields rfl rfl fun hw => by
  simp [Fields.raw, Fields.decScalar, Fields.okB, Fields.okC, guard]
theorem sset (r : Spr) (a : SSrc) : Statement (.sset r a) := of_fields rfl rfl fun hw => by
  simp [Fields.raw, Fields.decScalar, Fields.plain, Fields.okB, Fields.okC, guard]
theorem setfmt (f : BitVec 13) : Statement (.setfmt f) := of_fields rfl rfl fun hw => by
  simp [Fields.raw, Fields.decScalar, Fields.immOnly, Fields.okD, Fields.okA, guard]
theorem sreadlane (d : SReg) (a : VReg) (lane : SSrc) : Statement (.sreadlane d a lane) := of_fields rfl rfl fun hw => by
  simp [Fields.raw, Fields.decScalar, Fields.plain, Fields.okC, guard]
theorem vmov (g : Guard) (d : VReg) (a : VMovSrc) : Statement (.vmov g d a) := of_fields rfl rfl fun hw => by
  simp [Fields.raw, Fields.decVector, Fields.okB, Fields.okC, guard]
theorem vmovi (g : Guard) (d : VReg) (imm : Word) : Statement (.vmovi g d imm) := of_fields rfl rfl fun hw => by
  simp [Fields.raw, Fields.decVector, Fields.okA, guard]
theorem vadd (g : Guard) (d : VReg) (a b : VSrc) : Statement (.vadd g d a b) := of_fields rfl rfl fun hw => by
  simp [Fields.raw, Fields.decVector, Fields.vvv, Fields.okC, guard]
theorem vaddi (g : Guard) (d a : VReg) (imm : Word) : Statement (.vaddi g d a imm) := of_fields rfl rfl fun hw => by
  simp [Fields.raw, Fields.decVector]
theorem vsub (g : Guard) (d : VReg) (a b : VSrc) : Statement (.vsub g d a b) := of_fields rfl rfl fun hw => by
  simp [Fields.raw, Fields.decVector, Fields.vvv, Fields.okC, guard]
theorem vmul (g : Guard) (d : VReg) (a b : VSrc) : Statement (.vmul g d a b) := of_fields rfl rfl fun hw => by
  simp [Fields.raw, Fields.decVector, Fields.vvv, Fields.okC, guard]
theorem vmulh (g : Guard) (d : VReg) (a b : VSrc) : Statement (.vmulh g d a b) := of_fields rfl rfl fun hw => by
  simp [Fields.raw, Fields.decVector, Fields.vvv, Fields.okC, guard]
theorem vmulhu (g : Guard) (d : VReg) (a b : VSrc) : Statement (.vmulhu g d a b) := of_fields rfl rfl fun hw => by
  simp [Fields.raw, Fields.decVector, Fields.vvv, Fields.okC, guard]
theorem vmad (g : Guard) (d : VReg) (a b c : VSrc) : Statement (.vmad g d a b c) := of_fields rfl rfl fun hw => by
  simp [Fields.raw, Fields.decVector, guard]
theorem vand (g : Guard) (d : VReg) (a b : VSrc) : Statement (.vand g d a b) := of_fields rfl rfl fun hw => by
  simp [Fields.raw, Fields.decVector, Fields.vvv, Fields.okC, guard]
theorem vor (g : Guard) (d : VReg) (a b : VSrc) : Statement (.vor g d a b) := of_fields rfl rfl fun hw => by
  simp [Fields.raw, Fields.decVector, Fields.vvv, Fields.okC, guard]
theorem vxor (g : Guard) (d : VReg) (a b : VSrc) : Statement (.vxor g d a b) := of_fields rfl rfl fun hw => by
  simp [Fields.raw, Fields.decVector, Fields.vvv, Fields.okC, guard]
theorem vnot (g : Guard) (d : VReg) (a : VSrc) : Statement (.vnot g d a) := of_fields rfl rfl fun hw => by
  simp [Fields.raw, Fields.decVector, Fields.okB, Fields.okC, guard]
theorem vshl (g : Guard) (d : VReg) (a b : VSrc) : Statement (.vshl g d a b) := of_fields rfl rfl fun hw => by
  simp [Fields.raw, Fields.decVector, Fields.vvv, Fields.okC, guard]
theorem vshr (g : Guard) (d : VReg) (a b : VSrc) : Statement (.vshr g d a b) := of_fields rfl rfl fun hw => by
  simp [Fields.raw, Fields.decVector, Fields.vvv, Fields.okC, guard]
theorem vsar (g : Guard) (d : VReg) (a b : VSrc) : Statement (.vsar g d a b) := of_fields rfl rfl fun hw => by
  simp [Fields.raw, Fields.decVector, Fields.vvv, Fields.okC, guard]
theorem vmin (g : Guard) (d : VReg) (a b : VSrc) : Statement (.vmin g d a b) := of_fields rfl rfl fun hw => by
  simp [Fields.raw, Fields.decVector, Fields.vvv, Fields.okC, guard]
theorem vmax (g : Guard) (d : VReg) (a b : VSrc) : Statement (.vmax g d a b) := of_fields rfl rfl fun hw => by
  simp [Fields.raw, Fields.decVector, Fields.vvv, Fields.okC, guard]
theorem vminu (g : Guard) (d : VReg) (a b : VSrc) : Statement (.vminu g d a b) := of_fields rfl rfl fun hw => by
  simp [Fields.raw, Fields.decVector, Fields.vvv, Fields.okC, guard]
theorem vmaxu (g : Guard) (d : VReg) (a b : VSrc) : Statement (.vmaxu g d a b) := of_fields rfl rfl fun hw => by
  simp [Fields.raw, Fields.decVector, Fields.vvv, Fields.okC, guard]
theorem vabs (g : Guard) (d a : VReg) : Statement (.vabs g d a) := of_fields rfl rfl fun hw => by
  simp [Fields.raw, Fields.decVector, Fields.vv, Fields.okB, Fields.okC, guard]
theorem vneg (g : Guard) (d a : VReg) : Statement (.vneg g d a) := of_fields rfl rfl fun hw => by
  simp [Fields.raw, Fields.decVector, Fields.vv, Fields.okB, Fields.okC, guard]
theorem vcmp (c : Cond) (g : Guard) (d : PReg) (a b : VSrc) : Statement (.vcmp c g d a b) := of_fields rfl rfl fun hw => by
  simp [Fields.raw, Fields.decVector, Fields.vcmp, Fields.okC, guard]
theorem vcmpu (c : Cond) (g : Guard) (d : PReg) (a b : VSrc) : Statement (.vcmpu c g d a b) := of_fields rfl rfl fun hw => by
  simp [Fields.raw, Fields.decVector, Fields.vcmp, Fields.okC, guard]
theorem vsel (g : Guard) (d : VReg) (p : PReg) (b c : VSrc) : Statement (.vsel g d p b c) := of_fields rfl rfl fun hw => by
  simp [Fields.raw, Fields.decVector, guard]
theorem vpopc (g : Guard) (d a : VReg) : Statement (.vpopc g d a) := of_fields rfl rfl fun hw => by
  simp [Fields.raw, Fields.decVector, Fields.vv, Fields.okB, Fields.okC, guard]
theorem vclz (g : Guard) (d a : VReg) : Statement (.vclz g d a) := of_fields rfl rfl fun hw => by
  simp [Fields.raw, Fields.decVector, Fields.vv, Fields.okB, Fields.okC, guard]
theorem vbrev (g : Guard) (d a : VReg) : Statement (.vbrev g d a) := of_fields rfl rfl fun hw => by
  simp [Fields.raw, Fields.decVector, Fields.vv, Fields.okB, Fields.okC, guard]
theorem vbfe (uns : Bool) (g : Guard) (d a : VReg) (off width : VSrc) : Statement (.vbfe uns g d a off width) := of_fields rfl rfl fun hw => by
  cases uns <;> simp [Fields.raw, Fields.decVector, guard]
theorem vbfi (g : Guard) (d a : VReg) (off width : VSrc) : Statement (.vbfi g d a off width) := of_fields rfl rfl fun hw => by
  simp [Fields.raw, Fields.decVector, guard]
theorem vadd64 (g : Guard) (d : VReg) (a b : VSrc) : Statement (.vadd64 g d a b) := of_fields rfl rfl fun hw => by
  simp [Fields.raw, Fields.decVector, Fields.vvv, Fields.okC, guard]
theorem vsub64 (g : Guard) (d : VReg) (a b : VSrc) : Statement (.vsub64 g d a b) := of_fields rfl rfl fun hw => by
  simp [Fields.raw, Fields.decVector, Fields.vvv, Fields.okC, guard]
theorem vmul64 (g : Guard) (d : VReg) (a b : VSrc) : Statement (.vmul64 g d a b) := of_fields rfl rfl fun hw => by
  simp [Fields.raw, Fields.decVector, Fields.vvv, Fields.okC, guard]
theorem vshl64 (g : Guard) (d a : VReg) (b : VSrc) : Statement (.vshl64 g d a b) := of_fields rfl rfl fun hw => by
  simp [Fields.raw, Fields.decVector, Fields.okC, guard]
theorem pand (g : Guard) (d a b : PReg) : Statement (.pand g d a b) := of_fields rfl rfl fun hw => by
  simp [Fields.raw, Fields.decVector, Fields.ppp, Fields.okC, guard]
theorem por (g : Guard) (d a b : PReg) : Statement (.por g d a b) := of_fields rfl rfl fun hw => by
  simp [Fields.raw, Fields.decVector, Fields.ppp, Fields.okC, guard]
theorem pxor (g : Guard) (d a b : PReg) : Statement (.pxor g d a b) := of_fields rfl rfl fun hw => by
  simp [Fields.raw, Fields.decVector, Fields.ppp, Fields.okC, guard]
theorem pnot (g : Guard) (d a : PReg) : Statement (.pnot g d a) := of_fields rfl rfl fun hw => by
  simp [Fields.raw, Fields.decVector, Fields.okB, Fields.okC, guard]
theorem vfadd (rnd : Rnd) (g : Guard) (d : VReg) (a b : FSrc) : Statement (.vfadd rnd g d a b) := of_fields rfl rfl fun hw => by
  simp [Fields.raw, Fields.decVFloat, Fields.fff, Fields.okC, guard]
theorem vfsub (rnd : Rnd) (g : Guard) (d : VReg) (a b : FSrc) : Statement (.vfsub rnd g d a b) := of_fields rfl rfl fun hw => by
  simp [Fields.raw, Fields.decVFloat, Fields.fff, Fields.okC, guard]
theorem vfmul (rnd : Rnd) (g : Guard) (d : VReg) (a b : FSrc) : Statement (.vfmul rnd g d a b) := of_fields rfl rfl fun hw => by
  simp [Fields.raw, Fields.decVFloat, Fields.fff, Fields.okC, guard]
theorem vffma (rnd : Rnd) (g : Guard) (d : VReg) (a b c : FSrc) : Statement (.vffma rnd g d a b c) := of_fields rfl rfl fun hw => by
  simp [Fields.raw, Fields.decVFloat, Fields.ffff, guard]
theorem vfmin (g : Guard) (d : VReg) (a b : FSrc) : Statement (.vfmin g d a b) := of_fields rfl rfl fun hw => by
  simp [Fields.raw, Fields.decVFloat, Fields.minmax, Fields.okC, guard]
theorem vfmax (g : Guard) (d : VReg) (a b : FSrc) : Statement (.vfmax g d a b) := of_fields rfl rfl fun hw => by
  simp [Fields.raw, Fields.decVFloat, Fields.minmax, Fields.okC, guard]
theorem vfabs (g : Guard) (d a : VReg) : Statement (.vfabs g d a) := of_fields rfl rfl fun hw => by
  simp [Fields.raw, Fields.decVFloat, Fields.vv, Fields.okB, Fields.okC, guard]
theorem vfneg (g : Guard) (d a : VReg) : Statement (.vfneg g d a) := of_fields rfl rfl fun hw => by
  simp [Fields.raw, Fields.decVFloat, Fields.vv, Fields.okB, Fields.okC, guard]
theorem vfcmp (c : FCond) (g : Guard) (d : PReg) (a b : FSrc) : Statement (.vfcmp c g d a b) := of_fields rfl rfl fun hw => by
  simp [Fields.raw, Fields.decVFloat, Fields.okC, guard]
theorem vfclass (g : Guard) (d a : VReg) : Statement (.vfclass g d a) := of_fields rfl rfl fun hw => by
  simp [Fields.raw, Fields.decVFloat, Fields.vv, Fields.okB, Fields.okC, guard]
theorem vfdiv (rnd : Rnd) (g : Guard) (d : VReg) (a b : FSrc) : Statement (.vfdiv rnd g d a b) := of_fields rfl rfl fun hw => by
  simp [Fields.raw, Fields.decVFloat, Fields.fff, Fields.okC, guard]
theorem vfsqrt (rnd : Rnd) (g : Guard) (d : VReg) (a : FSrc) : Statement (.vfsqrt rnd g d a) := of_fields rfl rfl fun hw => by
  simp [Fields.raw, Fields.decVFloat, Fields.ff, Fields.okB, Fields.okC, guard]
theorem vfrcp (rnd : Rnd) (g : Guard) (d : VReg) (a : FSrc) : Statement (.vfrcp rnd g d a) := of_fields rfl rfl fun hw => by
  simp [Fields.raw, Fields.decVFloat, Fields.ff, Fields.okB, Fields.okC, guard]
theorem vfrsq (rnd : Rnd) (g : Guard) (d : VReg) (a : FSrc) : Statement (.vfrsq rnd g d a) := of_fields rfl rfl fun hw => by
  simp [Fields.raw, Fields.decVFloat, Fields.ff, Fields.okB, Fields.okC, guard]
theorem vfexp2 (rnd : Rnd) (g : Guard) (d : VReg) (a : FSrc) : Statement (.vfexp2 rnd g d a) := of_fields rfl rfl fun hw => by
  simp [Fields.raw, Fields.decVFloat, Fields.ff, Fields.okB, Fields.okC, guard]
theorem vflog2 (rnd : Rnd) (g : Guard) (d : VReg) (a : FSrc) : Statement (.vflog2 rnd g d a) := of_fields rfl rfl fun hw => by
  simp [Fields.raw, Fields.decVFloat, Fields.ff, Fields.okB, Fields.okC, guard]
theorem vfsinpi (rnd : Rnd) (g : Guard) (d : VReg) (a : FSrc) : Statement (.vfsinpi rnd g d a) := of_fields rfl rfl fun hw => by
  simp [Fields.raw, Fields.decVFloat, Fields.ff, Fields.okB, Fields.okC, guard]
theorem vfcospi (rnd : Rnd) (g : Guard) (d : VReg) (a : FSrc) : Statement (.vfcospi rnd g d a) := of_fields rfl rfl fun hw => by
  simp [Fields.raw, Fields.decVFloat, Fields.ff, Fields.okB, Fields.okC, guard]
theorem vfrnd (rnd : Rnd) (g : Guard) (d a : VReg) : Statement (.vfrnd rnd g d a) := of_fields rfl rfl fun hw => by
  simp [Fields.raw, Fields.decVFloat, Fields.okB, Fields.okC, guard]
theorem vhadd (rnd : Rnd) (g : Guard) (d : VReg) (a b : FSrc) : Statement (.vhadd rnd g d a b) := of_fields rfl rfl fun hw => by
  simp [Fields.raw, Fields.decVFloat, Fields.fff, Fields.okC, guard]
theorem vhmul (rnd : Rnd) (g : Guard) (d : VReg) (a b : FSrc) : Statement (.vhmul rnd g d a b) := of_fields rfl rfl fun hw => by
  simp [Fields.raw, Fields.decVFloat, Fields.fff, Fields.okC, guard]
theorem vhfma (rnd : Rnd) (g : Guard) (d : VReg) (a b c : FSrc) : Statement (.vhfma rnd g d a b c) := of_fields rfl rfl fun hw => by
  simp [Fields.raw, Fields.decVFloat, Fields.ffff, guard]
theorem vbadd (rnd : Rnd) (g : Guard) (d : VReg) (a b : FSrc) : Statement (.vbadd rnd g d a b) := of_fields rfl rfl fun hw => by
  simp [Fields.raw, Fields.decVFloat, Fields.fff, Fields.okC, guard]
theorem vbmul (rnd : Rnd) (g : Guard) (d : VReg) (a b : FSrc) : Statement (.vbmul rnd g d a b) := of_fields rfl rfl fun hw => by
  simp [Fields.raw, Fields.decVFloat, Fields.fff, Fields.okC, guard]
theorem vbfma (rnd : Rnd) (g : Guard) (d : VReg) (a b c : FSrc) : Statement (.vbfma rnd g d a b c) := of_fields rfl rfl fun hw => by
  simp [Fields.raw, Fields.decVFloat, Fields.ffff, guard]
theorem vcvt (rnd : Rnd) (dt st : ETy) (g : Guard) (d : VReg) (a : CvtSrc) : Statement (.vcvt rnd dt st g d a) := of_fields rfl rfl fun hw => by
  simp [Fields.raw, Fields.decVFloat, Fields.okB, Fields.okC, guard]
theorem vshfl (g : Guard) (d a : VReg) (lane : VSrc) (fb : VMovSrc) : Statement (.vshfl g d a lane fb) := of_fields rfl rfl fun hw => by
  simp [Fields.raw, Fields.decCross, guard]
theorem vbcast (g : Guard) (d a : VReg) (lane : SSrc) : Statement (.vbcast g d a lane) := of_fields rfl rfl fun hw => by
  simp [Fields.raw, Fields.decCross, Fields.okC, guard]
theorem vvote (g : Guard) (d : PReg) (v : Vote) : Statement (.vvote g d v) := of_fields rfl rfl fun hw => by
  simp [Fields.raw, Fields.decCross, Fields.okB, Fields.okC, guard]
theorem vballot (g : Guard) (d : SReg) (a : PReg) : Statement (.vballot g d a) := of_fields rfl rfl fun hw => by
  simp [Fields.raw, Fields.decCross, Fields.okB, Fields.okC, guard]
theorem vscan (op : RedOp) (ty : RedTy) (excl : Bool) (g : Guard) (d a : VReg) : Statement (.vscan op ty excl g d a) := of_fields rfl rfl fun hw => by
  simp [Fields.raw, Fields.decCross, Fields.okB, Fields.okC, guard]
theorem vreduce (op : RedOp) (ty : RedTy) (g : Guard) (d : SVDst) (a : VReg) : Statement (.vreduce op ty g d a) := of_fields rfl rfl fun hw => by
  simp [Fields.raw, Fields.decCross, Fields.okB, Fields.okC, guard]
theorem vcompact (g : Guard) (d a : VReg) (p : PReg) : Statement (.vcompact g d a p) := of_fields rfl rfl fun hw => by
  simp [Fields.raw, Fields.decCross, Fields.okC, guard]
theorem ld (sz : Size) (sp : Space) (h : Hint) (home : Option (BitVec 4)) (q : Bool) (g : Guard) (d : VReg) (a : LdBase) (b : Off) : Statement (.ld sz sp h home q g d a b) := of_fields rfl rfl fun hw => by
  simp only [Instr.wf, Bool.and_eq_true] at hw
  cases a <;> cases sp <;> simp_all [LdBase.fits] <;> simp [Fields.raw, Fields.decMemory, Fields.okC, loadMod, guard, show (Space.global == Space.window) = false from rfl, show (Space.stash == Space.window) = false from rfl, show (Space.priv == Space.window) = false from rfl]
theorem ldu (stash wide : Bool) (h : Hint) (home : Option (BitVec 4)) (q : Bool) (d a : SReg) (b : SSrc) : Statement (.ldu stash wide h home q d a b) := of_fields rfl rfl fun hw => by
  cases stash <;> cases wide <;> simp [Fields.raw, Fields.decMemory, Fields.okC, loadMod, guard, decSize, decSpace]
theorem loadDataArrives (t op : Nat) : Statement (.loadDataArrives t op) := of_event rfl
theorem st (sz : Size) (sp : Space) (rule : Rule) (fsum : Bool) (g : Guard) (a : StBase) (b : Off) (c : VReg) : Statement (.st sz sp rule fsum g a b c) := of_fields rfl rfl fun hw => by
  simp [Fields.raw, Fields.decMemory, Fields.okD, storeMod, guard]
theorem stf (sz : Size) (stash : Bool) (rule : Rule) (q : Bool) (g : Guard) (d : VReg) (a : StBase) (b : Off) (c : VReg) : Statement (.stf sz stash rule q g d a b c) := of_fields rfl rfl fun hw => by
  cases stash <;> simp [Fields.raw, Fields.decMemory, storeMod, guard, decSpace]
theorem stl (rule : Rule) (g : Guard) (a : StBase) (b : Off) (c : VReg) : Statement (.stl rule g a b c) := of_fields rfl rfl fun hw => by
  simp [Fields.raw, Fields.decMemory, Fields.okD, storeMod, guard, decSize, decSpace]
theorem pref (h : Hint) (home : Option (BitVec 4)) (g : Guard) (a : LdBase) (b : Off) : Statement (.pref h home g a b) := of_fields rfl rfl fun hw => by
  cases a <;> simp [Fields.raw, Fields.decMemory, Fields.okC, Fields.okD, loadMod, guard, decSize, decSpace, show (Space.global == Space.window) = false from rfl]
theorem stepw : Statement (.stepw) := of_fields rfl rfl fun hw => by
  simp [Fields.raw, Fields.decMemory, Fields.bare, Fields.plain, Fields.okD, Fields.okA, Fields.okB, Fields.okC]
theorem stepg : Statement (.stepg) := of_fields rfl rfl fun hw => by
  simp [Fields.raw, Fields.decMemory, Fields.bare, Fields.plain, Fields.okD, Fields.okA, Fields.okB, Fields.okC]
theorem pause (n : Word) : Statement (.pause n) := of_fields rfl rfl fun hw => by
  simp [Fields.raw, Fields.decMemory, Fields.immOnly, Fields.okD, Fields.okA, guard]
theorem tdef (t : TileNo) (lo hi : SReg) : Statement (.tdef t lo hi) := of_fields rfl rfl fun hw => by
  simp [Fields.raw, Fields.decCopy, Fields.plain, Fields.okC, guard]
theorem tfree (t : TileNo) : Statement (.tfree t) := of_fields rfl rfl fun hw => by
  simp [Fields.raw, Fields.decCopy, Fields.plain, Fields.okA, Fields.okB, Fields.okC, guard]
theorem tstate (d : SReg) (t : TileNo) : Statement (.tstate d t) := of_fields rfl rfl fun hw => by
  simp [Fields.raw, Fields.decCopy, Fields.plain, Fields.okB, Fields.okC, guard]
theorem cpin (t : TileNo) (a : CpSrc) (b : SSrc) (fc : FcReg) : Statement (.cpin t a b fc) := of_fields rfl rfl fun hw => by
  cases a <;> simp [Fields.raw, Fields.decCopy, guard, decCpSrc, encCpSrc]
theorem cpout (rule : Rule) (free zero : Bool) (a : SReg) (t : TileNo) (fc : FcReg) : Statement (.cpout rule free zero a t fc) := of_fields rfl rfl fun hw => by
  cases rule <;> cases free <;> cases zero <;> simp [Fields.raw, Fields.decCopy, Fields.plain, Fields.okD, guard, modOnly, modRule, encRule, decRule]
theorem cptt (d s : TileNo) (fc : FcReg) : Statement (.cptt d s fc) := of_fields rfl rfl fun hw => by
  simp [Fields.raw, Fields.decCopy, Fields.plain, Fields.okB, guard]
theorem copyLineLands (h c line : Nat) : Statement (.copyLineLands h c line) := of_event rfl
theorem cwait (fc : FcReg) (n : SSrc) : Statement (.cwait fc n) := of_fields rfl rfl fun hw => by
  simp [Fields.raw, Fields.decCopy, Fields.plain, Fields.okC, Fields.okD, guard]
theorem wbind (w : WinNo) (a : SReg) : Statement (.wbind w a) := of_fields rfl rfl fun hw => by
  simp [Fields.raw, Fields.decCopy, Fields.plain, Fields.okB, Fields.okC, guard]
theorem wunbind (w : WinNo) : Statement (.wunbind w) := of_fields rfl rfl fun hw => by
  simp [Fields.raw, Fields.decCopy, Fields.plain, Fields.okA, Fields.okB, Fields.okC, guard]
theorem pin (d base bytes : SReg) : Statement (.pin d base bytes) := of_fields rfl rfl fun hw => by
  simp [Fields.raw, Fields.decCopy, Fields.plain, Fields.okC, guard]
theorem unpin (a : SReg) : Statement (.unpin a) := of_fields rfl rfl fun hw => by
  simp [Fields.raw, Fields.decCopy, Fields.plain, Fields.okB, Fields.okC, Fields.okD, guard]
theorem mmip (q : Bool) (d : AReg) (a b : GSrc) (ri : Option FReg) : Statement (.mmip q d a b ri) := of_fields rfl rfl fun hw => by
  cases q <;> simp [Fields.raw, Fields.decGrate, Fields.plain, guard, modOnly, modQ]
theorem mmop (q : Bool) (d : TileNo) (a b : GSrc) (ri : Option FReg) : Statement (.mmop q d a b ri) := of_fields rfl rfl fun hw => by
  cases q <;> simp [Fields.raw, Fields.decGrate, Fields.plain, guard, modOnly, modQ]
theorem mmrw (q : Bool) (d : TileNo) (a : GSrc) (ri : Option FReg) : Statement (.mmrw q d a ri) := of_fields rfl rfl fun hw => by
  cases q <;> simp [Fields.raw, Fields.decGrate, Fields.plain, Fields.okB, guard, modOnly, modQ]
theorem mmldb (q : Bool) (a : GSrc) : Statement (.mmldb q a) := of_fields rfl rfl fun hw => by
  cases q <;> simp [Fields.raw, Fields.decGrate, Fields.plain, Fields.okB, Fields.okC, Fields.okD, guard, modOnly, modQ]
theorem mmzero (q : Bool) (d : AReg) : Statement (.mmzero q d) := of_fields rfl rfl fun hw => by
  cases q <;> simp [Fields.raw, Fields.decGrate, Fields.plain, Fields.okA, Fields.okB, Fields.okC, guard, modOnly, modQ]
theorem mmlda (df : Flow) (q : Bool) (a : GSrc) (ri : Option FReg) : Statement (.mmlda df q a ri) := of_fields rfl rfl fun hw => by
  cases q <;> cases df <;> simp [Fields.raw, Fields.decGrate, Fields.plain, Fields.okB, Fields.okD, guard, modOnly, modQ, encFlow, decFlow]
theorem mmdrain (rnd : Rnd) (relu : Bool) (bias : Option SReg) (q : Bool) (d : TileNo) (a : AReg) (sa sb : Option SReg) : Statement (.mmdrain rnd relu bias q d a sa sb) := of_fields rfl rfl fun hw => by
  obtain ⟨h1, h2, h3, h4, h5, h6⟩ := drain_parts rnd relu q (BitVec.ofBool bias.isSome) (bias.getD 0#6) _ rfl
  cases bias <;> simp_all [Fields.raw, Fields.decGrate, Fields.plain, guard]
theorem vqlut (tbl : Bool) (q : Bool) (a : SReg) : Statement (.vqlut tbl q a) := of_fields rfl rfl fun hw => by
  cases q <;> cases tbl <;> simp [Fields.raw, Fields.decGrate, Fields.plain, Fields.okB, Fields.okC, Fields.okD, guard, modOnly, modQ]
theorem spdg (q : Bool) (m w g : TileNo) (n : SSrc) : Statement (.spdg q m w g n) := of_fields rfl rfl fun hw => by
  cases q <;> simp [Fields.raw, Fields.decGrate, Fields.plain, guard, modOnly, modQ]
theorem grateStart (h : Nat) : Statement (.grateStart h) := of_event rfl
theorem grateCompletion (h : Nat) : Statement (.grateCompletion h) := of_event rfl
theorem fbopen (wide stash : Bool) (vt : BitVec 4) (d : FReg) (c v l : SReg) : Statement (.fbopen wide stash vt d c v l) := of_fields rfl rfl fun hw => by
  obtain ⟨h1, h2, h3, h4⟩ := fbopen_parts wide stash vt _ rfl
  rw [BitVec.getLsbD_eq_getElem (by decide)] at h1 h2
  simp [Fields.raw, Fields.decGrate, Fields.plain, guard, h1, h2, h3, h4]
theorem fbadv (upTo : Bool) (d : FReg) (n : SSrc) : Statement (.fbadv upTo d n) := of_fields rfl rfl fun hw => by
  cases upTo <;> simp [Fields.raw, Fields.decGrate, Fields.plain, Fields.okB, Fields.okC, guard, modOnly]
theorem fbend (d : PReg) (a : FReg) : Statement (.fbend d a) := of_fields rfl rfl fun hw => by
  simp [Fields.raw, Fields.decGrate, Fields.plain, Fields.okB, Fields.okC, guard]
theorem fbclose (d : FReg) : Statement (.fbclose d) := of_fields rfl rfl fun hw => by
  simp [Fields.raw, Fields.decGrate, Fields.plain, Fields.okA, Fields.okB, Fields.okC, guard]
theorem fbrd (val q : Bool) (d : VReg) (a : FReg) : Statement (.fbrd val q d a) := of_fields rfl rfl fun hw => by
  cases q <;> cases val <;> simp [Fields.raw, Fields.decGrate, Fields.plain, Fields.okB, Fields.okC, guard, modOnly, modQ]
theorem fbrdDataArrives (t op : Nat) : Statement (.fbrdDataArrives t op) := of_event rfl
theorem br (tgt : BitVec 20) : Statement (.br tgt) := of_fields rfl rfl fun hw => by
  simp [Fields.raw, Fields.decControl, Fields.jump, Fields.okD, guard]
theorem brc (g : Guard) (tgt jn : BitVec 20) (ej : Bool) : Statement (.brc g tgt jn ej) := of_fields rfl rfl fun hw => by
  simp [Fields.raw, Fields.decControl, Fields.jump, Fields.okD, guard]
theorem jt (a : VReg) (tgt jn : BitVec 20) (ej : Bool) : Statement (.jt a tgt jn ej) := of_fields rfl rfl fun hw => by
  simp [Fields.raw, Fields.decControl, Fields.jump, guard]
theorem join : Statement (.join) := of_fields rfl rfl fun hw => by
  simp [Fields.raw, Fields.decControl, Fields.jump, Fields.okD, guard]
theorem call (l : SReg) (tgt : BitVec 20) : Statement (.call l tgt) := of_fields rfl rfl fun hw => by
  simp [Fields.raw, Fields.decControl, Fields.jump, guard]
theorem ret (l : SReg) : Statement (.ret l) := of_fields rfl rfl fun hw => by
  simp [Fields.raw, Fields.decControl, Fields.jump, guard]
theorem exit (g : Guard) : Statement (.exit g) := of_fields rfl rfl fun hw => by
  simp [Fields.raw, Fields.decControl, Fields.jump, Fields.okD, guard]
theorem trap (g : Guard) (code : BitVec 16) : Statement (.trap g code) := of_fields rfl rfl fun hw => by
  simp [Fields.raw, Fields.decControl, Fields.code16, Fields.okD, Fields.okA, guard]
theorem bkpt (g : Guard) (tag : BitVec 16) : Statement (.bkpt g tag) := of_fields rfl rfl fun hw => by
  simp [Fields.raw, Fields.decControl, Fields.code16, Fields.okD, Fields.okA, guard]
theorem rte : Statement (.rte) := of_fields rfl rfl fun hw => by
  simp [Fields.raw, Fields.decControl, Fields.imm0, Fields.immOnly, Fields.okD, Fields.okA, guard]
theorem live (n : BitVec 8) : Statement (.live n) := of_fields rfl rfl fun hw => by
  simp [Fields.raw, Fields.decControl, Fields.immOnly, Fields.okD, Fields.okA, guard]
theorem nop : Statement (.nop) := of_fields rfl rfl fun hw => by
  simp [Fields.raw, Fields.decControl, Fields.imm0, Fields.immOnly, Fields.okD, Fields.okA, guard]
theorem mark (v : Word) : Statement (.mark v) := of_fields rfl rfl fun hw => by
  simp [Fields.raw, Fields.decControl, Fields.immOnly, Fields.okD, Fields.okA, guard]
theorem launch (a : SReg) : Statement (.launch a) := of_fields rfl rfl fun hw => by
  simp [Fields.raw, Fields.decControl, Fields.plain, Fields.okB, Fields.okC, Fields.okD, guard]
theorem evsig (e : BitVec 16) : Statement (.evsig e) := of_fields rfl rfl fun hw => by
  simp [Fields.raw, Fields.decControl, Fields.immOnly, Fields.okD, Fields.okA, guard]
theorem csrr (d : SReg) (r : Csr) : Statement (.csrr d r) := of_fields rfl rfl fun hw => by
  simp [Fields.raw, Fields.decControl, Fields.okA, guard]
theorem csrw (r : Csr) (a : SSrc) : Statement (.csrw r a) := of_fields rfl rfl fun hw => by
  simp [Fields.raw, Fields.decControl, Fields.okD, guard]
theorem handoverComplete (t : Nat) (target : DWord) : Statement (.handoverComplete t target) := of_event rfl
theorem emberRejoin (t : Nat) : Statement (.emberRejoin t) := of_event rfl
theorem gridStepClose (g : Nat) : Statement (.gridStepClose g) := of_event rfl
theorem groupStepClose (p : Nat) : Statement (.groupStepClose p) := of_event rfl
theorem stepWatchdog (grid : Bool) (n : Nat) : Statement (.stepWatchdog grid n) := of_event rfl
theorem hangWatchdog (c : Nat) : Statement (.hangWatchdog c) := of_event rfl
theorem rejoinTimeout (t : Nat) : Statement (.rejoinTimeout t) := of_event rfl
theorem queueDoorbell (die page q : Nat) (val : DWord) : Statement (.queueDoorbell die page q val) := of_event rfl
theorem eventClearDoorbell (die page : Nat) (val : DWord) : Statement (.eventClearDoorbell die page val) := of_event rfl
theorem packetTake : Statement (.packetTake) := of_event rfl
theorem gridPlace : Statement (.gridPlace) := of_event rfl
theorem groupPlaceDeferred : Statement (.groupPlaceDeferred) := of_event rfl
theorem gridComplete (g : Nat) : Statement (.gridComplete g) := of_event rfl
theorem ctxCreate (die : Nat) (c : Cmd) : Statement (.ctxCreate die c) := of_event rfl
theorem ctxDestroy (die : Nat) (c : Cmd) : Statement (.ctxDestroy die c) := of_event rfl
theorem queueSet (die : Nat) (c : Cmd) : Statement (.queueSet die c) := of_event rfl
theorem preempt (die : Nat) (c : Cmd) : Statement (.preempt die c) := of_event rfl
theorem saveBegin (c : Nat) : Statement (.saveBegin c) := of_event rfl
theorem saveDone (c : Nat) : Statement (.saveDone c) := of_event rfl
theorem pretmoExpiry (c : Nat) : Statement (.pretmoExpiry c) := of_event rfl
theorem cpytmoExpiry (c : Nat) : Statement (.cpytmoExpiry c) := of_event rfl
theorem savetmoExpiry (c : Nat) : Statement (.savetmoExpiry c) := of_event rfl
theorem restore (die : Nat) (c : Cmd) : Statement (.restore die c) := of_event rfl
theorem restoreStart (base : Nat) : Statement (.restoreStart base) := of_event rfl
theorem restoreDone (base : Nat) : Statement (.restoreDone base) := of_event rfl
theorem invalidate (die : Nat) (c : Cmd) : Statement (.invalidate die c) := of_event rfl
theorem invalidateComplete (die : Nat) : Statement (.invalidateComplete die) := of_event rfl
theorem waveResume (die : Nat) (c : Cmd) : Statement (.waveResume die c) := of_event rfl
theorem connDown (die : Nat) (c : Cmd) : Statement (.connDown die c) := of_event rfl
theorem connUp (die : Nat) (c : Cmd) : Statement (.connUp die c) := of_event rfl
theorem connSetWl (die : Nat) (c : Cmd) : Statement (.connSetWl die c) := of_event rfl
theorem circuitDrained (f peer : Nat) : Statement (.circuitDrained f peer) := of_event rfl
theorem circuitUp (f peer : Nat) : Statement (.circuitUp f peer) := of_event rfl
theorem powerPstate (die : Nat) (c : Cmd) : Statement (.powerPstate die c) := of_event rfl
theorem pstateChangeDone (die : Nat) : Statement (.pstateChangeDone die) := of_event rfl
theorem powerBudget (die : Nat) (c : Cmd) : Statement (.powerBudget die c) := of_event rfl
theorem powerIdle (die : Nat) (c : Cmd) : Statement (.powerIdle die c) := of_event rfl
theorem cfgDtbase (die : Nat) (c : Cmd) : Statement (.cfgDtbase die c) := of_event rfl
theorem cfgDtsize (die : Nat) (c : Cmd) : Statement (.cfgDtsize die c) := of_event rfl
theorem cfgRlbase (die : Nat) (c : Cmd) : Statement (.cfgRlbase die c) := of_event rfl
theorem cfgRlsize (die : Nat) (c : Cmd) : Statement (.cfgRlsize die c) := of_event rfl
theorem cfgElbase (die : Nat) (c : Cmd) : Statement (.cfgElbase die c) := of_event rfl
theorem cfgElsize (die : Nat) (c : Cmd) : Statement (.cfgElsize die c) := of_event rfl
theorem cfgCpytmo (die : Nat) (c : Cmd) : Statement (.cfgCpytmo die c) := of_event rfl
theorem cfgSavetmo (die : Nat) (c : Cmd) : Statement (.cfgSavetmo die c) := of_event rfl
theorem cfgPretmo (die : Nat) (c : Cmd) : Statement (.cfgPretmo die c) := of_event rfl
theorem cfgCxltmo (die : Nat) (c : Cmd) : Statement (.cfgCxltmo die c) := of_event rfl
theorem cfgPeertmo (die : Nat) (c : Cmd) : Statement (.cfgPeertmo die c) := of_event rfl
theorem cfgActmax (die : Nat) (c : Cmd) : Statement (.cfgActmax die c) := of_event rfl
theorem cfgSteplimit (die : Nat) (c : Cmd) : Statement (.cfgSteplimit die c) := of_event rfl
theorem cfgHanglimit (die : Nat) (c : Cmd) : Statement (.cfgHanglimit die c) := of_event rfl
theorem cfgCtxcfg (die : Nat) (c : Cmd) : Statement (.cfgCtxcfg die c) := of_event rfl
theorem cfgTba (die : Nat) (c : Cmd) : Statement (.cfgTba die c) := of_event rfl
theorem cfgFpolicy (die : Nat) (c : Cmd) : Statement (.cfgFpolicy die c) := of_event rfl
theorem countsRead (die : Nat) (c : Cmd) : Statement (.countsRead die c) := of_event rfl
theorem dieReset (die : Nat) (c : Cmd) : Statement (.dieReset die c) := of_event rfl
theorem functionLevelReset (die : Nat) : Statement (.functionLevelReset die) := of_event rfl
theorem moduleReset (die : Nat) (c : Cmd) : Statement (.moduleReset die c) := of_event rfl
theorem notifySet (die : Nat) (c : Cmd) : Statement (.notifySet die c) := of_event rfl
theorem inboxSet (die : Nat) (c : Cmd) : Statement (.inboxSet die c) := of_event rfl
theorem peerId (die : Nat) (c : Cmd) : Statement (.peerId die c) := of_event rfl
theorem flashWrite (die : Nat) (c : Cmd) : Statement (.flashWrite die c) := of_event rfl
theorem bar0WriteOther (die off : Nat) (val : DWord) : Statement (.bar0WriteOther die off val) := of_event rfl
theorem hostMemoryRequest (die : Nat) (write : Bool) (addr : Nat) (data : List Byte) : Statement (.hostMemoryRequest die write addr data) := of_event rfl
theorem peerLineArrives (port : Nat) (o : BitVec 44) (data : PeerData) : Statement (.peerLineArrives port o data) := of_event rfl
theorem peerLineAck (h c line : Nat) : Statement (.peerLineAck h c line) := of_event rfl
theorem peerLineTimeout (h c : Nat) (line : PeerEnd) : Statement (.peerLineTimeout h c line) := of_event rfl
theorem cxlTimeout (t op : Nat) : Statement (.cxlTimeout t op) := of_event rfl
theorem cxlLinkDown (port : Nat) : Statement (.cxlLinkDown port) := of_event rfl
theorem pageWalk (die c : Nat) (va : DWord) : Statement (.pageWalk die c va) := of_event rfl
theorem pinFadePeriod (c pin : Nat) : Statement (.pinFadePeriod c pin) := of_event rfl
theorem hbmAccess (stack bank row : Nat) (write : Bool) : Statement (.hbmAccess stack bank row write) := of_event rfl
theorem hbmRefresh (stack bank : Nat) (hints : List Nat) : Statement (.hbmRefresh stack bank hints) := of_event rfl
theorem retryReissue (stack bank : Nat) : Statement (.retryReissue stack bank) := of_event rfl
theorem dieTrip (die : Nat) (overTemp : Bool) : Statement (.dieTrip die overTemp) := of_event rfl
theorem flueDieTrip (f : Nat) (overTemp : Bool) : Statement (.flueDieTrip f overTemp) := of_event rfl
theorem cxlLinkUp (port : Nat) : Statement (.cxlLinkUp port) := of_event rfl
theorem peerLinkPortDown (f : Nat) : Statement (.peerLinkPortDown f) := of_event rfl
theorem peerLinkPortUp (f : Nat) : Statement (.peerLinkPortUp f) := of_event rfl
theorem tdispStateChange (die : Nat) (st : Tdisp) : Statement (.tdispStateChange die st) := of_event rfl
theorem ideStreamKeyed (die : Nat) : Statement (.ideStreamKeyed die) := of_event rfl
theorem unknownCommandCode (die : Nat) (c : Cmd) : Statement (.unknownCommandCode die c) := of_event rfl
theorem cmddbWriteWhileBusy (die : Nat) : Statement (.cmddbWriteWhileBusy die) := of_event rfl
theorem pauseEnd (t : Nat) : Statement (.pauseEnd t) := of_event rfl
theorem refreshEnd (stack bank : Nat) : Statement (.refreshEnd stack bank) := of_event rfl
theorem powerOn : Statement (.powerOn) := of_event rfl
theorem powerGoodTimeout : Statement (.powerGoodTimeout) := of_event rfl
theorem powerGood : Statement (.powerGood) := of_event rfl

end Sys2Proof.Laws.Encoding
end

