-- ==== Sys2Proof/Laws/Retire.lean ====
section
/-! SUPPORT. Memory under a write, the stack under a change of the running path, and what retiring an instruction leaves. -/

namespace Sys2Proof.Machine

/-! ## Memory -/

theorem stored_writeSpill (s : State) (w : Thread) (old es : List Entry) : Stored s (s.writeSpill w old es) := by
  induction es generalizing s with
  | nil => exact .refl s
  | cons e r ih =>
    unfold State.writeSpill
    split
    · exact ih s
    split
    · exact (stored_storePrivate s _ _ _ _ _ _).trans (ih _)
    · exact ih s

/-- Where memory stands, a byte reads as it was written; every other address reads as before. -/
theorem readByte_writeByte (s : State) (pa a : Nat) (b : Byte) :
    (s.writeByte pa b).readByte a = if a = pa ∧ s.holdsMemory pa = true then b else s.readByte a := by
  unfold State.writeByte State.readByte
  by_cases h : s.holdsMemory pa = true
  · simp only [h, if_true, and_true]; exact tget_tset 0#8 s.mem pa a b
  · simp [h]

/-- A write of bytes leaves every address outside them alone. -/
theorem readByte_writeBytes_outside (s : State) (pa : Nat) (bs : List Byte) (a : Nat) (h : a < pa ∨ pa + bs.length ≤ a) :
    (s.writeBytes pa bs).readByte a = s.readByte a := by
  induction bs generalizing s pa with
  | nil => rfl
  | cons b r ih =>
    rw [State.writeBytes, ih _ _ (by simp only [List.length_cons] at h; omega), readByte_writeByte]
    have : a ≠ pa := by simp only [List.length_cons] at h; omega
    simp [this]

/-! ## The running path -/

theorem running_onRunning (f : Entry → Entry) (es : List Entry) (e : Entry) (h : running? es = some e)
    (hf : ∀ y, (f y).st = y.st) : running? (onRunning f es) = some (f e) := by
  induction es with
  | nil => simp [running?] at h
  | cons y r ih =>
    by_cases hy : y.st = .running
    · have : y = e := by simpa [running?, hy] using h
      subst this
      simp [onRunning, hy, running?, hf]
    · have hr : running? r = some e := by simpa [running?, hy] using h
      simpa [onRunning, hy, running?] using ih hr

theorem onRunning_length (f : Entry → Entry) (es : List Entry) : (onRunning f es).length = es.length := by
  induction es with
  | nil => rfl
  | cons y r ih => unfold onRunning; split <;> simp [ih]

/-- Giving a thread a stack changes that thread and, where entries are spilled, memory with its records. -/
theorem putEntries_stored (s : State) (t : Nat) (w : Thread) (es : List Entry) : ∃ c, Stored s c
    ∧ s.putEntries t w es = { c with threads := aset c.threads t { w with stack := es.take 16, spilled := es.length - 16 } }
    ∧ (es.length ≤ 16 → c = s) := by
  refine ⟨s.writeSpill w (s.spilledFrom w w.spilled) (es.drop 16), stored_writeSpill s w _ _, rfl, fun h => ?_⟩
  rw [List.drop_eq_nil_of_le h, State.writeSpill]

/-! ## Retiring -/

theorem advance_rest (w : Thread) : w.advance.rest = w.rest := by
  simp only [Thread.rest, Thread.advance]
  cases w.ember <;> rfl

theorem countRetire_entries (s : State) (w w' : Thread) (e : Entry) (h : w'.spilled = 0) :
    (s.countRetire w e).entries w' = w'.stack := by simp [State.entries, h, State.spilledFrom]

/-- The running path of a thread that holds its whole stack. -/
theorem path_held {s : State} {w : Thread} {e : Entry} (h : s.path? w = some e) (k : w.stackHeld) : running? w.stack = some e := by
  have : s.entries w = w.stack := by simp [State.entries, k.1, State.spilledFrom]
  simpa [State.path?, this] using h

/-- What a retirement leaves, where `w'` is `w` with the instruction's own effect. -/
theorem retirePath_runsOn (s : State) (t : Nat) (w w' : Thread) (e : Entry) (f : Entry → Entry)
    (hp : w.stackHeld → running? w.stack = some e) (hs : w'.stack = w.stack) (hn : w'.spilled = w.spilled) (hf : ∀ y, (f y).st = y.st) :
    ∃ st n, RunsOn s (s.retirePath t w' e f) t w' { w'.advance with stack := st, spilled := n } e f := by
  obtain ⟨⟨a, b, c', d, hc⟩, kc, ko⟩ := countRetire_counted s w' e
  generalize hcs : s.countRetire w' e = c at hc kc ko
  let es := onRunning (fun y => f { y with icnt := y.icnt + 1 }) (c.entries w'.advance)
  obtain ⟨c2, ⟨m, h, ds, bm, bl, ca, hst⟩, hput, hsame⟩ := putEntries_stored c t w'.advance es
  refine ⟨es.take 16, es.length - 16, ?_⟩
  have hstate : ∃ k, s.retirePath t w' e f = { c with
      mem := m, hostMem := h, dies := ds, badMem := bm, badL3 := bl, caches := ca, cur := k
      threads := aset c.threads t { w'.advance with stack := es.take 16, spilled := es.length - 16 } } := by
    unfold State.retirePath State.setPath
    simp only [hcs]
    split
    · exact ⟨none, by rw [hput, hst]⟩
    · exact ⟨c.cur, by rw [hput, hst]⟩
  obtain ⟨k, hk⟩ := hstate
  have held : w'.stackHeld → c.entries w'.advance = w.stack ∧ w.stack.length ≤ 16 := by
    intro h
    refine ⟨?_, hs ▸ h.2⟩
    have : w'.advance.spilled = 0 := by simpa [Thread.advance] using h.1
    unfold State.entries
    rw [this]
    simp [State.spilledFrom, Thread.advance, hs]
  have same : w'.stackHeld → c2 = c := fun h => hsame (by
    rw [onRunning_length, (held h).1]; exact (held h).2)
  constructor
  · constructor
    · rw [hk, hc]
    · rw [hk]; exact kc.contexts
    · rw [hk]; exact kc.grids
    · rw [hk]; exact kc.groups
  constructor
  · rw [hk]; simp [State.thread?]
  · rw [← advance_rest w']; rfl
  · intro h
    have hh := held h
    have hpw : running? w.stack = some e := hp ⟨hn ▸ h.1, hs ▸ h.2⟩
    have hl : (onRunning (fun y => f { y with icnt := y.icnt + 1 }) w.stack).length ≤ 16 := by
      rw [onRunning_length]; exact hh.2
    have hz : (onRunning (fun y => f { y with icnt := y.icnt + 1 }) w.stack).length - 16 = 0 := by omega
    simp only [es]
    rw [hh.1]
    simp only [State.path?, State.entries, hz, State.spilledFrom, List.append_nil, List.take_of_length_le hl]
    exact running_onRunning _ _ _ hpw (fun y => hf _)
  · intro h x
    have e2 : c = { c with mem := m, hostMem := _, dies := ds, badMem := bm, badL3 := bl, caches := ca } := (same h).symm.trans hst
    have : m = c.mem := (congrArg State.mem e2).symm
    rw [hk]; simp [State.readByte, this, hc]
  · intro h
    have e2 := (same h).symm.trans hst
    rw [hk]
    have hd : ds = s.dies := (congrArg State.dies e2).symm.trans (by rw [hc])
    exact ⟨hd, (congrArg State.hostMem e2).symm.trans (by rw [hc]), (congrArg State.badMem e2).symm.trans (by rw [hc]),
      (congrArg State.badL3 e2).symm.trans (by rw [hc]), (congrArg State.caches e2).symm.trans (by rw [hc])⟩
  · intro u x hu hx
    obtain ⟨n, hn'⟩ := ko u x hx
    refine ⟨n, ?_⟩
    rw [hk]
    simpa [State.thread?, aget_aset_ne _ _ hu] using hn'

theorem retire_eq (s : State) (t : Nat) (w : Thread) (e : Entry) : s.retire t w e = s.retirePath t w e id := rfl

theorem retireFl_eq (s : State) (t : Nat) (w : Thread) (e : Entry) (f : Fl) :
    s.retireFl t w e f = s.retirePath t w e (fun y => y.raise f) := rfl

/-! ## Registers after a write -/

theorem sreg_setS (w : Thread) (hb : w.badS = []) (d : Nat) (v : DWord) (r : Nat) :
    (w.setS d v).sreg r = if r = d then v else w.sreg r := by
  simp [Thread.sreg, Thread.setS, hb, tget_tset]

theorem vix_inj {r l r' l' : Nat} (h : l < 128) (h' : l' < 128) : vix r l = vix r' l' ↔ r = r' ∧ l = l' := by
  unfold vix; omega

theorem setV_vreg (w : Thread) (hb : w.badV = []) (r l : Nat) (x : Word) (r' l' : Nat) (h : l < 128) (h' : l' < 128) :
    (w.setV r l x).vreg r' l' = if r' = r ∧ l' = l then x else w.vreg r' l' := by
  simp only [Thread.vreg, Thread.setV, hb, List.filter_nil, List.contains_nil, Bool.false_eq_true, if_false, tget_tset,
    vix_inj h' h]

end Sys2Proof.Machine
end

