-- ==== Sys2Proof/Laws/Registers.lean ====
section
/-! SUPPORT. The registers after a write of several lanes, and what the shared shapes of register instructions answer. -/

namespace Sys2Proof.Machine

/-! ## Lanes -/

theorem mem_lanesOf (m : Mask) (l : Nat) : l ∈ lanesOf m ↔ l < 128 ∧ m.getLsbD l = true := by
  simp [lanesOf]

/-- The lanes of an instruction are those that take part. -/
theorem active_getLsbD (w : Thread) (e : Entry) (g : Guard) (l : Nat) (h : l < 128) :
    (active w e g).getLsbD l = TakesPart w e g l := by
  unfold active Guard.lanes TakesPart
  cases g.neg <;> simp [h]

theorem mem_active (w : Thread) (e : Entry) (g : Guard) (l : Nat) :
    l ∈ lanesOf (active w e g) ↔ l < 128 ∧ TakesPart w e g l = true := by
  rw [mem_lanesOf]
  constructor
  · rintro ⟨h, k⟩; exact ⟨h, active_getLsbD w e g l h ▸ k⟩
  · rintro ⟨h, k⟩; exact ⟨h, (active_getLsbD w e g l h).trans k⟩

/-! ## Writes of words -/

/-- The last word of a list that goes to an index. -/
def lastTo {α : Type} : List (Nat × α) → Nat → Option α
  | [], _ => none
  | (i, x) :: r, k => (lastTo r k).or (if i = k then some x else none)

theorem tget_tsets {α : Type} [DecidableEq α] (d : α) (t : List (Nat × α)) (l : List (Nat × α)) (k : Nat) :
    tget d (tsets d t l) k = (lastTo l k).getD (tget d t k) := by
  induction l generalizing t with
  | nil => rfl
  | cons a r ih =>
    obtain ⟨i, x⟩ := a
    rw [tsets, ih, tget_tset, lastTo]
    cases lastTo r k with
    | some y => simp
    | none =>
      by_cases h : i = k
      · simp [h]
      · have : ¬ k = i := fun h' => h h'.symm
        simp [h, this]

/-- A write of words changes v registers alone. -/
theorem setWords_eq (w : Thread) (l : List (Nat × Word)) (hb : w.badV = []) : w.setWords l = { w with v := tsets 0#32 w.v l } := by
  induction l generalizing w with
  | nil => rfl
  | cons a r ih =>
    obtain ⟨k, x⟩ := a
    have hk : vix (k / 128) (k % 128) = k := by unfold vix; omega
    have h1 : w.setV (k / 128) (k % 128) x = { w with v := tset 0#32 w.v k x } := by simp [Thread.setV, hb, hk]
    rw [Thread.setWords, h1]
    exact ih { w with v := tset 0#32 w.v k x } hb

theorem setWords_vreg (w : Thread) (l : List (Nat × Word)) (hb : w.badV = []) (r n : Nat) :
    (w.setWords l).vreg r n = (lastTo l (vix r n)).getD (w.vreg r n) := by
  rw [setWords_eq w l hb]
  simp [Thread.vreg, hb, tget_tsets]

theorem lastTo_append {α : Type} (a b : List (Nat × α)) (k : Nat) : lastTo (a ++ b) k = (lastTo b k).or (lastTo a k) := by
  induction a with
  | nil => simp [lastTo]
  | cons x r ih =>
    obtain ⟨i, y⟩ := x
    simp only [List.cons_append, lastTo, ih]
    cases lastTo b k <;> simp

/-- One word for each lane of a register. -/
theorem lastTo_lanes (ls : List Nat) (hl : ∀ l ∈ ls, l < 128) (d : Nat) (f : Nat → Word) (r n : Nat) (hn : n < 128) :
    lastTo (ls.map fun l => (vix d l, f l)) (vix r n) = if r = d ∧ n ∈ ls then some (f n) else none := by
  induction ls with
  | nil => simp [lastTo]
  | cons a t ih =>
    have ha := hl a (by simp)
    simp only [List.map_cons, lastTo, ih fun l h => hl l (by simp [h]), vix_inj ha hn, List.mem_cons]
    by_cases h1 : r = d
    · subst h1
      by_cases h2 : n ∈ t
      · simp [h2]
      · by_cases h3 : a = n
        · subst h3; simp [h2]
        · have : ¬ n = a := fun h => h3 h.symm
          simp [h2, h3, this]
    · have : ¬ d = r := fun h => h1 h.symm
      simp [h1, this]

/-- Two words for each lane, in a register and the next. -/
theorem lastTo_pairs (ls : List Nat) (hl : ∀ l ∈ ls, l < 128) (d : Nat) (f g : Nat → Word) (r n : Nat) (hn : n < 128) :
    lastTo (ls.flatMap fun l => [(vix d l, f l), (vix (d + 1) l, g l)]) (vix r n)
      = if r = d ∧ n ∈ ls then some (f n) else if r = d + 1 ∧ n ∈ ls then some (g n) else none := by
  induction ls with
  | nil => simp [lastTo]
  | cons a t ih =>
    have ha := hl a (by simp)
    simp only [List.flatMap_cons, lastTo_append, ih fun l h => hl l (by simp [h]), lastTo, vix_inj ha hn, List.mem_cons,
      Option.none_or]
    by_cases h1 : r = d
    · subst h1
      by_cases h2 : n ∈ t
      · simp [h2]
      · by_cases h3 : a = n
        · subst h3; simp [h2]
        · have : ¬ n = a := fun h => h3 h.symm
          simp [h2, h3, this]
    · have e1 : ¬ d = r := fun h => h1 h.symm
      by_cases h4 : r = d + 1
      · subst h4
        by_cases h2 : n ∈ t
        · simp [h2]
        · by_cases h3 : a = n
          · subst h3; simp [h2]
          · have : ¬ n = a := fun h => h3 h.symm
            simp [h2, h3, this]
      · have e4 : ¬ d + 1 = r := fun h => h4 h.symm
        simp [h1, h4, e1, e4]

/-! ## Predicates -/

theorem getLsbD_maskOf (l : List Nat) (n : Nat) (h : n < 128) : (maskOf l).getLsbD n = decide (n ∈ l) := by
  have bit : ∀ i, (laneBit i).getLsbD n = decide (i = n) := by
    intro i
    unfold laneBit
    rw [BitVec.getLsbD_ofNat]
    simp [h, Nat.testBit_two_pow]
  have gen : ∀ (l : List Nat) (m : Mask), (l.foldl (fun m i => m ||| laneBit i) m).getLsbD n = (m.getLsbD n || decide (n ∈ l)) := by
    intro l
    induction l with
    | nil => simp
    | cons a r ih =>
      intro m
      rw [List.foldl_cons, ih]
      simp only [BitVec.getLsbD_or, bit, List.mem_cons]
      by_cases h1 : a = n
      · subst h1; simp
      · have : ¬ n = a := fun h => h1 h.symm
        simp [h1, this]
  unfold maskOf
  simp [gen]

/-- A predicate after a write in the lanes of `act`. -/
theorem setPred_preg (w : Thread) (d : Nat) (act x : Mask) (r n : Nat) (h : n < 128) :
    ((w.setPred d act x).preg r).getLsbD n =
      if r = d ∧ r ≠ 0 ∧ act.getLsbD n = true then x.getLsbD n && w.launched.getLsbD n else (w.preg r).getLsbD n := by
  unfold Thread.setPred
  by_cases hd : d = 0
  · subst hd
    have : ¬ (r = 0 ∧ r ≠ 0 ∧ act.getLsbD n = true) := fun k => k.2.1 k.1
    rw [if_pos rfl, if_neg this]
  · by_cases hr : r = 0
    · subst hr
      simp [Thread.preg, hd]
    · by_cases he : r = d
      · subst he
        simp only [hd, if_false, Thread.preg, tget_tset_same, BitVec.getLsbD_and, BitVec.getLsbD_or, BitVec.getLsbD_not, h,
          decide_true, Bool.true_and]
        cases act.getLsbD n <;> simp [hr]
      · simp [hd, Thread.preg, hr, he, tget_tset_ne _ _ _ he]

/-! ## Shapes of register instructions -/

theorem rest_of (w w' : Thread) (hw : w' = { w with v := w'.v, s := w'.s, p := w'.p, badV := w'.badV, badS := w'.badS }) :
    w'.rest = w.rest := by rw [hw]; rfl

/-- An instruction that retires with new v, s and p registers, and `fl` raised on its path. -/
theorem retire_writes {s : State} {t : Nat} {w : Thread} {e : Entry} (w' : Thread) (f : Entry → Entry) (hp : s.path? w = some e)
    (hw : w' = { w with v := w'.v, s := w'.s, p := w'.p, badV := w'.badV, badS := w'.badS }) (hf : ∀ y, (f y).st = y.st) :
    ∃ x, RunsOn s (s.retirePath t w' e f) t w x e f ∧ (∀ r, x.sreg r = w'.sreg r) ∧ (∀ r l, x.vreg r l = w'.vreg r l)
      ∧ ∀ r, x.preg r = w'.preg r := by
  have hs : w'.stack = w.stack := by rw [hw]
  have hn : w'.spilled = w.spilled := by rw [hw]
  obtain ⟨st, n, hr⟩ := retirePath_runsOn s t w w' e f (path_held hp) hs hn hf
  refine ⟨{ w'.advance with stack := st, spilled := n }, ⟨hr.kept, ?_⟩, fun r => rfl, fun r l => rfl, fun r => rfl⟩
  have hh : w.stackHeld → w'.stackHeld := by rintro ⟨a, b⟩; exact ⟨hn ▸ a, hs ▸ b⟩
  exact ⟨hr.runs.thread, hr.runs.rest.trans (rest_of w w' hw), fun h => hr.runs.path (hh h), fun h => hr.runs.memory (hh h), fun h => hr.runs.units (hh h),
    hr.runs.others⟩

theorem scalar_writes {s : State} {i : Instr} {t : Nat} {w : Thread} {e : Entry} (hp : s.path? w = some e) (hb : w.badS = [])
    (d : SReg) (v : DWord) (he : exec i s = .next (s.retire t (w.setS d.toNat v) e)) : WritesS s i t w e d v := by
  obtain ⟨x, hr, h1, h2, h3⟩ := retire_writes (t := t) (w.setS d.toNat v) id hp rfl fun _ => rfl
  refine ⟨_, x, he, by rw [retire_eq]; exact hr, fun r => ?_, fun r l => ?_, fun r => ?_⟩
  · rw [h1, sreg_setS w hb]
  · rw [h2]; rfl
  · rw [h3]; rfl

theorem vector_writes {s : State} {i : Instr} {t : Nat} {w : Thread} {e : Entry} (hp : s.path? w = some e) (hb : w.badV = [])
    (g : Guard) (d : VReg) (v : Nat → Word) (fl : Fl)
    (he : exec i s = .next (s.retireFl t (w.setWords ((lanesOf (active w e g)).map fun l => (vix d.toNat l, v l))) e fl)) :
    WritesV s i t w e g d v fl := by
  obtain ⟨x, hr, h1, h2, h3⟩ := retire_writes (t := t)
    (w.setWords ((lanesOf (active w e g)).map fun l => (vix d.toNat l, v l))) (fun y => y.raise fl) hp
    (by rw [setWords_eq w _ hb]) fun _ => rfl
  refine ⟨_, x, he, by rw [retireFl_eq]; exact hr, fun r l hl => ?_, fun r => ?_, fun r => ?_⟩
  · rw [h2, setWords_vreg w _ hb, lastTo_lanes _ (fun l h => ((mem_lanesOf _ _).1 h).1) _ _ _ _ hl]
    simp only [mem_active, hl, true_and]
    split <;> rfl
  · rw [h1, setWords_eq w _ hb]; rfl
  · rw [h3, setWords_eq w _ hb]; rfl

theorem raise_none : (fun y : Entry => y.raise flNone) = id := by
  funext y; simp [Entry.raise, flNone]

theorem retire_fl (s : State) (t : Nat) (w : Thread) (e : Entry) : s.retire t w e = s.retireFl t w e flNone := by
  rw [retire_eq, retireFl_eq, raise_none]

theorem pair_writes {s : State} {i : Instr} {t : Nat} {w : Thread} {e : Entry} (hp : s.path? w = some e) (hb : w.badV = [])
    (g : Guard) (d : VReg) (v : Nat → DWord)
    (he : exec i s = .next (s.retire t (w.setWords ((lanesOf (active w e g)).flatMap fun l =>
      [(vix d.toNat l, (v l).extractLsb' 0 32), (vix (d.toNat + 1) l, (v l).extractLsb' 32 32)])) e)) :
    WritesPair s i t w e g d v flNone := by
  obtain ⟨x, hr, h1, h2, h3⟩ := retire_writes (t := t) (w.setWords ((lanesOf (active w e g)).flatMap fun l =>
      [(vix d.toNat l, (v l).extractLsb' 0 32), (vix (d.toNat + 1) l, (v l).extractLsb' 32 32)])) (fun y => y.raise flNone) hp
    (by rw [setWords_eq w _ hb]) fun _ => rfl
  refine ⟨_, x, he.trans (by rw [retire_fl]), by rw [retireFl_eq]; exact hr, fun r l hl => ?_, fun r => ?_, fun r => ?_⟩
  · rw [h2, setWords_vreg w _ hb, lastTo_pairs _ (fun l h => ((mem_lanesOf _ _).1 h).1) _ _ _ _ _ hl]
    simp only [mem_active, hl, true_and]
    (repeat' split) <;> rfl
  · rw [h1, setWords_eq w _ hb]; rfl
  · rw [h3, setWords_eq w _ hb]; rfl

theorem predicate_writes {s : State} {i : Instr} {t : Nat} {w : Thread} {e : Entry} (hp : s.path? w = some e)
    (g : Guard) (d : PReg) (m : Mask) (b : Nat → Prop) (fl : Fl)
    (hm : ∀ l, l < 128 → TakesPart w e g l = true → (m.getLsbD l = true ↔ b l))
    (he : exec i s = .next (s.retireFl t (w.setPred d.toNat (active w e g) m) e fl)) : WritesP s i t w e g d b fl := by
  obtain ⟨x, hr, h1, h2, h3⟩ := retire_writes (t := t) (w.setPred d.toNat (active w e g) m) (fun y => y.raise fl) hp
    (by unfold Thread.setPred; split <;> rfl) fun _ => rfl
  refine ⟨_, x, he, by rw [retireFl_eq]; exact hr, fun r l hl => ?_, fun r => ?_, fun r l => ?_⟩
  · rw [h3, setPred_preg _ _ _ _ _ _ hl, active_getLsbD _ _ _ _ hl]
    by_cases k : TakesPart w e g l = true
    · simp [k, hm l hl k]
    · simp [k]
  · rw [h1]; unfold Thread.setPred; split <;> rfl
  · rw [h2]; unfold Thread.setPred; split <;> rfl

/-- An instruction that retires from a state `s1` with the thread as `w'`. -/
theorem performs_of {s s1 : State} {i : Instr} {t : Nat} {w : Thread} {e : Entry} (w' : Thread) (f : Entry → Entry)
    (hp : s.path? w = some e) (hs : w'.stack = w.stack) (hn : w'.spilled = w.spilled) (hf : ∀ y, (f y).st = y.st)
    (he : exec i s = .next (s1.retirePath t w' e f)) : Performs s i s1 t w' e f := by
  obtain ⟨st, n, hr⟩ := retirePath_runsOn s1 t w w' e f (path_held hp) hs hn hf
  exact ⟨_, _, he, hr, fun _ => rfl, fun _ _ => rfl, fun _ => rfl⟩

end Sys2Proof.Machine
end

