-- ==== Sys2Proof/Laws/Traps.lean ====
section
/-! SUPPORT. What taking a trap can do: one lemma for each way it ends. -/

namespace Sys2Proof.Machine

/-- The thread with its trap registers set (08 R184). -/
def trapped (w : Thread) (i : TrapInfo) (pc : DWord) : Thread := { w.trapRegs i pc with stalled := false }

/-- A trap other than PAGE and RLOG_FULL, outside the handler, in a context with a handler, enters it. -/
theorem takeTrap_enters (s : State) (t : Nat) (w : Thread) (i : TrapInfo) (pc hdr : DWord) (x : Context)
    (hx : s.context? w.ctx = some x) (hh : w.handler = false) (hp : i.cause ≠ .page) (hr : i.cause ≠ .rlogFull) (ht : x.tba ≠ 0#64) :
    s.takeTrap t w i pc hdr = State.enterHandler { s with cur := none } t (trapped w i pc) x hdr i.cause := by
  have h : State.context? { s with cur := none } (trapped w i pc).ctx = some x := hx
  have h' : (trapped w i pc).handler = false := hh
  simp only [trapped] at h h'
  simp only [State.takeTrap, State.takeTrapAt, State.rlogNotice, hp, hr, if_false, h, h', ht, trapped,
    Bool.false_or, beq_iff_eq]

/-- A trap in handler mode, or one other than PAGE in a context with no handler, faults the context. -/
theorem takeTrap_faults (s : State) (t : Nat) (w : Thread) (i : TrapInfo) (pc hdr : DWord) (x : Context)
    (hx : s.context? w.ctx = some x) (hp : i.cause ≠ .page) (hr : i.cause ≠ .rlogFull) (ht : w.handler = true ∨ x.tba = 0#64) :
    s.takeTrap t w i pc hdr = State.faultBy { s with cur := none } t (trapped w i pc) := by
  have h : State.context? { s with cur := none } (trapped w i pc).ctx = some x := hx
  have h' : (trapped w i pc).handler = w.handler := rfl
  simp only [trapped] at h h'
  rcases ht with ht | ht <;> cases hw : w.handler <;>
    simp_all [State.takeTrap, State.takeTrapAt, State.rlogNotice, trapped]

/-- The saved addresses of the instruction and the access; the registers and paths are kept. -/
theorem trapped_regs (w : Thread) (i : TrapInfo) (pc : DWord) :
    (trapped w i pc).trappc = pc ∧ (trapped w i pc).trapaddr = i.addr ∧ (trapped w i pc).stack = w.stack
      ∧ (trapped w i pc).v = w.v ∧ (trapped w i pc).s = w.s ∧ (trapped w i pc).p = w.p := ⟨rfl, rfl, rfl, rfl, rfl, rfl⟩

end Sys2Proof.Machine
end

