-- ==== Sys2Proof/Tests/Slice0.lean ====
section
/-! SUPPORT. The model's own tests: ill-formed terms refused, words of the spec decoded, steps on small states, and states and
operands that meet the hypotheses of each statement. -/

namespace Sys2Proof.Tests

open Sys2Proof.Machine

set_option Elab.async false

/-! ## Small states -/

/-- An opcode of each class. -/
def classWord (eng : Nat) : Nat := [0, 0x40, 0x160, 0x1A0, 0x1C0, 0x1E9].getD eng 0 * 2 ^ 55
/-- A wave of 32 lanes on die 0 at an instruction of class `eng`, its virtual addresses at 0x4000000 and on. -/
def bench (eng : Nat) : State := State.reset.withFetchWord 64 (classWord eng)
def tweak (s : State) (f : Thread → Thread) : State := s.modThread 1 f
/-- The wave, its path and its clause. -/
def wv (s : State) : Thread := (s.thread? 1).getD (benchThread 0)
def path (s : State) : Entry := (s.path? (wv s)).getD benchEntry
def clause (s : State) : Clause := (wv s).clause.getD (benchClause 0)

/-- The wave issues an instruction. -/
def On (s : State) (i : Instr) : Prop := Issues s i 1 (wv s) (path s) (clause s)

theorem on {s : State} {i : Instr} (h : (s.cur = some 1 ∧ s.thread? 1 = some (wv s) ∧ s.path? (wv s) = some (path s)
    ∧ (wv s).clause = some (clause s)) ∧ s.issueTrap (wv s) (path s) (clause s) i = none ∧ (wv s).badV = [] ∧ (wv s).badS = []) :
    On s i :=
  let ⟨⟨cur, thread, path, clause⟩, passes, v, s⟩ := h
  ⟨cur, thread, path, clause, passes, v, s⟩

def all : Guard := ⟨false, 0#3⟩
def w0 : Cmd := Cmd.zero

/-- What is left of the wave after an instruction. -/
def after (i : Instr) (s : State) : Option Thread :=
  match exec i s with
  | .next s' => s'.thread? 1
  | .fault _ => none
  | .refused _ => none
/-- The state after an instruction or an event. -/
def next (i : Instr) (s : State) : State :=
  match exec i s with
  | .next s' => s'
  | .fault _ => s
  | .refused _ => s
/-- Set s registers, and v registers in lane 0. -/
def withS (l : List (Nat × DWord)) (w : Thread) : Thread := l.foldl (fun w x => w.setS x.1 x.2) w
def withV (l : List (Nat × Nat × Word)) (w : Thread) : Thread := w.setWords (l.map fun x => (vix x.1 x.2.1, x.2.2))

/-! ## Witnesses: register instructions -/

theorem wit_ScalarResults : On (bench 0) (.sadd 1 (.s 2) (.int 32)) := on (by decide +kernel)
theorem wit_ArgumentReads : (bench 0).grid? 1 = some benchGrid ∧ On (bench 0) (.sldk 1 0 0xFFC) ∧ On (bench 0) (.sldk 1 1 0)
    ∧ On (bench 0) (.sldk 1 2 0xFF8) ∧ On (bench 0) (.sldk 1 2 4) ∧ On (bench 0) (.sldk 1 0 0xFFF) :=
  ⟨rfl, on (by decide +kernel), on (by decide +kernel), on (by decide +kernel), on (by decide +kernel), on (by decide +kernel)⟩
theorem wit_SpecialReads : On (bench 0) (.sget all (.s 6) .icount) ∧ On (bench 0) (.sget all (.s 6) .exec)
    ∧ On (bench 0) (.sget all (.v 254) .clock) ∧ On (bench 0) (.sget all (.v 255) .laneid) :=
  ⟨on (by decide +kernel), on (by decide +kernel), on (by decide +kernel), on (by decide +kernel)⟩
theorem wit_SpecialWrites : On (bench 0) (.setfmt 0x1C) ∧ On (bench 0) (.sset .fmt (.int 32)) ∧ On (bench 0) (.sset .fpflags (.s 1))
    ∧ On (bench 0) (.sset .eject (.int 40)) ∧ On (tweak (bench 0) fun w => { w with handler := true }) (.sset .trappc (.s 1))
    ∧ On (tweak (bench 0) fun w => { w with handler := true }) (.sset .faultmask (.s 6)) :=
  by and_intros <;> exact on (by decide +kernel)
theorem wit_VectorResults : On (bench 1) (.vadd all 255 (.v 0) (.int 63)) ∧ On (bench 1) (.vadd64 all 254 (.v 0) (.s 1)) :=
  ⟨on (by decide +kernel), on (by decide +kernel)⟩
theorem wit_PredicateResults : On (bench 1) (.vcmp .lt all 0 (.v 1) (.v 2)) ∧ On (bench 1) (.vvote all 7 (.uni 3)) :=
  ⟨on (by decide +kernel), on (by decide +kernel)⟩
theorem wit_FloatResults : On (bench 1) (.vfdiv .rz all 1 (.v 1) (.flt 3)) := on (by decide +kernel)
theorem wit_HalfResults : On (bench 1) (.vbfma .sr all 1 (.v 1) (.s 3) (.v 2)) := on (by decide +kernel)
theorem wit_FloatCompares : On (bench 1) (.vfcmp .un all 1 (.v 1) (.v 2)) := on (by decide +kernel)
/-- Each clause of MinMax has operands: one NaN, two, zeros of each sign, and ordered values. -/
theorem wit_MinMax : (fp32.decode 0x7F800001).signals = true ∧ (fp32.decode 0x7FC00000).isNan = true
    ∧ (fp32.decode 0x7FC00000).signals = false ∧ (fp32.decode 0x3F800000).isNan = false
    ∧ (fp32.decode 0xFF800000).below (fp32.decode 0x7F800000) ∧ (fp32.decode 0x80000001).below (fp32.decode 0) := by
  refine ⟨by decide, by decide, by decide, by decide, ⟨rfl, rfl⟩, ?_⟩
  have h : fp32.decode 0x80000001 = .fin true 1 (-149) := by decide +kernel
  have h' : fp32.decode 0 = .fin false 0 (-149) := by decide +kernel
  rw [h, h']
  simp [FVal.below, scaled]
theorem wit_NanOperands : (fp32 = fp32 ∨ fp32 = fp16 ∨ fp32 = bf16) ∧ 0x7F800001 < 2 ^ fp32.width
    ∧ (fp32.decode 0x7F800001).isNan = true ∧ (fp16.decode 0x7C01).isNan = true ∧ (bf16.decode 0x7F81).isNan = true := by decide
theorem wit_RoundsOnce : fp32.overflows .rne ⟨2 ^ 24 + 1, 0, false⟩ = false ∧ fp16.overflows .rz ⟨1, -30, false⟩ = false
    ∧ bf16.overflows .ru ⟨255, -133, false⟩ = false := by decide +kernel
theorem wit_Conversions : On (bench 1) (.vcvt .rne .e4m3 .f32 all 1 (.v 2)) ∧ On (bench 1) (.vcvt .rz .f32 .i8 all 2 (.v 1))
    ∧ On (bench 1) (.vcvt .ru .i32 .f32 all 1 (.s 3)) :=
  ⟨on (by decide +kernel), on (by decide +kernel), on (by decide +kernel)⟩
theorem wit_Shuffles : On (bench 1) (.vshfl all 1 2 (.int 63) (.flt 0)) ∧ On (bench 1) (.vbcast all 1 2 (.s 3)) :=
  ⟨on (by decide +kernel), on (by decide +kernel)⟩
theorem wit_ScansAndReductions : On (bench 1) (.vscan .add .f32 true all 1 2) ∧ On (bench 1) (.vreduce .min .i32 all (.v 1) 1)
    ∧ On (bench 1) (.vreduce .xor .u32 all (.s 1) 1) :=
  ⟨on (by decide +kernel), on (by decide +kernel), on (by decide +kernel)⟩
theorem wit_BallotsAndCompacts : On (bench 1) (.vballot all 62 7) ∧ On (bench 1) (.vcompact all 1 1 2) :=
  ⟨on (by decide +kernel), on (by decide +kernel)⟩
theorem wit_SumsIgnoreOrder : [0x3F800000#32, 0x1C800000#32].Perm [0x1C800000#32, 0x3F800000#32]
    ∧ ∀ x ∈ [0x3F800000#32, 0x1C800000#32], (fp32.decode x.toNat).isNan = false := by
  refine ⟨.swap _ _ _, fun x hx => ?_⟩
  simp only [List.mem_cons, List.not_mem_nil, or_false] at hx
  rcases hx with rfl | rfl <;> decide +kernel

/-! ## Witnesses: memory instructions -/

/-- The bench with one lane on the path. -/
def lone (eng : Nat) : State := tweak (bench eng) fun w => { w with stack := [{ benchEntry with mask := 1#128 }] }
/-- The bench whose path has gone a step ahead of the last close. -/
def ahead (eng : Nat) : State := tweak (bench eng) fun w => { w with stack := [{ benchEntry with gstep := 1#32, wstep := 1#32 }] }
/-- A leaf of the bench's page table. -/
def leaf : DWord := 0xC000000004000000#64

/-- The bench with a word of memory uncorrectable. -/
def spoiled (s : State) (pa : Nat) : State := { s with badMem := [pa / 8] }

/-- s2 holds the address of the last doubleword that the bench maps. -/
def top : State := tweak (bench 0) (withS [(2, 0x3FFFFF8#64)])

theorem wit_ScalarLoads :
    (On (ahead 0) (.sld false false 1 2 (.int 0)) ∧ (ahead 0).gridReadWaits (wv (ahead 0)) (path (ahead 0)) = true)
    ∧ (On (bench 0) (.sld false true 1 2 (.int 36)) ∧ On (bench 0) (.sld true true 1 2 (.int 33))
      ∧ (bench 0).gridReadWaits (wv (bench 0)) (path (bench 0)) = false ∧ (bench 0).walkReached (wv (bench 0)).mmu 1 4#64 = true)
    ∧ (On (tweak (bench 0) (withS [(2, 0x4000000#64)])) (.sld false true 1 2 (.int 32))
      ∧ (bench 0).access (wv (bench 0)).mmu 1 0x4000000#64 .read = .error .page)
    ∧ (On top (.sld false true 1 2 (.int 32)) ∧ top.access 16 1 0x3FFFFF8#64 .read = .ok (0x7FFFFF8, leaf)
      ∧ top.reaches 0 0x7FFFFF8 = true ∧ cxlPortOf 0x7FFFFF8 = none ∧ top.rangeLost 0x7FFFFF8 8 = none)
    ∧ (On (spoiled top 0x7FFFFF8) (.sld false true 1 2 (.int 32)) ∧ ((spoiled top 0x7FFFFF8).rangeLost 0x7FFFFF8 8).isSome = true
      ∧ (spoiled top 0x7FFFFF8).strictAt (wv top) leaf = false)
    ∧ (On (bench 0) (.sld true true 1 2 (.int 32)) ∧ (bench 0).privPa (wv (bench 0)) 0 0 8 .read = .ok (0x4100000, leaf))
    ∧ (On (tweak (bench 0) (withS [(2, 0x10000#64)])) (.sld true true 1 2 (.int 32))
      ∧ (bench 0).privPa (wv (bench 0)) 0 0x10000 8 .read = .error .prot) :=
  ⟨⟨on (by decide +kernel), by decide +kernel⟩, ⟨on (by decide +kernel), on (by decide +kernel), by decide +kernel⟩,
    ⟨on (by decide +kernel), by decide +kernel⟩, ⟨on (by decide +kernel), by decide +kernel⟩, ⟨on (by decide +kernel), by decide +kernel⟩,
    ⟨on (by decide +kernel), by decide +kernel⟩, on (by decide +kernel), by decide +kernel⟩

/-- An access that no L1 answers finds memory. -/
theorem finds {s : State} {u : LineUse} {bs : List Byte}
    (h : s.l1Hit u = none ∧ s.rangeLost u.pa u.n = none ∧ bs = s.readBytes u.pa u.n) : s.Finds u bs := by
  unfold State.Finds
  rw [h.1]
  exact ⟨fun _ => h.2.1, h.2.2⟩

theorem wit_Loads :
    (benchClause 2).flag false = some 0
    ∧ On (lone 2) (.ld .b32 .global .normal none false all 1 (.s 2) (.int 60))
    ∧ (lone 2).readWaits (wv (lone 2)) (path (lone 2)) .global = false
    ∧ (lone 2).xlatReached (wv (lone 2)) .global (.s 2) .b32 0 0x1C#64 = true
    ∧ (∀ l, l < 128 → TakesPart (wv (lone 2)) (path (lone 2)) all l = true → l = 0)
    ∧ (lone 2).Reads (wv (lone 2)) .global .normal none (.s 2) .b32 0 0x1C#64 (List.replicate 4 0#8)
    ∧ (lone 2).Reads (wv (lone 2)) .priv .stream none (.s 2) .b128 0 0xF0#64 (List.replicate 16 0#8)
    ∧ (lone 2).Reads (wv (lone 2)) .stash .keep none (.s 2) .b8 0 0x7FFFF#64 [0#8]
    ∧ On (lone 2) (.ldu true true .normal none true 1 2 (.int 32)) :=
  ⟨rfl, on (by decide +kernel), by decide +kernel, by decide +kernel, by decide +kernel,
    ⟨by decide, 0x400001C, leaf, by decide +kernel, finds (by decide +kernel)⟩,
    ⟨by decide, 0x4101E00, leaf, benchGrid, by decide +kernel, by decide +kernel, finds (by decide +kernel)⟩,
    ⟨by decide, benchGrid, benchGroup, by decide +kernel, by decide +kernel, by decide +kernel, by decide +kernel, by decide +kernel,
      by decide +kernel⟩, on (by decide +kernel)⟩

/-- A load of v1 in lane 0 that is outstanding, and one of s3. -/
def opLoad : Op := ⟨1, 0, [1], none, .load [(vix 1 0, 7#32)], [], 0#64⟩
def opLoadS : Op := ⟨2, 0, [], some 3, .loadS 3 9#64, [], 0#64⟩
def outstanding : State := tweak (bench 2) fun w => { w with ops := [opLoad, opLoadS] }

theorem wit_LoadsWaitAndArrive :
    (On (ahead 2) (.ld .b32 .window .normal none false all 1 (.w 2) (.int 32))
      ∧ partLanes (wv (ahead 2)) (path (ahead 2)) all ≠ [] ∧ (ahead 2).readWaits (wv (ahead 2)) (path (ahead 2)) .window = true)
    ∧ (On (ahead 2) (.ldu true false .normal none false 1 2 (.int 32))
      ∧ (ahead 2).readWaits (wv (ahead 2)) (path (ahead 2)) .stash = true)
    ∧ outstanding.thread? 1 = some (wv outstanding) ∧ ((wv outstanding).ops.find? fun x => x.uid == 1) = some opLoad
    ∧ ((wv outstanding).ops.find? fun x => x.uid == 2) = some opLoadS ∧ outstanding.farReached 0 opLoad.far = true :=
  ⟨⟨on (by decide +kernel), by decide +kernel⟩, ⟨on (by decide +kernel), by decide +kernel⟩, by decide +kernel⟩

/-- Lane 0 stores at 0x10 x its number: v2, v3 hold the addresses of a whole line in lanes 0 to 7. -/
def lineV (w : Thread) : Thread := w.setWords ((List.range 8).map fun l => (vix 2 l, BitVec.ofNat 32 (16 * l)))
def octet : State := tweak (bench 2) fun w => { lineV w with stack := [{ benchEntry with mask := 0xFF#128 }] }
/-- The same on TWIN pages. -/
def octetTwin : State := octet.writeBytes 0x20000 (leBytes 8 0xE000000004000000)
def emberTwin : State := tweak octetTwin fun w => { w with ember := some ⟨0, 0, 0, 0, 0, .running, [], false⟩, stack := [{ benchEntry with mask := 1#128 }] }
/-- Two lanes of the octet alone. -/
def partTwin : State := tweak octetTwin fun w => { w with stack := [{ benchEntry with mask := 3#128 }] }
def quad : StoreForm := ⟨.b128, .global, .lo, false, all, .v 2, .int 32, 4, none⟩

theorem wit_PendingStores :
    (On (lone 2) (.st .b4 .global .any false all (.s 2) (.int 63) 3)
      ∧ storeForm (.st .b4 .global .any false all (.s 2) (.int 63) 3) = some ⟨.b4, .global, .any, false, all, .s 2, .int 63, 3, none⟩
      ∧ (lone 2).grid? 1 = some benchGrid ∧ (lone 2).group? 1 = some benchGroup ∧ 1 ≤ (lone 2).logFree 1
      ∧ (lone 2).access 16 1 (byteAddr .b4 31#64) .write = .ok (0x400000F, leaf) ∧ leafTwin leaf = false
      ∧ (lone 2).walkReached 16 1 (byteAddr .b4 31#64) = true
      ∧ partLanes (wv (lone 2)) (path (lone 2)) all = [0])
    ∧ (On octetTwin (.st .b32 .global .lo false all (.v 2) (.int 32) 4)
      ∧ (∀ l ∈ partLanes (wv octetTwin) (path octetTwin) all, octetTwin.walkReached 16 1 (BitVec.ofNat 64 (16 * l)) = true
        ∧ octetTwin.access 16 1 (BitVec.ofNat 64 (16 * l)) .write = .ok (0x4000000 + 16 * l, 0xE000000004000000#64)))
    ∧ (On (lone 2) (.st .b128 .stash .flt false all (.s 2) (.int 32) 4)
      ∧ (0 + 16 ≤ benchGrid.stashBytes ∧ benchGroup.busyAt 0 0 16 = false))
    ∧ (On (lone 2) (.stf .b64 false .sum true all 6 (.s 2) (.int 32) 4) ∧ (benchClause 2).flag true = some 1)
    ∧ On (lone 2) (.stf .b32 true .lo false all 6 (.s 2) (.int 32) 4) :=
  ⟨⟨on (by decide +kernel), by decide +kernel⟩, ⟨on (by decide +kernel), by decide +kernel⟩, ⟨on (by decide +kernel), by decide +kernel⟩,
    ⟨on (by decide +kernel), rfl⟩, on (by decide +kernel)⟩

theorem wit_PrivateStores :
    On (lone 2) (.st .b128 .priv .lo false all (.s 2) (.int 32) 4) ∧ On (lone 2) (.st .b4 .priv .lo false all (.s 2) (.int 33) 4)
    ∧ (lone 2).badMem = [] ∧ (lone 2).badL3 = [] ∧ partLanes (wv (lone 2)) (path (lone 2)) all = [0] ∧ misaligned .b128 0#64 = false
    ∧ (lone 2).privPa (wv (lone 2)) 0 0 16 .write = .ok (0x4100000, leaf) ∧ (lone 2).privReached (wv (lone 2)) 0x100000#64 16 = true
    ∧ (lone 2).caches.l1 = [] ∧ (∀ i, i < 16 → (lone 2).linkDown (0x4100000 + i) = false) ∧ (lone 2).holdsMemory 0x4100000 = true :=
  ⟨on (by decide +kernel), on (by decide +kernel), by decide +kernel⟩

theorem wit_LineStores :
    (On octet (.stl .lo all (.v 2) (.int 32) 4)
      ∧ (∀ l ∈ partLanes (wv octet) (path octet) all, (quad.addr (wv octet) l).toNat % 16 = 0
        ∧ octet.walkReached 16 1 (quad.addr (wv octet) l) = true
        ∧ octet.access 16 1 (quad.addr (wv octet) l) .write = .ok (0x4000000 + 16 * l, leaf) ∧ leafTwin leaf = false)
      ∧ 2 * (partLanes (wv octet) (path octet) all).length ≤ octet.logFree 1)
    ∧ (On octetTwin (.stl .lo all (.v 2) (.int 32) 4)
      ∧ partLanes (wv octetTwin) (path octetTwin) all = (List.range 8).map (8 * 0 + ·) ∧ (wv octetTwin).ember = none
      ∧ (∀ j, j < 8 → quad.addr (wv octetTwin) j = quad.addr (wv octetTwin) 0 + BitVec.ofNat 64 (16 * j)
        ∧ octetTwin.walkReached 16 1 (quad.addr (wv octetTwin) j) = true
        ∧ octetTwin.access 16 1 (quad.addr (wv octetTwin) j) .write = .ok (0x4000000 + 16 * j, 0xE000000004000000#64))
      ∧ leafTwin 0xE000000004000000#64 = true ∧ 1 ≤ octetTwin.logFree 1)
    ∧ (On emberTwin (.stl .lo all (.v 2) (.int 32) 4) ∧ (wv emberTwin).ember.isSome = true
      ∧ emberTwin.walkReached (wv emberTwin).mmu 1 (quad.addr (wv emberTwin) 0) = true
      ∧ emberTwin.access (wv emberTwin).mmu 1 (quad.addr (wv emberTwin) 0) .write = .ok (0x4000000, 0xE000000004000000#64))
    ∧ (On partTwin (.stl .lo all (.v 2) (.int 32) 4) ∧ partLanes (wv partTwin) (path partTwin) all = [0, 1]
      ∧ (∀ l ∈ partLanes (wv partTwin) (path partTwin) all, partTwin.walkReached 16 1 (quad.addr (wv partTwin) l) = true
        ∧ partTwin.access 16 1 (quad.addr (wv partTwin) l) .write = .ok (0x4000000 + 16 * l, 0xE000000004000000#64))
      ∧ ∀ l, l < 128 → ((0xFF#128).getLsbD l = true ↔ l / 8 = 0)) :=
  ⟨⟨on (by decide +kernel), by decide +kernel⟩, ⟨on (by decide +kernel), by decide +kernel⟩, ⟨on (by decide +kernel), by decide +kernel⟩,
    on (by decide +kernel), by decide +kernel⟩

/-- Lane 5 alone is misaligned. -/
def askew : State := tweak (bench 2) fun w => w.setWords [(vix 4 5, 2#32)]

theorem wit_MisalignedAccesses :
    On askew (.ld .b32 .stash .normal none false all 1 (.s 2) (.v 4)) ∧ On askew (.st .b128 .global .any false all (.s 2) (.v 4) 8)
    ∧ askew.readWaits (wv askew) (path askew) .stash = false
    ∧ (∀ l ∈ partLanes (wv askew) (path askew) all,
        askew.xlatReached (wv askew) .stash (.s 2) .b32 l (BitVec.ofNat 64 (Off.value (.v 4) (wv askew) l)) = true
        ∧ askew.storeReached (wv askew) .global .b128 l (BitVec.ofNat 64 (Off.value (.v 4) (wv askew) l)) = true)
    ∧ ((partLanes (wv askew) (path askew) all).filter fun l =>
        decide (((wv askew).sreg 2 + BitVec.ofNat 64 (Off.value (.v 4) (wv askew) l)).toNat % 4 ≠ 0)).head? = some 5 :=
  ⟨on (by decide +kernel), on (by decide +kernel), by decide +kernel⟩

/-- The wave pauses for three clocks, and is ready; another of its pipe is too. -/
def pausing : State :=
  tweak (bench 0) fun w => { w with ready := some 0, stack := [{ benchEntry with pause := 3 }] }
def pausers : List (Nat × Thread) := [(1, wv pausing), (2, { wv pausing with stack := [benchEntry], slot := 1 })]
/-- A lane of the wave on the first ember core, which can issue. -/
def emberOn : State := tweak (bench 0) fun w => { w with ember := some ⟨0, 0, 0, 0, 0, .running, [], false⟩ }

theorem wit_HintsAndPauses : On (bench 5) .nop ∧ On (bench 2) (.pref .keep none all (.s 1) (.int 63)) ∧ On (bench 2) (.pause 0xFFFFFFFF)
    ∧ (bench 2).thread? 1 = some (wv (bench 2)) ∧ (bench 2).detGrid 1 = false
    ∧ (pausing.choose pausers).isSome = true
      ∧ (∃ x ∈ pausers, x.2.ready.isSome = true ∧ pausing.pauseOf x.2 = 0)
      ∧ (pausers.find? fun x => x.2.slot == 0) = some (1, wv pausing) ∧ pausing.pauseOf (wv pausing) = 3
    ∧ (emberOn.coreTurn 0).isSome = true
      ∧ ∃ y ∈ emberOn.threads, ∃ m, y.2.ember = some m ∧ m.core = 0 ∧ emberOn.canIssue y.1 y.2 = true ∧ emberOn.pauseOf y.2 = 0 :=
  ⟨on (by decide +kernel), on (by decide +kernel), on (by decide +kernel), by decide +kernel⟩

/-! ## Witnesses: tiles, copies, the grate and fibres -/

def mk (base bytes rows pitch ef : Nat) (st : TileState) : Tile :=
  ⟨true, BitVec.ofNat 128 (base + bytes / 128 * 2 ^ 19 + pitch * 2 ^ 32 + rows * 2 ^ 48 + ef * 2 ^ 64), st, st, some 0, none⟩
/-- Tile 1 is a left operand of 64 x 32 bytes, 2 a right one of 32 x 64, 3 holds 64 x 64 words, 5 a mask, 6 words again; 7
and 8 are lines. -/
def tiles : List (Nat × Tile) :=
  [(1, mk 0 2048 64 32 0 .ready), (2, mk 2048 2048 32 64 0 .ready), (3, mk 4096 16384 64 256 8 .empty),
   (5, mk 20480 640 64 8 0 .empty), (6, mk 24576 16384 64 256 8 .ready), (7, mk 49152 128 1 128 0 .empty),
   (8, mk 49280 128 1 128 0 .ready)]
def tiled (s : State) : State := s.modGroup 1 fun p => { p with tiles := tiles }
def group1 (s : State) : Group := (s.group? 1).getD benchGroup
/-- s2 and s3, and s4 and s5: a descriptor in bounds and one that runs past the stash. -/
def descs (s : State) : State := tweak s (withS [(2, 0x0040002000800000#64), (3, 0x10#64), (4, 0x004000200087FF80#64)])

theorem wit_TileTable :
    (bench 3).grid? 1 = some benchGrid ∧ (bench 3).group? 1 = some benchGroup
    ∧ (bench 3).groupReadWaits (wv (bench 3)) (path (bench 3)) = false
    ∧ On (bench 3) (.tdef 1 2 3) ∧ descReserved ⟨true, 0#128, .empty, .empty, none, none⟩ = true
    ∧ (On (descs (bench 3)) (.tdef 1 2 3)
      ∧ (let y : Tile := ⟨true, (wv (descs (bench 3))).sreg 3 ++ (wv (descs (bench 3))).sreg 2, .empty, .empty, none, none⟩
         descReserved y = false ∧ y.base + y.bytes ≤ benchGrid.stashBytes
           ∧ (descs (bench 3)).tileFit (wv (descs (bench 3))) (group1 (descs (bench 3))) 1 notMoving true true = .ok))
    ∧ (On (descs (bench 3)) (.tdef 1 4 3)
      ∧ (let y : Tile := ⟨true, (wv (descs (bench 3))).sreg 3 ++ (wv (descs (bench 3))).sreg 4, .empty, .empty, none, none⟩
         descReserved y = false ∧ benchGrid.stashBytes < y.base + y.bytes))
    ∧ (On (bench 3) (.tfree 63) ∧ (benchGroup.tile 63).defined = false)
    ∧ (On (tiled (bench 3)) (.tfree 1) ∧ ((group1 (tiled (bench 3))).tile 1).defined = true
      ∧ (tiled (bench 3)).tileFit (wv (tiled (bench 3))) (group1 (tiled (bench 3))) 1 notMoving true true = .ok)
    ∧ On (bench 3) (.tstate 1 0) :=
  ⟨by decide +kernel, by decide +kernel, by decide +kernel, on (by decide +kernel), by decide +kernel,
    ⟨on (by decide +kernel), by decide +kernel⟩, ⟨on (by decide +kernel), by decide +kernel⟩, ⟨on (by decide +kernel), by decide +kernel⟩,
    ⟨on (by decide +kernel), by decide +kernel⟩, on (by decide +kernel)⟩

/-- Another wave is the group's copy wave. -/
def stranger : State := (tiled (bench 3)).setGrid 1 { benchGrid with copywave := 1 }

theorem wit_CopiesStart :
    (let s := tiled (bench 3)
     let w := wv s
     let e := path s
     let p := group1 s
     s.grid? 1 = some benchGrid ∧ s.group? 1 = some p ∧ w.wix = benchGrid.copywave ∧ s.groupReadWaits w e = false
      ∧ (s.hearth w.home).copies.length < 64 ∧ s.gridReadWaits w e = false ∧ s.cpinReached w (.s 2) 0#64 1 = true
      ∧ (s.cpinLines w (.s 2) 0#64 1).flatMap readErrs = [] ∧ (s.cpinLines w (.s 2) 0#64 1).length = 1
      ∧ (∀ l ∈ (s.cpinLines w (.s 2) 0#64 1).map readOks, ∀ r ∈ l, r.lost = none ∧ r.past = false)
      ∧ (firstOwn ((s.cpinLines w (.s 2) 0x3FFFFC0#64 1).flatMap readErrs)).isSome = true
      ∧ s.walkReached w.mmu 1 0x80#64 = true
      ∧ (firstOwn (readErrs [s.cpoutLine w .any 0x4000000#64])).isSome = true
      ∧ s.changeFit w e p [(7, notMoving)] = .ok ()
      ∧ s.cpoutLine w .any 0x80#64 = .ok (0x4000080, leaf)
      ∧ s.changeFit w e p [(8, fun st => st == .ready || (true && st == .empty))] = .ok () ∧ 16 ≤ s.logFree 1
      ∧ p.stashLost 49280 128 = false ∧ tilesOverlap (p.tile 7) (p.tile 8) = false
      ∧ s.changeFit w e p [(7, notMoving), (8, isReadyTile)] = .ok ())
    ∧ On (tiled (bench 3)) (.cpin 7 (.s 2) (.int 32) 0) ∧ On (tiled (bench 3)) (.cpout .any false true 2 8 15)
    ∧ On (tiled (bench 3)) (.cptt 7 8 0)
    ∧ (On stranger (.cpin 7 (.s 2) (.int 32) 0) ∧ On stranger (.cpout .any false true 2 8 15) ∧ On stranger (.cptt 7 8 0)
      ∧ (wv stranger).wix ≠ 1)
    ∧ (On (ahead 3) (.cpout .any false true 2 8 15) ∧ (ahead 3).groupReadWaits (wv (ahead 3)) (path (ahead 3)) = true) := by
  and_intros <;> first | exact on (by decide +kernel) | decide +kernel

/-- A copy of one line in flight: into the stash, out of it to memory or to a peer. -/
def copy (k : CopyKind) (pa : Nat) : Copy :=
  { uid := 5, t := 1, group := 1, kind := k, tile := 7, fc := 0, w := ⟨0, 0, 0⟩, gstep := 0#32, wstep := 0#32, landed := [], mask := 1#128
    lines := [(0, 49152, pa, List.replicate 128 1#8)], far := [⟨0, pa, 0#64, 0#64, 128, false, !isPeer pa⟩], twins := [], since := 0#64 }
def flying (k : CopyKind) (pa : Nat) : State := (tiled (bench 3)).modHearth 0 fun h => { h with copies := [copy k pa] }
/-- Two copies, of which the second moves next. -/
def flyingTwo : State := (flying .cpin 0).modHearth 0 fun h =>
  { h with copies := [copy .cpin 0, { copy .cpin 0 with uid := 6 }], copyTurn := 5 }
/-- No port of a peer link is up. -/
def portless : State := { flying (.cpout .lo true) (2 ^ 51) with flues := (bench 3).flues.map fun f => { f with peerUp := false } }
/-- The line to a peer has been under way for as long as the flue die allows. -/
def overdue : State := { flying (.cpout .lo true) (2 ^ 51) with time := 0x7FFFFFFFFFFFFFFF#64 }

theorem wit_LinesLand :
    (flying .cpin 0).copyLine? 0 (copy .cpin 0).uid 0 = some (copy .cpin 0, 49152, 0, List.replicate 128 1#8)
    ∧ isPeer 0 = false ∧ (flying .cpin 0).lineReached 0 (copy .cpin 0) 0 = true
    ∧ (flying (.cptt 8) 0).copyLine? 0 5 0 = some (copy (.cptt 8) 0, 49152, 0, List.replicate 128 1#8)
    ∧ (flying (.cpout .lo true) (2 ^ 51)).copyLine? 0 5 0
        = some (copy (.cpout .lo true) (2 ^ 51), 49152, 2 ^ 51, List.replicate 128 1#8) ∧ isPeer (2 ^ 51) = true
    ∧ ((flying .cpin 0).thread? 1 = some (wv (bench 3)) ∧ (wv (bench 3)).group = 1 ∧ (wv (bench 3)).ended = false
      ∧ (wv (bench 3)).home = 0)
    ∧ ((flying .cpin 0).hearth 0).copies.filter (fun y => y.lines.any fun l => !isPeer l.2.2.1 && (flying .cpin 0).lineReached 0 y l.1)
        = [] ++ copy .cpin 0 :: []
    ∧ (flyingTwo.hearth 0).copies.filter (fun y => y.lines.any fun l => !isPeer l.2.2.1 && flyingTwo.lineReached 0 y l.1)
        = [copy .cpin 0] ++ { copy .cpin 0 with uid := 6 } :: []
    ∧ (flying (.cpout .lo true) (2 ^ 51)).lineReached 0 (copy (.cpout .lo true) (2 ^ 51)) 0 = true
    ∧ portless.lineReached 0 (copy (.cpout .lo true) (2 ^ 51)) 0 = false
    ∧ (overdue.msPassed 0 (overdue.flue 0).peertmo = true
      ∧ (flying (.cpout .lo true) (2 ^ 51)).msPassed 0 ((bench 3).flue 0).peertmo = false) := by
  and_intros <;> decide +kernel

/-- A counter's copy has met an error. -/
def indebted : State := tweak (bench 3) fun w => w.owe [⟨.memerr, 0#64, 1#128⟩] (.cwait 0)

theorem wit_CounterWaits :
    (On (bench 3) (.cwait 0 (.int 32)) ∧ (wv (bench 3)).fcount 0 ≤ 0 ∧ (wv (bench 3)).owed = [])
    ∧ (On (tweak (bench 3) fun w => w.setFc 0 128) (.cwait 0 (.int 63))
      ∧ (63 - 32 : Nat) < (wv (tweak (bench 3) fun w => w.setFc 0 128)).fcount 0)
    ∧ (On indebted (.cwait 0 (.int 32)) ∧ (wv indebted).handler = false ∧ ∃ o, o ∈ (wv indebted).owed ∧ o.due = .cwait 0) :=
  ⟨⟨on (by decide +kernel), by decide +kernel⟩, ⟨on (by decide +kernel), by decide +kernel⟩, on (by decide +kernel), by decide +kernel,
    _, List.mem_cons_self, rfl⟩

/-- A window descriptor and a launch packet for queue 3 at address 0 of the bench, and queue 3 set. -/
def windowed (s : State) : State := s.writeBytes 0x4000000 (leBytes 32 (0x200000 + 2 ^ 64 * 0x100000 + 2 ^ 128 * 16 + 2 ^ 160 * 16 + 2 ^ 192 * 2))
def queued (s : State) (r : Nat) : State :=
  s.modContext 1 fun x => { x with queues := [(0, ⟨0, 0x8000000#64, 1, 0#32, 0#32, r, []⟩)] }

theorem wit_CloseEffects :
    On (bench 5) (.evsig 0xFFFF) ∧ On (bench 3) (.wunbind 15)
    ∧ (On (windowed (bench 3)) (.wbind 15 2) ∧ (windowed (bench 3)).access 16 1 0#64 .read = .ok (0x4000000, leaf)
      ∧ (windowed (bench 3)).walkReached 16 1 0#64 = true ∧ (windowed (bench 3)).rangeLost 0x4000000 128 = none
      ∧ (windowed (bench 3)).reaches 0 0x4000000 = true
      ∧ (windowed (bench 3)).gridReadWaits (wv (bench 3)) (path (bench 3)) = false
      ∧ winBad (BitVec.ofNat 256 (leNat ((windowed (bench 3)).readBytes 0x4000000 32))) = false)
    ∧ (On (bench 3) (.wbind 0 2) ∧ winBad 0#256 = true) ∧ On (ahead 3) (.wbind 0 2)
    ∧ (On (queued (bench 5) 0) (.launch 2) ∧ ((queued (bench 5) 0).context? 1).any (fun x =>
        (aget? x.queues 0).any fun u => u.free == 2) = true)
    ∧ (On (queued (bench 5) 2) (.launch 2) ∧ ((queued (bench 5) 2).context? 1).any (fun x =>
        (aget? x.queues 0).any fun u => u.free == 0) = true)
    ∧ On (bench 5) (.launch 2) :=
  ⟨on (by decide +kernel), on (by decide +kernel), ⟨on (by decide +kernel), by decide +kernel⟩, ⟨on (by decide +kernel), by decide +kernel⟩,
    on (by decide +kernel), ⟨on (by decide +kernel), by decide +kernel⟩, ⟨on (by decide +kernel), by decide +kernel⟩, on (by decide +kernel)⟩

def pinning (s : State) (n : Nat) : State := tweak s (withS [(2, 0x10000#64), (4, BitVec.ofNat 64 (2 ^ 56 + n))])

theorem wit_Pins :
    (On (pinning (bench 3) 0x10000) (.pin 1 2 4) ∧ (pinning (bench 3) 0x10000).context? 1 = some benchContext
      ∧ aget? benchContext.pins 0 = none ∧ (pinning (bench 3) 0x10000).pinFits 0 1 benchContext 0x10000#64 0x10000 = true)
    ∧ On (pinning (bench 3) 1) (.pin 1 2 4) ∧ On (pinning (bench 3) (2 ^ 30 + 65536)) (.pin 1 2 4) ∧ On (bench 3) (.unpin 2) :=
  ⟨⟨on (by decide +kernel), by decide +kernel⟩, on (by decide +kernel), on (by decide +kernel), on (by decide +kernel)⟩

/-- Tiles, and a resident B of 32 rows. -/
def grated : State := (tiled (bench 4)).modHearth 0 fun h => { h with resB := some ⟨1, 0, 32, false, []⟩ }

theorem wit_GrateCaptures :
    (let s := grated
     let w := wv s
     let e := path s
     let p := group1 s
     s.grid? 1 = some benchGrid ∧ s.group? 1 = some p ∧ w.owed = [] ∧ s.grateUnread 1 w = false ∧ s.groupReadWaits w e = false
      ∧ (s.hearth w.home).grate.length < 16
      ∧ s.grateFits 1 w e benchGrid p (.mmip true 7 (.tile 1) (.tile 2) none) ∧ s.grateFits 1 w e benchGrid p (.mmop false 3 (.tile 1) (.tile 2) none)
      ∧ s.grateFits 1 w e benchGrid p (.mmldb false (.tile 2)) ∧ s.grateFits 1 w e benchGrid p (.mmzero false 0)
      ∧ s.grateFits 1 w e benchGrid p (.mmlda .fmt true (.tile 1) none)
      ∧ s.grateFits 1 w e benchGrid p (.mmdrain .rne false none false 3 0 none none)
      ∧ s.grateFits 1 w e benchGrid p (.vqlut true false 2) ∧ s.grateFits 1 w e benchGrid p (.spdg false 5 3 6 (.int 34)))
    ∧ (∃ r, grated.residentOf 1 (wv grated) = some r ∧ r = ⟨1, 0, 32, false, []⟩)
    ∧ On grated (.mmip true 7 (.tile 1) (.tile 2) none) ∧ On grated (.mmop false 3 (.tile 1) (.tile 2) none)
    ∧ On grated (.mmrw false 3 (.tile 1) none) ∧ On grated (.mmldb false (.tile 2)) ∧ On grated (.mmzero false 0)
    ∧ On grated (.mmlda .fmt true (.tile 1) none) ∧ On grated (.mmdrain .rne false none false 3 0 none none)
    ∧ On grated (.vqlut true false 2) ∧ On grated (.spdg false 5 3 6 (.int 34)) := by
  and_intros
  all_goals first
    | exact on (by decide +kernel)
    | decide +kernel
    | exact trivial
    | (intro v h; simp [drainVecs] at h)

/-- An earlier instruction of the wave has met an error; and the path is a group step ahead. -/
def owing : State := tweak grated fun w => w.owe [⟨.memerr, 0#64, 1#128⟩] (.grate 0)
def early : State := tweak grated fun w => { w with stack := [{ benchEntry with wstep := 1#32 }] }
/-- Tile 2 is filled by the wave's own copy. -/
def filling : State := grated.modGroup 1 fun p => p.setTile 2 (((p.tile 2).change 0 .filling))

theorem wit_GrateIssues :
    (On owing (.mmzero false 0) ∧ (wv owing).handler = false ∧ ∃ o ∈ (wv owing).owed, ∃ k, o.due = .grate k)
    ∧ (On early (.mmldb false (.tile 2)) ∧ early.grateWaits (wv early) (path early) (.mmldb false (.tile 2))
        (early.grateNeeds 1 (wv early) (path early) (group1 early) (.mmldb false (.tile 2))))
    ∧ (On grated (.mmip true 7 (.tile 1) (.fib 1) none)
      ∧ GrateErr grated (wv grated) (path grated) benchGrid (group1 grated) (.mmip true 7 (.tile 1) (.fib 1) none)
        (grated.grateNeeds 1 (wv grated) (path grated) (group1 grated) (.mmip true 7 (.tile 1) (.fib 1) none)) .fibreRange 0#64)
    ∧ (On filling (.mmldb false (.tile 2)) ∧ filling.grateMoving (wv filling) (group1 filling)
        (filling.grateNeeds 1 (wv filling) (path filling) (group1 filling) (.mmldb false (.tile 2))))
    ∧ (On grated (.mmzero false 0) ∧ (wv grated).owed = [] ∧ grated.grateUnread 1 (wv grated) = false
      ∧ ¬ grated.grateWaits (wv grated) (path grated) (.mmzero false 0) {}
      ∧ (∀ k a, ¬ GrateErr grated (wv grated) (path grated) benchGrid (group1 grated) (.mmzero false 0) {} k a)
      ∧ ¬ grated.grateMoving (wv grated) (group1 grated) {}) := by
  refine ⟨⟨on (by decide +kernel), by decide +kernel, _, List.mem_cons_self, 0, rfl⟩,
    ⟨on (by decide +kernel), .inr (.inl ⟨.inl (by simp [State.grateNeeds, gsrcTile]), by decide +kernel⟩)⟩,
    ⟨on (by decide +kernel), .closed ((wv grated).freg 1, some 0, true)
      (by have h : fmtBf (path grated).fmt = 0 := by decide +kernel
          simp [State.grateNeeds, State.matrixNeeds, gsrcFibre, h]) (by decide +kernel)⟩,
    ⟨on (by decide +kernel), .inl ⟨_, List.mem_singleton.2 rfl, by decide +kernel⟩⟩,
    on (by decide +kernel), by decide +kernel, by decide +kernel, ?_, ?_, ?_⟩
  · simp [State.grateWaits, grateSlots, State.spansWalked]
  · intro k a h
    cases h <;> simp_all [grateSlots]
  · simp [State.grateMoving]

/-- The queue with one MMZERO, and that MMZERO running. -/
def zeroing : State := next (.mmzero false 0) (bench 4)
def running : State := next (.grateStart 0) zeroing

theorem wit_GrateRuns :
    ((aget? zeroing.hearths 0).any fun x => x.grate.length == 1 && !x.running && x.grate.all fun o => o.t == 1) = true
    ∧ ((aget? running.hearths 0).any fun x => x.grate.length == 1 && x.running) = true
    ∧ (zeroing.thread? 1).any (fun w => w.home == 0 && !w.ended) = true ∧ zeroing.grid? 1 = some benchGrid
    ∧ (zeroing.group? 1).isSome = true := by decide +kernel

/-- f1 is an open fibre of three 16-bit coordinates in the stash, and f2 a closed one. -/
def fibred (eng : Nat) : State := tweak (bench eng) fun w => w.setF 1 (fibreOf 0 1024 3 0 true true false 0)

theorem wit_Fibres :
    On (tweak (bench 4) (withS [(6, 3#64)])) (.fbopen false true 0 1 2 4 6) ∧ On (bench 4) (.fbopen true false 9 0 2 4 6)
    ∧ (On (fibred 4) (.fbadv false 1 (.int 63)) ∧ fbOpen ((wv (fibred 4)).freg 1) = true)
    ∧ (On (fibred 4) (.fbadv true 1 (.int 32)) ∧ fbStash ((wv (fibred 4)).freg 1) = true
      ∧ (group1 (fibred 4)).rangeBusy 0 6 = false ∧ (group1 (fibred 4)).badStash = [])
    ∧ (On (bench 4) (.fbadv false 2 (.int 33)) ∧ fbOpen ((wv (bench 4)).freg 2) = false)
    ∧ On (bench 4) (.fbend 0 2) ∧ On (fibred 4) (.fbclose 1)
    ∧ (On (fibred 4) (.fbrd true false 1 1) ∧ (benchClause 4).flag false = some 0 ∧ (group1 (fibred 4)).tiles = []
      ∧ fbPos ((wv (fibred 4)).freg 1) ≠ fbLen ((wv (fibred 4)).freg 1))
    ∧ On (tweak (bench 4) fun w => w.setF 1 (fibreOf 0 1024 3 3 true true false 0)) (.fbrd false false 1 1) :=
  ⟨on (by decide +kernel), on (by decide +kernel), ⟨on (by decide +kernel), by decide +kernel⟩, ⟨on (by decide +kernel), by decide +kernel⟩,
    ⟨on (by decide +kernel), by decide +kernel⟩, on (by decide +kernel), on (by decide +kernel),
    ⟨on (by decide +kernel), rfl, by decide +kernel⟩, on (by decide +kernel)⟩

/-! ## Witnesses: control and system -/

theorem wit_Branches : On (bench 0) (.br 0x80000) ∧ On (bench 0) (.call 63 0x7FFFF) ∧ On (bench 0) (.ret 1)
    ∧ (On (tweak (bench 0) (withS [(1, 4#64)])) (.ret 1) ∧ ((wv (tweak (bench 0) (withS [(1, 4#64)]))).sreg 1).toNat % 8 ≠ 0) :=
  ⟨on (by decide +kernel), on (by decide +kernel), on (by decide +kernel), on (by decide +kernel), by decide +kernel⟩

/-- p1 holds in lanes 0 to 9. -/
def forked : State := tweak (bench 0) fun w => { w with p := [(1, 0x3FF#128)] }
/-- The page tables stand on another flue die, and no circuit goes there. -/
def afar (s : State) : State :=
  { s.modContext 1 fun x => { x with root := 0x4000000000#64 } with flues := s.flues.map fun f => { f with conn := [] } }
/-- A jump table of two entries at 0x2008, and v1 = 1 in lanes 0 to 2. -/
def tabled : State :=
  tweak ((bench 0).writeBytes 0x4002008 (leBytes 8 2 ++ leBytes 4 4 ++ leBytes 4 16)) fun w =>
    w.setWords [(vix 1 0, 1#32), (vix 1 1, 1#32), (vix 1 2, 1#32)]

theorem wit_ConditionalBranches :
    (On forked (.brc ⟨false, 1⟩ 3 6 false)
      ∧ SendsLanes forked (wv forked) (path forked) (clause forked) (.brc ⟨false, 1⟩ 3 6 false)
        (fun l => if (((wv forked).preg (1 : PReg).toNat).getLsbD l != false) = true then pcField ((clause forked).at8 3)
          else pcField ((clause forked).here + 8#64)) (pcField ((clause forked).at8 6)) false forked
      ∧ (pcField (0x1010#64)).toNat < (pcField (0x1020#64)).toNat
      ∧ (∀ l ∈ lanesOf (path forked).mask, (if (((wv forked).preg 1).getLsbD l != false) = true then pcField ((clause forked).at8 3)
          else pcField ((clause forked).here + 8#64)) = if l < 10 then pcField 0x1020#64 else pcField 0x1010#64)
      ∧ (wv forked).spilled = 0 ∧ (wv forked).stack.length + 2 ≤ 16)
    ∧ (On tabled (.jt 1 0x200 6 true)
      ∧ JumpTable tabled (wv tabled) (path tabled) 1 ((clause tabled).at8 0x200)
        (fun l => if l < 3 then pcField 0x2088#64 else pcField 0x2028#64))
    ∧ On (bench 0) (.brc ⟨false, 0⟩ 3 6 true)
    ∧ On (tweak (bench 0) fun w => { w with stack := [{ benchEntry with mask := 0#128 }] }) (.brc ⟨false, 1⟩ 3 6 false)
    ∧ On (tweak tabled fun w => w.setWords [(vix 1 31, 2#32)]) (.jt 1 0x200 6 false)
    ∧ (tweak tabled fun w => w.setWords [(vix 1 31, 2#32)]).codeWord (wv tabled) ((clause tabled).at8 0x200) = .ok (BitVec.ofNat 64 2)
    ∧ tabled.pageReached 16 1 ((clause tabled).at8 0x200) = true
    ∧ (On (afar tabled) (.jt 1 0x200 6 false) ∧ (afar tabled).pageReached 16 1 ((clause tabled).at8 0x200) = false) := by
  refine ⟨⟨on (by decide +kernel), .brc _ _ _ _, by decide +kernel, by decide +kernel, by decide +kernel, by decide +kernel⟩,
    ⟨on (by decide +kernel), ⟨by decide +kernel, by decide +kernel⟩, ⟨2, by decide +kernel, by decide, by decide, by decide +kernel⟩,
      fun l hl => ?_⟩,
    on (by decide +kernel), on (by decide +kernel), on (by decide +kernel), by decide +kernel, by decide +kernel,
    on (by decide +kernel), by decide +kernel⟩
  have h : ∀ l ∈ lanesOf (path tabled).mask,
      tabled.access (wv tabled).mmu (wv tabled).ctx
          ((clause tabled).at8 0x200 + BitVec.ofNat 64 (8 + 4 * ((wv tabled).vreg (1 : VReg).toNat l).toNat)) .read
        = .ok (if l < 3 then 0x4002014 else 0x4002010, leaf)
      ∧ (if l < 3 then pcField 0x2088#64 else pcField 0x2028#64) = pcField ((clause tabled).at8 0x200
          + BitVec.ofInt 64 (8 * (BitVec.ofNat 32 (leNat (tabled.cleanBytes (if l < 3 then 0x4002014 else 0x4002010) 4)) : Word).toInt)) := by
    decide +kernel
  exact ⟨_, _, h l hl⟩

/-- A path of lanes 0 to 3 over its join entry, and the same with a waiting path of lane 9. -/
def inner : Entry := { benchEntry with mask := 0xF#128, join := fieldOf 0x1100#64 }
def joining : Entry := { benchEntry with mask := 0x10#128, pc := fieldOf 0x1100#64, st := .parked }
def stacked (l : List Entry) (eng : Nat) : State := tweak (bench eng) fun w => { w with stack := l }
def emberAt (eng : Nat) : State :=
  tweak (bench eng) fun w => { w with ember := some ⟨0, 0, 0, 9, 0, .running, [], false⟩, stack := [{ benchEntry with mask := 1#128 }]
                                      launched := 1#128 }
/-- The wave whose lane 0 that is, with its entry beneath the running path. -/
def parentOf : Thread := { wv (emberAt 0) with ember := none, stack := [{ benchEntry with mask := 0xF0#128 }, { benchEntry with mask := 3#128, ej := true, st := .parked }], launched := 0xF3#128 }
def familyOn : State := (emberAt 0).setThread 9 parentOf
/-- A handler of a trap that lane 0 alone took. -/
def handlingOne : State := tweak (bench 0) fun w => { w with handler := true, faultmask := 1#128 }

theorem wit_JoinAndExit :
    (On (bench 0) .join ∧ canPark ((bench 0).entries (wv (bench 0))) = false) ∧ On (emberAt 0) .join
    ∧ (On (stacked [inner, joining] 0) .join ∧ (∀ z ∈ ([] : List Entry), z.mask &&& ~~~0#128 ≠ 0#128 ∨ z.st = .parked) ∧ joining.st = .parked ∧ joining.pc = inner.join ∧ inner.mask ≠ 0#128)
    ∧ (On (stacked [inner, { inner with st := .waiting, mask := 0x200#128 }, joining] 0) .join)
    ∧ (On (bench 0) (.exit all) ∧ (wv (bench 0)).handler = false ∧ (bench 0).grateUnread 1 (wv (bench 0)) = false
      ∧ (wv (bench 0)).susp = none ∧ maskOf (partLanes (wv (bench 0)) (path (bench 0)) all) &&& (wv (bench 0)).launched = 0xFFFFFFFF#128
      ∧ (wv (bench 0)).launched &&& ~~~((wv (bench 0)).exited ||| 0xFFFFFFFF#128) = 0#128)
    ∧ (On forked (.exit ⟨false, 1⟩) ∧ maskOf (partLanes (wv forked) (path forked) ⟨false, 1⟩) = 0x3FF#128)
    ∧ (On (bench 0) (.exit ⟨false, 1⟩) ∧ maskOf (partLanes (wv (bench 0)) (path (bench 0)) ⟨false, 1⟩) = 0#128)
    ∧ (On handlingOne (.exit all) ∧ (wv handlingOne).handler = true
      ∧ maskOf ((lanesOf (wv handlingOne).faultmask).filter fun l => ((wv handlingOne).preg 0).getLsbD l != false) = 1#128
      ∧ 0xFFFFFFFF#128 &&& ~~~1#128 ≠ 0#128)
    ∧ (On (stacked [inner, joining] 0) (.exit all) ∧ inner.mask &&& ~~~0xF#128 = 0#128 ∧ joining.mask &&& ~~~0xF#128 ≠ 0#128)
    ∧ (On (stacked [inner, { inner with st := .waiting, mask := 0x200#128 }, joining] 0) (.exit all)
      ∧ 0x200#128 &&& ~~~0xF#128 ≠ 0#128)
    ∧ (On familyOn (.exit all) ∧ (wv familyOn).ember = some ⟨0, 0, 0, 9, 0, .running, [], false⟩ ∧ familyOn.thread? 9 = some parentOf
      ∧ familyOn.path? parentOf = some { benchEntry with mask := 0xF0#128 }
      ∧ (∀ z ∈ parentOf.stack, z.mask &&& ~~~laneBit 0 ≠ 0#128 ∨ z.st = .parked)
      ∧ parentOf.launched &&& ~~~(parentOf.exited ||| laneBit 0) ≠ 0#128) := by
  and_intros <;> first | exact on (by decide +kernel) | decide +kernel

theorem wit_TakingATrap :
    On (bench 5) (.trap all 0xFFFF) ∧ On (bench 5) (.trap ⟨false, 1⟩ 0) ∧ On (bench 5) (.bkpt all 1) ∧ On (bench 5) (.bkpt ⟨false, 1⟩ 1)
    ∧ (bench 5).thread? 1 = some (wv (bench 5)) ∧ (bench 5).context? 1 = some benchContext ∧ benchContext.tba ≠ 0#64
    ∧ 64 ≤ (wv (tweak (bench 5) fun w => { w with tsp := 64#64 })).tsp.toNat
    ∧ ((tweak (bench 5) fun w => { w with tsp := 64#64 }).framePas (wv (bench 5)) 0 .write).toOption
        = some [0x4100000, 0x4100200, 0x4100400, 0x4100600]
    ∧ (bench 5).trapReached (wv (bench 5)) .trap = true ∧ (afar (bench 5)).trapReached (wv (bench 5)) .trap = false := by
  and_intros <;> first | exact on (by decide +kernel) | decide +kernel

/-- In the handler of a TRAP that the wave has taken, at an RTE; and the same from a trap path. -/
def handling : State :=
  tweak (next (.trap all 5) (tweak (bench 5) fun w => { w with tsp := 64#64 })) fun w => { w with clause := some (benchClause 5) }
def handling' : State := { handling with cur := some 1 }
def onPath : State := tweak handling' fun w => { w with susp := some ⟨[benchEntry], 0⟩ }

theorem wit_Returns :
    (On handling' .rte ∧ (wv handling').ended = false ∧ (wv handling').susp = none
      ∧ (handling'.framePas (wv handling') (wv handling').tsp.toNat .read).toOption = some [0x4100000, 0x4100200, 0x4100400, 0x4100600]
      ∧ handling'.frameReached (wv handling') (wv handling').tsp.toNat = true
      ∧ BitVec.ofNat 128 (leNat ([0x4100000, 0x4100200, 0x4100400, 0x4100600].flatMap fun pa => handling'.privRead (wv handling') pa 16) / 2 ^ 64)
        &&& ~~~(wv handling').exited ≠ 0#128)
    ∧ (On onPath .rte ∧ (wv onPath).susp = some ⟨[benchEntry], 0⟩)
    ∧ (On (tweak handling' fun w => { w with tsp := 0x100000#64 }) .rte
      ∧ (handling'.framePas (wv handling') 0x100000 .read).toOption = none ∧ handling'.frameReached (wv handling') 0x100000 = true)
    ∧ (On (afar handling') .rte ∧ (afar handling').frameReached (wv handling') (wv handling').tsp.toNat = false) := by
  and_intros <;> first | exact on (by decide +kernel) | decide +kernel

def inHandler (eng : Nat) : State := tweak (bench eng) fun w => { w with handler := true }
/-- The bench with a liveness table of one entry at 0x3000, which names 16 bytes of stash at 8. -/
def lively : State :=
  ((bench 5).writeBytes 0x4003020 (leBytes 8 (8 + 2 ^ 32 * 16))).setGrid 1 { benchGrid with desc := { benchDesc with ltab := 0x3000#64, lcount := 1 } }
def recordingOn (sz : DWord) : State :=
  ((bench 5).modContext 1 fun x => { x with ctxcfg := 2#64 }).modDie 0 fun d => { d with rring := ⟨0x8000#64, sz⟩ }

/-- The same with the ring written once round. -/
def ringIsFull : State := (recordingOn 8192#64).writeBytes 0x8000 (leBytes 8 8192)

theorem wit_SystemRegisters :
    (On (bench 5) (.csrr 1 .clsize) ∧ (bench 5).context? 1 = some benchContext)
    ∧ On (inHandler 5) (.csrw .tsp (.int 32)) ∧ On (inHandler 5) (.csrw .tsp (.int 33)) ∧ On (inHandler 5) (.csrw .tscratch (.int 33))
    ∧ (reservedHere benchDesc (benchClause 5) .rte = false ∧ emberIllegal (wv (bench 5)) .rte = false ∧ needsHandler .rte = true
      ∧ (wv (bench 5)).handler = false ∧ reservedHere benchDesc (benchClause 5) (.csrw .tba (.int 32)) = false)
    ∧ (On lively (.live 0) ∧ On lively (.live 1) ∧ lively.access 16 1 0x3000#64 .read = .ok (0x4003000, leaf)
      ∧ lively.pageReached 16 1 0x3000#64 = true ∧ bits (leNat (lively.cleanBytes 0x4003000 64)) 256 19 = 8
      ∧ bits (leNat (lively.cleanBytes 0x4003000 64)) 288 20 = 16)
    ∧ (On (bench 5) (.mark 7) ∧ (bench 5).recording 1 = false)
    ∧ (On (recordingOn 8192#64) (.mark 7) ∧ (recordingOn 8192#64).recording 1 = true ∧ (recordingOn 8192#64).ringFull 0 32 = false)
    ∧ (On ringIsFull (.mark 7) ∧ ringIsFull.recording 1 = true ∧ ringIsFull.ringFull 0 32 = true) :=
  ⟨⟨on (by decide +kernel), by decide +kernel⟩, on (by decide +kernel), on (by decide +kernel), on (by decide +kernel), by decide +kernel,
    ⟨on (by decide +kernel), on (by decide +kernel), by decide +kernel, by decide +kernel, by decide +kernel⟩,
    ⟨on (by decide +kernel), by decide +kernel⟩, ⟨on (by decide +kernel), by decide +kernel, by decide +kernel⟩,
    on (by decide +kernel), by decide +kernel, by decide +kernel⟩

/-- A store's error waits for the step; and the grid does not step. -/
def steppedIn : State := tweak (bench 2) fun w => w.owe [⟨.memerr, 0#64, 1#128⟩] (.step true 0#32)
def unstepped : State := (bench 2).setGrid 1 { benchGrid with desc := { benchDesc with stepping := false } }

theorem wit_Steps :
    (On (bench 2) .stepg ∧ (wv (bench 2)).held = [] ∧ (wv (bench 2)).owed = [] ∧ (bench 2).grateUnread 1 (wv (bench 2)) = false
      ∧ (wv (bench 2)).stack = [path (bench 2)] ∧ (path (bench 2)).gstep = (wv (bench 2)).gcnt)
    ∧ (On steppedIn .stepg ∧ ∃ o, firstOwed ((wv steppedIn).owed.filter (·.atStep true)) = some o)
    ∧ (On unstepped .stepg ∧ ∃ g, unstepped.grid? (wv unstepped).grid = some g ∧ g.desc.stepping = false)
    ∧ On (bench 2) .stepw ∧ On (ahead 2) .stepg ∧ On (emberAt 2) .stepw ∧ On (emberAt 2) .stepg
    ∧ On (stacked [inner, { inner with st := .waiting, mask := 0x200#128 }, joining] 2) .stepg :=
  ⟨⟨on (by decide +kernel), by decide +kernel⟩, ⟨on (by decide +kernel), Option.isSome_iff_exists.1 (by decide +kernel)⟩, ⟨on (by decide +kernel), _, rfl, by decide +kernel⟩,
    on (by decide +kernel), on (by decide +kernel), on (by decide +kernel), on (by decide +kernel), on (by decide +kernel)⟩

/-! ## Witnesses: events, launches, commands and units -/

/-- The wave at the clause boundary 0x1010, the word there in memory. -/
def boundary (word : Nat) : State :=
  { (tweak (bench 0) fun w => { w with clause := none }).writeBytes 0x4001010 (leBytes 8 word) with cur := none }
def header : Nat := 0xFFA0000980000000
/-- A wave at 0x1010 whose path has its join there. -/
def parking : State := tweak (boundary 0) fun w => { w with stack := [{ inner with pc := joining.pc }, joining] }
/-- An ember lane of wave 9 in a phase, the wave, and the lane's path. -/
def emberPair (ph : EPhase) : State :=
  tweak ((bench 0).setThread 9 { benchThread 0 with clause := none }) fun w =>
    { w with ember := some ⟨0, 0, 0, 9, 0, ph, [], false⟩, launched := 1#128, stack := [{ benchEntry with mask := 1#128 }] }

/-- The state in which the selector grants the wave its turn, and the state past its header's read. -/
def granted (s : State) : State := (s.grant 1 (wv s)).getD s
def readHead (s : State) : State := ((granted s).pastSlot (wv (granted s))).noteRead (wv (granted s)) (path (granted s)) 0x1010#64 8
/-- A clause is due here at the boundary: whether its wave may start it, and what stands there. -/
def Turn (s : State) : Prop :=
  s.thread? 1 = some (wv s) ∧ s.isReady 1 (wv s) = true ∧ s.pipeBusy 1 (wv s) = false ∧ (s.grant 1 (wv s)).isSome = true
    ∧ (granted s).thread? 1 = some (wv (granted s)) ∧ (wv (granted s)).badCtl = false ∧ (granted s).path? (wv (granted s)) = some (path (granted s))
def owed0 : State := tweak (boundary header) fun w => w.owe [⟨.stepWatchdog, 0#64, 1#128⟩] .wave
/-- A clause whose WAIT names flag 0. -/
def waitsOn : Nat := header + 2 ^ 36
def hazarded : State := tweak (boundary waitsOn) fun w => { w with ops := [⟨1, 0, [6], none, .stf true 0#32 6 false 1#128, [], 0#64⟩] }
/-- The wave of an ember pair that still waits for v1 of the lane. -/
def pairBusy : State := (emberPair .waiting).setThread 9 { benchThread 0 with clause := none, ops := [opLoad] }

theorem wit_ClausesAndEmbers :
    ((boundary header).thread? 1 = some (wv (boundary header)) ∧ (bench 0).isReady 1 (wv (bench 0)) = false)
    ∧ (Turn (boundary header) ∧ (path (granted (boundary header))).pc ≠ (path (granted (boundary header))).join
      ∧ (wv (granted (boundary header))).owed = [] ∧ (granted (boundary header)).stopsNow (wv (boundary header)) = false
      ∧ (granted (boundary header)).codeWord (wv (boundary header)) 0x1010#64 = .ok (BitVec.ofNat 64 header)
      ∧ (wv (boundary header)).waitHazard benchEntry 0#12 = false
      ∧ (readHead (boundary header)).waitBusy 1 (wv (boundary header)) 0#12 = false ∧ bits header 55 9 = 0x1FF ∧ bits header 0 26 = 0)
    ∧ (Turn (boundary (header + 1))
      ∧ (granted (boundary (header + 1))).codeWord (wv (boundary 0)) 0x1010#64 = .ok (BitVec.ofNat 64 (header + 1)) ∧ bits (header + 1) 0 26 ≠ 0)
    ∧ (Turn (boundary 0) ∧ (granted (boundary 0)).codeWord (wv (boundary 0)) 0x1010#64 = .ok (BitVec.ofNat 64 0) ∧ bits 0 55 9 ≠ 0x1FF)
    ∧ (Turn hazarded ∧ (granted hazarded).codeWord (wv hazarded) 0x1010#64 = .ok (BitVec.ofNat 64 waitsOn)
      ∧ (wv (granted hazarded)).waitHazard (path hazarded) 1#12 = true)
    ∧ (outstanding.waitBusy 1 (wv outstanding) 1#12 = true ∧ (wv outstanding).waitHazard benchEntry 1#12 = false)
    ∧ (Turn parking ∧ (path (granted parking)).pc = (path (granted parking)).join ∧ canPark ((granted parking).entries (wv (granted parking))) = true)
    ∧ (Turn owed0 ∧ (firstOwed ((wv (granted owed0)).owed.filter fun o => o.due == .wave)).isSome = true)
    ∧ ((emberPair .handover).thread? 9 = some { benchThread 0 with clause := none }
      ∧ ((wv (emberPair .handover)).ember.map (·.parent)) = some 9
      ∧ ((wv (emberPair .waiting)).ember.map (·.phase)) = some .waiting ∧ (benchThread 0).awaits none 0 = false
      ∧ pairBusy.thread? 9 = some { benchThread 0 with clause := none, ops := [opLoad] }
      ∧ ({ benchThread 0 with clause := none, ops := [opLoad] } : Thread).awaits none 0 = true
      ∧ ((wv (emberPair .waiting)).stack.head?.map (·.pc)) = some (pcField 0x1010#64))
    ∧ (((wv (emberPair .rejoining)).ember.map (·.phase)) = some .rejoining ∧ ((emberPair .rejoining).path? (wv (emberPair .rejoining))).isSome = true
      ∧ (wv (emberPair .rejoining)).awaits none 0 = false ∧ (wv (emberPair .rejoining)).badV = []
      ∧ (wv (emberPair .rejoining)).launched = laneBit 0 ∧ (benchThread 0).launched.getLsbD 0 = true)
    ∧ (1 ≠ (bench 0).uid ∧ lanesOf 1#128 = [0]) := by
  unfold Turn
  and_intros <;> decide +kernel

/-- A path past its STEPW and STEPG: every lane of the wave has arrived. -/
def arrive (s : State) : State :=
  { ((tweak s fun w => { w with gcnt := 1#32, wcnt := 1#32, stack := [{ benchEntry with mask := 1#128, gstep := 1#32, wstep := 1#32 }]
                                clause := none }).modGrid 1 fun g => { g with reached := 1#32 }).modGroup 1 fun p =>
      { p with reached := 1#32, edge := 1#32 } with cur := none }
/-- Lane 0's store of four bytes is pending in the open grid step, and every lane has arrived. -/
def pending : State := arrive (next (.st .b32 .global .lo false all (.s 2) (.int 32) 3) (lone 2))

/-- Lane 0's STF to the stash is pending; and effects of the step's close. -/
def fetching : State := arrive (next (.stf .b32 true .lo false all 6 (.s 2) (.int 32) 4) (lone 2))
def effects : List SysOp :=
  [⟨0#32, 0, 5, .wbind 3 7#256⟩, ⟨0#32, 0, 6, .wbind 3 9#256⟩, ⟨0#32, 1, 7, .evsig 9#16⟩, ⟨0#32, 1, 8, .launch [] 0#64 0 true⟩]
def effecting : State := ((queued (arrive (lone 2)) 1).modGrid 1 fun g => { g with sysops := effects })

/-- The same with the group step of that count closed already. -/
def gridOnly : State := pending.modGroup 1 fun p => { p with closed := 1#32 }
def gridOf (s : State) : Grid := (s.grid? 1).getD benchGrid
def resolved : Resolved := resolve (gridOnly.closing (gridOf gridOnly) 0#32 false) gridOnly.oldByte ((gridOf gridOnly).pend.filter fun x => x.step == 0#32)

theorem wit_StepCloses :
    ((bench 2).group? 1 = some benchGroup ∧ (bench 2).grid? 1 = some benchGrid ∧ (bench 2).groupArrived 1 = false
      ∧ (bench 2).gridArrived 1 = false)
    ∧ (pending.groupArrived 1 = true ∧ pending.groupHeld 1 = false ∧ (pending.group? 1).isSome = true)
    ∧ (pending.gridArrived 1 = true ∧ (pending.grid? 1).any (fun g => !pending.gridHeld 1 g && g.pend.length == 1) = true
      ∧ pending.twins = [] ∧ pending.peersIn = [] ∧ pending.badMem = [])
    ∧ (gridOnly.grid? 1 = some (gridOf gridOnly) ∧ gridOnly.gridArrived 1 = true ∧ gridOnly.gridHeld 1 (gridOf gridOnly) = false
      ∧ (gridOf gridOnly).closed = 0#32 ∧ (gridOf gridOnly).sysops = [] ∧ (gridOf gridOnly).rlRes = [] ∧ gridOnly.openGroups 1 = []
      ∧ (gridOnly.twins = [] ∧ gridOnly.peersIn = [] ∧ gridOnly.badMem = [] ∧ gridOnly.badL3 = []) ∧ resolved.recs = [] ∧ resolved.anys = []
      ∧ resolved.fails = [] ∧ resolved.lost = [] ∧ (resolved.puts.all fun x => !gridOnly.linkDown x.1) = true
      ∧ resolved.put 0x4000000 = some 0#8)
    ∧ (fetching.groupArrived 1 = true ∧ fetching.groupHeld 1 = false ∧ ((wv fetching).ops.map (·.kind)) = [.stf false 0#32 6 false 1#128]
      ∧ ((resolve (fetching.closing benchGrid 0#32 true) (tget 0#8 []) ((group1 fetching).pend.filter fun x => x.step == 0#32)).results.any fun x =>
          (wv fetching).ops.any fun o => x.1 == o.uid && x.2.1 == fetching.gkey (wv fetching) 0) = true)
    ∧ (pending.openGroups 1 = [1] ∧ effecting.gridArrived 1 = true ∧ effecting.gridHeld 1 (gridOf effecting) = false
      ∧ (gridOf effecting).sysops = effects
      ∧ (effects.map fun o => (o.op.binds.map (·.1), o.op.sends 0 1#32)) =
          [(some 3, none), (some 3, none), (none, none), (none, some ⟨1#32, [], 0#64⟩)]
      ∧ ((effecting.context? 1).bind fun x => (aget? x.queues 0).map (·.reserved)) = some 1) := by
  and_intros <;> decide +kernel

def store (rule : Rule) (key : Nat) (b : Byte) : PWrite :=
  { step := 0#32, va := 0, pa := 0x4000000, nib := none, data := [b, 0#8, 0#8, 0#8], rule := rule
    sum := if rule = .sum then some .i32 else none, w := ⟨key, 0, 0⟩, stf := none, order := key, die := 0 }

theorem wit_StoreRules :
    (store .lo 0 1#8).at 0x4000000 ∧ (store .lo 0 1#8).at 0x4000003 ∧ ¬ (store .lo 0 1#8).at 0x4000004
    ∧ (store .lo 0 1#8).w.lt (store .lo 1 2#8).w = true ∧ (store .flt 0 1#8).w ≠ (store .flt 1 2#8).w
    ∧ (store .sum 3 7#8).sum = some .i32 ∧ (store .sum 3 7#8).pa % 4 = 0 ∧ (store .any 0 1#8).nib = none
    ∧ ({ store .lo 0 1#8 with lost := true }.at 0x4000000 ∧ 0x4000007 / 8 = 0x4000000 / 8) :=
  ⟨⟨rfl, by decide, by decide⟩, ⟨rfl, by decide, by decide⟩, fun h => absurd h.2.2 (by decide), by decide, by decide, by decide, by decide, rfl,
    ⟨rfl, by decide, by decide⟩, rfl⟩

/-- The wave has held its steps open for six clocks, and its context allows five; it has retired nothing for 1 ms, and allows
1 ms. -/
def late : State :=
  { ((((tweak (bench 0) fun w => { w with gwatch := 6, wwatch := 6 }).modGrid 1 fun g => { g with reached := 1#32 }).modGroup 1 fun p =>
      { p with reached := 1#32 }).modContext 1 fun x => { x with steplimit := 5#64, hanglimit := 1#64 }) with time := 1000000#64 }
/-- The wave waits for an ejected lane, 1,025 clocks under a limit of one unit. -/
def rejoining : State :=
  tweak ((bench 0).setGrid 1 { benchGrid with rejoin := 1 }) fun w =>
    { w with rejoinCount := 1025, stack := [{ inner with st := .waiting, ej := true }, joining] }

/-- The same, owing the hang watchdog's trap; and with its steps held open while it waits for an ejected lane. -/
def hung : State := tweak late fun w => w.owe [⟨.stepWatchdog, 1#64, 1#128⟩] .wave
def lateAway : State :=
  (tweak late fun w => { w with stack := [{ inner with st := .waiting, ej := true }, joining] }).setThread 2
    { benchThread 0 with ember := some ⟨0, 0, 0, 1, 0, .running, [], false⟩, launched := 1#128, stack := [{ benchEntry with mask := 1#128 }] }

theorem wit_Watchdogs :
    (late.thread? 1 = some (wv late) ∧ late.watchdogDue true 1 = [(1, 0xFFFFFFFF#128)] ∧ late.watchdogDue false 1 = [(1, 0xFFFFFFFF#128)]
      ∧ (wv late).handler = false ∧ (late.path? (wv late)).isSome = true)
    ∧ (hung.thread? 1 = some (wv hung) ∧ (hung.watchdogDue true 1).map (·.1) = [1] ∧ hung.hangDue 1 = true ∧ (wv hung).handler = false
      ∧ (hung.threads.filter fun x => x.2.ctx == 1 && x.2.ember.isNone && !x.2.ended) = [(1, wv hung)])
    ∧ ((lateAway.watchdogDue true 1).map (·.1) = [1] ∧ lateAway.path? (wv lateAway) = none
      ∧ lateAway.trapReached (wv lateAway) .stepWatchdog = true ∧ ((lateAway.context? 1).any fun x => !x.fpolicy.getLsbD 0) = true)
    ∧ (bench 0).watchdogDue true 1 = []
    ∧ (late.hangDue 1 = true ∧ (late.threads.filter fun x => x.2.ctx == 1 && x.2.ember.isNone && !x.2.ended) = [(1, wv late)])
    ∧ (bench 0).hangDue 1 = false ∧ (bench 0).rejoinDue (wv (bench 0)) = false
    ∧ (rejoining.rejoinDue (wv rejoining) = true ∧ rejoining.context? 1 = some benchContext ∧ benchContext.fpolicy.getLsbD 0 = false
      ∧ rejoining.trapReached (wv rejoining) .rejoinTimeout = true) := by
  and_intros <;> decide +kernel

/-- The module after a start, its function 0 keyed and in RUN. -/
def up (s : State) : State := { s with bootStage := 7 }
/-- A launch packet for 32 lanes on die 0, and its descriptor at 0x800: two registers of each kind's unit, stepping. -/
def packet : List Byte := leBytes 128 (0x800 + 32 * 2 ^ 320 + (2 ^ 48 + 2 ^ 18 + 16 * 2 ^ 33) * 2 ^ 384)
def kdesc : List Byte := leBytes 32 (0x1000 * 2 ^ 192 + 64 * 2 ^ 96 + 2 * 2 ^ 66 + 2 ^ 62 + 2 ^ 12)
/-- Queue 0, whose head is a packet. -/
def launching (pkt : List Byte) : State :=
  (((bench 0).writeBytes 0x4000800 kdesc).writeBytes 0x8000000 pkt).modContext 1 fun x =>
    { x with queues := [(0, ⟨0, 0x8000000#64, 1, 1#32, 0#32, 0, []⟩)] }
def done : State := { bench 0 with threads := [], groups := [], cur := none }

/-- The bench's grid, not stepping and of a launch of 64 lanes, with its second group still to be placed. -/
def waitingGrid : State :=
  (bench 0).setGrid 1 { benchGrid with desc := { benchDesc with stepping := false }, pkt := { benchPacket with n := 64 }, started := true, nextGroup := 1 }

theorem wit_Launching :
    ((bench 0).accepts 0 = false ∧ (up (bench 0)).accepts 0 = true ∧ (up (bench 0)).pageOwner 4095 = none
      ∧ (up (bench 0)).pageOwner 0 = some 1)
    ∧ ((launching packet).pickHead.any fun h => ((launching packet).context? 1).any fun x =>
        ((launching packet).checkPacket h.1 h.2.1 x h.2.2.2).isOk) = true
    ∧ ((launching (List.replicate 128 0#8)).pickHead.any fun h => ((launching packet).context? 1).any fun x =>
        !((launching packet).checkPacket h.1 h.2.1 x h.2.2.2).isOk) = true
    ∧ (launching packet).taken = none
    ∧ (bench 0).firstRound.isNone = true ∧ (next .packetTake (launching packet)).firstRound.isSome = true
    ∧ (0 < [5].length ∧ (bench 0).grid? 1 = some benchGrid)
    ∧ (bench 0).gridDone 1 = false ∧ done.gridDone 1 = true
    ∧ (waitingGrid.waitingGrids = [1] ∧ ((waitingGrid.placeGrid 1).grid? 1).any (fun g => decide (g.groupCount ≤ g.nextGroup)) = true) := by
  and_intros <;> decide +kernel

/-- A command with its code, context and operands. -/
def cmd (code ctx : Nat) (w1 w2 w3 : DWord) : Cmd := { w0 with w0 := BitVec.ofNat 64 (code + ctx * 2 ^ 16), w1 := w1, w2 := w2, w3 := w3 }

theorem accepts_up : Accepts (up (bench 0)) 0 := ⟨by decide +kernel, by decide +kernel, by decide +kernel, by decide +kernel⟩

theorem wit_Settings :
    Accepts (up (bench 0)) 0 ∧ cmdCode (cmd 0x0A 1 0x15#64 256#64 0#64) = 0x0A
    ∧ cmdReserved (cmd 0x0A 0 0x15#64 256#64 0#64) false wholeWord wholeWord 0#64 = false
    ∧ (∃ x : Setting, dieSetting (.cfgActmax 0 (cmd 0x0A 0 0x15#64 256#64 0#64)) = some (0, cmd 0x0A 0 0x15#64 256#64 0#64, 0x15, x)
      ∧ x.ok 256#64 ∧ ¬ x.ok 255#64)
    ∧ cmdReserved (cmd 0x0A 1 0x24#64 1#64 0#64) true wholeWord wholeWord 0#64 = false
    ∧ (∃ ok old new, ctxSetting (.cfgFpolicy 0 (cmd 0x0A 1 0x24#64 1#64 0#64)) = some (0, cmd 0x0A 1 0x24#64 1#64 0#64, 0x24, ok, old, new)
      ∧ ok 1#64 ∧ ¬ ok 2#64)
    ∧ ((up (bench 0)).context? 1 = some benchContext ∧ (up (bench 0)).context? 2 = none ∧ benchContext.dieset.getLsbD 0 = true
      ∧ benchContext.dieset.getLsbD 1 = false) :=
  ⟨accepts_up, by decide, by decide, ⟨_, rfl, by decide, by decide⟩, by decide, ⟨_, _, _, rfl, by decide, by decide⟩, by decide +kernel⟩

/-- A context record at 0x8000: context 2 on die 0 with page 1. -/
def recorded : State := (up (bench 0)).writeBytes 0x8000 (leBytes 8 (2 + 2 ^ 16 + 2 ^ 32) ++ leBytes 8 0x10000)
def halted : State := tweak (up (bench 0)) fun w => { w with halted := true }
def saveImage : SaveImage :=
  ⟨1, 1#16, 0, [(1, benchGrid)], [(1, benchGroup)], [(1, benchThread 0)], [], true, false⟩
/-- The bench's grid as a save image that waits to be restored, and the module without it. -/
def imaged (queued started : Bool) : State :=
  { up (bench 0) with saves := [(0x8000, { saveImage with queued := queued, started := started })], grids := [], groups := [], threads := [] }
def stopping (begun : Bool) (t : DWord) : State :=
  { (up (tweak (bench 0) fun w => { w with clause := none, stopped := true })).modContext 1 fun x =>
      { x with saving := some ⟨0x8000#64, 0x100000, 1#16, [1], begun, 0#64⟩ } with time := t, cur := none }

theorem wit_ContextCommands :
    Accepts (up (bench 0)) 0
    ∧ (recordOk (recorded.readBytes 0x8000 128) = true ∧ recorded.context? 2 = none ∧ recorded.pageOwner 1 = none
      ∧ bits (leNat (recorded.readBytes 0x8000 8)) 16 16 = 1 ∧ (recorded.die 0).mode = .run
      ∧ cmdReserved (cmd 1 0 0x8000#64 0#64 0#64) false wholeWord 0#64 0#64 = false ∧ recorded.holdsMemory 0x8000 = true
      ∧ recorded.holdsMemory (2 ^ 40) = false)
    ∧ (cmdReserved (cmd 0x0B 0 0x8000#64 1#64 0#64) false wholeWord 0xFFFF#64 0#64 = false
      ∧ (up (bench 0)).holdsMemory (0x8000 + 511) = true)
    ∧ (cmdReserved (cmd 2 1 0#64 0#64 0#64) true 0#64 0#64 0#64 = false ∧ (up (bench 0)).saves = [] ∧ benchContext.saving = none)
    ∧ cmdReserved (cmd 3 1 0xC033F#64 0x80#64 0#64) true 0xF033F#64 wholeWord 0#64 = false
    ∧ (benchContext.dieset.getLsbD 0 = true ∧ ((up (bench 0)).die 0).mode = .run ∧ benchContext.dieset.getLsbD 1 = false
      ∧ benchContext.status = .running)
    ∧ (halted.haltedAt 1 0#64 = some 1 ∧ (up (bench 0)).haltedAt 1 0#64 = none ∧ cmdReserved (cmd 7 1 0#64 0#64 0#64) true 0x3FFFF#64 0#64 0#64 = false)
    ∧ cmdReserved (cmd 6 1 0x10000#64 0x10000#64 0#64) true wholeWord wholeWord 0#64 = false
    ∧ ((up (bench 0)).saveBusy 1 benchContext = false ∧ (stopping false 0#64).saveBusy 1 { benchContext with saving := some ⟨0#64, 0, 0#16, [], false, 0#64⟩ } = true
      ∧ (up (bench 0)).allLive 1#16 = true ∧ (up (bench 0)).allLive 2#16 = false ∧ (1#16 : BitVec 16) &&& ~~~benchContext.dieset = 0#16
      ∧ 0 < (up (bench 0)).saveBound [1] ∧ (up (bench 0)).taken = none)
    ∧ ((aget? (imaged false false).saves 0x8000).map (·.ctx)) = some 1 := by
  refine ⟨accepts_up, ?_⟩
  and_intros <;> decide +kernel

theorem wit_ModuleCommands :
    Accepts (up (bench 0)) 0 ∧ cmdReserved (cmd 8 0 0x201#64 0#64 0#64) false 0x3FF#64 0#64 0#64 = false
    ∧ (bits 0x209 2 2 = 2 ∧ bits 0x209 4 6 = 32 ∧ bits 0x209 0 2 = 1) ∧ (up (bench 0)).minimal = false
    ∧ ((((up (bench 0)).modFlue 0 fun f => { f with conn := [(1, ⟨.setup, 16⟩)] }).flue 0).entry 1).state = .setup
    ∧ { up (bench 0) with minimal := true }.minimal = true ∧ (up (bench 0)).ownImages
    ∧ cmdReserved (cmd 9 0 7#64 0#64 0#64) false 0x7FF07#64 0#64 0#64 = false ∧ (7 = 4 + 3 ∧ 2 ^ 15 + 256 * 64 = 0xC000)
    ∧ ((up (bench 0)).die 0).mode ≠ .tripped ∧ (up (bench 0)).holdsWork 0 (fun _ => true) = true
    ∧ (up State.reset).holdsWork 0 (fun _ => true) = false ∧ (up (bench 0)).holdsWork 0 (fun y => y == 1) = true
    ∧ (up (bench 0)).saves = [] ∧ cmdReserved (cmd 0x0E 0 0x1000#64 0x100000#64 0#64) false wholeWord wholeWord 0#64 = false
    ∧ cmdReserved (cmd 0x0F 0 0xFF#64 0x8000FFFF00100000#64 0x10000#64) false 0xFF#64 0x8000FFFFFFFFFFFF#64 wholeWord = false
    ∧ cmdReserved (cmd 0x10 0 0x7F#64 0#64 0#64) false 0x7F#64 0#64 0#64 = false
    ∧ cmdReserved (cmd 0x11 0 0x8000#64 0x1000#64 0x1000#64) false wholeWord wholeWord wholeWord = false := by
  refine ⟨accepts_up, ?_⟩
  and_intros <;> first
    | decide +kernel
    | (intro i h
       have e : (up (bench 0)).saves = [] := by decide +kernel
       rw [e] at h
       cases h)

theorem wit_HostEvents :
    (0 < (up (bench 0)).dies.length ∧ ((up (bench 0)).die 0).busy = false
      ∧ (((up (bench 0)).modDie 0 fun d => { d with busy := true }).die 0).busy = true)
    ∧ ((up (bench 0)).answers 0 = true ∧ ((up (bench 0)).die 0).tdisp = .run ∧ ((up (bench 0)).die 0).msixPend = 0#4)
    ∧ ((up (bench 0)).accepts 0 = true ∧ (up (bench 0)).badMem = [] ∧ (bench 0).accepts 0 = false)
    ∧ (cmdReserved (cmd 0x0D 0 0#64 0#64 0#64) false 0#64 0#64 0#64 = false ∧ State.reset.answers 0 = false)
    ∧ (State.reset.bootStage = 1 ∧ State.reset.bootStopped = false)
    ∧ ((up (bench 0)).reaches 0 0x8000 = true ∧ (up (bench 0)).linkDown 0x8000 = false ∧ (up (bench 0)).badL3 = []
      ∧ (afar (up (bench 0))).reaches 0 (2 ^ 38) = false ∧ (up (bench 0)).linkDown (2 ^ 45) = true ∧ (up (bench 0)).reaches 0 (2 ^ 45) = true)
    ∧ (0x1038 = 0x1000 + 8 * 7 ∧ 0x2000 = 0x2000 + 8 * 0 ∧ 0x1044 % 8 ≠ 0) := by
  and_intros <;> decide +kernel

theorem wit_Saves :
    ((stopping false 0#64).context? 1).any (fun x => x.saving.any fun v => !v.begun && v.grids == [1]) = true
    ∧ ((stopping false 0#64).gridStopped 1 = true ∧ (stopping false 0#64).saveElsewhere 1 [1] = false)
    ∧ ((stopping true 0#64).enginesBusy [1] = false ∧ (stopping true 0#64).copiesOf [1] = false)
    ∧ (((stopping true 0#64).modHearth 0 fun h => { h with copies := [copy .cpin 0] }).copiesOf [1] = true
      ∧ ((stopping true 0#64).modHearth 0 fun h => { h with copies := [copy .cpin 0] }).enginesBusy [1] = true)
    ∧ ((stopping true 1000000#64).lowestOf 1#16 (·.pretmo) = 1000 ∧ (stopping true 2000000#64).lowestOf 1#16 (·.savetmo) = 2000
      ∧ (stopping true 2000000#64).time.toNat = 2000 * 1000)
    ∧ ((imaged true false).imageFits saveImage = true ∧ (up (bench 0)).imageFits saveImage = false
      ∧ (aget? (imaged true false).saves 0x8000).any (fun i => i.queued && !i.started) = true
      ∧ (aget? (imaged false true).saves 0x8000).any (·.started) = true)
    ∧ ((up (bench 0)).invalBusy ⟨1, 0#64, 0#64, 0⟩ = false ∧ (flying .cpin 0).invalBusy ⟨1, 0#64, 0x10000#64, 9⟩ = true)
    ∧ ((bench 0).flue 0).entry 1 = ⟨.down, 16⟩
    ∧ ((((bench 0).modFlue 0 fun f => { f with conn := [(1, ⟨.drain, 16⟩)] }).flue 0).entry 1).state = .drain
      ∧ ((bench 0).modFlue 0 fun f => { f with conn := [(1, ⟨.drain, 16⟩)] }).inFlight 0 1 = false := by
  and_intros <;> decide +kernel

/-- An inbox entry that leads to address 0 of context 1. -/
def inboxed : State := { up (bench 0) with moduleId := some 5#7, inbox := [(0, ⟨0#64, 1, 1⟩)] }
def distant : State :=
  tweak (bench 2) fun w => { w with ops := [⟨2, 0, [], some 3, .loadS 3 9#64, [⟨0, 2 ^ 45, 0#64, 0#64, 8, false, true⟩], 0#64⟩] }

theorem wit_Units :
    (inboxed.inboxPlace 0 = some (1, 0#64, 0x4000000, leaf) ∧ (up (bench 0)).inboxPlace 0 = none ∧ (inboxed.flue 0).peerUp = true
      ∧ inboxed.circuitUp 0 (homeFlue 0x4000000) = true ∧ inboxed.circuitUp 1 (homeFlue 0x4000000) = false)
    ∧ (∀ l ∈ inboxed.peersIn, l.ctx = 1 → l.whole = false)
    ∧ (let p : Pin := ⟨0#64, 65536, 3, 3, false, 0#64⟩
       let s := { (bench 0).modContext 1 (fun x => { x with pins := [(4, p)] }) with time := 1000000#64 }
       (s.context? 1).any (fun x => aget? x.pins 4 == some p) = true ∧ 1000000 ≤ s.time.toNat - p.since.toNat)
    ∧ ((wv distant).ops.all fun o => (distant.cxlLate 0 o.since o.far).isEmpty
        && !({ distant with time := 0x7FFFFFFFFFFFFFFF#64 }.cxlLate 0 o.since o.far).isEmpty && o.far.all fun f => !f.strict) = true
    ∧ (7 < (bench 0).ports.length ∧ (bench 0).context? 1 = some benchContext ∧ ((bench 0).die 0).tlb = []
      ∧ (bench 0).walk 0x3FFFFFF 0x10000 0 4 = (.ok 0x7FFFFFF leaf, 1, leaf))
    ∧ (15 < (bench 0).hbm.length ∧ ((bench 0).stack 15).bank 3 = ⟨[], [], [], false, [], []⟩)
    ∧ ((bench 0).saves = [] ∧ ((bench 0).die 0).mode = .run ∧ ((bench 0).flue 3).mode = .run ∧ (bench 0).holdsWork 0 (fun y => y == 1) = true) := by
  and_intros <;> decide +kernel

theorem wit_IntegerProducts : (5 = 5 ∨ 5 = 6) ∧ (6 = 5 ∨ 6 = 6) ∧ 63 < 64 ∧ 0 < 64 := by decide

theorem wit_EncodingsDecode : (Instr.sadd 1 (.s 2) (.int 3)).wf = true ∧ (encode (.sadd 1 (.s 2) (.int 3))).isSome = true := by
  decide +kernel

/-- The state that runs SADD s1, s2, 5 next. -/
def sadding : State := State.reset.withFetchWord 64 0x1840605a5ff8000
/-- The same with its tables on another flue die, and no circuit there; with its word uncorrectable; and with nothing mapped. -/
def cutOff : State := afar sadding
def unmapped : State := sadding.modContext 1 fun x => { x with root := 0x8000#64 }

theorem wit_StepRunsDecoded :
    (sadding.agenda = [] ∧ sadding.pass.issuer = some (1, wv sadding) ∧ sadding.pass.path? (wv sadding) = some (path sadding)
      ∧ (wv sadding).clause = some (clause sadding) ∧ (wv sadding).badCtl = false ∧ (wv sadding).ember = none
      ∧ sadding.pass.pageReached 16 1 (clause sadding).here = true
      ∧ sadding.pass.codeWord (wv sadding) (clause sadding).here = .ok 0x1840605a5ff8000#64
      ∧ decodeWord 0x1840605a5ff8000#64 = .ok (.sadd 1 (.s 2) (.int 37))
      ∧ opcodeClass (bits 0x1840605a5ff8000 55 9) = some (clause sadding).eng ∧ (clause sadding).ix = (clause sadding).cnt)
    ∧ (cutOff.pass.pageReached 16 1 (clause cutOff).here = false ∧ cutOff.pass.issuer = some (1, wv cutOff) ∧ (wv cutOff).badCtl = false)
    ∧ (unmapped.pass.issuer = some (1, wv unmapped) ∧ unmapped.pass.pageReached 16 1 (clause unmapped).here = true
      ∧ unmapped.pass.codeWord (wv unmapped) (clause unmapped).here = .error .page)
    ∧ ((bench 0).pass.codeWord (wv (bench 0)) (clause (bench 0)).here = .ok 0#64 ∧ decodeWord 0#64 = .error .reservedEnc
      ∧ opcodeClass (bits 0 55 9) = some 0 ∧ opcodeClass 0x01F = none)
    ∧ ((Instr.sadd 1 (.s 2) (.int 3)).encoded = true ∧ Instr.packetTake.encoded = false) := by
  and_intros <;> decide +kernel

theorem wit_MemoryCanonical : Memory.wf (bench 0).mem = true ∧ Memory.wf (bench 0).hostMem = true ∧ Memory.wf (bench 0).flash = true := by
  decide +kernel

/-! ## Ill-formed instructions are refused -/

def no : Guard := ⟨true, 0#3⟩

theorem test_wf_guard : (Instr.vmov no 1 (.v 2)).wf = false ∧ (Instr.exit no).wf = false ∧ (Instr.brc no 3 6 false).wf = false
    ∧ (Instr.st .b32 .global .lo false no (.s 2) (.int 32) 3).wf = false := by decide
theorem test_wf_unsigned : (Instr.sshl 1 (.s 2) (.int 31)).wf = false ∧ (Instr.vshl all 1 (.v 2) (.int 0)).wf = false
    ∧ (Instr.sld false true 1 2 (.int 31)).wf = false ∧ (Instr.cwait 3 (.int 31)).wf = false ∧ (Instr.fbadv false 1 (.int 31)).wf = false
    ∧ (Instr.ld .b32 .global .normal none false all 1 (.s 2) (.int 31)).wf = false := by decide
theorem test_wf_pairs : (Instr.vadd64 all 1 (.v 2) (.v 4)).wf = false ∧ (Instr.vadd64 all 2 (.v 3) (.v 4)).wf = false
    ∧ (Instr.ld .b64 .stash .normal none false all 3 (.s 2) (.int 32)).wf = false
    ∧ (Instr.ld .b128 .stash .normal none false all 6 (.s 2) (.int 32)).wf = false
    ∧ (Instr.st .b32 .global .lo false all (.v 3) (.int 32) 4).wf = false ∧ (Instr.vballot all 7 0).wf = false := by decide
theorem test_wf_space : (Instr.ld .b32 .window .normal none false all 1 (.s 2) (.int 32)).wf = false
    ∧ (Instr.ld .b32 .global .normal none false all 1 (.w 2) (.int 32)).wf = false
    ∧ (Instr.ld .b32 .stash .normal (some 3) false all 1 (.s 2) (.int 32)).wf = false
    ∧ (Instr.st .b32 .window .lo false all (.s 2) (.int 32) 1).wf = false := by decide
theorem test_wf_rule : (Instr.st .b16 .global .sum false all (.s 2) (.int 32) 3).wf = false
    ∧ (Instr.st .b64 .global .sum true all (.s 2) (.int 32) 4).wf = false
    ∧ (Instr.st .b32 .global .lo true all (.s 2) (.int 32) 3).wf = false
    ∧ (Instr.stl .sum all (.s 2) (.int 32) 4).wf = false ∧ (Instr.cpout .sum false false 2 1 0).wf = false := by decide
theorem test_wf_special : (Instr.setfmt 0x1800).wf = false ∧ (Instr.sset .clock (.s 2)).wf = false
    ∧ (Instr.sset .faultmask (.s 3)).wf = false ∧ (Instr.sget all (.v 2) .exec).wf = false ∧ (Instr.sget all (.s 3) .exec).wf = false
    ∧ (Instr.sget all (.v 3) .clock).wf = false ∧ (Instr.sldk 1 3 0).wf = false := by decide
theorem test_wf_types : (Instr.vcvt .rne .f16 .f32 all 1 (.v 3)).wf = false ∧ (Instr.vcvt .rne .f32 .f16 all 1 (.v 2)).wf = false
    ∧ (Instr.vcvt .rne .e4m3 .f16 all 1 (.s 3)).wf = false ∧ (Instr.vcvt .rne .e4m3 .f16 all 1 (.v 3)).wf = true
    ∧ (Instr.vreduce .and .f32 all (.v 1) 2).wf = false ∧ (Instr.fbopen true false 10 1 2 4 20).wf = false := by decide
theorem test_wf_branches : (Instr.brc all 3 0 false).wf = false ∧ (Instr.jt 3 19 0 false).wf = false := by decide
theorem test_wf_units : (Instr.dieReset 16 w0).wf = false ∧ (Instr.flueDieTrip 4 false).wf = false ∧ (Instr.grateStart 2048).wf = false
    ∧ (Instr.cxlLinkDown 8).wf = false ∧ (Instr.refreshEnd 16 0).wf = false ∧ (Instr.queueDoorbell 0 4096 0 0).wf = false
    ∧ (Instr.queueDoorbell 0 0 64 0).wf = false ∧ (Instr.pinFadePeriod 1 32).wf = false ∧ (Instr.hbmRefresh 16 0 []).wf = false
    ∧ (Instr.hbmRefresh 15 0 [1000]).wf = true ∧ (Instr.hbmRefresh 15 0 [0]).wf = false ∧ (Instr.circuitUp 1 1).wf = false := by decide

/-! ## Words of the spec's encoding tables -/

/-- A word of the V, M or X format (05 Table 5.2). -/
def word (opc : BitVec 9) (gn : BitVec 1) (gp : BitVec 3) (d a b c : BitVec 9) (mod : BitVec 15) : DWord :=
  opc ++ gn ++ gp ++ d ++ a ++ b ++ c ++ mod
/-- A word of the I format. -/
def wordI (opc : BitVec 9) (gn : BitVec 1) (gp : BitVec 3) (d a : BitVec 9) (imm : Word) : DWord :=
  opc ++ gn ++ gp ++ d ++ a ++ 0#1 ++ imm
/-- A word of the J format. -/
def wordJ (opc : BitVec 9) (gn : BitVec 1) (gp : BitVec 3) (a : BitVec 9) (tgt jn : BitVec 20) (ej : BitVec 1) : DWord :=
  opc ++ gn ++ gp ++ a ++ tgt ++ jn ++ ej ++ 0#1

theorem test_decode_worked : Obligations.WorkedWords := by
  unfold Obligations.WorkedWords
  decide +kernel
/-- 14 Table 14.3 and 16 Table 16.6. -/
theorem test_decode_problems : decodeWord 0xF097FC0001C00024 = .ok (.brc ⟨false, 2⟩ 7 9 false)
    ∧ Header.ofWord 0xFFC30008C8000000 = ⟨4, 3, 0, true, 1, true, 2, 0⟩
    ∧ decodeWord 0xE4854605048A4000 = .ok (.fbopen true false 0 1 2 4 20) ∧ decodeWord 0xE187FEA5FFFF8000 = .ok (.mmldb false (.fib 2))
    ∧ decodeWord 0xE10022A3FFFF8001 = .ok (.mmrw true 8 (.fib 1) none) := by decide +kernel
/-- 05 Table 5.10. -/
theorem test_decode_scalar : decodeWord (word 0x003 0 0 0x101 0x102 0x1A5 0x1FF 0) = .ok (.sadd 1 (.s 2) (.int 37))
    ∧ decodeWord (word 0x000 0 0 0x13F 0x158 0x1FF 0x1FF 0) = .ok (.smov 63 (.fc 0))
    ∧ decodeWord (wordI 0x004 0 0 0x101 0x102 0xFFFFFFF8) = .ok (.saddi 1 2 0xFFFFFFF8)
    ∧ decodeWord (word 0x015 0 0 0x103 0x104 0x180 0x1FF 0x20) = .ok (.scmpu .lt 3 (.s 4) (.int 0))
    ∧ decodeWord (word 0x019 0 0 0x107 0x109 0x1A1 0x1FF 0x3800) = .ok (.sld true true 7 9 (.int 33))
    ∧ decodeWord (wordI 0x01A 0 0 0x108 0x1FF 0x2008) = .ok (.sldk 8 2 8)
    ∧ decodeWord (word 0x01C 0 0 0x16A 0x105 0x1FF 0x1FF 0) = .ok (.sset .fmt (.s 5))
    ∧ decodeWord (word 0x003 0 0 0x001 0x102 0x1A5 0x1FF 0) = .error .reservedEnc
    ∧ decodeWord (word 0x003 0 1 0x101 0x102 0x1A5 0x1FF 0) = .error .reservedEnc := by decide +kernel
/-- 05 Table 5.11. -/
theorem test_decode_vector : decodeWord (word 0x042 0 0 0x001 0x002 0x103 0x1FF 0) = .ok (.vadd all 1 (.v 2) (.s 3))
    ∧ decodeWord (wordI 0x043 1 3 0x0FF 0x000 0x12345678) = .ok (.vaddi ⟨true, 3⟩ 255 0 0x12345678)
    ∧ decodeWord (word 0x056 0 2 0x141 0x001 0x1A0 0x1FF 0x40) = .ok (.vcmp .gt ⟨false, 2⟩ 1 (.v 1) (.int 32))
    ∧ decodeWord (word 0x058 0 0 0x001 0x142 0x003 0x1BF 0) = .ok (.vsel all 1 2 (.v 3) (.int 63))
    ∧ decodeWord (word 0x05C 0 0 0x001 0x002 0x1A8 0x1A4 0x300) = .ok (.vbfe true all 1 2 (.int 40) (.int 36))
    ∧ decodeWord (word 0x05E 0 0 0x002 0x004 0x105 0x1FF 0) = .ok (.vadd64 all 2 (.v 4) (.s 5))
    ∧ decodeWord (word 0x062 0 0 0x141 0x142 0x143 0x1FF 0) = .ok (.pand all 1 2 3) := by decide +kernel
/-- 05 Tables 5.12 and 5.13. -/
theorem test_decode_float : decodeWord (word 0x0C1 0 0 0x001 0x002 0x1C4 0x1FF 0x4000) = .ok (.vfsub .sr all 1 (.v 2) (.flt 4))
    ∧ decodeWord (word 0x0C8 0 0 0x147 0x001 0x002 0x1FF 0x60) = .ok (.vfcmp .un all 7 (.v 1) (.v 2))
    ∧ decodeWord (word 0x0D1 0 0 0x001 0x102 0x1FF 0x1FF 0x3000) = .ok (.vfcospi .rd all 1 (.s 2))
    ∧ decodeWord (word 0x140 0 0 0x002 0x001 0x003 0x19F 0) = .ok (.vshfl all 2 1 (.v 3) (.int 31))
    ∧ decodeWord (word 0x142 0 0 0x141 0x005 0x1FF 0x1FF 0x20) = .ok (.vvote all 1 (.uni 5))
    ∧ decodeWord (word 0x143 0 0 0x108 0x140 0x1FF 0x1FF 0) = .ok (.vballot all 8 0)
    ∧ decodeWord (word 0x144 0 0 0x005 0x001 0x1FF 0x1FF 0x202) = .ok (.vscan .add .i32 true all 5 1)
    ∧ decodeWord (word 0x145 0 0 0x106 0x001 0x1FF 0x1FF 0x120) = .ok (.vreduce .max .f32 all (.s 6) 1)
    ∧ decodeWord (word 0x0C0 0 0 0x001 0x002 0x1A0 0x1FF 0) = .error .reservedEnc := by decide +kernel
/-- 05 Table 5.14. -/
theorem test_decode_memory : decodeWord (word 0x160 0 1 0x004 0x002 0x1A4 0x1FF 0x314D) = .ok (.ld .b64 .global .stream (some 9) true ⟨false, 1⟩ 4 (.v 2) (.int 36))
    ∧ decodeWord (word 0x160 0 0 0x001 0x003 0x007 0x1FF 0x2C00) = .ok (.ld .b32 .window .normal none false all 1 (.w 3) (.v 7))
    ∧ decodeWord (word 0x161 0 0 0x101 0x102 0x1A0 0x1FF 0x3601) = .ok (.ldu true true .keep none true 1 2 (.int 32))
    ∧ decodeWord (word 0x162 0 0 0x1FF 0x102 0x1A0 0x003 0x2602) = .ok (.st .b32 .stash .sum true all (.s 2) (.int 32) 3)
    ∧ decodeWord (word 0x164 0 0 0x1FF 0x102 0x003 0x008 0x4300) = .ok (.stl .flt all (.s 2) (.v 3) 8)
    ∧ decodeWord (wordI 0x168 0 0 0x1FF 0x1FF 1000) = .ok (.pause 1000) := by decide +kernel
/-- 05 Table 5.15. -/
theorem test_decode_copy : decodeWord (word 0x1A0 0 0 0x005 0x102 0x103 0x1FF 0) = .ok (.tdef 5 2 3)
    ∧ decodeWord (word 0x1A3 0 0 0x005 0x102 0x1A0 0x159 0) = .ok (.cpin 5 (.s 2) (.int 32) 1)
    ∧ decodeWord (word 0x1A3 0 0 0x03F 0x00F 0x104 0x167 0xC00) = .ok (.cpin 63 (.w 15) (.s 4) 15)
    ∧ decodeWord (word 0x1A6 0 0 0x1FF 0x15A 0x1A3 0x1FF 0) = .ok (.cwait 2 (.int 35))
    ∧ decodeWord (word 0x1A9 0 0 0x101 0x102 0x103 0x1FF 0) = .ok (.pin 1 2 3)
    ∧ decodeWord (word 0x1A0 0 0 0x040 0x102 0x103 0x1FF 0) = .error .reservedEnc := by decide +kernel
/-- 05 Table 5.16. -/
theorem test_decode_grate : decodeWord (word 0x1C0 0 0 0x149 0x005 0x151 0x152 1) = .ok (.mmip true 1 (.tile 5) (.fib 1) (some 2))
    ∧ decodeWord (word 0x1C5 0 0 0x1FF 0x005 0x1FF 0x1FF 0x6000) = .ok (.mmlda .fmt false (.tile 5) none)
    ∧ decodeWord (word 0x1C7 0 0 0x1FF 0x103 0x1FF 0x1FF 2) = .ok (.vqlut true false 3)
    ∧ decodeWord (word 0x1CA 0 0 0x153 0x1A8 0x1FF 0x1FF 2) = .ok (.fbadv true 3 (.int 40))
    ∧ decodeWord (word 0x1CD 0 0 0x007 0x154 0x1FF 0x1FF 3) = .ok (.fbrd true true 7 4) := by decide +kernel
/-- 05 Table 5.17. -/
theorem test_decode_control : decodeWord (wordJ 0x1E0 0 0 0x1FF 0xFFFFF 0 0) = .ok (.br 0xFFFFF)
    ∧ decodeWord (wordJ 0x1E4 0 0 0x13F 5 0 0) = .ok (.call 63 5) ∧ decodeWord (wordJ 0x1E6 1 4 0x1FF 0 0 0) = .ok (.exit ⟨true, 4⟩)
    ∧ decodeWord (wordI 0x1E9 0 0 0x1FF 0x1FF 0xFF) = .ok (.live 255) ∧ decodeWord (wordI 0x1EB 0 0 0x1FF 0x1FF 7) = .ok (.mark 7)
    ∧ decodeWord (wordI 0x1EE 0 0 0x101 0x1FF 0x17) = .ok (.csrr 1 .clsize) ∧ decodeWord (wordI 0x1EF 0 0 0x1FF 0x105 1) = .ok (.csrw .tsp (.s 5))
    ∧ decodeWord (word 0x1EC 0 0 0x1FF 0x105 0x1FF 0x1FF 0) = .ok (.launch 5)
    ∧ decodeWord (wordI 0x1F0 0 5 0x1FF 0x1FF 0xBEEF) = .ok (.bkpt ⟨false, 5⟩ 0xBEEF)
    ∧ decodeWord (wordJ 0x1E0 0 0 0x1FF 5 1 0) = .error .reservedEnc
    ∧ decodeWord (wordI 0x1E9 0 0 0x1FF 0x1FF 0x100) = .error .reservedEnc := by decide +kernel

/-! ## Results that the spec works out -/

/-- 06 Table 6.10: lanes 0, 1, 2 and 5 on the path, v1 = 10 + LANEID and v3 = LANEID + 1. -/
def diverged (eng : Nat) : State :=
  tweak (bench eng) fun w => { withV ((List.range 32).map (fun l => (1, l, BitVec.ofNat 32 (10 + l))) ++ (List.range 32).map fun l => (3, l, BitVec.ofNat 32 (l + 1))) w with
    stack := [{ benchEntry with mask := 0x27#128 }] }
def lanes (r : Nat) (o : Option Thread) : Option (List Word) := o.map fun w => [w.vreg r 0, w.vreg r 1, w.vreg r 2, w.vreg r 5, w.vreg r 3]
theorem test_vshfl_diverged : lanes 2 (after (.vshfl all 2 1 (.v 3) (.int 31)) (diverged 1)) = some [11#32, 12#32, 0xFFFFFFFF#32, 0xFFFFFFFF#32, 0#32] := by
  decide +kernel
theorem test_vscan_diverged : lanes 4 (after (.vscan .add .i32 false all 4 1) (diverged 1)) = some [10#32, 21#32, 33#32, 48#32, 0#32]
    ∧ lanes 5 (after (.vscan .add .i32 true all 5 1) (diverged 1)) = some [0#32, 10#32, 21#32, 33#32, 0#32] := by decide +kernel
theorem test_vreduce_diverged : (after (.vreduce .add .i32 all (.s 6) 1) (diverged 1)).map (·.sreg 6) = some 48#64
    ∧ (after (.vballot all 8 0) (diverged 1)).map (fun w => (w.sreg 8, w.sreg 9)) = some (0x27#64, 0#64) := by decide +kernel
/-- 06, "An order-independent reduction". -/
theorem test_vreduce_order : (after (.vreduce .add .f32 all (.v 7) 0) (tweak (bench 1) fun w => { withV [(0, 0, 0x4B800000#32), (0, 1, 0x3F800000#32), (0, 2, 0xCB800000#32)] w with
      stack := [{ benchEntry with mask := 7#128 }] })).map (fun w => (w.vreg 7 0, w.vreg 7 2, w.stack.map (·.flg))) = some (0x3F800000#32, 0x3F800000#32, [0#5])
    ∧ (after (.vreduce .add .f32 all (.v 7) 0) (tweak (bench 1) fun w => { withV [(0, 0, 0x3F800000#32), (0, 1, 0x1C800000#32)] w with
      stack := [{ benchEntry with mask := 3#128 }] })).map (fun w => (w.vreg 7 0, w.stack.map (·.flg))) = some (0x3F800000#32, [0x10#5]) := by decide +kernel
/-- 06 Table 6.12's VCVT: 1.5 and 480 become 0x3C and, saturated, 0x7E, with OF and NX. -/
theorem test_vcvt_pair : (after (.vcvt .rne .e4m3 .f32 all 10 (.v 2)) (tweak (lone 1) (withV [(2, 0, 0x3FC00000#32), (3, 0, 0x43F00000#32)]))).map
    (fun w => (w.vreg 10 0, w.stack.map (·.flg))) = some (0x7E3C#32, [0x14#5]) := by decide +kernel
/-- 03 R41: lane 5 of wave 2 in group 3, four waves of 32 lanes a group. -/
theorem test_gkey : benchDesc.lanes = 32 ∧ waveKey { benchGrid with pkt := { benchGrid.pkt with vm1 := 3 } } 3 2 + 5 = 453 := by decide +kernel
theorem test_sadd_wraps : (after (.sadd 2 (.s 2) (.int 33)) (tweak (bench 0) (withS [(2, 0xFFFFFFFFFFFFFFFF#64)]))).map (·.sreg 2) = some 0#64 := by
  decide +kernel
theorem test_smulh_signed : (after (.smulh 1 (.s 2) (.s 3)) (tweak (bench 0) (withS [(2, 0x8000000000000000#64), (3, 2#64)]))).map (·.sreg 1) = some 0xFFFFFFFFFFFFFFFF#64 := by
  decide +kernel
theorem test_saddi_extends : (after (.saddi 1 2 0xFFFFFFF8#32) (tweak (bench 0) (withS [(2, 8#64)]))).map (·.sreg 1) = some 0#64 := by decide +kernel
theorem test_ssub_order : (after (.ssub 1 (.s 2) (.int 33)) (tweak (bench 0) (withS [(2, 5#64)]))).map (·.sreg 1) = some 4#64 := by decide +kernel
/-- 02 Table 2.8: block 0 added to 1.0. -/
theorem test_kblock : gCell 0 0 0 ([(0, 0x7E, 0x7E), (0, 0x0E, 0x08), (0, 0x8E, 0x0C), (0, 0x01, 0x08)] ++ (List.range 27).map fun _ => (0, 0x30, 0x3A)) 0x3F800000
    = (0x48440478, 0x10#5) := by decide +kernel
/-- 09 Table 9.9: column 5 of row 0. -/
theorem test_row_merger : gCell 0 0 0 [(0, 0x40, 0x44), (1, 0xB8, 0x4C), (1, 0x30, 0x00)] 0 = (0, flNone)
    ∧ gMembers 0 0 [(1, 0x40), (33, 0x30)] (fun k => if k = 1 then some 0x38 else none) = [(0, 0x40, 0x38)] := by decide +kernel
/-- 09 Table 9.11. -/
def drained (relu : Bool) : Drain where
  acc := 0
  ef := 0
  rnd := .rne
  relu := relu
  f32 := true
  sa := some 0x3B000000
  sb := some (0x3FC00000 + 0xBF800000 * 2 ^ 32)
  bias := some (0xC2C80000 + 0xC2C80000 * 2 ^ 32)
  sr := fun _ => 0
theorem test_drain_relu : drainElem (drained true) 0 0 0x48440478 = (0x7E, 0x14#5) ∧ (drainElem (drained true) 0 1 0x48440478).1 = 0 := by decide +kernel
theorem test_drain_plain : drainElem (drained false) 0 1 0x48440478 = (0xFE, 0x14#5) := by decide +kernel
/-- 02 R19: entry bits [2:0] = 7 and sign bits of one negative element make weights -4 and, in element 7, a negative one. -/
theorem test_vq2 : vqWeight [(4096 + 5, 7#32)] 0x8105 0 = 0xC8 ∧ vqWeight [(4096 + 5, 7#32)] 0x8105 1 = 0x30 ∧ vqWeight [(4096 + 5, 7#32)] 0x8105 7 = 0xB0 := by
  decide +kernel
/-- 19, the example of the walk: a leaf of level 1. -/
theorem test_walk : ((State.reset.writeBytes (0x10000 + 8 * 0) (leBytes 8 0x8000000000020000)).writeBytes (0x20000 + 8 * 0x1000)
      (leBytes 8 (2 ^ 63 + 2 ^ 62 + 0x804000000))).walk 0x4000010200 0x10000 0 4
    = (.ok 0x804010200 (BitVec.ofNat 64 (2 ^ 63 + 2 ^ 62 + 0x804000000)), 1, BitVec.ofNat 64 (2 ^ 63 + 2 ^ 62 + 0x804000000)) := by decide +kernel
/-- 13, the example of private memory: offset 0x24 of the lane with key 37. -/
theorem test_private : benchGrid.pkt.pbase = 0x100000#64 ∧ privateVa { benchGrid with pkt := { benchGrid.pkt with privsz := 256 } } 37 0x24 = 0x100000#64 + 132180#64 := by
  decide +kernel

/-! ## Witnesses: where an instruction waits or traps -/

/-- A context in STRICT mode, with nothing left of its commit log, with its recording on and its ring out of reach. -/
def strictly (s : State) : State := s.modContext 1 fun x => { x with ctxcfg := 1#64 }
def logless (s : State) : State := s.modContext 1 fun x => { x with clsize := 64#64 }
def unheard : State := afar ((recordingOn 8192#64).modDie 0 fun d => { d with rring := ⟨0x4000000000#64, 8192#64⟩ })
/-- Lane 0 of a memory instruction, where recording is on and the ring is full, or is out of reach. -/
def loneOn (s : State) : State := tweak s fun w => { w with stack := [{ benchEntry with mask := 1#128 }], clause := some (benchClause 2) }

theorem wit_SpecialReads_values : (bench 0).grid? (wv (bench 0)).grid = some benchGrid ∧ (bench 0).group? (wv (bench 0)).group = some benchGroup := by
  decide +kernel

theorem wit_ScalarLoads_strict :
    (On (strictly (spoiled top 0x7FFFFF8)) (.sld false true 1 2 (.int 32))
      ∧ (strictly (spoiled top 0x7FFFFF8)).access 16 1 0x3FFFFF8#64 .read = .ok (0x7FFFFF8, leaf)
      ∧ ((strictly (spoiled top 0x7FFFFF8)).rangeLost 0x7FFFFF8 8).isSome = true
      ∧ (strictly (spoiled top 0x7FFFFF8)).strictAt (wv top) leaf = true
      ∧ (strictly (spoiled top 0x7FFFFF8)).trapReached (wv (strictly (spoiled top 0x7FFFFF8))) .memerr = true)
    ∧ (let s := tweak (strictly (spoiled top 0x7FFFFF8)) fun w => { w with tsp := 64#64 }
       On (afar s) (.sld false true 1 2 (.int 32)) ∧ (afar s).trapReached (wv s) .memerr = false
       ∧ (afar s).walkReached 16 1 0x3FFFFF8#64 = false) := by
  and_intros <;> first | exact on (by decide +kernel) | decide +kernel

theorem wit_PendingStores_traps :
    (let s := tweak (lone 2) (withS [(2, 0x4000000#64)])
     On s (.st .b32 .global .lo false all (.s 2) (.int 32) 4) ∧ s.access 16 1 0x4000000#64 .write = .error .page
      ∧ s.walkReached 16 1 0x4000000#64 = true
      ∧ ((partLanes (wv s) (path s) all).filter fun _ => decide (s.access 16 1 0x4000000#64 .write = .error .page)).head? = some 0)
    ∧ (On (logless (lone 2)) (.st .b128 .global .lo false all (.s 2) (.int 32) 4) ∧ (logless (lone 2)).logFree 1 = 1)
    ∧ (On (loneOn ringIsFull) (.st .b32 .global .any false all (.s 2) (.int 32) 4) ∧ (loneOn ringIsFull).recording 1 = true
      ∧ (loneOn ringIsFull).ringFull 0 32 = true ∧ (loneOn ringIsFull).ringOpen 0 .resolution = true ∧ 1 ≤ (loneOn ringIsFull).logFree 1)
    ∧ (On (loneOn (recordingOn 8192#64)) (.stf .b32 true .any false all 6 (.s 2) (.int 32) 4)
      ∧ (loneOn (recordingOn 8192#64)).ringFull 0 32 = false ∧ (loneOn (recordingOn 8192#64)).ringOpen 0 .resolution = true)
    ∧ (On (loneOn unheard) (.st .b32 .stash .any false all (.s 2) (.int 32) 4) ∧ (loneOn unheard).recording 1 = true
      ∧ (loneOn unheard).ringOpen 0 .resolution = false)
    ∧ (On (tweak (lone 2) (withS [(2, 0x80000#64)])) (.st .b32 .stash .lo false all (.s 2) (.int 32) 4)
      ∧ benchGrid.stashBytes < 0x80000 + 4)
    ∧ (let s := (tiled (lone 2)).modGroup 1 fun p => p.setTile 7 ((p.tile 7).change 0 .filling)
       On (tweak s (withS [(2, BitVec.ofNat 64 ((group1 s).tile 7).base)])) (.st .b32 .stash .lo false all (.s 2) (.int 32) 4)
       ∧ ((group1 s).tile 7).base + 4 ≤ benchGrid.stashBytes ∧ (group1 s).busyAt 0 ((group1 s).tile 7).base 4 = true) := by
  and_intros <;> first | exact on (by decide +kernel) | decide +kernel

/-- Lane 0 of private space on a TWIN page. -/
def privTwin : State := (lone 2).writeBytes 0x20000 (leBytes 8 0xE000000004000000)

theorem wit_PrivateStores_twin :
    On privTwin (.st .b32 .priv .lo false all (.s 2) (.int 32) 4)
    ∧ privTwin.privPa (wv privTwin) 0 0 4 .write = .ok (0x4100000, 0xE000000004000000#64) ∧ leafTwin 0xE000000004000000#64 = true
    ∧ privTwin.privReached (wv privTwin) 0x100000#64 4 = true ∧ privTwin.caches.l1 = [] ∧ privTwin.linkDown 0x4100000 = false ∧ privTwin.badMem = [] ∧ privTwin.badL3 = [] :=
  ⟨on (by decide +kernel), by decide +kernel⟩

theorem wit_LinesLand_refused :
    (flying (.cpout .lo true) (2 ^ 51)).lineReached 0 (copy (.cpout .lo true) (2 ^ 51)) 0 = true
    ∧ portless.lineReached 0 (copy (.cpout .lo true) (2 ^ 51)) 0 = false ∧ (flying .cpin 0).strict 1 = false
    ∧ (strictly (flying (.cpout .lo true) (2 ^ 51))).strict 1 = true := by
  decide +kernel

theorem wit_CopiesStart_traps :
    (let s := tweak (tiled (bench 3)) (withS [(2, 0x3FFFFC0#64)])
     On s (.cpin 7 (.s 2) (.int 32) 0) ∧ ((group1 s).tile 7).bytes = 128 ∧ s.cpinReached (wv s) (.s 2) 0#64 1 = true
      ∧ (firstOwn ((s.cpinLines (wv s) (.s 2) 0#64 1).flatMap readErrs)).isSome = true)
    ∧ (let s := tweak (tiled (bench 3)) (withS [(2, 0x4000000#64)])
       On s (.cpout .any false true 2 8 15) ∧ s.walkReached 16 1 0x4000000#64 = true ∧ ((group1 s).tile 8).bytes = 128
        ∧ (firstOwn (readErrs [s.cpoutLine (wv s) .any 0x4000000#64])).isSome = true)
    ∧ (let s := tweak (tiled (bench 3)) (withS [(2, 64#64)])
       On s (.cpout .any false true 2 8 15) ∧ 64 % 128 ≠ 0) := by
  and_intros <;> first | exact on (by decide +kernel) | decide +kernel

/-- A context that holds 32 ranges, none of which has number 0. -/
def pinned : Context := { benchContext with pins := (List.range 32).map fun k => (k + 1, ⟨0#64, 0, 1, 1, false, 0#64⟩) }

theorem wit_Pins_walks :
    (let s := pinning (afar (bench 3)) 0x10000
     On s (.pin 1 2 4) ∧ s.walkReached 16 1 0x10000#64 = false)
    ∧ (let s := (pinning (bench 3) 0x10000).setContext 1 pinned
       On s (.pin 1 2 4) ∧ s.context? 1 = some pinned ∧ aget? pinned.pins 0 = none ∧ s.walkReached 16 1 0x10000#64 = true
        ∧ s.pinFits 0 1 pinned 0x10000#64 0x10000 = false) := by
  and_intros <;> first | exact on (by decide +kernel) | decide +kernel

theorem wit_CloseEffects_waits :
    (On (afar (bench 3)) (.wbind 0 2) ∧ (afar (bench 3)).walkReached 16 1 0#64 = false) ∧ (ahead 3).gridReadWaits (wv (ahead 3)) (path (ahead 3)) = true
    ∧ (ahead 3).access 16 1 0#64 .read = .ok (0x4000000, leaf) ∧ (ahead 3).walkReached 16 1 0#64 = true
    ∧ On (tweak (bench 3) (withS [(2, 16#64)])) (.wbind 0 2) ∧ On (tweak (bench 5) (withS [(2, 64#64)])) (.launch 2) := by
  and_intros <;> first | exact on (by decide +kernel) | decide +kernel

theorem wit_Fibres_busy :
    let s := (tiled (fibred 4)).modGroup 1 fun p => p.setTile 7 ((p.tile 7).change 0 .filling)
    let b := ((group1 s).tile 7).base
    let s := tweak s fun w => w.setF 1 (fibreOf b b 3 0 true true false 0)
    On s (.fbadv true 1 (.int 40)) ∧ On s (.fbrd false false 1 1) ∧ (group1 s).rangeBusy b 6 = true
    ∧ fbOpen ((wv s).freg 1) = true ∧ fbStash ((wv s).freg 1) = true ∧ fbLen ((wv s).freg 1) = 3
    ∧ (let f := (wv s).freg 1
       (crdRange f 0 1).1 = b ∧ (group1 s).busyAt 0 (crdRange f 0 1).1 (crdRange f 0 1).2 = true)
    ∧ (let s := tweak s fun w => { w with stack := [{ benchEntry with wstep := 1#32 }] }
       On s (.fbadv true 1 (.int 40)) ∧ On s (.fbrd false false 1 1) ∧ s.groupReadWaits (wv s) (path s) = true) := by
  and_intros <;> first | exact on (by decide +kernel) | decide +kernel

/-! ## Witnesses: the checks at issue, frames and clauses -/

/-- The wave issues, whatever becomes of its registers. -/
def At (s : State) : Prop :=
  s.cur = some 1 ∧ s.thread? 1 = some (wv s) ∧ s.path? (wv s) = some (path s) ∧ (wv s).clause = some (clause s) ∧ s.grid? (wv s).grid = some benchGrid

theorem wit_TakingATrap_checks :
    (At (bench 1) ∧ (uses (.setfmt 0)).vr = [])
    ∧ (let s := (bench 1).setGrid 1 { benchGrid with desc := { benchDesc with vregs := 2, sregs := 1 } }
       s.grid? 1 = some { benchGrid with desc := { benchDesc with vregs := 2, sregs := 1 } }
        ∧ (∃ r ∈ (uses (.vadd all 16 (.v 0) (.v 1))).vw, 8 * 2 ≤ r) ∧ ∃ r ∈ (uses (.sadd 8 (.s 0) (.int 32))).sw, 8 * 1 ≤ r)
    ∧ (let s := (bench 2).modThread 1 fun w => { w with clause := some { benchClause 2 with sb := false } }
       At s ∧ qselOf (.ld .b32 .global .normal none true all 1 (.s 2) (.int 32)) = some true ∧ (clause s).flag true = none)
    ∧ (At (emberAt 3) ∧ (wv (emberAt 3)).ember.isSome = true ∧ engineOf (.tfree 1) = some 3 ∧ engineOf (.mmzero false 0) = some 4
      ∧ (uses (.sadd 1 (.s 2) (.int 32))).sw = [1])
    ∧ (At (inHandler 2) ∧ (wv (inHandler 2)).handler = true ∧ Instr.stepw.encoded = true)
    ∧ (At (bench 5) ∧ needsHandler (.csrr 1 .tba) = false ∧ needsHandler .rte = true)
    ∧ (At outstanding ∧ opLoad ∈ (wv outstanding).ops ∧ opLoadS ∈ (wv outstanding).ops ∧ (clause outstanding).wait.getLsbD 0 = false
      ∧ 1 ∈ (uses (.vadd all 2 (.v 1) (.v 1))).vr ∧ 3 ∈ (uses (.sadd 1 (.s 3) (.int 32))).sr)
    ∧ (let s := strictly (tweak (bench 1) fun w => { w with badV := [vix 1 3] })
       At s ∧ s.strict 1 = true ∧ maskOf ((lanesOf (path s).mask).filter fun l =>
        (uses (.vadd all 2 (.v 1) (.v 1))).vr.any fun r => (wv s).badV.contains (vix r l)) = 8#128)
    ∧ (let s := strictly (tweak (bench 0) fun w => { w with badS := [3] })
       At s ∧ s.strict 1 = true ∧ 3 ∈ (wv s).badS) := by
  unfold At
  and_intros <;> decide +kernel

/-- The frame of a clause at 0x1000, and a handler at TSP 0 whose TRAPPC stands in that clause, of three instructions. -/
def frameOf (exec flags : Nat) : List Byte := leBytes 64 (0x1000 + exec * 2 ^ 64 + flags * 2 ^ 192)
def midClause : State :=
  tweak ((inHandler 5).writeBytes 0x4001000 (leBytes 8 (header + 2 ^ 49))) fun w => { w with trappc := 0x1010#64, tsp := 0#64 }
/-- The frame in memory, its EXEC as given. -/
def framed (exec flags : Nat) (s : State) : State :=
  ([(0x4100000, 0), (0x4100200, 16), (0x4100400, 32), (0x4100600, 48)] : List (Nat × Nat)).foldl
    (fun s x => s.writeBytes x.1 (((frameOf exec flags).drop x.2).take 16)) s
/-- The stack of a path whose lanes end: a waiting path beneath it and their join. -/
def below : State := tweak midClause fun w => { w with stack := [inner, { inner with st := .waiting, mask := 0x200#128 }, joining] }

theorem wit_Returns_clause :
    (let s := framed 0xF (2 ^ 21) midClause
     let pas := [0x4100000, 0x4100200, 0x4100400, 0x4100600]
     On s .rte ∧ (s.framePas (wv s) 0 .read).toOption = some pas ∧ (wv s).susp = none
      ∧ leNat (pas.flatMap fun pa => s.privRead (wv s) pa 16) % 2 ^ 64 = 0x1000
      ∧ BitVec.ofNat 128 (leNat (pas.flatMap fun pa => s.privRead (wv s) pa 16) / 2 ^ 64) &&& ~~~(wv s).exited = 0xF#128
      ∧ (s.noteFrameLost (wv s) 0 pas).codeWord (wv s) 0x1000#64 = .ok (BitVec.ofNat 64 (header + 2 ^ 49))
      ∧ bits (header + 2 ^ 49) 55 9 = 0x1FF ∧ (wv s).trappc = 0x1010#64 ∧ 2 ≤ bits (header + 2 ^ 49) 48 4 + 1
      ∧ s.caches.l1 = [] ∧ s.badMem = [] ∧ s.badL3 = [] ∧ s.ports.all (fun y => y.up || y.cap == 0) = true)
    ∧ (let s := framed 0 0 below
       let pas := [0x4100000, 0x4100200, 0x4100400, 0x4100600]
       On s .rte ∧ (s.framePas (wv s) 0 .read).toOption = some pas ∧ s.frameReached (wv s) 0 = true
        ∧ BitVec.ofNat 128 (leNat (pas.flatMap fun pa => s.privRead (wv s) pa 16) / 2 ^ 64) &&& ~~~(wv s).exited = 0#128
        ∧ (wv s).stack = path s :: { inner with st := .waiting, mask := 0x200#128 } :: joining :: [] ∧ joining.pc = inner.join)
    ∧ (let s := tweak (bench 5) fun w => { w with spilled := 1 }
       (afar s).refillReached (wv s) = false ∧ s.refillReached (wv s) = true)
    ∧ ((wv onPath).susp = some ⟨[benchEntry], 0⟩ ∧ (wv onPath).owed = []) := by
  and_intros <;> first | exact on (by decide +kernel) | decide +kernel

/-- The bench with a liveness table that runs over two granules, and one that runs past the mapping. -/
def crossing (ltab : DWord) (s : State) : State := s.setGrid 1 { benchGrid with desc := { benchDesc with ltab := ltab, lcount := 1 } }

theorem wit_SystemRegisters_pages :
    (let s := crossing 0xFFE0#64 (bench 5)
     On s (.live 0) ∧ (∀ p ∈ rangePages 0xFFE0#64 64, s.pageReached 16 1 p.1 = true) ∧ (rangePages 0xFFE0#64 64).map (·.1) = [0xFFE0#64, 0x10000#64]
      ∧ (s.ctxBytes (wv s) 0xFFE0#64 64).isOk = true
      ∧ s.access 16 1 0xFFE0#64 .read = .ok (0x400FFE0, leaf) ∧ s.access 16 1 0x10000#64 .read = .ok (0x4010000, leaf))
    ∧ (let s := crossing 0x3FFFFE0#64 (bench 5)
       On s (.live 0) ∧ (∀ p ∈ rangePages 0x3FFFFE0#64 64, s.pageReached 16 1 p.1 = true)
        ∧ (match s.ctxBytes (wv s) 0x3FFFFE0#64 64 with | .error x => some x | .ok _ => none) = some (.page, 0x4000000#64))
    ∧ (let s := afar (crossing 0xFFE0#64 (bench 5))
       On s (.live 0) ∧ ¬ ∀ p ∈ rangePages 0xFFE0#64 64, s.pageReached 16 1 p.1 = true)
    ∧ (On unheard (.mark 7) ∧ unheard.recording 1 = true ∧ unheard.ringOpen 0 .resolution = false)
    ∧ (recordingOn 8192#64).ringOpen 0 .resolution = true := by
  and_intros <;> first | exact on (by decide +kernel) | decide +kernel

theorem wit_Steps_refill :
    (let s := afar (tweak (bench 2) fun w => { w with spilled := 1 })
     On s .stepg ∧ s.refillReached (wv s) = false ∧ (wv s).held = [] ∧ (wv s).owed = [])
    ∧ (let s := afar (tweak (stacked [inner, joining] 0) fun w => { w with spilled := 1 })
       On s .join ∧ canPark (s.entries (wv s)) = true ∧ s.refillReached (wv s) = false) := by
  and_intros <;> first | exact on (by decide +kernel) | decide +kernel

/-- The waiting lanes of an ejected group: lane 1's register is still pending. -/
def pairGroup : State :=
  let s := (emberPair .waiting).setThread 9 { benchThread 0 with clause := none, ops := [{ opLoad with kind := .load [(vix 1 1, 7#32)] }] }
  s.setThread 2 { wv s with ember := some ⟨0, 0, 0, 9, 1, .waiting, [], false⟩ }
/-- A wave that owes a trap at a flag on which the clause there waits. -/
def flagOwed : State := tweak (boundary waitsOn) fun w => w.owe [⟨.memerr, 0#64, 1#128⟩] (.flag 0)
/-- The wave's place in no mapped page, and its frames out of reach. -/
def lostCode : State := tweak (boundary 0) fun w => { w with stack := [{ benchEntry with pc := fieldOf 0x4000000#64 }] }

theorem wit_ClausesAndEmbers_more :
    (∃ y ∈ pairGroup.threads, ∃ k, y.2.ember = some k ∧ k.parent = 9 ∧ k.batch = 0
      ∧ ({ benchThread 0 with clause := none, ops := [{ opLoad with kind := .load [(vix 1 1, 7#32)] }] } : Thread).awaits y.2.live k.lane = true)
    ∧ (Turn flagOwed ∧ (path (granted flagOwed)).pc ≠ (path (granted flagOwed)).join
      ∧ (granted flagOwed).codeWord (wv (granted flagOwed)) 0x1010#64 = .ok (BitVec.ofNat 64 waitsOn)
      ∧ ((granted flagOwed).pastSlot (wv (granted flagOwed))).waitBusy 1 (wv (granted flagOwed)) 1#12 = false
      ∧ (firstOwed ((wv (granted flagOwed)).owed.filter fun o => !(wv (granted flagOwed)).handler && o.atWait 1#12)).isSome = true
      ∧ ((granted flagOwed).pastSlot (wv (granted flagOwed))).opensStep (wv (granted flagOwed)) 0x1010#64 = false
      ∧ ((granted flagOwed).pastSlot (wv (granted flagOwed))).trapReached (wv (granted flagOwed)) .memerr = true)
    ∧ (Turn lostCode ∧ (path (granted lostCode)).pc ≠ (path (granted lostCode)).join ∧ (wv (granted lostCode)).owed = []
      ∧ (granted lostCode).codeWord (wv (granted lostCode)) 0x4000000#64 = .error .page)
    ∧ (let s := afar (tweak ((emberPair .rejoining).setThread 9 { benchThread 0 with clause := none, spilled := 1 }) id)
       s.thread? 9 = some { benchThread 0 with clause := none, spilled := 1 } ∧ s.refillReached { benchThread 0 with clause := none, spilled := 1 } = false) := by
  refine ⟨?_, ?_⟩
  · simp only [List.exists_mem_iff_getElem]
    decide +kernel
  unfold Turn
  and_intros <;> decide +kernel

/-! ## Witnesses: closes, watchdogs, launches, commands and units -/

/-- A 4-bit store of half h, an ANY store of one line, a SUM store of eight bytes, one of four F32 bytes, and their regions. -/
def half (key : Nat) (h : Bool) (b : Byte) : PWrite := { store .lo key b with nib := some h, data := [b] }
def cell (ty : SumTy) (n key : Nat) : PWrite := { store .sum key 1#8 with sum := some ty, data := List.replicate n 1#8 }
def shuts (det : Bool) : Closing := { (bench 0).closing benchGrid 0#32 false with det := det }

theorem wit_StoreRules_more :
    ((∀ p ∈ [half 1 true 3#8, half 2 true 4#8], p.nib.isSome = true ∧ p.rule = .lo ∧ p.lost = false)
      ∧ (half 1 true 3#8).w.lt (half 2 true 4#8).w = true ∧ (half 1 true 3#8).nib = some true)
    ∧ (∀ p ∈ [half 1 true 3#8], p.nib ≠ some false)
    ∧ ((shuts true).det = true ∧ (∀ p ∈ [store .any 0 1#8, store .any 1 2#8], p.rule = .any ∧ p.nib = none ∧ p.lost = false
        ∧ p.pa / 128 = (p.pa + p.data.length - 1) / 128) ∧ (store .any 0 1#8).w.lt (store .any 1 2#8).w = true)
    ∧ ((store .lo 0 1#8).at 0x4000000 ∧ (store .sum 1 1#8).at 0x4000000 ∧ (store .lo 0 1#8).rule ≠ (store .sum 1 1#8).rule
      ∧ (store .sum 1 1#8).pa % (store .sum 1 1#8).data.length = 0 ∧ (store .sum 1 1#8).data.length = 4)
    ∧ (∀ p ∈ [cell .i64 8 0, cell .i64 8 1], p.rule = .sum ∧ p.sum = some .i64 ∧ p.data.length = 8 ∧ p.pa % 8 = 0)
    ∧ (∀ p ∈ [cell .f32 4 0, cell .f32 4 1], p.rule = .sum ∧ p.sum = some .f32 ∧ p.data.length = 4 ∧ p.pa % 4 = 0) := by
  unfold PWrite.at
  decide +kernel

theorem wit_Watchdogs_together :
    ((late.watchdogDue true 1) ≠ [] ∧ late.hangDue (late.domainCtx true 1) = true)
    ∧ (let s := { late with time := 0#64 }
       (s.watchdogDue true 1).map (·.1) = [1] ∧ s.watchdogDue false 1 = [(1, 0xFFFFFFFF#128)] ∧ s.hangDue (s.domainCtx true 1) = false
        ∧ s.hangDue (s.domainCtx false 1) = false ∧ (wv s).owed = [])
    ∧ (let s := { lateAway with time := 0#64 }
       s.hangDue (s.domainCtx true 1) = false ∧ (s.watchdogDue true 1).map (·.1) = [1] ∧ s.path? (wv s) = none
        ∧ s.trapReached (wv s) .stepWatchdog = true ∧ (wv s).owed = [] ∧ (wv s).halted = false)
    ∧ (let s := afar { tweak lateAway (fun w => { w with tsp := 64#64 }) with time := 0#64 }
       s.hangDue (s.domainCtx true 1) = false ∧ (s.watchdogDue true 1).map (·.1) = [1] ∧ s.path? (wv s) = none
        ∧ s.trapReached (wv s) .stepWatchdog = false)
    ∧ (let s := tweak (lateAway) fun w => w.owe [⟨.stepWatchdog, 0#64, 1#128⟩] .wave
       s.hangDue 1 = true ∧ ∃ o ∈ (wv s).owed, o.info.cause = .stepWatchdog)
    ∧ (let s := afar (tweak rejoining fun w => { w with tsp := 64#64 })
       s.rejoinDue (wv s) = true ∧ s.trapReached (wv s) .rejoinTimeout = false) := by
  and_intros <;> decide +kernel

/-- What the launch of a packet finds. -/
def found (s : State) : Option (List Byte × List Byte) :=
  match s.pickHead, s.context? 1 with
  | some (_, _, _, h), some x => s.launchReads 1 (s.launchDie x) h
  | _, _ => none
def verdict (s : State) : Option Nat :=
  match s.pickHead, s.context? 1 with
  | some (c, q, _, h), some x => (match s.checkPacket c q x h with | .error k => some k | .ok _ => none)
  | _, _ => none
/-- The packet, of a kernel whose descriptor stands in no mapped page; and one of a die that the context has not. -/
def lostKernel : List Byte := leBytes 128 (0x4000000 + 32 * 2 ^ 320 + (2 ^ 48 + 2 ^ 18 + 16 * 2 ^ 33) * 2 ^ 384)

theorem wit_Launching_checks :
    found (launching lostKernel) = none ∧ (found (launching packet)).isSome = true ∧ verdict (launching packet) = none
    ∧ verdict (launching (List.replicate 128 0#8)) = some 0x0010
    ∧ (done.gridDone 1 = true ∧ benchGrid.pkt.cpladdr = 0#64 ∧ benchGrid.pend = [] ∧ done.twins = [] ∧ done.peersIn = [] ∧ done.badMem = []
      ∧ done.badL3 = [])
    ∧ (let g := { benchGrid with pkt := { benchPacket with cpladdr := 0x8000#64 } }
       let s := done.setGrid 1 g
       s.gridDone 1 = true ∧ s.pageReached 0 1 0x8000#64 = true ∧ s.access 0 1 0x8000#64 .write = .ok (0x4008000, leaf) ∧ s.linkDown 0x4008000 = false
        ∧ (afar s).gridDone 1 = true ∧ (afar s).pageReached 0 1 0x8000#64 = false) := by
  and_intros <;> decide +kernel

theorem wit_Commands_reach :
    (let s := afar (up (bench 0))
     s.opReached 0 0x4000000000#64 = false ∧ s.holdsMemory 0x4000000000 = true ∧ s.countsReached 0 0x4000000000#64 = false
      ∧ s.flashReached 0 0x4000000000#64 0x1000 = false)
    ∧ ((up (bench 0)).opReached 0 0x8000#64 = true ∧ (up (bench 0)).countsReached 0 0x8000#64 = true
      ∧ (up (bench 0)).flashReached 0 0x8000#64 0x1000 = true)
    ∧ (0x1000 % 4096 = 0 ∧ 8192 = 2 ^ 13
      ∧ (let s := (up (bench 0)).modDie 0 fun d => { d with nlost := 3, nring := ⟨0x1000#64, 8192#64⟩ }
         (s.die 0).nlost ≠ 0 ∧ s.ringOpen 0 .notify = true)
      ∧ (let s := (afar (up (bench 0))).modDie 0 fun d => { d with nlost := 3, nring := ⟨0x4000000000#64, 8192#64⟩ }
         (s.die 0).nlost ≠ 0 ∧ s.ringOpen 0 .notify = false))
    ∧ ((stopping true 0#64).areaReached 1#16 0x8000#64 ((stopping true 0#64).imageBytes [1]) = true
      ∧ (afar (stopping true 0#64)).areaReached 1#16 0x4000000000#64 ((stopping true 0#64).imageBytes [1]) = false)
    ∧ (imaged true false).areaReached saveImage.dies 0x8000#64 saveImage.bytes = true := by
  decide +kernel

/-- The peer line of a transfer that has arrived whole, and the flue die stopped. -/
def arrived : State := { bench 0 with peersIn := [⟨1, 0, 0x4000000, false, List.replicate 128 5#8, 7, true⟩] }

def stopFlue (f : Flue) : Flue := { f with mode := .tripped }

theorem wit_Units_lines :
    (let s := { inboxed with flues := inboxed.flues.map stopFlue }
     s.flueRuns 0 = false ∧ (s.flue 0).peerUp = true)
    ∧ (inboxed.flueRuns 0 = true ∧ (List.replicate 128 0#8).length = 128 ∧ (bench 0).inboxPlace 0 = none)
    ∧ (arrived.badMem = [] ∧ arrived.badL3 = [] ∧ (∀ l ∈ arrived.peersIn.filter fun l => decide (l.ctx = 1 ∧ l.whole = true),
        l.data.length = 128 ∧ arrived.linkDown l.pa = false) ∧ arrived.holdsMemory 0x400007F = true)
    ∧ (let s := { bench 0 with flues := (bench 0).flues.map stopFlue }
       s.flueRuns (15 / 4) = false ∧ 15 < s.hbm.length) := by
  decide +kernel

/-! ## The caches -/

/-- An empty L1 has nothing to write back. -/
theorem bare {s : State} (h : s.caches.l1 = []) : s.writesWhole := by intro x hx; rw [h] at hx; exact absurd hx (by simp)

/-- The bench with the line of address 0 in its hearth's L1, as ones, and lane 0's first private line, its first granule dirty over
sevens, with a word of it lost where `bad` is. -/
def line0 : L1Line := ⟨0x80000, false, List.replicate 128 1#8, [], []⟩
def line1 (bad : List Nat) : L1Line := ⟨0x82000, true, [], [⟨0x4100000, 0x100000#64, 1, 1, 0, 0#32, List.replicate 16 7#8⟩], bad⟩
def cached (s : State) (bad : List Nat) : State := { s with caches := { s.caches with l1 := [(16, [line0, line1 bad])] } }

/-- The first level that holds the line answers, whatever memory holds (13 R277). -/
theorem test_l1_answers : (after (.sld false false 1 2 (.int 32)) (cached (bench 0) [])).map (·.sreg 1) = some 0x01010101#64 := by
  decide +kernel
/-- A lost word of a dirty private line reads zero, under SRC 10 (23 Table 23.1). -/
theorem test_dirty_lost :
    tget 0 ((next (.sld true true 1 2 (.int 32)) (cached (bench 0) [0x820000])).die 0).uncorrected 10 = 1 := by decide +kernel
/-- A private store stands in the L1, with what memory holds beneath it (13 R281). -/
theorem test_private_dirty :
    let s := next (.st .b32 .priv .lo false all (.s 2) (.int 32) 4) (lone 2)
    (s.caches.l1At 16).map (fun l => (l.line, l.dirty.map (·.pa))) = [(0x82000, [0x4100000])] := by decide +kernel
/-- A .STREAM read allocates no L1 line; .KEEP marks the L2's (13 R278). -/
theorem test_stream : (next (.pref .stream none all (.s 2) (.int 32)) (lone 2)).caches.l1At 16 = [] := by decide +kernel
theorem test_keep : ((next (.pref .keep none all (.s 2) (.int 32)) (lone 2)).caches.l2At 0).map (·.kept) = [true] := by decide +kernel
/-- A close takes the global lines from every hearth's L1, and leaves the private ones (11 R262, 13 R281). -/
theorem test_drop_globals : ((cached (bench 0) []).dropGlobals []).caches.l1At 16 = [line1 []] := by decide +kernel
/-- A granule that is written back is dirty no longer; behind a downed link memory has what it held (22 R335). -/
theorem test_write_back : ((cached (bench 0) []).writeBacks fun _ d => d.of 1 0).caches.l1At 16 = [line0, { line1 [] with dirty := [] }] := by
  decide +kernel

/-- The read of a private word of the cached line, and of a global word of it. -/
def cachedUse (s : State) (priv : Bool) : LineUse :=
  if priv then privUse (wv s) true 0x100000#64 0x4100000 leaf 8 else s.globalUse (wv s) true false none 0#64 0x4000000 leaf 8

theorem wit_ScalarLoads_caches :
    (let s := cached (bench 0) []
     On s (.sld false true 1 2 (.int 32)) ∧ s.near (cachedUse s false) = true ∧ s.Finds (cachedUse s false) (List.replicate 8 1#8)
      ∧ (afar s).near (cachedUse (afar s) false) = true)
    ∧ (let s := cached (bench 0) [0x820000]
       On s (.sld true true 1 2 (.int 32)) ∧ s.near (cachedUse s true) = true ∧ s.Loses (cachedUse s true) 10 (List.replicate 8 0#8)) := by
  refine ⟨⟨on (by decide +kernel), by decide +kernel, ?_, by decide +kernel⟩, on (by decide +kernel), by decide +kernel, ?_⟩
  · have h : (cached (bench 0) []).l1Hit (cachedUse (cached (bench 0) []) false) = some line0 := by decide +kernel
    unfold State.Finds
    rw [h]
    decide +kernel
  · have h : (cached (bench 0) [0x820000]).l1Hit (cachedUse (cached (bench 0) [0x820000]) true) = some (line1 [0x820000]) := by decide +kernel
    unfold State.Loses
    rw [h]
    decide +kernel

theorem wit_HintsAndPauses_caches :
    let u := (bench 0).globalUse (wv (bench 0)) true true none 0#64 0x4000000 leaf 8
    u.priv = false ∧ u.looks = true ∧ u.puts = true ∧ u.l2 = some 0 ∧ (bench 0).l1Line? u = none ∧ (bench 0).l2Line? u = none
      ∧ (bench 0).lineWhole u = true := by decide +kernel

/-- The homes of what a hearth's L1 has of lane 0: its stack's flue die is reached, and is not. -/
theorem wit_ClausesAndEmbers_lines :
    (bench 0).lanesReached (wv (bench 0)).mmu 1 0 = true ∧ (cached (bench 0) []).lanesReached 16 1 0 = true
    ∧ (let s : State := { bench 0 with caches := { (bench 0).caches with
        l1 := [(16, [{ line1 [] with dirty := [⟨0x4000000000, 0#64, 1, 1, 0, 0#32, []⟩] }])] } }
       (afar s).lanesReached 16 1 0 = false)
    ∧ (emberPair .rejoining).lanesReached (wv (emberPair .rejoining)).mmu (wv (emberPair .rejoining)).grid
        ((emberPair .rejoining).gkey (wv (emberPair .rejoining)) 0) = true := by
  and_intros <;> decide +kernel

theorem wit_writesWhole : done.writesWhole ∧ (lone 2).writesWhole ∧ privTwin.writesWhole :=
  ⟨bare (by decide +kernel), bare (by decide +kernel), bare (by decide +kernel)⟩

end Sys2Proof.Tests
end

section
/-! SUPPORT (log 4). The canonical form of committed memory, host memory and flash as one predicate of states and outcomes, and the rules
that carry it through branches, loops and updates of other fields. -/

namespace Sys2Proof.Machine

/-- Committed memory, host memory and flash in canonical form. -/
def MemoriesCanonical (mem hostMem flash : List Host.Cell) : Prop :=
  Memory.wf mem = true ∧ Memory.wf hostMem = true ∧ Memory.wf flash = true

/-- A state that differs from a canonical one in other fields alone is canonical by definition: its proof is the other's proof. -/
def State.Canonical (s : State) : Prop := MemoriesCanonical s.mem s.hostMem s.flash

/-- An outcome whose next state, if it has one, is canonical. -/
def Out.Canonical : Out → Prop
  | .next s => s.Canonical
  | .fault _ => True
  | .refused _ => True

theorem State.canonical_iff (s : State) :
    s.Canonical ↔ Memory.wf s.mem = true ∧ Memory.wf s.hostMem = true ∧ Memory.wf s.flash = true := Iff.rfl

theorem Out.Canonical.next {s : State} {o : Out} (h : o.Canonical) (e : o = .next s) : s.Canonical := by
  subst e
  exact h

theorem Out.Canonical.ite {a b : Out} {p : Prop} [Decidable p] (h : a.Canonical) (k : b.Canonical) : (if p then a else b).Canonical := by
  split
  · exact h
  · exact k

namespace State.Canonical

/-! ## Branches, loops and updates of other fields -/

variable {α β : Type} {s a b : State}

theorem ite {p : Prop} [Decidable p] (h : a.Canonical) (k : b.Canonical) : (if p then a else b).Canonical := by
  split
  · exact h
  · exact k

/-- A branch that goes on from the state of the other branch. -/
theorem ite_right {p : Prop} [Decidable p] (h : a.Canonical) (k : a.Canonical → b.Canonical) : (if p then a else b).Canonical :=
  ite h (k h)

theorem ite_left {p : Prop} [Decidable p] (h : b.Canonical) (k : b.Canonical → a.Canonical) : (if p then a else b).Canonical :=
  ite (k h) h

theorem cur {t : Option Nat} (h : s.Canonical) : State.Canonical { s with cur := t } := h

theorem uid {n : Nat} (h : s.Canonical) : State.Canonical { s with uid := n } := h

theorem threads {l : List (Nat × Thread)} (h : s.Canonical) : State.Canonical { s with threads := l } := h

theorem saves {l : List (Nat × SaveImage)} (h : s.Canonical) : State.Canonical { s with saves := l } := h

theorem threads_cur {l : List (Nat × Thread)} {t : Option Nat} (h : s.Canonical) : State.Canonical { s with threads := l, cur := t } := h

theorem turn {n : Nat} (h : s.Canonical) : State.Canonical { s with turn := n } := h

theorem heldRecs {l : List HeldRec} (h : s.Canonical) : State.Canonical { s with heldRecs := l } := h

theorem fst_of_eq {x : State × β} {y : β} (h : x.1.Canonical) (e : x = (s, y)) : s.Canonical := by
  subst e
  exact h

theorem fst_ite {x y : State × β} {p : Prop} [Decidable p] (h : x.1.Canonical) (k : y.1.Canonical) :
    (if p then x else y).1.Canonical := by
  split
  · exact h
  · exact k

theorem foldl {f : State → α → State} {l : List α} (h : s.Canonical) (hf : ∀ {s x}, s.Canonical → (f s x).Canonical) :
    (l.foldl f s).Canonical := by
  induction l generalizing s with
  | nil => exact h
  | cons x r ih => exact ih (hf h)

/-- A loop that carries a state and something besides. -/
theorem foldl_fst {f : State × β → α → State × β} {l : List α} {x : State × β} (h : x.1.Canonical)
    (hf : ∀ {x y}, x.1.Canonical → (f x y).1.Canonical) : (l.foldl f x).1.Canonical := by
  induction l generalizing x with
  | nil => exact h
  | cons y r ih => exact ih (hf h)

end State.Canonical

end Sys2Proof.Machine
end

section
/-! SUPPORT (01 R368, log 4). Memory, the rings and the caches keep the canonical form. -/

namespace Sys2Proof.Machine.State.Canonical

variable {s : State} {d die v i x n pa ty ctx info c before src key count place k t : Nat} {b : Byte} {bs : List Byte}
  {a w1 w2 va addr : DWord} {r : Ring} {q : RingId} {p : Post} {step : Word} {u : LineUse} {w : Thread} {l : L1Line}

/-! ## Units -/

theorem modThread {g : Thread → Thread} (h : s.Canonical) : (s.modThread t g).Canonical := by
  simpa [State.canonical_iff] using h

theorem modContext {g : Context → Context} (h : s.Canonical) : (s.modContext c g).Canonical := by
  simpa [State.canonical_iff] using h

theorem modGrid {g : Grid → Grid} (h : s.Canonical) : (s.modGrid k g).Canonical := by
  simpa [State.canonical_iff] using h

theorem modGroup {g : Group → Group} (h : s.Canonical) : (s.modGroup k g).Canonical := by
  simpa [State.canonical_iff] using h

theorem setThread (h : s.Canonical) : (s.setThread t w).Canonical := h

theorem setContext {x : Context} (h : s.Canonical) : (s.setContext c x).Canonical := h

theorem setGroup {x : Group} (h : s.Canonical) : (s.setGroup k x).Canonical := h

theorem modDie {g : Die → Die} (h : s.Canonical) : (s.modDie d g).Canonical := h

theorem modFlue {g : Flue → Flue} (h : s.Canonical) : (s.modFlue k g).Canonical := h

theorem setHearth {x : Hearth} (h : s.Canonical) : (s.setHearth k x).Canonical := h

theorem modHearth {g : Hearth → Hearth} (h : s.Canonical) : (s.modHearth k g).Canonical := h

/-! ## Memory -/

theorem writeByte (h : s.Canonical) : (s.writeByte pa b).Canonical := by
  obtain ⟨hmem, hrest⟩ := h
  have written := writeByte_mem_wf s pa b hmem
  obtain ⟨m, rest⟩ := writeByte_rest s pa b
  rw [rest] at written ⊢
  exact ⟨written, hrest⟩

theorem writeBytes (h : s.Canonical) : (s.writeBytes pa bs).Canonical := by
  induction bs generalizing s pa with
  | nil => exact h
  | cons b r ih => exact ih h.writeByte

theorem writeAt (h : s.Canonical) : (s.writeAt a bs).Canonical := by
  have ⟨hmem, hhost, hflash⟩ := h
  exact ite ⟨hmem, memory_wf_tsets _ _ hhost, hflash⟩ h.writeBytes

theorem dropL3 (h : s.Canonical) : (s.dropL3 pa n).Canonical := ite h h

theorem touchPas {l : List (Nat × Nat)} (h : s.Canonical) : (s.touchPas l).Canonical := ite h h

theorem touchPa (h : s.Canonical) : (s.touchPa pa n).Canonical := h.touchPas

theorem touch {l : List (Nat × Nat)} (h : s.Canonical) : (s.touch place c l).Canonical := ite h h.touchPas

theorem putFirst {e : TlbEntry} (h : s.Canonical) : (s.putFirst place e).Canonical := ite h h

theorem fillTlb (h : s.Canonical) : (s.fillTlb place c n).Canonical := by
  unfold State.fillTlb
  refine ite h ?_
  split
  · exact h.putFirst
  · exact h
  · split
    · exact putFirst h
    · exact h

theorem touched {l : List (Nat × Nat)} (h : s.Canonical) : (s.touched w l).Canonical := h.touch.foldl fillTlb

theorem freshWords (h : s.Canonical) : (s.freshWords pa n).Canonical := h

theorem commitByte (h : s.Canonical) : (s.commitByte pa b).Canonical :=
  ite (freshWords (writeByte (ite h.writeBytes h))) h.writeByte

theorem commitBytes (h : s.Canonical) : (s.commitBytes pa bs).Canonical := h.foldl commitByte

/-! ## Rings, notifications and error records -/

theorem setRingWord (h : s.Canonical) : (s.setRingWord r i x).Canonical := h.writeAt

theorem raise (h : s.Canonical) : (s.raise die v).Canonical := ite h h.writeAt

theorem ringAppend (h : s.Canonical) : (s.ringAppend r bs).Canonical := h.writeAt.setRingWord

theorem post (h : s.Canonical) : (s.post die p).Canonical := h

theorem loseNow (h : s.Canonical) : (s.loseNow die q n).Canonical := ite h.setRingWord h.modDie

theorem noticeNow (h : s.Canonical) : (s.noticeNow die ty ctx info w1 w2).Canonical :=
  ite (ite_right h.ringAppend raise) h.loseNow

theorem notify (h : s.Canonical) : (s.notify die ty ctx info w1 w2).Canonical :=
  ite (raise (ite h.noticeNow h.post)) (ite_left (ite h.noticeNow h.post) raise)

theorem notifyCtx (h : s.Canonical) : (s.notifyCtx c ty info w1 w2).Canonical := by
  unfold State.notifyCtx
  split
  · exact h.foldl notify
  · exact h

theorem ringCheck (h : s.Canonical) : (s.ringCheck die q before).Canonical := ite h.notify h

theorem putNow (h : s.Canonical) : (s.putNow die q bs).Canonical := ite h.ringAppend.ringCheck h.loseNow

theorem ringPut (h : s.Canonical) : (s.ringPut die q bs).Canonical := ite h.putNow h.post

theorem traceNow (h : s.Canonical) : (s.traceNow die bs).Canonical := ite h.putNow (putNow (ite_right h putNow))

theorem ringTrace (h : s.Canonical) : (s.ringTrace die bs).Canonical := ite h.traceNow h.post

theorem ringReserve (h : s.Canonical) : (s.ringReserve die n).Canonical := ite h.setRingWord.ringCheck h

theorem releaseNow (h : s.Canonical) : (s.releaseNow die n).Canonical := ite h.setRingWord h

theorem ringRelease (h : s.Canonical) : (s.ringRelease die n).Canonical := ite h.releaseNow h.post

theorem spendNow (h : s.Canonical) : (s.spendNow die bs).Canonical := ite h.ringAppend.setRingWord h.putNow

theorem ringSpend (h : s.Canonical) : (s.ringSpend die bs).Canonical := ite h.spendNow h.post

theorem errRec (h : s.Canonical) : (s.errRec die ty src addr step key count ctx).Canonical := h.ringPut

theorem uncorrected (h : s.Canonical) : (s.uncorrected die src addr step key count ctx).Canonical := h.modDie.errRec

theorem noteLostAt (h : s.Canonical) : (s.noteLostAt die c step key va pa n).Canonical := by
  refine dropL3 (h.foldl fun h => ?_)
  split
  · exact h.uncorrected
  · exact h

theorem storeMem (h : s.Canonical) : (s.storeMem die step key c va pa bs).Canonical :=
  ite h.uncorrected (h.foldl uncorrected).commitBytes

theorem flushHomes (h : s.Canonical) : s.flushHomes.Canonical :=
  ite h (foldl h fun h => ite h.ringPut h)

/-! ## Caches -/

theorem setL1 {l : List L1Line} (h : s.Canonical) : (s.setL1 place l).Canonical := h

theorem setL2 {l : List L2Line} (h : s.Canonical) : (s.setL2 die l).Canonical := h

theorem setL3 {l : List Nat} (h : s.Canonical) : (s.setL3 k l).Canonical := h

theorem writeBack {l : List Nat} {x : Dirty} (h : s.Canonical) : (s.writeBack die l x).Canonical :=
  ite h.writeBytes.uncorrected (freshWords (ite_right (h.foldl writeBytes) uncorrected))

theorem cleanLine {mine : Dirty → Bool} (h : s.Canonical) : (s.cleanLine place l mine).1.Canonical := h.foldl writeBack

theorem cleanPlace {mine : Dirty → Bool} (h : s.Canonical) : (s.cleanPlace place mine).Canonical :=
  setL1 (foldl_fst h cleanLine)

theorem writeBacks {mine : Nat → Dirty → Bool} (h : s.Canonical) : (s.writeBacks mine).Canonical := h.foldl cleanPlace

theorem putL1 (h : s.Canonical) : (s.putL1 place l).Canonical := h.setL1.foldl cleanLine

theorem dropSpoiltL1 (h : s.Canonical) : (s.dropSpoiltL1 die c step key u).Canonical := ite h.setL1.uncorrected h

theorem dropSpoiltL2 (h : s.Canonical) : (s.dropSpoiltL2 die c step key u).Canonical := ite h.setL2.uncorrected h

theorem firstL1 (h : s.Canonical) : (s.firstL1 u l).Canonical := h.setL1

theorem useL3 (h : s.Canonical) : (s.useL3 u).Canonical := ite h.setL3 (ite h.setL3 h)

theorem useL2 (h : s.Canonical) : (s.useL2 u).Canonical := by
  unfold State.useL2
  split
  · exact h.setL2
  · exact ite h.useL3.setL2 h.useL3
  · exact h.useL3

theorem passL1 (h : s.Canonical) : (s.passL1 u).Canonical := ite h (ite h.setL1 h)

theorem allocL1 (h : s.Canonical) : (s.allocL1 u).Canonical := h.putL1

theorem useLine (h : s.Canonical) : (s.useLine die c step key u).Canonical := by
  unfold State.useLine
  dsimp only
  split
  · exact h.dropSpoiltL1.dropSpoiltL2.firstL1
  · exact ite (ite_left h.dropSpoiltL1.dropSpoiltL2.useL2 allocL1) h.dropSpoiltL1.dropSpoiltL2.useL2.passL1

theorem fills {l : List (Nat × LineUse)} (h : s.Canonical) : (s.fills w step l).Canonical := h.foldl useLine

theorem dropLate {l : List Nat} (h : s.Canonical) : (s.dropLate w l).Canonical := h

theorem dirtyLine (h : s.Canonical) : (s.dirtyLine w step key u l bs).Canonical := (h.firstL1.foldl writeBytes).writeBytes

theorem storeGranule {leaf : DWord} (h : s.Canonical) : (s.storeGranule w step key va pa leaf bs).Canonical := by
  unfold State.storeGranule
  dsimp only
  split
  · exact h.useLine.dirtyLine
  · exact h.useLine.storeMem

theorem storePrivate (h : s.Canonical) : (s.storePrivate w step key va pa bs).Canonical := h.foldl storeGranule

theorem notePrivate (h : s.Canonical) : (s.notePrivate w step key va pa n).Canonical := by
  unfold State.notePrivate
  dsimp only
  split
  · exact h.useLine.foldl uncorrected
  · exact h.useLine.noteLostAt

theorem dropGlobals {l : List Nat} (h : s.Canonical) : (s.dropGlobals l).Canonical := h

theorem noticeLines {l : List Nat} (h : s.Canonical) : (s.noticeLines l).Canonical := h

theorem commitLines (h : s.Canonical) : (s.commitLines pa bs).Canonical := h.commitBytes.noticeLines

theorem readPast (h : s.Canonical) : (s.readPast w va pa n).Canonical := h.foldl passL1

theorem freshen {at' : Nat → Bool} (h : s.Canonical) : (s.freshen at').Canonical := h

theorem clearCaches (h : s.Canonical) : (s.clearCaches die).Canonical :=
  h.foldl fun h => h.foldl fun h => h.foldl writeBytes

theorem pinPages {l : List Nat} (h : s.Canonical) : (s.pinPages c k l).Canonical := h

theorem unpinPages {gone : Nat → Nat → Bool} (h : s.Canonical) : (s.unpinPages gone).Canonical := h

end Sys2Proof.Machine.State.Canonical
end

section
/-! SUPPORT (log 4). What threads, grids and contexts do to memory keeps the canonical form: stacks and their spill area, ends of grids,
traps, returns from traps, and the issue and retirement of an instruction. -/

namespace Sys2Proof.Machine.State.Canonical

variable {s s' : State} {die n pa c place key k t status g : Nat} {bs : List Byte} {a pc hdr va addr : DWord} {step : Word}
  {w : Thread} {e : Entry} {cl : Clause} {x : Context} {tr : TrapInfo} {o : Owed} {es : List Entry} {i : Instr}
  {l : List (Nat × DWord)} {pas : List Nat}

/-! ## The stack and its spill area -/

theorem writeSpill {old : List Entry} (h : s.Canonical) : (s.writeSpill w old es).Canonical := by
  induction es generalizing s with
  | nil => exact h
  | cons e r ih =>
    refine ite (ih h) (ih ?_)
    split
    · exact h.storePrivate
    · exact h

theorem putEntries (h : s.Canonical) : (s.putEntries t w es).Canonical := h.writeSpill.setThread

theorem setPath {f : Entry → Entry} (h : s.Canonical) : (s.setPath t w f).Canonical := h.putEntries

theorem writeGranules (h : s.Canonical) : (s.writeGranules w step n pas bs).Canonical := by
  induction pas generalizing s n bs with
  | nil => exact h
  | cons pa r ih => exact ih h.storePrivate

/-! ## Walks and completion records -/

theorem noteWalks (h : s.Canonical) : (s.noteWalks place c step l).Canonical :=
  foldl (h.foldl errRec) fun h => h.uncorrected.dropL3

theorem noteWalk (h : s.Canonical) : (s.noteWalk place c va step key).Canonical := h.noteWalks

theorem completeLost (h : s.Canonical) : (s.completeLost die c a step status).Canonical := errRec h

theorem completeNow (h : s.Canonical) : (s.completeNow die c a step status).Canonical := by
  unfold State.completeNow
  split
  · exact ite h.completeLost h.touchPa.commitLines
  · exact h.noteWalk.completeLost

theorem complete (h : s.Canonical) : (s.complete c a step status).Canonical := ite h (ite h.completeNow h.post)

/-! ## Ends of grids and contexts -/

theorem purgeHearths {gone : Nat → Bool} (h : s.Canonical) : (s.purgeHearths gone).Canonical := h

theorem purgeTwins {gone : Nat → Bool} (h : s.Canonical) : (s.purgeTwins gone).Canonical := h

theorem releaseRing {l : List (Word × Nat × Nat)} (h : s.Canonical) : (s.releaseRing l).Canonical := h.foldl ringRelease

theorem releaseGroups (h : s.Canonical) : (s.releaseGroups g).Canonical := h.foldl fun h => ite h.releaseRing h

theorem releaseSlots {l : List SysOp} (h : s.Canonical) : (s.releaseSlots c l).Canonical := by
  refine h.foldl fun h => ?_
  split
  · exact h.modContext
  all_goals exact h

theorem dropGrid (h : s.Canonical) : (s.dropGrid g).Canonical := h.purgeHearths.purgeTwins.writeBacks

theorem endGrid (h : s.Canonical) : (s.endGrid g status).Canonical := by
  unfold State.endGrid
  split
  · exact h
  · exact dropGrid (ite_right h.releaseRing.releaseGroups.releaseSlots.complete notifyCtx)

theorem recallGrids (h : s.Canonical) : (s.recallGrids c).Canonical := h

theorem endGrids (h : s.Canonical) : (s.endGrids c status).Canonical := h.recallGrids.foldl endGrid

theorem clearContext (h : s.Canonical) : (s.clearContext c).Canonical := h.modContext

theorem loseContext (h : s.Canonical) : (s.loseContext c n die).Canonical := h.endGrids.modContext.notifyCtx

theorem faultContext (h : s.Canonical) : (s.faultContext w).Canonical := by
  unfold State.faultContext
  split
  · exact h
  · exact ite h.modContext.notifyCtx.endGrids.clearContext h.modContext.notifyCtx

theorem faultBy (h : s.Canonical) : (s.faultBy t w).Canonical := h.setThread.faultContext

/-! ## Taking a trap -/

theorem rlogNotice (h : s.Canonical) : (s.rlogNotice w tr).Canonical := ite h.notify h

theorem noteMalformed (h : s.Canonical) : (s.noteMalformed w l).Canonical := h.noteWalks

theorem noteFrame (h : s.Canonical) : (s.noteFrame w n).Canonical := h.noteMalformed

theorem noteFrameLost (h : s.Canonical) : (s.noteFrameLost w n pas).Canonical := by
  induction pas generalizing s n with
  | nil => exact h
  | cons pa r ih => exact ih h.notePrivate

theorem noteSpill (h : s.Canonical) : (s.noteSpill w n).Canonical := by
  refine h.foldl fun h => ?_
  dsimp only
  split
  · exact ite h.touchPa.notePrivate h.touchPa
  · exact h.noteWalk

theorem stallHere (h : s.Canonical) : (s.stallHere t w).Canonical := h

theorem takePage (h : s.Canonical) : (s.takePage t w x).Canonical := ite h.faultBy h.setThread.notifyCtx

theorem enterHandler {cause : Cause} (h : s.Canonical) : (s.enterHandler t w x hdr cause).Canonical := by
  unfold State.enterHandler
  dsimp only
  split
  · exact h.touchPas.writeGranules.setPath
  · exact h.noteFrame.faultBy

theorem takeTrapAt (h : s.Canonical) : (s.takeTrapAt t w tr pc hdr l).Canonical := by
  unfold State.takeTrapAt
  dsimp only
  split
  · exact (ite_left h.cur.rlogNotice noteMalformed).setThread
  · exact ite (ite_left h.cur.rlogNotice noteMalformed).faultBy
      (ite (ite_left h.cur.rlogNotice noteMalformed).takePage (ite_left h.cur.rlogNotice noteMalformed).enterHandler)

theorem takeTrap (h : s.Canonical) : (s.takeTrap t w tr pc hdr).Canonical := h.takeTrapAt

theorem takeTrapPath (h : s.Canonical) : (s.takeTrapPath t w tr).Canonical := h.takeTrap

theorem restartDomain (h : s.Canonical) : (s.restartDomain w addr).Canonical :=
  ite_left (ite h.modGrid h) modGroup

theorem unowe (h : s.Canonical) : (s.unowe w o).Canonical := ite h.restartDomain h

theorem takeOwed (h : s.Canonical) : (s.takeOwed t w o pc hdr).Canonical := ite h.unowe.takeTrap h.stallHere

theorem takeWaiting (h : s.Canonical) : (s.takeWaiting t).Canonical := by
  unfold State.takeWaiting
  split
  · exact h
  · refine ite h ?_
    split
    · exact ite h.unowe.takeTrapPath h
    · exact h

theorem reselect (h : s.Canonical) : (s.reselect t w es).Canonical :=
  ite h.putEntries h.noteSpill.putEntries.modGrid.modGroup.takeWaiting

/-! ## Ends of waves -/

theorem reap (h : s.Canonical) : (s.reap t).Canonical := by
  unfold State.reap
  split
  · exact h
  · exact ite h h

theorem reapGroup (h : s.Canonical) : (s.reapGroup k).Canonical := by
  unfold State.reapGroup
  split
  · exact h
  · exact ite h h

theorem exitLanes {m : Mask} {out : List (Nat × Entry)} (h : s.Canonical) : (s.exitLanes t w m out).Canonical := by
  unfold State.exitLanes
  dsimp only
  split
  · exact h.noteSpill.putEntries
  · exact h.noteSpill.writeSpill.putEntries

theorem exitEmber {em : Ember} (h : s.Canonical) : (s.exitEmber t em).Canonical := by
  unfold State.exitEmber
  dsimp only
  split
  · exact exitLanes h
  · exact h

/-! ## Returning from a trap -/

theorem resumePath (h : s.Canonical) : (s.resumePath t w bs).Canonical := ite h.reselect h.putEntries

theorem returnFromTrap (h : s.Canonical) : (s.returnFromTrap t w).Canonical := by
  unfold State.returnFromTrap
  split
  · exact h.noteFrame.faultBy
  · dsimp only
    split
    · exact (ite_left h.noteFrameLost.touchPas restartDomain).reselect
    · exact (ite_left h.noteFrameLost.touchPas restartDomain).resumePath

/-! ## Issue and retirement -/

theorem recordLost (h : s.Canonical) : (s.recordLost w e i).Canonical := by
  unfold State.recordLost
  dsimp only
  split
  · exact uncorrected (ite h.uncorrected h)
  · exact ite h.uncorrected h

theorem reportLost (h : s.Canonical) : (s.reportLost t w e i).Canonical := ite h h.recordLost.setThread

theorem countRetire (h : s.Canonical) : (s.countRetire w e).Canonical := by
  obtain ⟨⟨contexts, grids, groups, threads, hs⟩, -⟩ := countRetire_counted s w e
  rw [hs]
  exact h

theorem retirePath {f : Entry → Entry} (h : s.Canonical) : (s.retirePath t w e f).Canonical :=
  ite_left h.countRetire.setPath cur

theorem retire (h : s.Canonical) : (s.retire t w e).Canonical := retire_eq s t w e ▸ h.retirePath

theorem retireFl {f : Fl} (h : s.Canonical) : (s.retireFl t w e f).Canonical := retireFl_eq s t w e f ▸ h.retirePath

theorem trapAt (h : s.Canonical) : (s.trapAt t w cl tr l).Canonical := ite h.takeTrapAt h.stallHere

theorem trapHere (h : s.Canonical) : (s.trapHere t w cl tr).Canonical := h.trapAt

theorem trapOver (h : s.Canonical) (h' : s'.Canonical) : (s.trapOver s' t w cl tr).Canonical := ite h'.takeTrap h.stallHere

theorem trapIssue (h : s.Canonical) : (s.trapIssue t w e cl i tr).Canonical := h.trapOver (ite h.recordLost h)

theorem noteLost (h : s.Canonical) : (s.noteLost w step n va pa k).Canonical := h.noteLostAt

theorem noteRead (h : s.Canonical) : (s.noteRead w e a n).Canonical := by
  unfold State.noteRead
  split
  · exact h.noteLost.touched.readPast
  · exact h

theorem ctlLost (h : s.Canonical) : (s.ctlLost t w).Canonical := h.uncorrected.faultBy

theorem beginRejoin (h : s.Canonical) : (s.beginRejoin t w).Canonical := h

theorem park (h : s.Canonical) : (s.park t w).Canonical := ite h.beginRejoin h.reselect

end Sys2Proof.Machine.State.Canonical

namespace Sys2Proof.Machine

/-- An instruction that is issued takes a trap, or goes on to its own meaning in a canonical state. -/
theorem issue_canonical {s : State} {i : Instr} {f : State → Nat → Thread → Entry → Clause → Out} (h : s.Canonical)
    (hf : ∀ {s t w e c}, s.Canonical → (f s t w e c).Canonical) : (issue i s f).Canonical := by
  unfold issue
  split
  · trivial
  split
  · trivial
  split
  · split
    · exact h.trapIssue
    · dsimp only
      split
      · exact hf h.reportLost
      · trivial
  · trivial

end Sys2Proof.Machine
end

section
/-! SUPPORT (log 4). Loads and stores, events and queues, control flow and copies keep the canonical form. -/

namespace Sys2Proof.Machine.State.Canonical

variable {s : State} {die n pa c k t g lane : Nat} {bs : List Byte} {a va : DWord} {step : Word} {w : Thread} {e : Entry}
  {cl : Clause} {tr : TrapInfo} {r : LaneRead} {cp : Copy} {rule : Rule} {det : Bool}

/-! ## Loads -/

theorem dropLost (h : s.Canonical) : (s.dropLost r).Canonical := by
  refine ite ?_ h
  split
  · exact h.dropL3
  · exact h

theorem logLost {l : List (Nat × LaneRead)} (h : s.Canonical) : (s.logLost w e l).Canonical := by
  refine ite_right (h.foldl fun h => ?_) fun h => h.foldl dropLost
  dsimp only
  split
  · exact h
  · exact h.uncorrected

theorem logWords {l : List LaneRead} (h : s.Canonical) : (s.logWords w step l).Canonical :=
  ite_right (h.foldl uncorrected) fun h => h.foldl dropLost

theorem noteEngine {us : List LineUse} {l : List LaneRead} (h : s.Canonical) : (s.noteEngine w step us l).Canonical :=
  h.fills.logWords

theorem noteReads {l : List (Nat × LaneRead)} (h : s.Canonical) : (s.noteReads w e l).Canonical := h.fills.logLost

/-! ## Stores -/

theorem reserveGlobal (h : s.Canonical) : (s.reserveGlobal w step n k).Canonical := modGrid (ite_right h ringReserve)

theorem reserveStash (h : s.Canonical) : (s.reserveStash w step k).Canonical := ite h h.ringReserve.modGroup

theorem storePriv {nib : Option Bool} (h : s.Canonical) : (s.storePriv w e lane a pa nib bs).Canonical := by
  unfold State.storePriv
  dsimp only
  split
  · exact h.storePrivate
  · exact h
  · exact h.storePrivate

theorem performStores {sz : Size} {fsum : Bool} {v : VReg} {stf : Option Nat} {l : List (Nat × DWord × StDest)} (h : s.Canonical) :
    (s.performStores w e sz rule fsum v stf l).Canonical := by
  refine h.foldl fun h => ?_
  split
  · exact h.storePriv
  · exact h.uid.modGrid
  · exact h.uid.modGroup

theorem twinWrite {x : TWrite} (h : s.Canonical) : (s.twinWrite pa det x).Canonical := h

theorem performStl {v : VReg} {l : List (Nat × DWord × Nat × DWord)} (h : s.Canonical) :
    (s.performStl w e rule v det l).Canonical :=
  h.foldl fun h => ite (ite h.twinWrite h) h.uid.modGrid

/-! ## Events and queues -/

theorem countSpill (h : s.Canonical) : (s.countSpill c n).Canonical := errRec h

theorem signal (h : s.Canonical) : (s.signal c n).Canonical := ite h (ite h (ite h (ite h (countSpill h))))

theorem clearEvent (h : s.Canonical) : (s.clearEvent c n).Canonical := h

theorem noteWaits (h : s.Canonical) : s.noteWaits.Canonical := ite h (foldl h fun h => ite h (ite h (countSpill h)))

theorem refuse (h : s.Canonical) : (s.refuse c n k a va).Canonical := h.complete.modDie.notifyCtx

theorem dropWrite (h : s.Canonical) : (s.dropWrite die n step k c).Canonical := h.uncorrected

theorem applyPeer {l : PeerLine} (h : s.Canonical) : (s.applyPeer l).Canonical := by
  refine ite h.dropWrite ?_
  dsimp only
  split
  · exact ite h.touchPa.commitLines h.touchPa.commitLines
  · exact h.touchPa.commitLines

theorem applyPeers (h : s.Canonical) : (s.applyPeers c).Canonical := ite h (h.foldl applyPeer)

/-! ## Control -/

theorem jump (h : s.Canonical) : (s.jump t w e a).Canonical := h.retirePath

theorem ejectEntry (h : s.Canonical) : (s.ejectEntry t e).Canonical := by
  refine h.foldl fun h => ?_
  dsimp only
  split
  · exact h
  · exact setThread h

theorem diverge {arms : List Arm} {jn : BitVec 56} {ej : List (BitVec 56)} {l : List Refused} (h : s.Canonical) :
    (s.diverge t w e cl arms jn ej l).Canonical :=
  cur ((h.countRetire.noteSpill.putEntries.foldl ejectEntry).foldl ringPut)

theorem branch {l : List (Nat × BitVec 56)} {jn : BitVec 56} {ej : Bool} (h : s.Canonical) :
    (s.branch t w e cl l jn ej).Canonical := by
  unfold State.branch
  dsimp only
  split
  · exact h.retire
  · exact h.retirePath
  · refine ite h.stallHere (ite h.trapHere (ite h.stallHere ?_))
    split
    · exact h.trapHere
    · exact h.diverge

theorem noteTable {v : VReg} (h : s.Canonical) : (s.noteTable w e v a).Canonical := h.noteRead.foldl noteRead

theorem noteUntaken (h : s.Canonical) : (s.noteUntaken w).Canonical := ite h.modGrid h

theorem afterExit (h : s.Canonical) : (s.afterExit t).Canonical := by
  unfold State.afterExit
  split
  · exact h
  · exact ite h.cur.noteUntaken.setThread.reap.reapGroup (ite h h.reselect.cur)

theorem passHeld {l : List HeldRec} (h : s.Canonical) : (s.passHeld t l).Canonical := ite h h.modThread

theorem exitOnEmbers {m : Mask} (h : s.Canonical) : (s.exitOnEmbers t m).Canonical := by
  refine h.foldl fun h => ?_
  split
  · exact ite (passHeld h.noteUntaken) h
  · exact h

theorem addSysOp {o : CloseOp} (h : s.Canonical) : (s.addSysOp w e k o).Canonical := h.uid.modGrid

theorem flushHeld (h : s.Canonical) : (s.flushHeld t w det).1.Canonical :=
  setThread (foldl_fst h fun h => fst_ite h (fst_ite h.ringPut h))

theorem emberStep (h : s.Canonical) : (s.emberStep t w e det).Canonical :=
  modGroup (ite_left h.retirePath.modThread modGrid)

theorem passLines {l : List Thread} (h : s.Canonical) : (s.passLines w l).Canonical := h.writeBacks.freshen

theorem writeEmber {x : Thread} (h : s.Canonical) : (s.writeEmber x w k).Canonical := h.writeBacks.freshen

/-! ## Copies -/

theorem startCopy {l : List TrapInfo} (h : s.Canonical) : (s.startCopy t w e cp l).Canonical := h.uid.modHearth.retire

theorem publish (h : s.Canonical) : (s.publish cp w rule).Canonical :=
  h.foldl fun h => ite h.twinWrite h.uid.modGrid

theorem finishCopy (h : s.Canonical) : (s.finishCopy cp w).Canonical := by
  unfold State.finishCopy
  dsimp only
  split
  · exact h.modGroup.modHearth.reap.reapGroup
  · exact h.modGroup.publish.modHearth.reap.reapGroup
  · exact h.modGroup.modHearth.reap.reapGroup

theorem landLine {l : List TrapInfo} (h : s.Canonical) : (s.landLine n cp k g pa bs l).Canonical := by
  unfold State.landLine
  split
  · exact h
  · refine ite_left (modHearth (setThread ?_)) finishCopy
    split
    · exact h.modGroup
    · exact h.modGroup
    · exact h

end Sys2Proof.Machine.State.Canonical
end

section
/-! SUPPORT (log 4). The grate, the closes of steps, launches, commands, saves, resets and the choice of what comes next keep the canonical
form. -/

namespace Sys2Proof.Machine.State.Canonical

variable {s s' : State} {die n c k t g q status : Nat} {grid : Bool} {bs : List Byte} {a va : DWord} {step : Word} {w : Thread} {e : Entry}
  {i : Instr} {x : Context} {cl : Closing} {ws : List PWrite} {p : Packet} {cmd : Cmd} {tr : TrapInfo}

/-! ## The grate -/

theorem enqueue {cl : Clause} {late : Bool} {gr : Group} {y : Capture} (h : s.Canonical) :
    (s.enqueue t w e cl i late gr y).Canonical := h.noteEngine.touched.setGroup.uid.modHearth.retire

theorem raiseFlags {m : Mask} {jn : BitVec 56} {f : Fl} (h : s.Canonical) : (s.raiseFlags t m jn f).Canonical := by
  unfold State.raiseFlags
  split
  · exact h
  · refine ite h ?_
    split
    · exact ite h h.setThread
    · exact h.putEntries

theorem applyResult {o : GrateOp} {r : GResult} (h : s.Canonical) : (s.applyResult o w r).Canonical := by
  unfold State.applyResult
  dsimp only
  split
  · exact h.modGroup.modThread.raiseFlags
  · exact h.modGroup.raiseFlags

theorem grateEffect {o : GrateOp} {gd : Grid} {gr : Group} (h : s.Canonical) : (s.grateEffect k o w gd gr).Canonical := by
  unfold State.grateEffect
  dsimp only
  split
  · exact h.modThread
  · exact h.modHearth
  · exact h.modHearth
  · exact h.modHearth
  · exact h.applyResult
  · exact h.applyResult
  · split
    · exact h.applyResult
    · exact h

/-! ## Closes of steps -/

theorem oweFails {l : List Fail} (h : s.Canonical) : (s.oweFails g grid step l).Canonical :=
  foldl (ite_left h modGrid) fun h => ite h.modThread h.modThread

theorem oweLost {l : List LostRegion} (h : s.Canonical) : (s.oweLost g grid cl l).Canonical := (h.foldl uncorrected).foldl modThread

theorem putRec {r : SpRec} (h : s.Canonical) : (s.putRec g r).Canonical := by
  refine ite (ite_left h modDie).ringPut ?_
  split
  · exact (ite_left h modDie).modThread
  · exact (ite_left h modDie).heldRecs

theorem putRecs {l : List SpRec} (h : s.Canonical) : (s.putRecs g l).Canonical := h.foldl putRec

theorem settleRing {l : List (Word × Nat × Nat)} {l' : List AnyRec} (h : s.Canonical) : (s.settleRing l l').Canonical :=
  (h.foldl ringSpend).foldl ringRelease

theorem noteWord {src : Nat} (h : s.Canonical) : (s.noteWord cl ws n src k).Canonical := by
  unfold State.noteWord
  split
  · exact h.uncorrected
  · exact h

theorem commitPuts {r : Resolved} (h : s.Canonical) : (s.commitPuts cl ws r).Canonical :=
  noticeLines (((h.foldl noteWord).foldl noteWord).foldl commitByte)

theorem closeTwin {y : Nat × TwinLine} (h : s.Canonical) : (s.closeTwin g cl y).1.Canonical := by
  unfold State.closeTwin
  dsimp only
  split
  · exact ite (dropWrite h) (commitLines h)
  · exact h

theorem closeTwins (h : s.Canonical) : (s.closeTwins g cl).1.Canonical := foldl_fst h closeTwin

theorem passGroup (h : s.Canonical) : (s.passGroup t w step).Canonical := h.putEntries

theorem closeGroup (h : s.Canonical) : (s.closeGroup g).1.Canonical := by
  unfold State.closeGroup
  split
  · exact h
  split
  · exact h
  refine oweLost (oweFails (foldl (settleRing (foldl h.setGroup noteWord)) fun h => ?_))
  split
  · exact h.passGroup
  · exact h

theorem enqueuePacket {res : Bool} (h : s.Canonical) : (s.enqueuePacket c bs a q res).Canonical := by
  unfold State.enqueuePacket
  split
  · exact ite h.modContext h.refuse
  · exact h.refuse

theorem closeOps {l : List SysOp} (h : s.Canonical) : (s.closeOps c l).Canonical := by
  refine foldl (foldl (h.foldl modContext) fun h => ?_) fun h => ?_
  · split
    · exact h.enqueuePacket
    all_goals exact h
  · split
    · exact h.signal
    all_goals exact h

theorem commitGlobal {gd : Grid} (h : s.Canonical) : (s.commitGlobal g gd cl ws).1.Canonical := h.applyPeers.commitPuts.closeTwins

theorem closeGrid {gd : Grid} (h : s.Canonical) : (s.closeGrid g gd).Canonical := by
  refine foldl (dropGlobals (closeOps (putRecs (oweLost (oweFails (settleRing (modGrid (threads ?_)))))))) reapGroup
  exact foldl_fst h.commitGlobal closeGroup

theorem waveTrap {again : Bool} (h : s.Canonical) : (s.waveTrap t w tr again).Canonical :=
  ite h.faultContext (ite (ite h.faultContext h.setThread) h.setThread.takeWaiting)

theorem restartDue {due : List (Nat × Mask)} (h : s.Canonical) : (s.restartDue grid n due).Canonical :=
  foldl (ite h (ite h.modGrid h.modGroup)) modThread

theorem hangFires (h : s.Canonical) : (s.hangFires c).Canonical := by
  refine foldl (modContext (h.foldl restartDue)) fun h => ?_
  split
  · exact h
  · exact ite h.setThread h.waveTrap

/-! ## Launches -/

theorem dropped (h : s.Canonical) : (s.dropped die).Canonical := h.modDie

theorem noteRange (h : s.Canonical) : (s.noteRange die c va n).Canonical := by
  unfold State.noteRange
  split
  · exact h.noteLostAt.touch
  · exact h.noteWalk

theorem noteVread (h : s.Canonical) : (s.noteVread die c va n).Canonical := ite_right h.noteRange noteRange

theorem noteLaunch {y : Head} (h : s.Canonical) : (s.noteLaunch c die y).Canonical := by
  unfold State.noteLaunch
  dsimp only
  split
  · exact (ite_left h noteLostAt).noteVread
  · exact ite_right ((ite_left h noteLostAt).noteVread.foldl noteWalk) noteVread

theorem noteTrace {r : Except Nat Grid} (h : s.Canonical) : (s.noteTrace c x p r).Canonical := ite h.noteLostAt h

theorem rotation {r : Option (Nat × Nat)} (h : s.Canonical) : State.Canonical { s with rotation := r } := h

theorem take {y : Head} (h : s.Canonical) : (s.take c q y).Canonical := by
  unfold State.take
  split
  · exact h
  · dsimp only
    split
    · exact h.setContext.rotation.noteLaunch.noteTrace.refuse
    · exact h.setContext.rotation.noteLaunch.noteTrace

theorem placeGroup {gd : Grid} {l : List Nat} (h : s.Canonical) : (s.placeGroup k gd g n l).Canonical := h

theorem placeNext (h : s.Canonical) (hp : s.placeNext k = some s') : s'.Canonical := by
  unfold State.placeNext at hp
  split at hp
  · cases hp
  split at hp
  · cases hp
  dsimp only at hp
  split at hp
  all_goals
    obtain ⟨_, -, rfl⟩ := Option.map_eq_some_iff.mp hp
    exact h.placeGroup

theorem placeMany (h : s.Canonical) : (s.placeMany k n).Canonical := by
  induction n generalizing s with
  | zero => exact h
  | succ n ih =>
    unfold State.placeMany
    split
    · exact ih (h.placeNext ‹_›)
    · exact h

theorem writeTrace (h : s.Canonical) : (s.writeTrace k).Canonical := by
  unfold State.writeTrace
  split
  · exact h
  · exact ite h h.modGrid.ringTrace

theorem placeGrid (h : s.Canonical) : (s.placeGrid k).Canonical := by
  unfold State.placeGrid
  split
  · exact h.placeMany.writeTrace
  · exact h

theorem startGrid {gd : Grid} (h : s.Canonical) : (s.startGrid k gd).Canonical := freshen (ite_left h.modGrid modContext)

theorem firstRound (h : s.Canonical) (hf : s.firstRound = some s') : s'.Canonical := by
  unfold State.firstRound at hf
  split at hf
  · cases hf
  split at hf
  · cases hf
    exact h
  split at hf
  · cases hf
  dsimp only at hf
  split at hf
  · cases hf
  split at hf
  · cases hf
  · cases hf
    exact h.applyPeers.placeGrid.startGrid

theorem serveWaiting {l : List Nat} (h : s.Canonical) : (s.serveWaiting l).Canonical := by
  induction l generalizing s with
  | nil => exact h
  | cons k r ih => exact ite (ih h.placeGrid) h.placeGrid

theorem closeFinal (h : s.Canonical) : (s.closeFinal k step).Canonical := by
  unfold State.closeFinal
  split
  · exact h
  · exact h.commitGlobal.modGrid.settleRing.oweLost.putRecs.closeOps

/-! ## Commands -/

theorem finish {l : List DWord} (h : s.Canonical) : (s.finish die status l).Canonical := h.modDie.raise

theorem runCmd {f : State → State × Reply} (h : s.Canonical) (hf : ∀ {s}, s.Canonical → (f s).1.Canonical) :
    (s.runCmd die cmd f).Canonical := by
  unfold State.runCmd
  dsimp only
  split
  · exact (hf h.modDie).finish
  · exact hf h.modDie

theorem ends (h : s.Canonical) : (Machine.ends s status).1.Canonical := h

theorem withCtx {f : Nat → Context → State × Reply} (h : s.Canonical) (hf : ∀ {k x}, (f k x).1.Canonical) :
    (Machine.withCtx s die cmd f).1.Canonical := by
  unfold Machine.withCtx
  split
  · exact h
  · exact fst_ite hf h

theorem createContext (h : s.Canonical) : (s.createContext bs).1.Canonical := fst_ite h (fst_ite h (fst_ite h h))

theorem noteOperand (h : s.Canonical) : (s.noteOperand die a n).Canonical := ite h h.noteLostAt.touchPa

theorem whenReached {ready : Bool} {r : State × Reply} (h : s.Canonical) (hr : r.1.Canonical) :
    (s.whenReached die cmd ready r).1.Canonical := fst_ite hr h.post

theorem createAt (h : s.Canonical) : (s.createAt die a).1.Canonical := h.noteOperand.createContext

theorem countsAt (h : s.Canonical) : (s.countsAt die a c).1.Canonical := by
  unfold State.countsAt
  split
  · exact h
  · exact writeAt (ite_right h touchPa)

theorem setNotify {r : Ring} (h : s.Canonical) : (s.setNotify die r).Canonical := ite h.modDie (ite h.modDie.loseNow h.modDie.post)

theorem flashAt (h : s.Canonical) : (s.flashAt die a n k).1.Canonical := by
  obtain ⟨hmem, hhost, hflash⟩ := h.noteOperand (die := die) (a := a) (n := k)
  exact ⟨hmem, hhost, memory_wf_tsets _ _ hflash⟩

theorem memCommand (h : s.Canonical) : (s.memCommand die cmd).1.Canonical := fst_ite h.createAt (fst_ite h.countsAt h.flashAt)

theorem perform {y : Post} (h : s.Canonical) : (s.perform die y).Canonical := by
  cases y with
  | complete => exact h.completeNow
  | record => exact h.putNow
  | spend => exact h.spendNow
  | trace => exact h.traceNow
  | notice => exact h.noticeNow
  | lost => exact h.loseNow
  | release => exact h.releaseNow
  | command => exact h.runCmd memCommand

theorem flushPosts (h : s.Canonical) : s.flushPosts.Canonical :=
  ite h (h.foldl fun h => h.modDie.foldl fun h => ite h.perform h.post)

theorem flushMsix (h : s.Canonical) : (s.flushMsix die).Canonical := h.foldl fun h => ite (raise h) h

/-! ## Saves, resets and trips -/

theorem returnTaken {m : BitVec 16} (h : s.Canonical) : (s.returnTaken c m).Canonical := by
  unfold State.returnTaken
  split
  · exact h
  split
  · refine ite h ?_
    dsimp only
    split
    · exact setContext h
    · exact h
  · exact h

theorem removeSaved {l : List Nat} (h : s.Canonical) : (s.removeSaved c l).Canonical := h.writeBacks

theorem clearDie (h : s.Canonical) : (s.clearDie die).Canonical := modDie h.clearCaches

theorem resetDie (h : s.Canonical) : (s.resetDie die).Canonical := (h.clearCaches.foldl loseContext).clearDie.modDie

theorem tripDie {current : Bool} (h : s.Canonical) : (s.tripDie die current).Canonical := (h.clearCaches.foldl loseContext).clearDie.modDie

/-- A module reset clears committed memory, and leaves host memory and flash (25 Table 25.4). -/
theorem moduleReset {minimal : Bool} (h : s.Canonical) : (s.moduleReset minimal).Canonical := by
  obtain ⟨-, hhost, hflash⟩ := h
  obtain ⟨cleared, -, -⟩ := reset_memory_wf
  exact ⟨cleared, hhost, hflash⟩

theorem failStage (h : s.Canonical) : (s.failStage n).Canonical := ite h (moduleReset h)

theorem passStage (h : s.Canonical) : (s.passStage n).Canonical := by
  unfold State.passStage
  dsimp only
  split
  all_goals exact h

theorem runStages (h : s.Canonical) : (s.runStages n k).Canonical := by
  induction k generalizing s n with
  | zero => exact h
  | succ k ih => exact ite (ih h.passStage) h.failStage

/-! ## The choice of what comes next -/

theorem elapse (h : s.Canonical) : s.elapse.Canonical := h

theorem markReady (h : s.Canonical) : s.markReady.Canonical := h

theorem unstall (h : s.Canonical) : s.unstall.Canonical := h

theorem pass (h : s.Canonical) : s.pass.Canonical := h.elapse.flushPosts.flushHomes.noteWaits.markReady

theorem countVisit {l : List (Nat × Thread)} (h : s.Canonical) : (s.countVisit l n).Canonical := by
  unfold State.countVisit
  split
  · exact h.setThread
  · exact h

theorem rotate {l : List (Nat × Thread)} (h : s.Canonical) : (s.rotate k l n).1.Canonical := by
  induction n generalizing s with
  | zero => exact h
  | succ n ih =>
    unfold State.rotate
    dsimp only
    split
    · exact ih h.countVisit
    · exact h
    · exact h

theorem turnTo (h : s.Canonical) : (s.turnTo t w).Canonical := by
  unfold State.turnTo
  split
  · exact h
  · exact h

theorem lineNext {y : Nat × Nat} (h : s.Canonical) : (s.lineNext y).1.Canonical := by
  refine fst_ite h (fst_ite h (fst_ite (fst_ite h ?_) h))
  split
  · exact h
  · rename_i heq
    exact h.rotate.fst_of_eq heq

theorem grant (h : s.Canonical) (hg : s.grant t w = some s') : s'.Canonical := by
  unfold State.grant at hg
  split at hg
  · cases hg
    exact h
  dsimp only at hg
  split at hg
  · split at hg
    · cases hg
    split at hg
    · rename_i heq
      split at hg
      · cases hg
        exact h.markReady.rotate.fst_of_eq heq
      · cases hg
    · cases hg
  · split at hg
    · cases hg
      exact h.markReady
    · cases hg

theorem pastSlot (h : s.Canonical) : (s.pastSlot w).Canonical := ite h h

theorem promote (h : s.Canonical) : (s.promote t w).Canonical := h

theorem startClause {y : Header} (h : s.Canonical) : (s.startClause t w e y).Canonical := h.promote.setPath.cur

theorem openClause (h : s.Canonical) : (s.openClause t w e).Canonical := by
  have read := h.noteRead (w := w) (e := e) (a := e.addr) (n := 8)
  unfold State.openClause
  dsimp only
  split
  · exact ite read.takeTrap h
  · refine ite (ite read.takeTrap h) (ite (ite read.takeTrap h) (ite (ite read.takeTrap h) (ite h ?_)))
    split
    · exact ite read.takeOwed h
    · exact read.startClause

theorem beginClause (h : s.Canonical) : (s.beginClause t).Canonical := by
  unfold State.beginClause
  split
  · exact h
  refine ite h.ctlLost ?_
  split
  · exact h.pastSlot.takeWaiting
  refine ite h.park ?_
  split
  · exact h.pastSlot.takeOwed
  · exact ite h.setThread h.pastSlot.openClause

theorem nextClause {l : List (Nat × Nat)} (h : s.Canonical) : (s.nextClause l).1.Canonical := by
  induction l generalizing s with
  | nil => exact h
  | cons y r ih =>
    unfold State.nextClause
    split
    · rename_i heq
      exact h.lineNext.fst_of_eq heq
    · rename_i heq
      exact ih (h.lineNext.fst_of_eq heq)

theorem schedule (h : s.Canonical) : s.schedule.1.Canonical := by
  unfold State.schedule
  refine fst_ite ?_ ?_
  · split
    · exact h
    · exact h.nextClause
  · split
    · rename_i heq
      exact h.nextClause.fst_of_eq heq
    · rename_i heq
      exact h.nextClause.fst_of_eq heq

/-! ## Peers, links and pages -/

theorem noteInbox (h : s.Canonical) : (s.noteInbox n).Canonical := by
  unfold State.noteInbox
  split
  · refine ite h ?_
    split
    · exact h
    · exact h.noteWalk
  · exact h

theorem logTimeout {l : List Far} (h : s.Canonical) : (s.logTimeout w step l).Canonical := by
  cases l with
  | nil => exact h
  | cons => exact h.uncorrected

theorem cutRecords {l : List Far} (h : s.Canonical) : (s.cutRecords w step l).Canonical := h.foldl uncorrected

theorem timeoutLoad {o : Op} (h : s.Canonical) : (s.timeoutLoad t w o).Canonical := ite h h.logTimeout.dropLate.setThread

theorem timeoutCopy {y : Copy} (h : s.Canonical) : (s.timeoutCopy w y).Canonical := by
  unfold State.timeoutCopy
  dsimp only
  split
  · exact ite h h.cutRecords.dropLate.modThread.modHearth
  · exact h
  · exact h

theorem timeoutGrate {o : GrateOp} (h : s.Canonical) : (s.timeoutGrate w o).Canonical := ite h h.cutRecords.dropLate.modHearth

theorem setPort {up : Bool} (h : s.Canonical) : (s.setPort n up).Canonical := h

theorem putLast {y : TlbEntry} (h : s.Canonical) : (s.putLast die y).Canonical := h

theorem modStack {f : Stack → Stack} (h : s.Canonical) : (s.modStack k f).Canonical := h

end Sys2Proof.Machine.State.Canonical
end

section
/-! SUPPORT (log 4). What an instruction does after it is issued keeps the canonical form: first the shapes that instructions share, then
each instruction of clauses by family. -/

namespace Sys2Proof.Machine

variable {s : State} {i : Instr} {g : Guard} {t : Nat} {w : Thread} {e : Entry} {c : Clause}

/-! ## Shapes that instructions share -/

theorem scalarOp_canonical {d : SReg} {f : Thread → DWord} (h : s.Canonical) : (scalarOp i s d f).Canonical :=
  issue_canonical h fun h => h.retire

theorem vectorOp_canonical {d : VReg} {f : Thread → Nat → Word} (h : s.Canonical) : (vectorOp i s g d f).Canonical :=
  issue_canonical h fun h => h.retire

theorem vectorOp64_canonical {d : VReg} {f : Thread → Nat → DWord} (h : s.Canonical) : (vectorOp64 i s g d f).Canonical :=
  issue_canonical h fun h => h.retire

theorem predicateOp_canonical {d : PReg} {f : Thread → Nat → Bool} (h : s.Canonical) : (predicateOp i s g d f).Canonical :=
  issue_canonical h fun h => h.retire

theorem floatOp_canonical {f : (Nat → Nat) → Thread → Nat → List (Nat × Word) × Fl} (h : s.Canonical) : (floatOp i s g f).Canonical :=
  issue_canonical h fun h => h.retireFl

theorem f32Op_canonical {d : VReg} {f : Nat → Thread → Nat → FRes} (h : s.Canonical) : (f32Op i s g d f).Canonical :=
  floatOp_canonical h

theorem f16Op_canonical {d : VReg} {f : Nat → Nat → Thread → Nat → FRes} (h : s.Canonical) : (f16Op i s g d f).Canonical :=
  floatOp_canonical h

theorem crossOp_canonical {d : VReg} {f : Thread → Mask → Nat → Word} (h : s.Canonical) : (crossOp i s g d f).Canonical :=
  issue_canonical h fun h => h.retire

theorem trapOp_canonical {k : Cause} {x : BitVec 16} (h : s.Canonical) : (trapOp i s g k x).Canonical :=
  issue_canonical h fun h => .ite h.retire h.trapHere

theorem tileOp_canonical {f : State → Nat → Thread → Entry → Clause → Grid → Group → Out} (h : s.Canonical)
    (hf : ∀ {s t w e c x p}, s.Canonical → (f s t w e c x p).Canonical) : (tileOp i s f).Canonical :=
  issue_canonical h fun h => by
    split
    · exact .ite h.stallHere (hf h)
    · trivial

theorem copyOp_canonical {f : State → Nat → Thread → Entry → Clause → Grid → Group → Out} (h : s.Canonical)
    (hf : ∀ {s t w e c x p}, s.Canonical → (f s t w e c x p).Canonical) : (copyOp i s f).Canonical :=
  issue_canonical h fun h => by
    split
    · exact .ite h.trapHere (.ite h.stallHere (hf h))
    · trivial

theorem grateOp_canonical {f : State → Nat → Thread → Entry → Clause → Grid → Group → Out} (h : s.Canonical)
    (hf : ∀ {s t w e c x p}, s.Canonical → (f s t w e c x p).Canonical) : (grateOp i s f).Canonical :=
  issue_canonical h fun h => by
    split
    · split
      · exact h.takeOwed
      · exact .ite h.stallHere (hf h)
    · trivial

theorem gate_pass_canonical {x : Gate} {o : Out} (h : s.Canonical) (ho : o.Canonical) : (x.pass s t w e c o).Canonical := by
  unfold Gate.pass
  split
  · exact .ite h.stallHere h.trapAt
  · exact .ite h.stallHere ho

theorem matrixOp_canonical {q : Bool} {m : MForm} (h : s.Canonical) : (matrixOp i q m s).Canonical :=
  grateOp_canonical h fun h => .ite h.stallHere <| .ite h.stallHere <| .ite h.stallHere <| .ite h.stallHere <|
    gate_pass_canonical h <| .ite h.stallHere h.enqueue

theorem stepOp_canonical {grid : Bool} (h : s.Canonical) : (stepOp i s grid).Canonical :=
  issue_canonical h fun h => by
    refine .ite h.stallHere ?_
    split
    rename_i s' w' held hflush
    have flushed : s'.Canonical := h.flushHeld.fst_of_eq hflush
    split
    · exact flushed.trapHere
    split
    · exact flushed.takeOwed
    refine .ite flushed.trapHere (.ite flushed.stallHere (.ite flushed.emberStep ?_))
    dsimp only
    split
    · exact flushed.retirePath
    · exact flushed.retirePath.reselect.cur

theorem storeChecked_canonical {sp : Space} {sz : Size} {rule : Rule} {ls : List Nat} {addr : Nat → DWord}
    {f : State → List (Nat × DWord × StDest) → Out} (h : s.Canonical) (hf : ∀ {s l}, s.Canonical → (f s l).Canonical) :
    (storeChecked s t w e c sp sz rule ls addr f).Canonical := by
  refine .ite h.stallHere ?_
  dsimp only
  split
  · exact h.trapAt
  refine .ite h.stallHere ?_
  split
  · exact h.trapHere
  · exact hf (.touched (.ite h.reserveGlobal h.reserveStash))

/-! ## Scalar and vector -/

theorem execVreduce_canonical {op : RedOp} {ty : RedTy} {d : SVDst} {a : VReg} (h : s.Canonical) :
    (execVreduce op ty g d a s).Canonical :=
  issue_canonical h fun h => by
    dsimp only
    split
    · exact h.retireFl
    · exact h.retireFl

theorem execSld_canonical {priv wide : Bool} {d a : SReg} {b : SSrc} (h : s.Canonical) : (execSld priv wide d a b s).Canonical :=
  issue_canonical h fun h => by
    refine .ite h.stallHere ?_
    split
    · exact h.trapAt
    · exact .ite h.stallHere (.ite (h.trapOver (.ite_left h.noteReads.touched .dropLate))
        (State.Canonical.ite_left h.noteReads.touched .dropLate).retire)

theorem execSldk_canonical {d : SReg} {mode : BitVec 2} {off : BitVec 12} (h : s.Canonical) : (execSldk d mode off s).Canonical :=
  issue_canonical h fun h => by
    split
    · trivial
    · exact .ite h.trapHere h.retire

theorem execSget_canonical {d : SVDst} {r : Spr} (h : s.Canonical) : (execSget g d r s).Canonical :=
  issue_canonical h fun h => by
    split
    · exact h.retire
    · exact h.retire

theorem execSset_canonical {r : Spr} {a : SSrc} (h : s.Canonical) : (execSset r a s).Canonical :=
  issue_canonical h fun h => by
    cases r with
    | fmt => exact .ite h.retirePath h.trapHere
    | fpflags => exact h.retirePath
    | eject =>
      dsimp only
      split
      · trivial
      · exact .ite h.trapHere h.retire
    | trappc => exact .ite h.trapHere h.retire
    | faultmask =>
      cases a with
      | s => exact h.retire
      | int => exact h.trapHere
    | _ => exact h.trapHere

/-! ## Loads and stores -/

theorem execLd_canonical {sz : Size} {sp : Space} {hint : Hint} {home : Option (BitVec 4)} {q : Bool} {d : VReg} {a : LdBase} {b : Off}
    (h : s.Canonical) : (execLd sz sp hint home q g d a b s).Canonical :=
  issue_canonical h fun h => by
    refine .ite h.stallHere (.ite h.stallHere ?_)
    dsimp only
    split
    · exact h.trapAt
    · exact h.noteReads.touched.uid.retire

theorem execLdu_canonical {stash wide : Bool} {hint : Hint} {home : Option (BitVec 4)} {q : Bool} {d a : SReg} {b : SSrc}
    (h : s.Canonical) : (execLdu stash wide hint home q d a b s).Canonical :=
  issue_canonical h fun h => by
    refine .ite h.stallHere (.ite h.stallHere ?_)
    split
    · exact h.trapAt
    · exact h.noteReads.touched.uid.retire

theorem execSt_canonical {sz : Size} {sp : Space} {rule : Rule} {fsum : Bool} {a : StBase} {b : Off} {v : VReg} (h : s.Canonical) :
    (execSt sz sp rule fsum g a b v s).Canonical :=
  issue_canonical h fun h => storeChecked_canonical h fun h => h.performStores.retire

theorem execStf_canonical {sz : Size} {stash : Bool} {rule : Rule} {q : Bool} {d : VReg} {a : StBase} {b : Off} {v : VReg}
    (h : s.Canonical) : (execStf sz stash rule q g d a b v s).Canonical :=
  issue_canonical h fun h => storeChecked_canonical h fun h => h.uid.performStores.retire

theorem execStl_canonical {rule : Rule} {a : StBase} {b : Off} {v : VReg} (h : s.Canonical) : (execStl rule g a b v s).Canonical :=
  issue_canonical h fun h => by
    refine .ite h.stallHere ?_
    split
    · exact h.trapAt
    refine .ite h.stallHere ?_
    split
    · exact h.trapHere
    · exact h.touched.reserveGlobal.performStl.retire

/-! ## Control -/

theorem execJt_canonical {a : VReg} {tgt jn : BitVec 20} {ej : Bool} (h : s.Canonical) : (execJt a tgt jn ej s).Canonical :=
  issue_canonical h fun h => by
    refine .ite h.retire (.ite h.stallHere ?_)
    split
    · exact .ite h.stallHere (h.trapOver h.noteRead)
    · exact .ite h.noteTable.branch h.stallHere

theorem execJoin_canonical (h : s.Canonical) : (execJoin s).Canonical :=
  issue_canonical h fun h => by
    refine .ite h.stallHere ?_
    dsimp only
    split
    · exact h.retire
    · exact .ite h.retire.park h.retire

theorem execExit_canonical (h : s.Canonical) : (execExit g s).Canonical :=
  issue_canonical h fun h => by
    split
    · exact h.takeOwed
    refine .ite h.stallHere ?_
    dsimp only
    split
    · exact h.retire
    refine .ite h.retire ?_
    split
    · exact h.retire.noteUntaken.passHeld.exitEmber.afterExit
    · exact h.retire.exitOnEmbers.exitLanes.afterExit

theorem execRte_canonical (h : s.Canonical) : (execRte s).Canonical :=
  issue_canonical h fun h => by
    refine .ite h.stallHere ?_
    dsimp only
    split
    · exact h.retire
    · show State.Canonical _
      split
      · exact .ite h.retire.returnFromTrap.cur.afterExit h.retire.returnFromTrap.cur
      · exact h.retire.returnFromTrap.cur

theorem execLive_canonical {n : BitVec 8} (h : s.Canonical) : (execLive n s).Canonical :=
  issue_canonical h fun h => by
    split
    · trivial
    refine .ite h.trapHere (.ite h.stallHere ?_)
    split
    · exact h.trapHere
    · exact .ite (h.trapOver (h.foldl .noteRead)) (.ite_left (.setThread (h.foldl .noteRead)) .cur)

theorem execMark_canonical {v : Word} (h : s.Canonical) : (execMark v s).Canonical :=
  issue_canonical h fun h => .ite h.retire (.ite h.stallHere (.ite h.trapHere h.ringPut.retire))

theorem execLaunch_canonical {a : SReg} (h : s.Canonical) : (execLaunch a s).Canonical :=
  issue_canonical h fun h => by
    refine .ite h.trapHere (.ite h.stallHere ?_)
    split
    · exact h.trapHere
    refine .ite h.stallHere ?_
    dsimp only
    split
    · exact h.noteRead.addSysOp.retire
    · exact .ite h.stallHere h.noteRead.modContext.addSysOp.retire

theorem execCsrw_canonical {r : Csr} {a : SSrc} (h : s.Canonical) : (execCsrw r a s).Canonical :=
  issue_canonical h fun h => by
    cases r with
    | tsp => exact .ite h.trapHere h.retire
    | tscratch => exact h.retire
    | _ => exact h.trapHere

/-! ## Tiles, copies, windows and pins -/

theorem execTdef_canonical {n : TileNo} {lo hi : SReg} (h : s.Canonical) : (execTdef n lo hi s).Canonical :=
  tileOp_canonical h fun h => by
    refine .ite h.trapHere (.ite h.trapHere ?_)
    split
    · exact h.trapHere
    · exact h.stallHere
    · exact h.setGroup.retire

theorem execTfree_canonical {n : TileNo} (h : s.Canonical) : (execTfree n s).Canonical :=
  tileOp_canonical h fun h => by
    refine .ite h.retire ?_
    split
    · exact h.trapHere
    · exact h.stallHere
    · exact h.setGroup.retire

theorem execCpin_canonical {n : TileNo} {a : CpSrc} {b : SSrc} {fc : FcReg} (h : s.Canonical) : (execCpin n a b fc s).Canonical :=
  copyOp_canonical h fun h => by
    refine .ite h.stallHere (.ite h.stallHere ?_)
    split
    · exact h.trapAt
    split
    · exact h.trapHere
    · exact h.stallHere
    · exact .ite h.stallHere h.noteEngine.setGroup.touched.startCopy

theorem execCpout_canonical {rule : Rule} {free zero : Bool} {a : SReg} {n : TileNo} {fc : FcReg} (h : s.Canonical) :
    (execCpout rule free zero a n fc s).Canonical :=
  copyOp_canonical h fun h => by
    refine .ite h.trapHere (.ite h.stallHere ?_)
    dsimp only
    split
    · exact h.trapAt
    split
    · exact h.trapHere
    · exact h.stallHere
    refine .ite h.stallHere ?_
    split
    · exact h.trapHere
    · exact .ite h.stallHere h.reserveGlobal.logWords.setGroup.touched.startCopy

theorem execCptt_canonical {d x : TileNo} {fc : FcReg} (h : s.Canonical) : (execCptt d x fc s).Canonical :=
  copyOp_canonical h fun h => by
    refine .ite h.trapHere ?_
    split
    · exact h.trapHere
    · exact h.stallHere
    · exact .ite h.stallHere h.logWords.setGroup.startCopy

theorem execCwait_canonical {fc : FcReg} {n : SSrc} (h : s.Canonical) : (execCwait fc n s).Canonical :=
  issue_canonical h fun h => by
    split
    · exact h.takeOwed
    · exact .ite h.stallHere h.retire

theorem execWbind_canonical {n : WinNo} {a : SReg} (h : s.Canonical) : (execWbind n a s).Canonical :=
  issue_canonical h fun h => by
    refine .ite h.trapHere (.ite h.stallHere ?_)
    split
    · exact h.trapHere
    · exact .ite h.stallHere (.ite (h.trapOver h.noteRead) h.noteRead.uid.modGrid.retire)

theorem execPin_canonical {d base bytes : SReg} (h : s.Canonical) : (execPin d base bytes s).Canonical :=
  issue_canonical h fun h => by
    refine .ite h.trapHere ?_
    split
    · trivial
    dsimp only
    split
    · exact h.modContext.retire
    · exact .ite h.modContext.retire (.ite h.stallHere (.ite h.noteMalformed.pinPages.modContext.retire h.noteMalformed.modContext.retire))

/-! ## The grate -/

theorem execMmldb_canonical {q : Bool} {a : GSrc} (h : s.Canonical) : (execMmldb q a s).Canonical :=
  grateOp_canonical h fun h => .ite h.stallHere <| .ite h.stallHere <| .ite h.stallHere <|
    gate_pass_canonical h <| .ite h.stallHere h.enqueue

theorem execMmlda_canonical {df : Flow} {q : Bool} {a : GSrc} {ri : Option FReg} (h : s.Canonical) : (execMmlda df q a ri s).Canonical :=
  grateOp_canonical h fun h => .ite h.stallHere <| .ite h.stallHere <| .ite h.stallHere <|
    gate_pass_canonical h <| .ite h.stallHere h.enqueue

theorem execMmdrain_canonical {rnd : Rnd} {relu : Bool} {bias : Option SReg} {q : Bool} {d : TileNo} {a : AReg} {sa sb : Option SReg}
    (h : s.Canonical) : (execMmdrain rnd relu bias q d a sa sb s).Canonical :=
  grateOp_canonical h fun h => .ite h.stallHere <| gate_pass_canonical h <| .ite h.stallHere h.enqueue

theorem execVqlut_canonical {tbl q : Bool} {a : SReg} (h : s.Canonical) : (execVqlut tbl q a s).Canonical :=
  grateOp_canonical h fun h => .ite h.stallHere <| gate_pass_canonical h <| .ite h.stallHere h.enqueue

theorem execSpdg_canonical {q : Bool} {m wt gr : TileNo} {n : SSrc} (h : s.Canonical) : (execSpdg q m wt gr n s).Canonical :=
  grateOp_canonical h fun h => .ite h.stallHere <| gate_pass_canonical h <| .ite h.stallHere h.enqueue

theorem execFbadv_canonical {upTo : Bool} {d : FReg} {n : SSrc} (h : s.Canonical) : (execFbadv upTo d n s).Canonical :=
  grateOp_canonical h fun h => by
    refine .ite h.stallHere (gate_pass_canonical h (.ite h.retire (.ite h.stallHere ?_)))
    dsimp only
    split
    · exact h.trapOver h.noteReads
    · exact (State.Canonical.ite_right h.noteReads.touched .dropLate).retire

theorem execFbrd_canonical {val q : Bool} {d : VReg} {a : FReg} (h : s.Canonical) : (execFbrd val q d a s).Canonical :=
  grateOp_canonical h fun h => .ite h.stallHere <| .ite h.stallHere <| gate_pass_canonical h h.noteReads.touched.uid.retire

end Sys2Proof.Machine
end

section
/-! SUPPORT (log 4). The events of the part and the commands of the host keep the canonical form. -/

namespace Sys2Proof.Machine

variable {s : State} {t n k die page port hearth line op f base bank stack pin row off : Nat} {val va : DWord} {c : Cmd} {x : Context}

/-! ## Threads, steps and the grate -/

theorem execClauseStart_canonical (h : s.Canonical) : (execClauseStart t s).Canonical := by
  unfold execClauseStart
  split
  · exact h
  refine .ite h ?_
  split
  · exact h
  · exact (h.grant ‹_›).beginClause

theorem execLoadDataArrives_canonical (h : s.Canonical) : (execLoadDataArrives t op s).Canonical := by
  unfold execLoadDataArrives
  split
  · exact h
  split
  · exact h
  refine .ite h ?_
  split
  · exact h.setThread
  · exact h.setThread
  · exact h

theorem execFbrdDataArrives_canonical (h : s.Canonical) : (execFbrdDataArrives t op s).Canonical := by
  unfold execFbrdDataArrives
  split
  · exact h
  split
  · exact h
  refine .ite h ?_
  split
  · exact h.setThread
  · exact h
  · exact h

theorem execCopyLineLands_canonical (h : s.Canonical) : (execCopyLineLands hearth n line s).Canonical := by
  unfold execCopyLineLands
  split
  · exact h
  · exact .ite h h.modHearth.landLine

theorem execGrateStart_canonical (h : s.Canonical) : (execGrateStart k s).Canonical := by
  unfold execGrateStart
  dsimp only
  split
  · split
    · exact h
    split
    · exact h
    · exact .setHearth (.setThread (h.foldl .uncorrected))
  · exact h

theorem execGrateCompletion_canonical (h : s.Canonical) : (execGrateCompletion k s).Canonical := by
  unfold execGrateCompletion
  dsimp only
  split
  · split
    · exact h
    split
    · exact (State.Canonical.ite_right h .grateEffect).modGroup.modHearth.reap.reapGroup
    · exact h
  · exact h

theorem execHandoverComplete_canonical (h : s.Canonical) : (execHandoverComplete t va s).Canonical := by
  unfold execHandoverComplete
  split
  · exact h
  · exact h.threads.passLines

theorem execEmberRejoin_canonical (h : s.Canonical) : (execEmberRejoin t s).Canonical := by
  unfold execEmberRejoin
  split
  · exact h
  split
  · split
    · exact .ite h (State.Canonical.ite h.writeEmber.threads_cur.putEntries h.writeEmber.threads_cur.reselect)
    · exact h
  · exact h

theorem execGroupStepClose_canonical (h : s.Canonical) : (execGroupStepClose k s).Canonical := by
  unfold execGroupStepClose
  split
  · exact h
  · exact .ite h h.closeGroup.putRecs.reapGroup

theorem execGridStepClose_canonical (h : s.Canonical) : (execGridStepClose k s).Canonical := by
  unfold execGridStepClose
  split
  · exact h
  · exact .ite h h.closeGrid

theorem execHangWatchdog_canonical (h : s.Canonical) : (execHangWatchdog k s).Canonical := .ite h.hangFires h

theorem execStepWatchdog_canonical {grid : Bool} (h : s.Canonical) : (execStepWatchdog grid n s).Canonical := by
  refine .ite h.hangFires (h.restartDue.foldl fun h => ?_)
  split
  · exact h
  · exact .ite h h.waveTrap

theorem execRejoinTimeout_canonical (h : s.Canonical) : (execRejoinTimeout t s).Canonical := by
  unfold execRejoinTimeout
  split
  · exact h
  · exact .ite h h.setThread.takeTrapPath

/-! ## Launches -/

theorem execQueueDoorbell_canonical (h : s.Canonical) : (execQueueDoorbell die page n val s).Canonical := by
  refine .ite h.dropped ?_
  split
  · exact h.dropped
  · exact h.modContext

theorem execEventClearDoorbell_canonical (h : s.Canonical) : (execEventClearDoorbell die page val s).Canonical := by
  refine .ite h.dropped ?_
  split
  · exact h.dropped
  · exact h.clearEvent

theorem execPacketTake_canonical (h : s.Canonical) : (execPacketTake s).Canonical := by
  unfold execPacketTake
  split
  · exact h.take
  · exact h

theorem execGridPlace_canonical (h : s.Canonical) : (execGridPlace s).Canonical := by
  show State.Canonical (Option.getD _ _)
  cases hf : (s.serveWaiting s.waitingGrids).firstRound with
  | none => exact h.serveWaiting
  | some s' => exact h.serveWaiting.firstRound hf

theorem execGridComplete_canonical (h : s.Canonical) : (execGridComplete k s).Canonical := by
  refine .ite h ?_
  split
  · exact h
  · exact .ite_left (.endGrid (.dropGlobals (.modGrid (h.applyPeers.foldl .closeFinal)))) .signal

/-! ## Commands -/

theorem command_canonical {mine boot : Bool} {f : State → State × Reply} (h : s.Canonical)
    (hf : ∀ {s}, s.Canonical → (f s).1.Canonical) : (command die c mine boot s f).Canonical :=
  .ite h <| .ite (.ite (h.runCmd hf) h.dropped) <| .ite h.modDie.dropped <| .ite (h.runCmd id) (h.runCmd hf)

theorem cfgDie_canonical {ok : Bool} {old : State → DWord} {set : State → State} (h : s.Canonical)
    (hset : ∀ {s}, s.Canonical → (set s).Canonical) : (cfgDie die c n s ok old set).Canonical :=
  command_canonical h fun h => .fst_ite h (hset h)

theorem cfgCtx_canonical {ok : Bool} {old : Context → DWord} {set : Context → Context} (h : s.Canonical) :
    (cfgCtx die c n s ok old set).Canonical :=
  command_canonical h fun h => .fst_ite h (h.withCtx h.setContext)

theorem connSet_canonical {g : Conn → Conn} (h : s.Canonical) : (connSet die c n s g).Canonical :=
  command_canonical h fun h => .fst_ite h (.fst_ite h h.modFlue)

theorem power_canonical (h : s.Canonical) : (power die c n s).Canonical :=
  command_canonical h fun h => .fst_ite h <| .fst_ite h <| .fst_ite h <| .fst_ite h h.modDie

theorem execCtxCreate_canonical (h : s.Canonical) : (execCtxCreate die c s).Canonical :=
  command_canonical h fun h => .fst_ite h (h.whenReached h.createAt)

theorem execCtxDestroy_canonical (h : s.Canonical) : (execCtxDestroy die c s).Canonical :=
  command_canonical h fun h => .fst_ite h (h.withCtx (.fst_ite h h.endGrids.clearContext))

theorem execQueueSet_canonical (h : s.Canonical) : (execQueueSet die c s).Canonical :=
  command_canonical h fun h => .fst_ite h (h.withCtx h.setContext)

theorem execWaveResume_canonical (h : s.Canonical) : (execWaveResume die c s).Canonical :=
  command_canonical h fun h => by
    refine .fst_ite h (h.withCtx (.fst_ite h (.fst_ite h ?_)))
    split
    · exact h.modThread
    · exact h

theorem execInvalidate_canonical (h : s.Canonical) : (execInvalidate die c s).Canonical :=
  command_canonical h fun h => .fst_ite h (h.withCtx h)

theorem execInvalidateComplete_canonical (h : s.Canonical) : (execInvalidateComplete die s).Canonical := by
  unfold execInvalidateComplete
  split
  · exact h
  · exact .ite h h.modDie.finish

theorem execPstateChangeDone_canonical (h : s.Canonical) : (execPstateChangeDone die s).Canonical := by
  unfold execPstateChangeDone
  split
  · exact h.modDie
  · exact h

theorem execCountsRead_canonical (h : s.Canonical) : (execCountsRead die c s).Canonical :=
  command_canonical h fun h => .fst_ite h (h.whenReached h.countsAt)

theorem execNotifySet_canonical (h : s.Canonical) : (execNotifySet die c s).Canonical :=
  command_canonical h fun h => .fst_ite h h.setNotify

theorem execInboxSet_canonical (h : s.Canonical) : (execInboxSet die c s).Canonical :=
  command_canonical h fun h => .fst_ite h h

theorem execPeerId_canonical (h : s.Canonical) : (execPeerId die c s).Canonical :=
  command_canonical h fun h => .fst_ite h h

theorem execFlashWrite_canonical (h : s.Canonical) : (execFlashWrite die c s).Canonical :=
  command_canonical h fun h => .fst_ite h (h.whenReached h.flashAt)

theorem execBar0WriteOther_canonical (h : s.Canonical) : (execBar0WriteOther die off val s).Canonical :=
  .ite h <| .ite h.modDie <| .ite h.dropped <| .ite h.modDie.flushMsix h.dropped

theorem execHostMemoryRequest_canonical {write : Bool} {data : List Byte} (h : s.Canonical) :
    (execHostMemoryRequest die write n data s).Canonical :=
  .ite h.dropped <| .ite h <| .ite (.ite_right h.touchPa.storeMem .noticeLines) h.noteLostAt.touchPa

/-! ## Saves, restores and resets -/

theorem execPreempt_canonical (h : s.Canonical) : (execPreempt die c s).Canonical :=
  command_canonical h fun h => .fst_ite h <| h.withCtx <| .fst_ite h <| .fst_ite h <| .fst_ite h <|
    .modContext (h.returnTaken.foldl .modGrid)

theorem execSaveBegin_canonical (h : s.Canonical) : (execSaveBegin n s).Canonical := by
  unfold execSaveBegin
  split
  · exact h
  · exact .ite h h.modContext

theorem execSaveDone_canonical (h : s.Canonical) : (execSaveDone n s).Canonical := by
  unfold execSaveDone
  split
  · exact h
  · exact .ite h h.writeAt.removeSaved.saves.modContext.notifyCtx

theorem execPretmoExpiry_canonical (h : s.Canonical) : (execPretmoExpiry n s).Canonical := by
  unfold execPretmoExpiry
  split
  · exact h
  · exact .ite h (h.foldl .modGrid)

theorem execCpytmoExpiry_canonical (h : s.Canonical) : (execCpytmoExpiry n s).Canonical := by
  unfold execCpytmoExpiry
  split
  · exact h
  · exact .ite h h.loseContext

theorem execSavetmoExpiry_canonical (h : s.Canonical) : (execSavetmoExpiry n s).Canonical := by
  unfold execSavetmoExpiry
  split
  · exact h
  · exact .ite h h.loseContext

theorem execRestore_canonical (h : s.Canonical) : (execRestore die c s).Canonical :=
  command_canonical h fun h => by
    refine .fst_ite h (h.withCtx (.fst_ite h ?_))
    split
    · exact .fst_ite h h.saves.modContext
    · exact h

theorem execRestoreStart_canonical (h : s.Canonical) : (execRestoreStart base s).Canonical := by
  unfold execRestoreStart
  split
  · exact h
  · exact .ite h h

theorem execRestoreDone_canonical (h : s.Canonical) : (execRestoreDone base s).Canonical := by
  unfold execRestoreDone
  split
  · exact h
  · exact .ite h (.notifyCtx (.modContext h))

theorem execDieReset_canonical (h : s.Canonical) : (execDieReset die c s).Canonical :=
  command_canonical h fun h => .fst_ite h h.resetDie

theorem execFunctionLevelReset_canonical (h : s.Canonical) : (execFunctionLevelReset die s).Canonical := .ite h h.resetDie

theorem execDieTrip_canonical {overTemp : Bool} (h : s.Canonical) : (execDieTrip die overTemp s).Canonical := by
  unfold execDieTrip
  split
  · exact h.tripDie.notify
  · exact h.tripDie.notify
  all_goals exact h

theorem execFlueDieTrip_canonical {overTemp : Bool} (h : s.Canonical) : (execFlueDieTrip f overTemp s).Canonical :=
  .ite h (.modFlue (.foldl (.foldl ((h.foldl .loseContext).foldl .tripDie) .modStack) .notify))

theorem execPowerGood_canonical (h : s.Canonical) : (execPowerGood s).Canonical := .ite (.runStages h) h

theorem execPowerGoodTimeout_canonical (h : s.Canonical) : (execPowerGoodTimeout s).Canonical := .ite h.failStage h

theorem execModuleReset_canonical (h : s.Canonical) : (execModuleReset die c s).Canonical :=
  .ite h.moduleReset (command_canonical h id)

/-! ## Peers, links, pages and banks -/

theorem execPeerLineArrives_canonical {o : BitVec 44} {data : PeerData} (h : s.Canonical) :
    (execPeerLineArrives port o data s).Canonical := by
  refine .ite h ?_
  split
  · exact .ite h h
  · exact .errRec h.noteInbox

theorem execPeerLineAck_canonical (h : s.Canonical) : (execPeerLineAck hearth n line s).Canonical := by
  unfold execPeerLineAck
  split
  · exact h
  · exact .ite h.landLine h

theorem execPeerLineTimeout_canonical {l : PeerEnd} (h : s.Canonical) : (execPeerLineTimeout hearth n l s).Canonical := by
  unfold execPeerLineTimeout
  split
  · exact h
  split
  · exact h
  · exact .ite h h.uncorrected.landLine

theorem execCxlTimeout_canonical (h : s.Canonical) : (execCxlTimeout t op s).Canonical := by
  unfold execCxlTimeout
  split
  · exact h
  dsimp only
  split
  · exact h.timeoutLoad
  · exact h.timeoutCopy
  · split
    · exact h.timeoutGrate
    · exact h

theorem execPageWalk_canonical (h : s.Canonical) : (execPageWalk die n va s).Canonical := by
  unfold execPageWalk
  split
  · exact h
  refine .ite h ?_
  split
  · exact h.putLast
  · exact h.noteWalk
  · exact h.noteWalk
  · exact h

theorem execPinFadePeriod_canonical (h : s.Canonical) : (execPinFadePeriod n pin s).Canonical := .ite_left h.modContext .unpinPages

theorem execHbmAccess_canonical {write : Bool} (h : s.Canonical) : (execHbmAccess stack bank row write s).Canonical := .ite h h.modStack

theorem execRetryReissue_canonical (h : s.Canonical) : (execRetryReissue stack bank s).Canonical := .ite h h.modStack

end Sys2Proof.Machine
end

section
/-! SUPPORT (log 4). Every instruction and every event keeps the canonical form, and so does every step of the machine. -/

namespace Sys2Proof.Machine

/-- One arm for each shape that instructions share, and one for each instruction and event that has a shape of its own. -/
theorem exec_canonical {s : State} (h : s.Canonical) (i : Instr) : Out.Canonical (exec i s) := by
  unfold exec
  cases i with
  | clauseStart => exact execClauseStart_canonical h
  | smov | smovi | smovhi | sadd | saddi | ssub | smul | smulh | smulhu | sand | sor | sxor | snot | sshl | sshr | ssar | smin | smax |
    sminu | smaxu | scmp | scmpu | ssel | spopc | sclz =>
    exact scalarOp_canonical h
  | sld => exact execSld_canonical h
  | sldk => exact execSldk_canonical h
  | sget => exact execSget_canonical h
  | sset => exact execSset_canonical h
  | setfmt | pause => exact issue_canonical h fun h => h.retirePath
  | sreadlane | vvote | vballot | vcompact | nop | csrr => exact issue_canonical h fun h => h.retire
  | vmov | vmovi | vadd | vaddi | vsub | vmul | vmulh | vmulhu | vmad | vand | vor | vxor | vnot | vshl | vshr | vsar | vmin | vmax |
    vminu | vmaxu | vabs | vneg | vsel | vpopc | vclz | vbrev | vbfe | vbfi =>
    exact vectorOp_canonical h
  | vcmp | vcmpu | pand | por | pxor | pnot => exact predicateOp_canonical h
  | vadd64 | vsub64 | vmul64 | vshl64 => exact vectorOp64_canonical h
  | vfadd | vfsub | vfmul | vffma | vfmin | vfmax | vfabs | vfneg | vfclass | vfdiv | vfsqrt | vfrcp | vfrsq | vfexp2 | vflog2 | vfsinpi
    | vfcospi | vfrnd =>
    exact f32Op_canonical h
  | vfcmp | vscan => exact issue_canonical h fun h => h.retireFl
  | vhadd | vhmul | vhfma | vbadd | vbmul | vbfma => exact f16Op_canonical h
  | vcvt => exact floatOp_canonical h
  | vshfl | vbcast => exact crossOp_canonical h
  | vreduce => exact execVreduce_canonical h
  | ld => exact execLd_canonical h
  | ldu => exact execLdu_canonical h
  | loadDataArrives => exact execLoadDataArrives_canonical h
  | st => exact execSt_canonical h
  | stf => exact execStf_canonical h
  | stl => exact execStl_canonical h
  | pref => exact issue_canonical h fun h => h.noteMalformed.fills.touched.retire
  | stepw | stepg => exact stepOp_canonical h
  | tdef => exact execTdef_canonical h
  | tfree => exact execTfree_canonical h
  | tstate => exact tileOp_canonical h fun h => h.retire
  | cpin => exact execCpin_canonical h
  | cpout => exact execCpout_canonical h
  | cptt => exact execCptt_canonical h
  | copyLineLands => exact execCopyLineLands_canonical h
  | cwait => exact execCwait_canonical h
  | wbind => exact execWbind_canonical h
  | wunbind => exact issue_canonical h fun h => h.uid.modGrid.retire
  | pin => exact execPin_canonical h
  | unpin => exact issue_canonical h fun h => h.unpinPages.modContext.retire
  | mmip | mmop | mmrw => exact matrixOp_canonical h
  | mmldb => exact execMmldb_canonical h
  | mmzero => exact grateOp_canonical h fun h => .ite h.stallHere h.enqueue
  | mmlda => exact execMmlda_canonical h
  | mmdrain => exact execMmdrain_canonical h
  | vqlut => exact execVqlut_canonical h
  | spdg => exact execSpdg_canonical h
  | grateStart => exact execGrateStart_canonical h
  | grateCompletion => exact execGrateCompletion_canonical h
  | fbopen => exact grateOp_canonical h fun h => gate_pass_canonical h h.retire
  | fbadv => exact execFbadv_canonical h
  | fbend | fbclose => exact grateOp_canonical h fun h => h.retire
  | fbrd => exact execFbrd_canonical h
  | fbrdDataArrives => exact execFbrdDataArrives_canonical h
  | br | call => exact issue_canonical h fun h => h.jump
  | brc => exact issue_canonical h fun h => h.branch
  | jt => exact execJt_canonical h
  | join => exact execJoin_canonical h
  | ret => exact issue_canonical h fun h => .ite h.trapHere h.jump
  | exit => exact execExit_canonical h
  | trap | bkpt => exact trapOp_canonical h
  | rte => exact execRte_canonical h
  | live => exact execLive_canonical h
  | mark => exact execMark_canonical h
  | launch => exact execLaunch_canonical h
  | evsig => exact issue_canonical h fun h => h.addSysOp.retire
  | csrw => exact execCsrw_canonical h
  | handoverComplete => exact execHandoverComplete_canonical h
  | emberRejoin => exact execEmberRejoin_canonical h
  | gridStepClose => exact execGridStepClose_canonical h
  | groupStepClose => exact execGroupStepClose_canonical h
  | stepWatchdog => exact execStepWatchdog_canonical h
  | hangWatchdog => exact execHangWatchdog_canonical h
  | rejoinTimeout => exact execRejoinTimeout_canonical h
  | queueDoorbell => exact execQueueDoorbell_canonical h
  | eventClearDoorbell => exact execEventClearDoorbell_canonical h
  | packetTake => exact execPacketTake_canonical h
  | gridPlace => exact execGridPlace_canonical h
  | groupPlaceDeferred => exact h.serveWaiting
  | gridComplete => exact execGridComplete_canonical h
  | ctxCreate => exact execCtxCreate_canonical h
  | ctxDestroy => exact execCtxDestroy_canonical h
  | queueSet => exact execQueueSet_canonical h
  | preempt => exact execPreempt_canonical h
  | saveBegin => exact execSaveBegin_canonical h
  | saveDone => exact execSaveDone_canonical h
  | pretmoExpiry => exact execPretmoExpiry_canonical h
  | cpytmoExpiry => exact execCpytmoExpiry_canonical h
  | savetmoExpiry => exact execSavetmoExpiry_canonical h
  | restore => exact execRestore_canonical h
  | restoreStart => exact execRestoreStart_canonical h
  | restoreDone => exact execRestoreDone_canonical h
  | invalidate => exact execInvalidate_canonical h
  | invalidateComplete => exact execInvalidateComplete_canonical h
  | waveResume => exact execWaveResume_canonical h
  | connDown | connUp | connSetWl => exact connSet_canonical h
  | circuitDrained | circuitUp => exact .ite h.modFlue h
  | powerPstate | powerBudget | powerIdle => exact power_canonical h
  | pstateChangeDone => exact execPstateChangeDone_canonical h
  | cfgDtbase | cfgDtsize | cfgRlbase | cfgRlsize | cfgElbase | cfgElsize | cfgCpytmo | cfgSavetmo | cfgPretmo =>
    exact cfgDie_canonical h fun h => h.modDie
  | cfgCxltmo | cfgPeertmo | cfgActmax => exact cfgDie_canonical h fun h => h.modFlue
  | cfgSteplimit | cfgHanglimit | cfgCtxcfg | cfgTba | cfgFpolicy => exact cfgCtx_canonical h
  | countsRead => exact execCountsRead_canonical h
  | dieReset => exact execDieReset_canonical h
  | functionLevelReset => exact execFunctionLevelReset_canonical h
  | moduleReset => exact execModuleReset_canonical h
  | notifySet => exact execNotifySet_canonical h
  | inboxSet => exact execInboxSet_canonical h
  | peerId => exact execPeerId_canonical h
  | flashWrite => exact execFlashWrite_canonical h
  | bar0WriteOther => exact execBar0WriteOther_canonical h
  | hostMemoryRequest => exact execHostMemoryRequest_canonical h
  | peerLineArrives => exact execPeerLineArrives_canonical h
  | peerLineAck => exact execPeerLineAck_canonical h
  | peerLineTimeout => exact execPeerLineTimeout_canonical h
  | cxlTimeout => exact execCxlTimeout_canonical h
  | cxlLinkDown => exact h.setPort
  | pageWalk => exact execPageWalk_canonical h
  | pinFadePeriod => exact execPinFadePeriod_canonical h
  | hbmAccess => exact execHbmAccess_canonical h
  | hbmRefresh | refreshEnd => exact h.modStack
  | retryReissue => exact execRetryReissue_canonical h
  | dieTrip => exact execDieTrip_canonical h
  | flueDieTrip => exact execFlueDieTrip_canonical h
  | powerOn => exact h.moduleReset
  | powerGoodTimeout => exact execPowerGoodTimeout_canonical h
  | powerGood => exact execPowerGood_canonical h
  | cxlLinkUp => exact h
  | peerLinkPortDown | peerLinkPortUp => exact h.modFlue
  | tdispStateChange | ideStreamKeyed => exact .ite h.modDie h
  | unknownCommandCode => exact command_canonical h id
  | cmddbWriteWhileBusy => exact .ite h.dropped h
  | pauseEnd => exact h.modThread

theorem runThread_canonical {s : State} {t : Nat} {w : Thread} (h : s.Canonical) : Out.Canonical (s.runThread t w) := by
  refine .ite h.ctlLost ?_
  split
  · split
    · exact exec_canonical h.noteRead.turnTo _
    · exact h.trapOver h.noteRead
    · exact h.stallHere
  · exact h.setThread

theorem runEvent_canonical {s : State} {i : Instr} (h : s.Canonical) : Out.Canonical (s.runEvent i) := by
  refine .ite h ?_
  have ran := exec_canonical h i
  split
  · rename_i s' he
    exact (ran.next he).unstall
  · trivial
  · trivial

theorem step_canonical {s : State} (h : s.Canonical) : Out.Canonical (step s) := by
  unfold step
  dsimp only
  split
  · exact runEvent_canonical h.pass
  split
  · exact runThread_canonical h.pass
  split
  · exact runEvent_canonical h.pass
  split
  · rename_i s' i he
    have chosen : s'.Canonical := h.pass.schedule.fst_of_eq he
    exact runEvent_canonical chosen.turn
  · rename_i s' he
    have chosen : s'.Canonical := h.pass.schedule.fst_of_eq he
    exact chosen.unstall.turn

end Sys2Proof.Machine
end

section
/-! OBLIGATION O60. -/

namespace Sys2Proof.Machine

/-- Settles O60: the canonical form of the three memories together is an invariant of `step`. -/
theorem memoryCanonical : Obligations.MemoryCanonical := by
  unfold Obligations.MemoryCanonical
  intro s s' hmem hhost hflash hstep
  have start : s.Canonical := ⟨hmem, hhost, hflash⟩
  exact (step_canonical start).next hstep

end Sys2Proof.Machine
end

section
/-! SUPPORT (02 R26 to R28). An order-independent sum of members that are no NaN is the same for every order of them. -/

namespace Sys2Proof.Machine

/-- What `oisum` answers of finite members, not all of them zero, in units of 2^ue (02 R26). -/
def oiUnitSum (members : List FVal) (ue : Int) : OiSum × Fl :=
  let us := members.map (oiUnits ue)
  let s : Int := us.foldl (fun a u => a + u.1) 0
  let fl := if us.any (·.2) then flNx else flNone
  if s = 0 then (.zero, fl) else (.num (decide (s < 0)) s.natAbs ue, fl)

/-- The sum of members none of which is a NaN: its unit is the greatest exponent's, of which the list's order is no part. -/
theorem oisum_of_no_nan {members : List FVal} (h : ∀ x ∈ members, x.isNan = false) (w : Nat) :
    oisum members w =
      if (members.any (· == .inf false) && members.any (· == .inf true)) = true then (.nan fp32.defaultNan, flNv)
      else if (members.any (· == .inf false) || members.any (· == .inf true)) = true
        then (.inf (members.any (· == .inf true)), flNone)
      else match (members.filterMap oiExp).max? with
        | none => (.zero, flNone)
        | some top => oiUnitSum members (top - w) := by
  have hfind : members.find? (·.isNan) = none := List.find?_eq_none.mpr (by simpa using h)
  unfold oisum
  rw [hfind]
  cases members.filterMap oiExp <;> rfl

theorem oiUnitSum_perm {l k : List FVal} (h : l.Perm k) (ue : Int) : oiUnitSum l ue = oiUnitSum k ue := by
  have hmap := h.map (oiUnits ue)
  have hsum := hmap.foldl_eq' (f := fun (a : Int) u => a + u.1) (fun x _ y _ a => by omega) 0
  have hany : (l.map (oiUnits ue)).any (·.2) = (k.map (oiUnits ue)).any (·.2) := hmap.any_eq
  simp only [oiUnitSum, hsum, hany]

theorem max?_perm {l k : List Int} (h : l.Perm k) : l.max? = k.max? := by
  ext a
  simp only [List.max?_eq_some_iff, h.mem_iff]

theorem oisum_perm {l k : List FVal} (h : l.Perm k) (hn : ∀ x ∈ l, x.isNan = false) (w : Nat) : oisum l w = oisum k w := by
  have hk : ∀ x ∈ k, x.isNan = false := fun x hx => hn x (h.mem_iff.mpr hx)
  simp only [oisum_of_no_nan hn, oisum_of_no_nan hk, h.any_eq, max?_perm (h.filterMap oiExp), oiUnitSum_perm h]

theorem oiFinish_perm {l k : List FVal} (h : l.Perm k) (hn : ∀ x ∈ l, x.isNan = false) (w : Nat) :
    oiFinish l w = oiFinish k w := by
  have hnil : (l != []) = (k != []) := by
    rw [Bool.eq_iff_iff, bne_iff_ne, bne_iff_ne, ne_eq, ne_eq]
    exact not_congr ⟨fun e => (e ▸ h).symm.eq_nil, fun e => (e ▸ h).eq_nil⟩
  unfold oiFinish
  rw [oisum_perm h hn, h.all_eq, hnil]

end Sys2Proof.Machine
end

section
/-! OBLIGATION O17. -/

namespace Sys2Proof.Machine

/-- Settles O17: the members' decoded values are a permutation of each other, and `oiFinish` sees no more than that. -/
theorem sumsIgnoreOrder : Obligations.SumsIgnoreOrder := by
  unfold Obligations.SumsIgnoreOrder
  intro l k h hn
  have hvals := (h.map (·.toNat)).map fp32.decode
  have hnan : ∀ v ∈ (l.map (·.toNat)).map fp32.decode, v.isNan = false := by simpa using hn
  simp only [reduce, oiFinish_perm hvals hnan]

end Sys2Proof.Machine
end

section
/-! OBLIGATION O36. -/

namespace Sys2Proof.Machine

/-- Dropping the zeros of both operands beforehand leaves the members of an element as they are (02 R29 step 1). -/
theorem gMembers_drop_zeros (af bf : Nat) (row : List (Nat × Nat)) (b : Nat → Option Nat) :
    gMembers af bf (row.filter fun x => !gZero af x.2) (fun k => (b k).filter fun y => !gZero bf y) = gMembers af bf row b := by
  unfold gMembers
  rw [List.filterMap_filter]
  congr 1
  funext ⟨k, x⟩
  cases hb : b k with
  | none => simp [hb]
  | some y =>
    by_cases hx : gZero af x = true
    · simp [hb, hx]
    · by_cases hy : gZero bf y = true
      · simp [hb, hx, hy, Option.filter]
      · simp [hb, hx, hy, Option.filter]

/-- Settles O36: every element of both products has the same members. -/
theorem sparseEqualsDense : Obligations.SparseEqualsDense := by
  unfold Obligations.SparseEqualsDense
  intro acc af bf row b init
  simp only [gMatrix, gMembers_drop_zeros]

end Sys2Proof.Machine
end

section
/-! SUPPORT (02 R13 to R16). The codes of NaN in the arithmetic formats, and what an operation delivers of NaN operands. -/

namespace Sys2Proof.Machine

/-- The exponent of all ones holds infinity and NaN, and every code below it is finite (02 Table 2.2). -/
structure Fmt.Ieee (f : Fmt) : Prop where
  inf : f.inf = true
  top : f.top + 1 = f.infCode
  mbPos : 0 < f.mb
  mbLe : f.mb ≤ 23

theorem ieee_of_arith {f : Fmt} (h : f = fp32 ∨ f = fp16 ∨ f = bf16) : f.Ieee := by
  rcases h with rfl | rfl | rfl <;> exact ⟨rfl, by decide, by decide, by decide⟩

/-- A code is its sign bit and its magnitude. -/
theorem Fmt.sign_add_mag {f : Fmt} {x : Nat} (hx : x < 2 ^ f.width) :
    f.sign (x.testBit (f.eb + f.mb)) + x % 2 ^ (f.eb + f.mb) = x := by
  have hwidth : 2 ^ f.width = 2 ^ (f.eb + f.mb) * 2 := by rw [← Nat.pow_succ, Fmt.width]; congr 1; omega
  have htop : x / 2 ^ (f.eb + f.mb) < 2 := Nat.div_lt_of_lt_mul (hwidth ▸ hx)
  have hdiv := Nat.div_add_mod x (2 ^ (f.eb + f.mb))
  obtain h | h : x / 2 ^ (f.eb + f.mb) = 0 ∨ x / 2 ^ (f.eb + f.mb) = 1 :=
    Nat.le_one_iff_eq_zero_or_eq_one.mp (Nat.le_of_lt_succ htop)
  all_goals
    rw [h] at hdiv
    simp only [Nat.testBit_eq_decide_div_mod_eq, h, Fmt.sign]
    simpa using hdiv

/-- What the code of a NaN consists of: its sign, an exponent of all ones, and its mantissa (02 R15). -/
theorem Fmt.Ieee.nan_code {f : Fmt} (hf : f.Ieee) {x : Nat} (hx : x < 2 ^ f.width) {n s : Bool} {p : Nat}
    (h : f.decode x = .nan n s p) : p = x % 2 ^ f.mb * 2 ^ (23 - f.mb) ∧ x = f.sign n + (f.infCode + x % 2 ^ f.mb) := by
  have hsum := Fmt.sign_add_mag hx
  have hmant : x % 2 ^ (f.eb + f.mb) % 2 ^ f.mb = x % 2 ^ f.mb := Nat.mod_mod_of_dvd x (Nat.pow_dvd_pow 2 (Nat.le_add_left _ _))
  unfold Fmt.decode at h
  simp only [hf.inf, hmant, Bool.not_true, Bool.false_eq_true, if_false] at h
  split at h
  · split at h <;> cases h
  next hbig =>
  split at h
  · cases h
  obtain ⟨rfl, -, rfl⟩ := FVal.nan.inj h
  refine ⟨rfl, ?_⟩
  have hexp : x % 2 ^ (f.eb + f.mb) / 2 ^ f.mb = 2 ^ f.eb - 1 := by
    have hlow : 2 ^ f.eb - 1 ≤ x % 2 ^ (f.eb + f.mb) / 2 ^ f.mb :=
      (Nat.le_div_iff_mul_le (Nat.two_pow_pos _)).mpr (by have := hf.top; unfold Fmt.infCode at this; omega)
    have hhigh : x % 2 ^ (f.eb + f.mb) / 2 ^ f.mb < 2 ^ f.eb :=
      Nat.div_lt_of_lt_mul (by rw [← Nat.pow_add, Nat.add_comm f.mb]; exact Nat.mod_lt _ (Nat.two_pow_pos _))
    omega
  have hmag := Nat.div_add_mod (x % 2 ^ (f.eb + f.mb)) (2 ^ f.mb)
  rw [hexp, hmant, Nat.mul_comm] at hmag
  rw [Fmt.infCode, hmag, hsum]

/-- The quiet form of a NaN is its code with the top bit of the mantissa set (02 R15). -/
theorem Fmt.Ieee.quiet_of_nan {f : Fmt} (hf : f.Ieee) {x : Nat} (hx : x < 2 ^ f.width) {n s : Bool} {p : Nat}
    (h : f.decode x = .nan n s p) : f.quiet n p = x ||| 2 ^ (f.mb - 1) := by
  obtain ⟨rfl, hcode⟩ := hf.nan_code hx h
  have hm : x % 2 ^ f.mb < 2 ^ f.mb := Nat.mod_lt _ (Nat.two_pow_pos _)
  have hq : 2 ^ (f.mb - 1) < 2 ^ f.mb := Nat.pow_lt_pow_right (by decide) (by have := hf.mbPos; omega)
  have hor : 2 ^ (f.mb - 1) ||| x % 2 ^ f.mb < 2 ^ f.mb := Nat.or_lt_two_pow hq hm
  obtain ⟨c, hc⟩ : ∃ c, f.sign n = 2 ^ f.mb * c := by
    cases n
    · exact ⟨0, rfl⟩
    · exact ⟨2 ^ f.eb, by rw [Fmt.sign, if_pos rfl, Nat.pow_add, Nat.mul_comm]⟩
  have hinf : f.infCode = 2 ^ f.mb * (2 ^ f.eb - 1) := Nat.mul_comm _ _
  calc f.quiet n (x % 2 ^ f.mb * 2 ^ (23 - f.mb))
      = f.sign n + (f.infCode ||| (2 ^ (f.mb - 1) ||| x % 2 ^ f.mb)) := by
        rw [Fmt.quiet, Nat.mul_div_cancel _ (Nat.two_pow_pos _), Nat.or_assoc]
    _ = 2 ^ f.mb * (c + (2 ^ f.eb - 1)) + (x % 2 ^ f.mb ||| 2 ^ (f.mb - 1)) := by
        rw [hinf, ← Nat.two_pow_add_eq_or_of_lt hor, hc, ← Nat.add_assoc, ← Nat.mul_add, Nat.or_comm]
    _ = (2 ^ f.mb * (c + (2 ^ f.eb - 1)) + x % 2 ^ f.mb) ||| 2 ^ (f.mb - 1) := by
        rw [Nat.or_comm] at hor
        rw [Nat.two_pow_add_eq_or_of_lt hor, Nat.two_pow_add_eq_or_of_lt hm, Nat.or_assoc]
    _ = x ||| 2 ^ (f.mb - 1) := by rw [Nat.mul_add, ← hc, ← hinf, Nat.add_assoc, ← hcode]

/-- What NaN operands deliver, of their codes (02 R16). -/
theorem Fmt.Ieee.nanOf_codes {f : Fmt} (hf : f.Ieee) {l : List Nat} (hl : ∀ x ∈ l, x < 2 ^ f.width) :
    f.nanOf (l.map f.decode) = (l.find? fun x => (f.decode x).isNan).map fun x =>
      (x ||| 2 ^ (f.mb - 1), if l.any (fun x => (f.decode x).signals) = true then flNv else flNone) := by
  unfold Fmt.nanOf
  rw [List.find?_map, Option.map_map, List.any_map]
  refine Option.map_congr fun x hx => ?_
  have hnan := List.find?_some hx
  have hlt := hl x (List.mem_of_find?_eq_some hx)
  simp only [Function.comp_apply] at hnan ⊢
  split
  next n s p hd => rw [hf.quiet_of_nan hlt hd]; rfl
  next hd => rw [hd] at hnan; cases hnan
  next hd => rw [hd] at hnan; cases hnan

/-- The first NaN of two operands decides what the operation delivers. -/
theorem Fmt.Ieee.nanOf_pair {f : Fmt} (hf : f.Ieee) {a b : Nat} (ha : a < 2 ^ f.width) (hb : b < 2 ^ f.width)
    (h : ((f.decode a).isNan || (f.decode b).isNan) = true) (y : FRes) :
    (f.nanOf [f.decode a, f.decode b]).getD y =
      ((if (f.decode a).isNan = true then a else b) ||| 2 ^ (f.mb - 1),
        if ((f.decode a).signals || (f.decode b).signals) = true then flNv else flNone) := by
  have codes := hf.nanOf_codes (l := [a, b]) (by simp [ha, hb])
  simp only [List.map_cons, List.map_nil] at codes
  rw [codes]
  cases hna : (f.decode a).isNan
  · have hnb : (f.decode b).isNan = true := by simpa [hna] using h
    simp [hna, hnb]
  · simp [hna]

/-- The first NaN of three operands decides what the operation delivers. -/
theorem Fmt.Ieee.nanOf_triple {f : Fmt} (hf : f.Ieee) {a b c : Nat} (ha : a < 2 ^ f.width) (hb : b < 2 ^ f.width)
    (hc : c < 2 ^ f.width) (h : ((f.decode a).isNan || (f.decode b).isNan || (f.decode c).isNan) = true) (y : FRes) :
    (f.nanOf [f.decode a, f.decode b, f.decode c]).getD y =
      ((if (f.decode a).isNan = true then a else if (f.decode b).isNan = true then b else c) ||| 2 ^ (f.mb - 1),
        if ((f.decode a).signals || (f.decode b).signals || (f.decode c).signals) = true then flNv else flNone) := by
  have codes := hf.nanOf_codes (l := [a, b, c]) (by simp [ha, hb, hc])
  simp only [List.map_cons, List.map_nil] at codes
  rw [codes]
  cases hna : (f.decode a).isNan
  · cases hnb : (f.decode b).isNan
    · have hnc : (f.decode c).isNan = true := by simpa [hna, hnb] using h
      simp [hna, hnb, hnc, Bool.or_assoc]
    · simp [hna, hnb, Bool.or_assoc]
  · simp [hna, Bool.or_assoc]

end Sys2Proof.Machine
end

section
/-! OBLIGATION O11. -/

namespace Sys2Proof.Machine

/-- Settles O11: each operation asks `nanOf` of its operands' values first. -/
theorem nanOperands : Obligations.NanOperands := by
  unfold Obligations.NanOperands
  intro f mode r a b c hf ha hb hc
  have hi := ieee_of_arith hf
  refine ⟨fun h => hi.nanOf_pair ha hb h _, fun h => hi.nanOf_pair ha hb h _, fun h => hi.nanOf_pair ha hb h _, ?_,
    fun h => hi.nanOf_triple ha hb hc h _⟩
  rintro rfl h
  exact hi.nanOf_pair ha hb h _

end Sys2Proof.Machine
end

section
/-! SUPPORT (02 R21, R23). A magnitude cut at a place: an exact one in units of any size, and one known down to a place. -/

namespace Sys2Proof.Machine

/-- From place u to place w through place v. -/
theorem two_pow_span {u v w : Int} (huv : u ≤ v) (hvw : v ≤ w) : 2 ^ (w - u).toNat = 2 ^ (w - v).toNat * 2 ^ (v - u).toNat := by
  rw [← Nat.pow_add]
  congr 1
  omega

/-! ## A magnitude cut at a place -/

theorem cut_of_le {v : Mag} {q : Int} (h : q ≤ v.e) : v.cut q = ⟨v.m * 2 ^ (v.e - q).toNat, 0, 0, v.st⟩ := if_pos h

theorem cut_of_lt {v : Mag} {q : Int} (h : v.e < q) :
    v.cut q = ⟨v.m / 2 ^ (q - v.e).toNat, v.m % 2 ^ (q - v.e).toNat * 2 ^ 32 / 2 ^ (q - v.e).toNat,
      if (decide (2 ^ (q - v.e).toNat < 2 * (v.m % 2 ^ (q - v.e).toNat))
          || (2 ^ (q - v.e).toNat == 2 * (v.m % 2 ^ (q - v.e).toNat) && v.st)) = true then 2
        else if 2 ^ (q - v.e).toNat = 2 * (v.m % 2 ^ (q - v.e).toNat) then 1 else 0,
      v.m % 2 ^ (q - v.e).toNat != 0 || v.st⟩ := if_neg (Int.not_le.mpr h)

/-- `x` small units cut at whole units of `gap` small ones. -/
def exactCut (x gap : Nat) : Cut :=
  ⟨x / gap, x % gap * 2 ^ 32 / gap, if gap < 2 * (x % gap) then 2 else if gap = 2 * (x % gap) then 1 else 0, x % gap != 0⟩

/-- The size of the small unit does not matter. -/
theorem exactCut_mul_right (x gap : Nat) {c : Nat} (hc : 0 < c) : exactCut (x * c) (gap * c) = exactCut x gap := by
  have hlt : gap * c < 2 * (x % gap * c) ↔ gap < 2 * (x % gap) := by rw [← Nat.mul_assoc, Nat.mul_lt_mul_right hc]
  have heq : gap * c = 2 * (x % gap * c) ↔ gap = 2 * (x % gap) := by rw [← Nat.mul_assoc, Nat.mul_left_inj (by omega)]
  have hf : x % gap * c * 2 ^ 32 / (gap * c) = x % gap * 2 ^ 32 / gap := by
    rw [Nat.mul_right_comm, Nat.mul_div_mul_right _ _ hc]
  have hinx : (x % gap * c != 0) = (x % gap != 0) := by
    rw [Bool.eq_iff_iff, bne_iff_ne, bne_iff_ne, Nat.mul_ne_zero_iff]
    exact and_iff_left (by omega)
  simp only [exactCut, Nat.mul_div_mul_right _ _ hc, Nat.mul_mod_mul_right, hlt, heq, hf, hinx]

/-- An exact magnitude is cut as its units of any place u that is low enough are. -/
theorem cut_exact (m : Nat) {e q u : Int} (he : u ≤ e) (hq : u ≤ q) :
    (Mag.mk m e false).cut q = exactCut (m * 2 ^ (e - u).toNat) (2 ^ (q - u).toNat) := by
  by_cases h : q ≤ e
  · have scale := exactCut_mul_right (m * 2 ^ (e - q).toNat) 1 (Nat.two_pow_pos (q - u).toNat)
    rw [Nat.one_mul] at scale
    rw [cut_of_le h, two_pow_span hq h, ← Nat.mul_assoc, scale]
    simp [exactCut, Nat.mod_one]
  · have h' : e < q := Int.not_le.mp h
    rw [cut_of_lt h', two_pow_span he h'.le, exactCut_mul_right _ _ (Nat.two_pow_pos _)]
    simp [exactCut]

/-- The model's rounding of an exact magnitude is `goesUp` of its rest; k may be any number of the parity of the whole units. -/
theorem roundsUp_exactCut (mode : Rnd) (neg : Bool) (r : Nat) {k x gap : Nat} (hk : k % 2 = x / gap % 2) :
    roundsUp mode neg r (exactCut x gap) = goesUp mode neg r k (x % gap) gap := by
  cases mode with
  | rne =>
    simp only [roundsUp, goesUp, exactCut, hk]
    by_cases hlt : gap < 2 * (x % gap)
    · simp [hlt]
    · by_cases heq : gap = 2 * (x % gap)
      · simp [heq.symm, beq_eq_decide]
      · simp [hlt, heq]
  | rz => rfl
  | ru => simp [roundsUp, goesUp, exactCut, bne, beq_eq_decide]
  | rd => simp [roundsUp, goesUp, exactCut, bne, beq_eq_decide]
  | sr => rfl

/-- Whole units of `gap` and a rest against a bound: beyond it are more units, or as many and a rest. -/
theorem lt_div_or_rest (b x : Nat) {gap : Nat} (hg : 0 < gap) : b < x / gap ∨ (x / gap = b ∧ x % gap ≠ 0) ↔ b * gap < x := by
  have hdiv := Nat.div_add_mod' x gap
  constructor
  · rintro (h | ⟨rfl, h⟩)
    · have hle := Nat.mul_le_mul_right gap (Nat.succ_le_of_lt h)
      rw [Nat.succ_mul] at hle
      omega
    · omega
  · intro h
    have hle : b ≤ x / gap := (Nat.le_div_iff_mul_le hg).mpr h.le
    by_cases heq : x / gap = b
    · exact .inr ⟨heq, by rw [heq] at hdiv; omega⟩
    · exact .inl (by omega)

/-! ## What lies below the last place -/

/-- A number and its double with a one below, against a gap and its double: the whole units, and the rest with the same one. -/
theorem two_mul_add_one_div_mod (m gap : Nat) :
    (2 * m + 1) / (2 * gap) = m / gap ∧ (2 * m + 1) % (2 * gap) = 2 * (m % gap) + 1 := by
  have hhalf : (2 * m + 1) / 2 = m := by omega
  have hdiv : (2 * m + 1) / (2 * gap) = m / gap := by rw [← Nat.div_div_eq_div_mul, hhalf]
  refine ⟨hdiv, ?_⟩
  have h1 := Nat.div_add_mod (2 * m + 1) (2 * gap)
  have h2 := Nat.div_add_mod m gap
  rw [hdiv, Nat.mul_assoc] at h1
  omega

/-- The 32 bits below the last place, where at least 32 known bits stand below it, do not see what lies below the known ones. -/
theorem two_mul_add_one_fraction (low D : Nat) :
    (2 * low + 1) * 2 ^ 32 / (2 * (D * 2 ^ 32)) = low * 2 ^ 32 / (D * 2 ^ 32) := by
  have hhalf : (2 * low + 1) / 2 = low := by omega
  rw [← Nat.mul_assoc, Nat.mul_div_mul_right _ _ (by decide), Nat.mul_div_mul_right _ _ (by decide), ← Nat.div_div_eq_div_mul,
    hhalf]

/-- Something below the last of the known bits counts as a half of that place, where the cut is 32 places above it or more. -/
theorem cut_sticky (m : Nat) {e q : Int} (h : e + 32 ≤ q) :
    (Mag.mk m e true).cut q = (Mag.mk (2 * m + 1) (e - 1) false).cut q := by
  obtain ⟨d, rfl⟩ : ∃ d : Nat, q = e + (d + 32) := ⟨(q - e - 32).toNat, by omega⟩
  have hd : (e + (d + 32) - e).toNat = d + 32 := by omega
  have hd' : (e + (d + 32) - (e - 1)).toNat = d + 32 + 1 := by omega
  have hgap : 2 ^ (d + 32 + 1) = 2 * 2 ^ (d + 32) := Nat.pow_succ'
  rw [cut_of_lt (by show e < _; omega), cut_of_lt (by show e - 1 < _; omega)]
  simp only [hd, hd', hgap, Nat.pow_add 2 d 32]
  obtain ⟨hdiv, hmod⟩ := two_mul_add_one_div_mod m (2 ^ d * 2 ^ 32)
  rw [hdiv, hmod, two_mul_add_one_fraction]
  obtain ⟨gap, hgap'⟩ : ∃ gap, gap = 2 ^ d * 2 ^ 32 := ⟨_, rfl⟩
  rw [← hgap']
  generalize m % gap = low
  have hne : gap ≠ 2 * low + 1 := by omega
  have hlt : 2 * gap < 2 * (2 * low + 1) ↔ gap < 2 * low ∨ gap = 2 * low := by omega
  by_cases h1 : gap < 2 * low
  · simp [h1, hlt]
  · by_cases h2 : gap = 2 * low
    · simp [h2]
    · simp [h1, h2, hlt, hne]

end Sys2Proof.Machine
end

section
/-! SUPPORT (02 R21 to R23). What `Fmt.round` delivers of an exact magnitude: the overflow, or one of the two codes beside it. -/

namespace Sys2Proof.Machine

/-! ## Codes and magnitudes -/

/-- A format whose mantissa has at least one bit and at most FP32's: all of 02 Table 2.2. -/
structure Fmt.Sized (f : Fmt) : Prop where
  mbPos : 0 < f.mb
  mbLe : f.mb ≤ 23

theorem sized_of_mem {f : Fmt} (h : f ∈ [fp32, fp16, bf16, e4m3, e5m2, e2m1]) : f.Sized := by
  simp only [List.mem_cons, List.not_mem_nil, or_false] at h
  rcases h with rfl | rfl | rfl | rfl | rfl | rfl <;> exact ⟨by decide, by decide⟩

theorem Fmt.Sized.topM_lt {f : Fmt} (hf : f.Sized) : f.topM < 2 ^ 24 :=
  calc f.topM < 2 ^ f.mb + 2 ^ f.mb := Nat.add_lt_add_left (Nat.mod_lt _ (Nat.two_pow_pos _)) _
    _ = 2 ^ (f.mb + 1) := by rw [Nat.pow_succ, Nat.mul_two]
    _ ≤ 2 ^ 24 := Nat.pow_le_pow_right (by decide) (Nat.succ_le_succ hf.mbLe)

/-- The code `s` binades above the subnormals whose significand is k has k units of 2^s; a carry out of the significand gives
the first code of the next binade. -/
theorem magUnits_binade (f : Fmt) {s k : Nat} (hlow : s ≠ 0 → 2 ^ f.mb ≤ k) (hhigh : k ≤ 2 ^ (f.mb + 1)) :
    f.magUnits (s * 2 ^ f.mb + k) = k * 2 ^ s := by
  have hpos := Nat.two_pow_pos f.mb
  have hdiv : (s * 2 ^ f.mb + k) / 2 ^ f.mb = s + k / 2 ^ f.mb := by
    rw [Nat.add_comm, Nat.add_mul_div_right _ _ hpos, Nat.add_comm]
  have hmod : (s * 2 ^ f.mb + k) % 2 ^ f.mb = k % 2 ^ f.mb := Nat.mul_add_mod_self_right _ _ _
  have hle : k / 2 ^ f.mb ≤ 2 := by
    rw [Nat.pow_succ] at hhigh
    simpa [Nat.mul_div_cancel_left _ hpos] using Nat.div_le_div_right (c := 2 ^ f.mb) hhigh
  have hnorm : s ≠ 0 → 1 ≤ k / 2 ^ f.mb := fun hs => (Nat.le_div_iff_mul_le hpos).mpr (by simpa using hlow hs)
  have hk := Nat.div_add_mod k (2 ^ f.mb)
  rw [Nat.pow_succ] at hhigh
  unfold Fmt.magUnits
  rw [hdiv, hmod]
  generalize k / 2 ^ f.mb = c at *
  obtain rfl | rfl | rfl : c = 0 ∨ c = 1 ∨ c = 2 := by omega
  · have hs : s = 0 := by
      by_contra hs
      exact absurd (hnorm hs) (by decide)
    simp [hs]
  · rw [Nat.mul_one] at hk
    rw [if_neg (Nat.succ_ne_zero s), hk, Nat.add_sub_cancel]
  · have hzero : k % 2 ^ f.mb = 0 := by omega
    rw [hzero, Nat.add_zero] at hk
    rw [if_neg (by omega), hzero, ← hk, Nat.add_zero, show s + 2 - 1 = s + 1 from rfl, Nat.pow_succ, Nat.mul_assoc,
      Nat.mul_comm 2]

/-! ## Overflow -/

/-- Exact magnitudes that overflow (02 R22), in units of 2^(topE - 1) or of their own last place, whichever is less. -/
theorem overflows_exact (f : Fmt) (mode : Rnd) (m : Nat) (e : Int) :
    f.overflows mode ⟨m, e, false⟩ = true ↔
      (if mode = .rne then
        2 * (f.topM * 2 ^ (f.topE - min (f.topE - 1) e).toNat) + 2 ^ (f.topE - min (f.topE - 1) e).toNat
          ≤ 2 * (m * 2 ^ (e - min (f.topE - 1) e).toNat)
      else f.topM * 2 ^ (f.topE - min (f.topE - 1) e).toNat < m * 2 ^ (e - min (f.topE - 1) e).toNat) := by
  have hv : min (f.topE - 1) e ≤ f.topE - 1 := Int.min_le_left _ _
  have he : min (f.topE - 1) e ≤ e := Int.min_le_right _ _
  generalize min (f.topE - 1) e = v at hv he
  unfold Fmt.overflows
  split
  · have hgap : 2 ^ (f.topE - v).toNat = 2 * 2 ^ (f.topE - 1 - v).toNat := by
      rw [two_pow_span hv (Int.sub_le_self _ (by decide)), Int.sub_sub_self]; rfl
    rw [cut_exact m he hv, decide_eq_true_eq, exactCut, Nat.le_div_iff_mul_le (Nat.two_pow_pos _), hgap,
      Nat.mul_left_comm f.topM, ← Nat.mul_add, Nat.mul_le_mul_left_iff (by decide), Nat.add_mul, Nat.one_mul, Nat.mul_assoc]
  · rw [cut_exact m he (by omega)]
    simp only [Bool.or_eq_true, Bool.and_eq_true, decide_eq_true_eq, beq_iff_eq]
    simp only [exactCut, bne_iff_ne]
    exact lt_div_or_rest _ _ (Nat.two_pow_pos _)

/-- The code that an overflow delivers (02 Table 2.6), in the statement's words. -/
theorem overflowCode_eq (f : Fmt) (mode : Rnd) (neg : Bool) :
    f.overflowCode mode neg = if f.inf = false then f.top else match mode with
      | .rne | .sr => f.infCode
      | .rz => f.top
      | .ru => if neg = true then f.top else f.infCode
      | .rd => if neg = true then f.infCode else f.top := by
  unfold Fmt.overflowCode
  cases f.inf <;> cases mode <;> rfl

/-! ## The exact result, rounded once -/

/-- The place at which a magnitude is rounded: of its leading bit, mb places below it, and no lower than the format goes. -/
def Fmt.place (f : Fmt) (v : Mag) : Int := max (v.exp - f.mb) f.low

theorem round_of_overflows {f : Fmt} {mode : Rnd} {r : Nat} {neg : Bool} {v : Mag} (hm : v.m ≠ 0)
    (h : f.overflows mode v = true) : f.round mode r neg v = (f.sign neg + f.overflowCode mode neg, flOf ||| flNx) := by
  rw [Fmt.round, if_neg hm, if_pos h]

theorem round_in_range {f : Fmt} {mode : Rnd} {r : Nat} {neg : Bool} {v : Mag} (hm : v.m ≠ 0)
    (h : f.overflows mode v = false) :
    f.round mode r neg v =
      (f.sign neg + ((f.place v - f.low).toNat * 2 ^ f.mb + (v.cut (f.place v)).round mode neg r),
        if (v.cut (f.place v)).inx = true then (if f.tiny mode neg r v = true then flUf ||| flNx else flNx) else flNone) := by
  rw [Fmt.round, if_neg hm, if_neg (by simp [h])]
  rfl

/-- A magnitude has at most mb + 1 bits above its place. -/
theorem place_high (f : Fmt) {m : Nat} {e u : Int} (he : u ≤ e) :
    m * 2 ^ (e - u).toNat < 2 ^ (f.mb + 1) * 2 ^ (f.place ⟨m, e, false⟩ - u).toNat := by
  have hlog : m < 2 ^ (m.log2 + 1) := Nat.lt_log2_self
  refine (Nat.mul_lt_mul_of_pos_right hlog (Nat.two_pow_pos _)).trans_le ?_
  rw [← Nat.pow_add, ← Nat.pow_add]
  refine Nat.pow_le_pow_right (by decide) ?_
  have hq : e + m.log2 - f.mb ≤ f.place ⟨m, e, false⟩ := Int.le_max_left _ _
  omega

/-- Above the format's lowest place it has exactly mb + 1. -/
theorem place_low (f : Fmt) {m : Nat} {e u : Int} (hm : m ≠ 0) (he : u ≤ e) (hu : u ≤ f.low)
    (h : f.place ⟨m, e, false⟩ ≠ f.low) :
    2 ^ f.mb * 2 ^ (f.place ⟨m, e, false⟩ - u).toNat ≤ m * 2 ^ (e - u).toNat := by
  have hq : f.place ⟨m, e, false⟩ = e + m.log2 - f.mb := by unfold Fmt.place Mag.exp at *; simp only at *; omega
  have hlow : f.low ≤ f.place ⟨m, e, false⟩ := Int.le_max_right _ _
  refine le_trans ?_ (Nat.mul_le_mul_right _ (Nat.log2_self_le hm))
  rw [← Nat.pow_add, ← Nat.pow_add]
  exact Nat.pow_le_pow_right (by decide) (by omega)

theorem roundFlags_nx (inx tiny : Bool) :
    (if inx = true then (if tiny = true then flUf ||| flNx else flNx) else flNone).getLsbD 4 = inx := by
  cases inx <;> cases tiny <;> rfl

/-- The code of k units of 2^q, in units of 2^u. -/
theorem magUnits_at_place {f : Fmt} {k : Nat} {q u : Int} (hu : u ≤ f.low) (hq : f.low ≤ q) (hlow : q ≠ f.low → 2 ^ f.mb ≤ k)
    (hhigh : k ≤ 2 ^ (f.mb + 1)) :
    f.magUnits ((q - f.low).toNat * 2 ^ f.mb + k) * 2 ^ (f.low - u).toNat = k * 2 ^ (q - u).toNat := by
  rw [magUnits_binade f (fun hs => hlow (by omega)) hhigh, two_pow_span hu hq, Nat.mul_assoc]

/-- Codes of one binade have the parity of their significands. -/
theorem Fmt.Sized.code_parity {f : Fmt} (hf : f.Sized) (s k : Nat) : (s * 2 ^ f.mb + k) % 2 = k % 2 := by
  obtain ⟨b, hb⟩ : ∃ b, f.mb = b + 1 := ⟨f.mb - 1, by have := hf.mbPos; omega⟩
  rw [hb, Nat.pow_succ, ← Nat.mul_assoc]
  omega

/-- `y` is one of the two codes between which the magnitude x lies, the one that the mode names, and raises NX where x lies on
neither (02 R21, R23); `unit` is the format's least subnormal in the units of x. -/
def RoundsToNeighbour (f : Fmt) (mode : Rnd) (r : Nat) (neg : Bool) (y : FRes) (x unit : Nat) : Prop :=
  ∃ k, f.magUnits k * unit ≤ x ∧ x < f.magUnits (k + 1) * unit
    ∧ y.1 = f.sign neg + (if goesUp mode neg r k (x - f.magUnits k * unit)
        (f.magUnits (k + 1) * unit - f.magUnits k * unit) = true then k + 1 else k)
    ∧ (y.2.getLsbD 4 = true ↔ x ≠ f.magUnits k * unit)

/-- Below overflow an exact magnitude is delivered as one of its neighbours. -/
theorem round_exact_neighbour {f : Fmt} (hf : f.Sized) (mode : Rnd) (r : Nat) (neg : Bool) {m : Nat} {e u : Int} (hm : m ≠ 0)
    (he : u ≤ e) (hu : u ≤ f.low) (h : f.overflows mode ⟨m, e, false⟩ = false) :
    RoundsToNeighbour f mode r neg (f.round mode r neg ⟨m, e, false⟩) (m * 2 ^ (e - u).toNat) (2 ^ (f.low - u).toNat) := by
  have hq : f.low ≤ f.place ⟨m, e, false⟩ := Int.le_max_right _ _
  have hhigh := place_high f (m := m) he
  have hnorm := place_low f hm he hu
  unfold RoundsToNeighbour
  rw [round_in_range hm h, cut_exact m he (hu.trans hq), roundFlags_nx]
  generalize f.place ⟨m, e, false⟩ = q at *
  generalize m * 2 ^ (e - u).toNat = x at *
  have hpos : 0 < 2 ^ (q - u).toNat := Nat.two_pow_pos _
  have hk : x / 2 ^ (q - u).toNat < 2 ^ (f.mb + 1) := Nat.div_lt_of_lt_mul (by rwa [Nat.mul_comm])
  have hk' : q ≠ f.low → 2 ^ f.mb ≤ x / 2 ^ (q - u).toNat := fun hs => (Nat.le_div_iff_mul_le hpos).mpr (hnorm hs)
  have hat := magUnits_at_place hu hq hk' hk.le
  have hnext := magUnits_at_place hu hq (fun hs => (hk' hs).trans (Nat.le_succ _)) hk
  rw [Nat.succ_mul, Nat.succ_eq_add_one, ← Nat.add_assoc] at hnext
  have hx := Nat.div_add_mod' x (2 ^ (q - u).toNat)
  have hrest := Nat.mod_lt x hpos
  have hsub : x - x / 2 ^ (q - u).toNat * 2 ^ (q - u).toNat = x % 2 ^ (q - u).toNat := by omega
  refine ⟨(q - f.low).toNat * 2 ^ f.mb + x / 2 ^ (q - u).toNat, ?_⟩
  rw [hat, hnext, Nat.add_sub_cancel_left, hsub]
  refine ⟨by omega, by omega, ?_, ?_⟩
  · rw [Cut.round, roundsUp_exactCut mode neg r (hf.code_parity (q - f.low).toNat _)]
    split <;> rfl
  · simp only [exactCut, bne_iff_ne]
    omega

end Sys2Proof.Machine
end

section
/-! SUPPORT (02 R21). What `Fmt.round` delivers of a magnitude known down to a place. -/

namespace Sys2Proof.Machine

/-! ## A magnitude known down to a place -/

theorem cut_units_large {v : Mag} (hm : 2 ^ 60 ≤ v.m) {q : Int} (h : q ≤ v.e + 33) : 2 ^ 27 ≤ (v.cut q).k := by
  by_cases hq : q ≤ v.e
  · rw [cut_of_le hq]
    exact (show 2 ^ 27 ≤ v.m by omega).trans (Nat.le_mul_of_pos_right _ (Nat.two_pow_pos _))
  · rw [cut_of_lt (Int.not_le.mp hq)]
    refine (Nat.le_div_iff_mul_le (Nat.two_pow_pos _)).mpr (le_trans ?_ hm)
    rw [← Nat.pow_add]
    exact Nat.pow_le_pow_right (by decide) (by omega)

theorem Fmt.Sized.overflows_of_large {f : Fmt} (hf : f.Sized) (mode : Rnd) {v : Mag} (hm : 2 ^ 60 ≤ v.m)
    (h : f.topE ≤ v.e + 33) : f.overflows mode v = true := by
  have htop := hf.topM_lt
  unfold Fmt.overflows
  split
  · have hk := cut_units_large hm (q := f.topE - 1) (by omega)
    exact decide_eq_true (by omega)
  · have hk := cut_units_large hm h
    simp only [Bool.or_eq_true, decide_eq_true_eq]
    exact .inl (by omega)

theorem Fmt.Sized.overflows_sticky {f : Fmt} (hf : f.Sized) (mode : Rnd) {m : Nat} (e : Int) (hm : 2 ^ 60 ≤ m) :
    f.overflows mode ⟨m, e, true⟩ = f.overflows mode ⟨2 * m + 1, e - 1, false⟩ := by
  by_cases h : f.topE - 1 < e + 32
  · rw [hf.overflows_of_large mode hm (by simp only; omega),
      hf.overflows_of_large mode (show 2 ^ 60 ≤ 2 * m + 1 by omega) (by simp only; omega)]
  · unfold Fmt.overflows
    rw [cut_sticky m (q := f.topE - 1) (by omega), cut_sticky m (q := f.topE) (by omega)]

theorem exp_sticky {m : Nat} (hm : m ≠ 0) (e : Int) : (Mag.mk m e true).exp = (Mag.mk (2 * m + 1) (e - 1) false).exp := by
  have hlog : (2 * m + 1).log2 = m.log2 + 1 := by
    rw [Nat.log2_def, if_pos (by omega), show (2 * m + 1) / 2 = m by omega]
  simp only [Mag.exp, hlog]
  omega

/-- A magnitude whose first 61 bits or more are known is rounded as if a half of the last known place lay below them. -/
theorem round_sticky {f : Fmt} (hf : f.Sized) (mode : Rnd) (r : Nat) (neg : Bool) {m : Nat} (e : Int) (hm : 2 ^ 60 ≤ m) :
    f.round mode r neg ⟨m, e, true⟩ = f.round mode r neg ⟨2 * m + 1, e - 1, false⟩ := by
  have hne : m ≠ 0 := by omega
  have hlog : 60 ≤ m.log2 := (Nat.le_log2 hne).mpr hm
  have hexp : e + 60 ≤ (Mag.mk m e true).exp := by simp only [Mag.exp]; omega
  have hmb := hf.mbLe
  have hov := hf.overflows_sticky mode e hm
  have hcut : ∀ q, (Mag.mk m e true).exp - f.mb ≤ q → (Mag.mk m e true).cut q = (Mag.mk (2 * m + 1) (e - 1) false).cut q :=
    fun q hq => cut_sticky m (by omega)
  cases hbig : f.overflows mode ⟨m, e, true⟩ with
  | true => rw [round_of_overflows hne hbig, round_of_overflows (Nat.succ_ne_zero _) (hov ▸ hbig)]
  | false =>
    have htiny : f.tiny mode neg r ⟨m, e, true⟩ = f.tiny mode neg r ⟨2 * m + 1, e - 1, false⟩ := by
      simp only [Fmt.tiny, ← exp_sticky hne, hcut _ (Int.le_refl _)]
    have hplace : f.place ⟨m, e, true⟩ = f.place ⟨2 * m + 1, e - 1, false⟩ := by rw [Fmt.place, Fmt.place, exp_sticky hne]
    rw [round_in_range hne hbig, round_in_range (Nat.succ_ne_zero _) (hov ▸ hbig), hcut (f.place _) (Int.le_max_left _ _),
      htiny, hplace]

end Sys2Proof.Machine
end

section
/-! SUPPORT (06 R105, R106, R110, R111). The exact number that each operation on finite operands rounds. -/

namespace Sys2Proof.Machine

/-! ## Finite operands -/

theorem nanOf_fin_pair (f : Fmt) (n1 n2 : Bool) (m1 m2 : Nat) (e1 e2 : Int) :
    f.nanOf [.fin n1 m1 e1, .fin n2 m2 e2] = none := rfl

theorem nanOf_fin_triple (f : Fmt) (n1 n2 n3 : Bool) (m1 m2 m3 : Nat) (e1 e2 e3 : Int) :
    f.nanOf [.fin n1 m1 e1, .fin n2 m2 e2, .fin n3 m3 e3] = none := rfl

theorem funary_fin {a : Nat} {n : Bool} {m : Nat} {e : Int} (h : fp32.decode a = .fin n m e) (g : FVal → FRes) :
    funary a g = g (.fin n m e) := by
  rw [funary, h]
  rfl

theorem scaled_not (n : Bool) (m : Nat) (e q : Int) : scaled (!n) m e q = -scaled n m e q := by
  cases n <;> simp [scaled]

theorem scaled_self (n : Bool) (m : Nat) (e : Int) : scaled n m e e = if n = true then -(m : Int) else m := by
  simp [scaled]

theorem scaled_mul (n1 n2 : Bool) (m1 m2 : Nat) : scaled n1 m1 0 0 * scaled n2 m2 0 0 = scaled (n1 != n2) (m1 * m2) 0 0 := by
  simp only [scaled_self]
  cases n1 <;> cases n2 <;> simp

/-- Inverting the sign bit inverts the sign of a finite value. -/
theorem decode_negate_fin {f : Fmt} {a : Nat} {n : Bool} {m : Nat} {e : Int} (h : f.decode a = .fin n m e) :
    f.decode (f.negate a) = .fin (!n) m e := by
  have hsign : (f.negate a).testBit (f.eb + f.mb) = !a.testBit (f.eb + f.mb) := by
    rw [Fmt.negate, Nat.testBit_xor, Nat.testBit_two_pow_self, Bool.xor_true]
  have hmag : f.negate a % 2 ^ (f.eb + f.mb) = a % 2 ^ (f.eb + f.mb) := by
    rw [Fmt.negate, Nat.xor_mod_two_pow, Nat.mod_self, Nat.xor_zero]
  unfold Fmt.decode at h ⊢
  rw [hsign, hmag]
  simp only at h ⊢
  split at h
  next hfin =>
    rw [if_pos hfin]
    split at h
    next hsub => rw [if_pos hsub]; cases h; rfl
    next hsub => rw [if_neg hsub]; cases h; rfl
  next hfin =>
    split at h
    · cases h
    split at h <;> cases h

theorem decode_fin_lt {a : Nat} {n : Bool} {m : Nat} {e : Int} (h : fp32.decode a = .fin n m e) : m < 2 ^ 24 := by
  have hmant : a % 2 ^ (fp32.eb + fp32.mb) % 2 ^ fp32.mb < 2 ^ 23 := Nat.mod_lt _ (Nat.two_pow_pos _)
  have hlead : 2 ^ fp32.mb = 2 ^ 23 := rfl
  unfold Fmt.decode at h
  simp only at h
  split at h
  · split at h <;> cases h <;> omega
  · split at h
    · cases h
    split at h <;> cases h

/-! ## Sums and products (06 R105, R106) -/

/-- The exact number x in units of 2^q, rounded once; an exact zero has the sign of its addends where they agree. -/
def RoundsExactly (f : Fmt) (mode : Rnd) (r : Nat) (y : FRes) (same neg : Bool) (x q : Int) : Prop :=
  (x = 0 → y = (f.sign (if same = true then neg else mode == .rd), flNone))
  ∧ (x ≠ 0 → y = f.round mode r (decide (x < 0)) ⟨x.natAbs, q, false⟩)

theorem addFin_rounds (f : Fmt) (mode : Rnd) (r : Nat) (n1 : Bool) (m1 : Nat) (e1 : Int) (n2 : Bool) (m2 : Nat) (e2 : Int) :
    RoundsExactly f mode r (f.addFin mode r n1 m1 e1 n2 m2 e2) (n1 == n2) n1
      (scaled n1 m1 e1 (min e1 e2) + scaled n2 m2 e2 (min e1 e2)) (min e1 e2) := by
  simp only [RoundsExactly, Fmt.addFin, beq_iff_eq]
  exact ⟨fun h => if_pos h, fun h => if_neg h⟩

/-- The sign of an exact zero can be named from either addend. -/
theorem RoundsExactly.other_sign {f : Fmt} {mode : Rnd} {r : Nat} {y : FRes} {n1 n2 : Bool} {x q : Int}
    (h : RoundsExactly f mode r y (n1 == n2) n1 x q) : RoundsExactly f mode r y (n1 == n2) n2 x q := by
  cases n1 <;> cases n2 <;> exact h

theorem add_rounds {f : Fmt} (mode : Rnd) (r : Nat) {a b : Nat} {n1 n2 : Bool} {m1 m2 : Nat} {e1 e2 : Int}
    (ha : f.decode a = .fin n1 m1 e1) (hb : f.decode b = .fin n2 m2 e2) :
    RoundsExactly f mode r (f.add mode r a b) (n1 == n2) n1
      (scaled n1 m1 e1 (min e1 e2) + scaled n2 m2 e2 (min e1 e2)) (min e1 e2) := by
  simp only [Fmt.add, ha, hb, nanOf_fin_pair]
  exact addFin_rounds f mode r n1 m1 e1 n2 m2 e2

theorem sub_rounds {f : Fmt} (mode : Rnd) (r : Nat) {a b : Nat} {n1 n2 : Bool} {m1 m2 : Nat} {e1 e2 : Int}
    (ha : f.decode a = .fin n1 m1 e1) (hb : f.decode b = .fin n2 m2 e2) :
    RoundsExactly f mode r (f.sub mode r a b) (n1 != n2) n1
      (scaled n1 m1 e1 (min e1 e2) - scaled n2 m2 e2 (min e1 e2)) (min e1 e2) := by
  have hsame : (n1 != n2) = (n1 == !n2) := by cases n1 <;> cases n2 <;> rfl
  simp only [Fmt.sub, ha, hb, decode_negate_fin hb, nanOf_fin_pair]
  rw [hsame, Int.sub_eq_add_neg, ← scaled_not]
  exact addFin_rounds f mode r n1 m1 e1 (!n2) m2 e2

theorem mul_rounds {f : Fmt} (mode : Rnd) (r : Nat) {a b : Nat} {n1 n2 : Bool} {m1 m2 : Nat} {e1 e2 : Int}
    (ha : f.decode a = .fin n1 m1 e1) (hb : f.decode b = .fin n2 m2 e2) :
    RoundsExactly f mode r (f.mul mode r a b) true (n1 != n2) (scaled n1 m1 0 0 * scaled n2 m2 0 0) (e1 + e2) := by
  have hmul : f.mul mode r a b = f.round mode r (n1 != n2) ⟨m1 * m2, e1 + e2, false⟩ := by
    simp only [Fmt.mul, ha, hb, nanOf_fin_pair]
    rfl
  rw [scaled_mul, scaled_self, hmul]
  generalize (n1 != n2) = n
  generalize m1 * m2 = m
  constructor
  · intro h
    have hm : m = 0 := by cases n <;> simpa using h
    rw [Fmt.round, if_pos hm, if_pos rfl]
  · intro h
    cases n
    · simp [Int.not_lt.mpr (Int.natCast_nonneg m)]
    · have hm : 0 < m := Nat.pos_of_ne_zero fun hm => h (by simp [hm])
      simp [hm]

theorem fma_rounds {f : Fmt} (mode : Rnd) (r : Nat) {a b c : Nat} {n1 n2 n3 : Bool} {m1 m2 m3 : Nat} {e1 e2 e3 : Int}
    (ha : f.decode a = .fin n1 m1 e1) (hb : f.decode b = .fin n2 m2 e2) (hc : f.decode c = .fin n3 m3 e3) :
    RoundsExactly f mode r (f.fma mode r a b c) ((n1 != n2) == n3) n3
      (scaled (n1 != n2) (m1 * m2) (e1 + e2) (min (e1 + e2) e3) + scaled n3 m3 e3 (min (e1 + e2) e3)) (min (e1 + e2) e3) := by
  simp only [Fmt.fma, ha, hb, hc, nanOf_fin_triple]
  exact (addFin_rounds f mode r (n1 != n2) (m1 * m2) (e1 + e2) n3 m3 e3).other_sign

/-! ## Quotients and roots (06 R110) -/

/-- A number of at least 61 bits, the last that `below` holds of, is rounded; `equal` says that it is the exact one. -/
def RoundsBracketed (mode : Rnd) (r : Nat) (y : FRes) (neg : Bool) (q : Int) (below equal : Nat → Prop) : Prop :=
  ∃ k st, 2 ^ 60 ≤ k ∧ below k ∧ ¬ below (k + 1) ∧ (st = false ↔ equal k) ∧ y = fp32.round mode r neg ⟨k, q, st⟩

/-- The three magnitudes written out, so that `round` of one of them is rewritten and never unfolded to compare it. -/
theorem divMag_eq (m1 : Nat) (e1 : Int) (m2 : Nat) (e2 : Int) :
    divMag m1 e1 m2 e2 = ⟨m1 * 2 ^ 96 / m2, e1 - e2 - 96, m1 * 2 ^ 96 % m2 != 0⟩ := rfl

theorem sqrtMag_eq (p : Nat) (e : Int) :
    sqrtMag p e = ⟨isqrt (p * 2 ^ 160), e / 2 - 80, isqrt (p * 2 ^ 160) * isqrt (p * 2 ^ 160) != p * 2 ^ 160⟩ := rfl

theorem rsqMag_eq (p : Nat) (e : Int) :
    rsqMag p e = ⟨isqrt (2 ^ 200 / p), -(e / 2) - 100, isqrt (2 ^ 200 / p) * isqrt (2 ^ 200 / p) * p != 2 ^ 200⟩ := rfl

theorem fdiv_rounds (mode : Rnd) (r : Nat) {a b : Nat} {n1 n2 : Bool} {m1 m2 : Nat} {e1 e2 : Int}
    (ha : fp32.decode a = .fin n1 m1 e1) (hb : fp32.decode b = .fin n2 m2 e2) (h1 : m1 ≠ 0) (h2 : m2 ≠ 0) :
    RoundsBracketed mode r (fdiv mode r a b) (n1 != n2) (e1 - e2 - 96) (fun k => k * m2 ≤ m1 * 2 ^ 96)
      fun k => k * m2 = m1 * 2 ^ 96 := by
  have hpos : 0 < m2 := Nat.pos_of_ne_zero h2
  have hlt := decode_fin_lt hb
  have hdiv := Nat.div_add_mod' (m1 * 2 ^ 96) m2
  have hval : fdiv mode r a b = fp32.round mode r (n1 != n2) (divMag m1 e1 m2 e2) := by
    simp only [fdiv, ha, hb]
    exact if_neg h2
  refine ⟨m1 * 2 ^ 96 / m2, m1 * 2 ^ 96 % m2 != 0, ?_, Nat.div_mul_le_self _ _, ?_, ?_,
    hval.trans (by rw [divMag_eq])⟩
  · exact (Nat.le_div_iff_mul_le hpos).mpr (by omega)
  · exact Nat.not_le.mpr (Nat.lt_mul_of_div_lt (Nat.lt_succ_self _) hpos)
  · rw [bne_eq_false_iff_eq]
    omega

/-- The bits of a root are found from the top: what remains to be found lies below 2^n. -/
theorem isqrtFrom_spec (n : Nat) {x r : Nat} (hlow : r * r ≤ x) (hhigh : x < (r + 2 ^ n) * (r + 2 ^ n)) :
    isqrtFrom n x r * isqrtFrom n x r ≤ x ∧ x < (isqrtFrom n x r + 1) * (isqrtFrom n x r + 1) := by
  induction n generalizing r with
  | zero => exact ⟨hlow, hhigh⟩
  | succ n ih =>
    rw [isqrtFrom]
    split
    next h => exact ih h (by rwa [Nat.add_assoc, ← Nat.two_mul, ← Nat.pow_succ'])
    next h => exact ih hlow (Nat.not_le.mp h)

/-- `isqrt` is the whole part of the root of a number below 2^256. -/
theorem isqrt_spec {x : Nat} (hx : x < 2 ^ 256) : isqrt x * isqrt x ≤ x ∧ x < (isqrt x + 1) * (isqrt x + 1) :=
  isqrtFrom_spec 128 (Nat.zero_le x) (by rw [Nat.zero_add, ← Nat.pow_add]; exact hx)

theorem le_isqrt {x : Nat} (hx : x < 2 ^ 256) {k : Nat} (hk : k * k ≤ x) : k ≤ isqrt x :=
  Nat.le_of_lt_succ (Nat.mul_self_lt_mul_self_iff.mp (hk.trans_lt (isqrt_spec hx).2))

/-- A number's significand with an even exponent, and half that exponent. -/
theorem evenExp_eq (m : Nat) (e : Int) :
    (evenExp m e).1 = (if e % 2 = 0 then m else 2 * m) ∧ (evenExp m e).2 / 2 = e / 2 := by
  unfold evenExp
  split
  · exact ⟨rfl, rfl⟩
  · exact ⟨rfl, by simp only; omega⟩

theorem evenExp_bounds {m : Nat} (e : Int) (h0 : m ≠ 0) (h : m < 2 ^ 24) : 0 < (evenExp m e).1 ∧ (evenExp m e).1 < 2 ^ 25 := by
  rw [(evenExp_eq m e).1]
  split <;> omega

theorem fsqrt_rounds (mode : Rnd) (r : Nat) {a m : Nat} {e : Int} (ha : fp32.decode a = .fin false m e) (h0 : m ≠ 0) :
    RoundsBracketed mode r (fsqrt mode r a) false (e / 2 - 80) (fun k => k * k ≤ (if e % 2 = 0 then m else 2 * m) * 2 ^ 160)
      fun k => k * k = (if e % 2 = 0 then m else 2 * m) * 2 ^ 160 := by
  obtain ⟨hpos, hlt⟩ := evenExp_bounds e h0 (decode_fin_lt ha)
  have hval : fsqrt mode r a = fp32.round mode r false (sqrtMag (evenExp m e).1 (evenExp m e).2) := by
    rw [fsqrt, funary_fin ha]
    simp only [if_neg h0, if_neg Bool.false_ne_true]
  rw [← (evenExp_eq m e).1, ← (evenExp_eq m e).2, hval, sqrtMag_eq]
  generalize (evenExp m e).1 = p at *
  have hx : p * 2 ^ 160 < 2 ^ 256 := by omega
  obtain ⟨hle, hgt⟩ := isqrt_spec hx
  refine ⟨isqrt (p * 2 ^ 160), isqrt (p * 2 ^ 160) * isqrt (p * 2 ^ 160) != p * 2 ^ 160, ?_, hle, Nat.not_le.mpr hgt, ?_, rfl⟩
  · exact le_isqrt hx (by omega)
  · exact bne_eq_false_iff_eq

theorem frsq_rounds (mode : Rnd) (r : Nat) {a m : Nat} {e : Int} (ha : fp32.decode a = .fin false m e) (h0 : m ≠ 0) :
    RoundsBracketed mode r (frsq mode r a) false (-(e / 2) - 100) (fun k => k * k * (if e % 2 = 0 then m else 2 * m) ≤ 2 ^ 200)
      fun k => k * k * (if e % 2 = 0 then m else 2 * m) = 2 ^ 200 := by
  obtain ⟨hpos, hlt⟩ := evenExp_bounds e h0 (decode_fin_lt ha)
  have hval : frsq mode r a = fp32.round mode r false (rsqMag (evenExp m e).1 (evenExp m e).2) := by
    rw [frsq, funary_fin ha]
    simp only [if_neg h0, if_neg Bool.false_ne_true]
  rw [← (evenExp_eq m e).1, ← (evenExp_eq m e).2, hval, rsqMag_eq]
  generalize (evenExp m e).1 = p at *
  have hx : 2 ^ 200 / p < 2 ^ 256 := (Nat.div_le_self _ _).trans_lt (by decide)
  obtain ⟨hle, hgt⟩ := isqrt_spec hx
  refine ⟨isqrt (2 ^ 200 / p), isqrt (2 ^ 200 / p) * isqrt (2 ^ 200 / p) * p != 2 ^ 200, ?_, ?_, ?_, bne_eq_false_iff_eq, rfl⟩
  · exact le_isqrt hx ((Nat.le_div_iff_mul_le hpos).mpr (by omega))
  · exact (Nat.le_div_iff_mul_le hpos).mp hle
  · exact fun h => absurd ((Nat.le_div_iff_mul_le hpos).mpr h) (Nat.not_le.mpr hgt)

/-! ## VFRND (06 R111) -/

/-- The leading bit of m x 2^e lies below 2^t. -/
theorem leading_lt_iff {m : Nat} (hm : m ≠ 0) {e t : Int} (d : Nat) (hd : t - e = d) : e + m.log2 < t ↔ m < 2 ^ d := by
  rw [← Nat.log2_lt hm]
  omega

theorem frnd_fraction {mode : Rnd} {r a m : Nat} {n : Bool} {e : Int} (ha : fp32.decode a = .fin n m e) (h0 : m ≠ 0)
    (he : e < 0) (hlt : m < 2 ^ 23 * 2 ^ (-e).toNat) :
    (frnd mode r a).1 = (fp32.round .rne 0 n
        ⟨if goesUp mode n r (m / 2 ^ (-e).toNat) (m % 2 ^ (-e).toNat) (2 ^ (-e).toNat) = true then m / 2 ^ (-e).toNat + 1
          else m / 2 ^ (-e).toNat, 0, false⟩).1
    ∧ (frnd mode r a).2 = if m % 2 ^ (-e).toNat = 0 then flNone
        else if m * 2 ^ 126 < 2 ^ (-e).toNat then flUf ||| flNx else flNx := by
  obtain ⟨d, rfl⟩ : ∃ d : Nat, e = -d := ⟨(-e).toNat, by omega⟩
  rw [Int.neg_neg, Int.toNat_natCast] at *
  have hwhole : ¬ (m = 0 ∨ 23 ≤ -(d : Int) + m.log2) := by
    rintro (h | h)
    · exact h0 h
    · rw [← Nat.pow_add] at hlt
      exact absurd ((leading_lt_iff h0 (23 + d) (by omega)).mpr hlt) (Int.not_lt.mpr h)
  have hcut : (Mag.mk m (-d) false).cut 0 = exactCut m (2 ^ d) := by
    rw [cut_exact m (Int.le_refl _) (by omega)]
    simp
  have htiny : -(d : Int) + m.log2 < -126 ↔ m * 2 ^ 126 < 2 ^ d := by
    by_cases hd : 126 ≤ d
    · rw [leading_lt_iff h0 (d - 126) (by omega), show 2 ^ d = 2 ^ (d - 126) * 2 ^ 126 by rw [← Nat.pow_add]; congr 1; omega,
        Nat.mul_lt_mul_right (by decide)]
    · have hbig : 2 ^ d ≤ 2 ^ 126 := Nat.pow_le_pow_right (by decide) (by omega)
      constructor <;> omega
  rw [frnd, funary_fin ha]
  simp only [if_neg hwhole, hcut]
  refine ⟨?_, ?_⟩
  · rw [Cut.round, roundsUp_exactCut mode n r (k := m / 2 ^ d) rfl]
    rfl
  · simp only [exactCut, htiny]
    by_cases h : m % 2 ^ d = 0 <;> simp [h]

end Sys2Proof.Machine
end

section
/-! OBLIGATION O12. -/

namespace Sys2Proof.Machine

/-- Settles O12: `round` by its cases (overflow, a neighbour, what lies below the known bits), and each operation by the exact
number that it rounds. -/
theorem roundsOnce : Obligations.RoundsOnce := by
  unfold Obligations.RoundsOnce
  refine ⟨fun f mode r neg m e hf hm _ => ⟨fun beyond => ?_, fun within => ?_, fun h => ?_⟩, ?_⟩
  · refine (round_of_overflows hm ((overflows_exact f mode m e).mpr beyond)).trans ?_
    exact congrArg (fun code => (f.sign neg + code, flOf ||| flNx)) (overflowCode_eq f mode neg)
  · have hov := Bool.eq_false_iff.mpr fun h => within ((overflows_exact f mode m e).mp h)
    exact round_exact_neighbour (sized_of_mem hf) mode r neg hm (Int.min_le_right _ _) (Int.min_le_left _ _) hov
  · exact round_sticky (sized_of_mem hf) mode r neg e h
  intro f mode r a b n1 n2 m1 m2 e1 e2 _ _ _ ha hb
  refine ⟨add_rounds mode r ha hb, sub_rounds mode r ha hb, mul_rounds mode r ha hb,
    fun d n3 m3 e3 _ hd => fma_rounds mode r ha hb hd, ?_⟩
  rintro rfl
  refine ⟨fdiv_rounds mode r ha hb, fun h0 hn => ?_, fun h0 he hlt _ => frnd_fraction ha h0 he hlt⟩
  subst hn
  exact ⟨fsqrt_rounds mode r ha h0, frsq_rounds mode r ha h0⟩

end Sys2Proof.Machine
end

section
/-! SUPPORT (05 R87). Every encoded instruction passes the checks at issue before its own meaning, and what each check says. -/

namespace Sys2Proof.Machine

section
variable (i : Instr) (s : State)

/-- An outcome begins with the checks of an instruction at issue. -/
def Checked (o : Out) : Prop := ∃ k, o = issue i s k

theorem checked_issue (k : State → Nat → Thread → Entry → Clause → Out) : Checked i s (issue i s k) := ⟨k, rfl⟩

variable (g : Guard)

theorem checked_scalarOp (d : SReg) (f : Thread → DWord) : Checked i s (scalarOp i s d f) := checked_issue i s _

theorem checked_vectorOp (d : VReg) (f : Thread → Nat → Word) : Checked i s (vectorOp i s g d f) := checked_issue i s _

theorem checked_vectorOp64 (d : VReg) (f : Thread → Nat → DWord) : Checked i s (vectorOp64 i s g d f) := checked_issue i s _

theorem checked_predicateOp (d : PReg) (f : Thread → Nat → Bool) : Checked i s (predicateOp i s g d f) := checked_issue i s _

theorem checked_floatOp (f : (Nat → Nat) → Thread → Nat → List (Nat × Word) × Fl) : Checked i s (floatOp i s g f) :=
  checked_issue i s _

theorem checked_f32Op (d : VReg) (f : Nat → Thread → Nat → FRes) : Checked i s (f32Op i s g d f) := checked_floatOp i s g _

theorem checked_f16Op (d : VReg) (f : Nat → Nat → Thread → Nat → FRes) : Checked i s (f16Op i s g d f) := checked_floatOp i s g _

theorem checked_crossOp (d : VReg) (f : Thread → Mask → Nat → Word) : Checked i s (crossOp i s g d f) := checked_issue i s _

theorem checked_trapOp (k : Cause) (x : BitVec 16) : Checked i s (trapOp i s g k x) := checked_issue i s _

theorem checked_stepOp (grid : Bool) : Checked i s (stepOp i s grid) := checked_issue i s _

variable (f : State → Nat → Thread → Entry → Clause → Grid → Group → Out)

theorem checked_tileOp : Checked i s (tileOp i s f) := checked_issue i s _

theorem checked_copyOp : Checked i s (copyOp i s f) := checked_issue i s _

theorem checked_grateOp : Checked i s (grateOp i s f) := checked_issue i s _

theorem checked_matrixOp (q : Bool) (m : MForm) : Checked i s (matrixOp i q m s) := checked_grateOp i s _

end

/-- One arm for each shape that instructions share, one for those that are checked in their own arms, and one for the events,
which have no word. -/
theorem exec_checked {i : Instr} (h : i.encoded = true) (s : State) : Checked i s (exec i s) := by
  unfold exec
  cases i with
  | smov | smovi | smovhi | sadd | saddi | ssub | smul | smulh | smulhu | sand | sor | sxor | snot | sshl | sshr | ssar | smin |
    smax | sminu | smaxu | scmp | scmpu | ssel | spopc | sclz =>
    exact checked_scalarOp _ s _ _
  | vmov | vmovi | vadd | vaddi | vsub | vmul | vmulh | vmulhu | vmad | vand | vor | vxor | vnot | vshl | vshr | vsar | vmin |
    vmax | vminu | vmaxu | vabs | vneg | vsel | vpopc | vclz | vbrev | vbfe | vbfi =>
    exact checked_vectorOp _ s _ _ _
  | vadd64 | vsub64 | vmul64 | vshl64 => exact checked_vectorOp64 _ s _ _ _
  | vcmp | vcmpu | pand | por | pxor | pnot => exact checked_predicateOp _ s _ _ _
  | vfadd | vfsub | vfmul | vffma | vfmin | vfmax | vfabs | vfneg | vfclass | vfdiv | vfsqrt | vfrcp | vfrsq | vfexp2 | vflog2 |
    vfsinpi | vfcospi | vfrnd =>
    exact checked_f32Op _ s _ _ _
  | vhadd | vhmul | vhfma | vbadd | vbmul | vbfma => exact checked_f16Op _ s _ _ _
  | vcvt => exact checked_floatOp _ s _ _
  | vshfl | vbcast => exact checked_crossOp _ s _ _ _
  | trap | bkpt => exact checked_trapOp _ s _ _ _
  | stepw | stepg => exact checked_stepOp _ s _
  | tdef | tfree | tstate => exact checked_tileOp _ s _
  | cpin | cpout | cptt => exact checked_copyOp _ s _
  | mmip | mmop | mmrw => exact checked_matrixOp _ s _ _
  | mmldb | mmzero | mmlda | mmdrain | vqlut | spdg | fbopen | fbadv | fbend | fbclose | fbrd => exact checked_grateOp _ s _
  | clauseStart | loadDataArrives | copyLineLands | grateStart | grateCompletion | fbrdDataArrives | handoverComplete |
    emberRejoin | gridStepClose | groupStepClose | stepWatchdog | hangWatchdog | rejoinTimeout | queueDoorbell |
    eventClearDoorbell | packetTake | gridPlace | groupPlaceDeferred | gridComplete | ctxCreate | ctxDestroy | queueSet |
    preempt | saveBegin | saveDone | pretmoExpiry | cpytmoExpiry | savetmoExpiry | restore | restoreStart | restoreDone |
    invalidate | invalidateComplete | waveResume | connDown | connUp | connSetWl | circuitDrained | circuitUp | powerPstate |
    pstateChangeDone | powerBudget | powerIdle | cfgDtbase | cfgDtsize | cfgRlbase | cfgRlsize | cfgElbase | cfgElsize |
    cfgCpytmo | cfgSavetmo | cfgPretmo | cfgCxltmo | cfgPeertmo | cfgActmax | cfgSteplimit | cfgHanglimit | cfgCtxcfg |
    cfgTba | cfgFpolicy | countsRead | dieReset | functionLevelReset | moduleReset | notifySet | inboxSet | peerId |
    flashWrite | bar0WriteOther | hostMemoryRequest | peerLineArrives | peerLineAck | peerLineTimeout | cxlTimeout |
    cxlLinkDown | pageWalk | pinFadePeriod | hbmAccess | hbmRefresh | retryReissue | dieTrip | flueDieTrip | powerOn |
    powerGoodTimeout | powerGood | cxlLinkUp | peerLinkPortDown | peerLinkPortUp | tdispStateChange | ideStreamKeyed |
    unknownCommandCode | cmddbWriteWhileBusy | pauseEnd | refreshEnd =>
    exact absurd h Bool.false_ne_true
  | _ => exact checked_issue _ s _

/-! ## The checks -/

variable {w : Thread} {e : Entry} {c : Clause} {i : Instr}

theorem outside_iff (u : Uses) (d : KDesc) : u.outside d = true ↔
    (∃ r ∈ u.vr ++ u.vw, 8 * d.vregs ≤ r) ∨ (∃ r ∈ u.sr ++ u.sw, 8 * d.sregs ≤ r) ∨ (∃ r ∈ u.a, d.accs ≤ r)
      ∨ ∃ r ∈ u.t, d.tiles ≤ r := by
  simp only [Uses.outside, Bool.or_eq_true, List.any_eq_true, decide_eq_true_eq, Nat.mul_comm _ 8, or_assoc]

/-- Check 2: a range that the launch does not give, or a flag that the header does not mark valid (03 R32, 05 R66). -/
theorem reservedHere_iff (d : KDesc) : reservedHere d c i = true ↔
    (uses i).outside d = true ∨ ∃ q, qselOf i = some q ∧ c.flag q = none := by
  unfold reservedHere
  rw [Bool.or_eq_true]
  cases qselOf i <;> simp

/-- Check 3: what an ember has no engine for (03 R35). -/
theorem emberIllegal_iff : emberIllegal w i = true ↔
    w.ember.isSome = true ∧ (engineOf i = some 3 ∨ engineOf i = some 4 ∨ (uses i).sw ≠ []) := by
  simp [emberIllegal, or_assoc]

/-- Check 4: what needs handler mode outside it, a STEP in it, and a write of a register of the host (19 R307). -/
theorem privHere_iff : privHere w i = true ↔
    (needsHandler i = true ∧ w.handler = false) ∨ ((i = .stepw ∨ i = .stepg) ∧ w.handler = true)
      ∨ ∃ r a, i = .csrw r a ∧ r ≠ .tsp ∧ r ≠ .tscratch := by
  cases i with
  | sset r a => simp [privHere, needsHandler, and_comm]
  | _ => simp [privHere, needsHandler]

/-- Check 5: a register that is pending under a flag which WAIT does not cover (05 R67, log 32). -/
theorem hazardHere_iff : hazardHere w c i = true ↔ ∃ o ∈ w.ops, c.wait.getLsbD o.flag = false
    ∧ ((∃ r ∈ (uses i).vr ++ (uses i).vw, r ∈ o.regs) ∨ ∃ r ∈ (uses i).sr ++ (uses i).sw, o.sreg = some r) := by
  simp only [hazardHere, Thread.pendingV, Thread.pendingS, Clause.waits, Bool.or_eq_true, List.any_eq_true, Bool.and_eq_true,
    Bool.not_eq_true', List.contains_iff_mem, beq_iff_eq]
  constructor
  · rintro (⟨r, hr, o, ho, hw, h⟩ | ⟨r, hr, o, ho, hw, h⟩)
    · exact ⟨o, ho, hw, .inl ⟨r, hr, h⟩⟩
    · exact ⟨o, ho, hw, .inr ⟨r, hr, h⟩⟩
  · rintro ⟨o, ho, hw, ⟨r, hr, h⟩ | ⟨r, hr, h⟩⟩
    · exact .inl ⟨r, hr, o, ho, hw, h⟩
    · exact .inr ⟨r, hr, o, ho, hw, h⟩

/-! ## The trap that a check takes -/

/-- A thread is at an instruction: what `Issues` says but that the checks pass. -/
structure AtIssue (s : State) (t : Nat) (w : Thread) (e : Entry) (c : Clause) : Prop where
  cur : s.cur = some t
  thread : s.thread? t = some w
  path : s.path? w = some e
  clause : w.clause = some c

variable {s s1 : State} {t : Nat} {k : TrapInfo}

theorem trapsOver_of (he : exec i s = .next (s.trapOver s1 t w c k)) : TrapsOver s i s1 t w c k := by
  unfold TrapsOver Stalls
  rw [he]
  unfold State.trapOver
  constructor <;> intro h <;> simp only [h] <;> rfl

theorem traps_of (he : exec i s = .next (s.trapHere t w c k)) : Traps s i t w c k := trapsOver_of (s1 := s) he

theorem traps_of_issueTrap (h : AtIssue s t w e c) (hi : i.encoded = true) (hk : k.cause ≠ .memerr)
    (hr : s.issueTrap w e c i = some k) : Traps s i t w c k := by
  obtain ⟨f, hf⟩ := exec_checked hi s
  refine trapsOver_of (s1 := s) (hf.trans ((issue_trap h.cur h.thread h.path h.clause hr f).trans ?_))
  rw [State.trapIssue, if_neg hk]

theorem trapsOver_of_issueTrap (h : AtIssue s t w e c) (hi : i.encoded = true) (hk : k.cause = .memerr)
    (hr : s.issueTrap w e c i = some k) : TrapsOver s i (s.recordLost w e i) t w c k := by
  obtain ⟨f, hf⟩ := exec_checked hi s
  refine trapsOver_of (hf.trans ((issue_trap h.cur h.thread h.path h.clause hr f).trans ?_))
  rw [State.trapIssue, if_pos hk]

/-! ## The first check that fails -/

section
variable {g : Grid} (hg : s.grid? w.grid = some g)
include hg

theorem issueTrap_reserved (h : reservedHere g.desc c i = true) : s.issueTrap w e c i = some ⟨.reservedEnc, 0#64, e.mask⟩ := by
  simp [State.issueTrap, hg, h]

theorem issueTrap_ember (h1 : reservedHere g.desc c i = false) (h : emberIllegal w i = true) :
    s.issueTrap w e c i = some ⟨.emberIllegal, 0#64, e.mask⟩ := by
  simp [State.issueTrap, hg, h1, h]

theorem issueTrap_priv (h1 : reservedHere g.desc c i = false) (h2 : emberIllegal w i = false) (h : privHere w i = true) :
    s.issueTrap w e c i = some ⟨.priv, 0#64, e.mask⟩ := by
  simp [State.issueTrap, hg, h1, h2, h]

theorem issueTrap_hazard (h1 : reservedHere g.desc c i = false) (h2 : emberIllegal w i = false) (h3 : privHere w i = false)
    (h : hazardHere w c i = true) : s.issueTrap w e c i = some ⟨.hazard, 0#64, e.mask⟩ := by
  simp [State.issueTrap, hg, h1, h2, h3, h]

theorem issueTrap_lost (h1 : reservedHere g.desc c i = false) (h2 : emberIllegal w i = false) (h3 : privHere w i = false)
    (h4 : hazardHere w c i = false) : s.issueTrap w e c i = s.lostRegister w e i := by
  simp [State.issueTrap, hg, h1, h2, h3, h4]
end

theorem badLanes_eq_zero (h : w.badV = []) : badLanes w e i = 0#128 := by
  have empty : ((lanesOf e.mask).filter fun l => (uses i).vr.any fun r => w.badV.contains (vix r l)) = [] := by simp [h]
  rw [badLanes, empty]
  rfl

theorem lostRegister_vector (hs : s.strict w.ctx = true) (hb : badLanes w e i ≠ 0#128) :
    s.lostRegister w e i = some ⟨.memerr, 0#64, badLanes w e i⟩ := by
  have hv : w.badV ≠ [] := fun h => hb (badLanes_eq_zero h)
  simp [State.lostRegister, hs, hb, hv]

theorem lostRegister_scalar (hs : s.strict w.ctx = true) (hb : badLanes w e i = 0#128) (hr : ∃ r ∈ (uses i).sr, r ∈ w.badS) :
    s.lostRegister w e i = some ⟨.memerr, 0#64, e.mask⟩ := by
  obtain ⟨r, hr, hbad⟩ := hr
  have hne : w.badS ≠ [] := List.ne_nil_of_mem hbad
  have hfound : (badScalar w i).isSome = true := List.find?_isSome.mpr ⟨r, hr, List.contains_iff_mem.mpr hbad⟩
  obtain ⟨q, hq⟩ := Option.isSome_iff_exists.mp hfound
  simp [State.lostRegister, hs, hb, hne, hq]

/-! ## TRAP and BKPT -/

theorem active_eq_maskOf (w : Thread) (e : Entry) (g : Guard) : active w e g = maskOf (partLanes w e g) := by
  apply BitVec.eq_of_getLsbD_eq
  intro n hn
  rw [active_getLsbD w e g n hn, getLsbD_maskOf _ _ hn]
  simp [partLanes, hn]

/-- A trap on request is taken by the lanes that take part, and is a NOP where none does (08 R185, R186). -/
theorem trapOp_meaning {g : Guard} {cause : Cause} {code : BitVec 16} (he : exec i s = trapOp i s g cause code)
    (h : Issues s i t w e c) :
    (maskOf (partLanes w e g) = 0#128 → Performs s i s t w e id)
      ∧ (maskOf (partLanes w e g) ≠ 0#128 → Traps s i t w c ⟨cause, code.setWidth 64, maskOf (partLanes w e g)⟩) := by
  have hx := he.trans (issue_next h _)
  simp only [active_eq_maskOf] at hx
  constructor <;> intro hm
  · rw [if_pos hm, retire_eq] at hx
    exact performs_of w id h.path rfl rfl (fun _ => rfl) hx
  · rw [if_neg hm] at hx
    exact traps_of hx

end Sys2Proof.Machine
end

section
/-! SUPPORT. What the notices and records of a trap and the end of a grid can change: one lemma for each operation. -/

namespace Sys2Proof.Machine

theorem stored_notifyCtx (s : State) (c ty info : Nat) (w1 w2 : DWord) : Stored s (s.notifyCtx c ty info w1 w2) := by
  unfold State.notifyCtx
  split
  · exact stored_foldl _ (fun s d => stored_notify s d _ _ _ _ _) _ s
  · exact .refl s

theorem stored_errRec (s : State) (die ty src : Nat) (addr : DWord) (step : Word) (key count ctx : Nat) :
    Stored s (s.errRec die ty src addr step key count ctx) := stored_ringPut s die .error _

theorem stored_dropL3 (s : State) (pa n : Nat) : Stored s (s.dropL3 pa n) :=
  stored_ite ⟨s.mem, s.hostMem, s.dies, s.badMem, _, _, rfl⟩ (.refl s)

theorem stored_noteWalks (s : State) (place c : Nat) (step : Word) (l : List (Nat × DWord)) : Stored s (s.noteWalks place c step l) :=
  (stored_foldl _ (fun s _ => stored_errRec s _ _ _ _ _ _ _ _) _ s).trans
    (stored_foldl _ (fun s _ => (stored_uncorrected s _ _ _ _ _ _ _).trans (stored_dropL3 _ _ _)) _ _)

theorem stored_noteMalformed (s : State) (w : Thread) (l : List (Nat × DWord)) : Stored s (s.noteMalformed w l) :=
  stored_noteWalks s _ _ _ _

theorem stored_rlogNotice (s : State) (w : Thread) (k : TrapInfo) : Stored s (s.rlogNotice w k) :=
  stored_ite (stored_notify s _ _ _ _ _ _) (.refl s)

theorem stored_ringRelease (s : State) (die n : Nat) : Stored s (s.ringRelease die n) :=
  stored_ite (stored_ite (stored_setRingWord s _ _ _) (.refl s)) (stored_post s die _)

theorem stored_releaseRing (s : State) (l : List (Word × Nat × Nat)) : Stored s (s.releaseRing l) :=
  stored_foldl _ (fun s _ => stored_ringRelease s _ _) l s

theorem stored_releaseGroups (s : State) (g : Nat) : Stored s (s.releaseGroups g) :=
  stored_foldl _ (fun s _ => stored_ite (stored_releaseRing s _) (.refl s)) _ s

theorem stored_commitLines (s : State) (pa : Nat) (bs : List Byte) : Stored s (s.commitLines pa bs) :=
  (stored_foldl _ (fun s _ => stored_commitByte s _ _) _ s).trans (stored_caches _ _)

theorem stored_cleanPlace (s : State) (place : Nat) (mine : Dirty → Bool) : Stored s (s.cleanPlace place mine) := by
  have lines : ∀ (l : List L1Line) (a : State × List L1Line), Stored a.1 (l.foldl (fun (a : State × List L1Line) l =>
      let x := a.1.cleanLine place l mine
      (x.1, a.2 ++ [x.2])) a).1 := by
    intro l
    induction l with
    | nil => exact fun a => .refl a.1
    | cons x r ih => exact fun a => (stored_cleanLine a.1 place x mine).trans (ih _)
  exact (lines _ (s, [])).trans (stored_caches _ _)

theorem stored_writeBacks (s : State) (mine : Nat → Dirty → Bool) : Stored s (s.writeBacks mine) :=
  stored_foldl _ (fun s _ => stored_cleanPlace s _ _) _ s

theorem stored_writeGranules (w : Thread) (step : Word) (pas : List Nat) (s : State) (off : Nat) (bs : List Byte) :
    Stored s (s.writeGranules w step off pas bs) := by
  induction pas generalizing s off bs with
  | nil => exact .refl s
  | cons pa r ih => exact (stored_storePrivate s w step _ _ pa _).trans (ih _ _ _)

theorem Stored.cur {s s' : State} (h : Stored s s') : s'.cur = s.cur := by
  obtain ⟨m, h, d, b, l, c, rfl⟩ := h
  rfl

theorem Stored.thread {s s' : State} (h : Stored s s') (t : Nat) : s'.thread? t = s.thread? t := by
  obtain ⟨m, h, d, b, l, c, rfl⟩ := h
  rfl

theorem Stored.contexts {s s' : State} (h : Stored s s') : s'.contexts = s.contexts := by
  obtain ⟨m, h, d, b, l, c, rfl⟩ := h
  rfl

end Sys2Proof.Machine
end

section
/-! SUPPORT (19 R307). A faulted context stays faulted while its grids end and its queues, events and pins are cleared. -/

namespace Sys2Proof.Machine

/-- Every context stays, with its status. -/
def StatusKept (s s' : State) : Prop := ∀ c x, s.context? c = some x → ∃ y, s'.context? c = some y ∧ y.status = x.status

namespace StatusKept

variable {a b s : State}

theorem refl (s : State) : StatusKept s s := fun _ x h => ⟨x, h, rfl⟩

theorem trans {c : State} (h : StatusKept a b) (k : StatusKept b c) : StatusKept a c := fun n x hx => by
  obtain ⟨y, hy, hys⟩ := h n x hx
  obtain ⟨z, hz, hzs⟩ := k n y hy
  exact ⟨z, hz, hzs.trans hys⟩

theorem of_contexts (h : b.contexts = a.contexts) : StatusKept a b := fun c x hx =>
  ⟨x, (congrArg (aget? · c) h).trans hx, rfl⟩

theorem of_stored (h : Stored a b) : StatusKept a b := of_contexts h.contexts

theorem ite {p : Prop} [Decidable p] (h : StatusKept s a) (k : StatusKept s b) : StatusKept s (if p then a else b) := by
  split
  · exact h
  · exact k

theorem foldl {α : Type} {f : State → α → State} (hf : ∀ s x, StatusKept s (f s x)) (l : List α) (s : State) :
    StatusKept s (l.foldl f s) := by
  induction l generalizing s with
  | nil => exact .refl s
  | cons x r ih => exact (hf s x).trans (ih _)

theorem modContext (s : State) (c : Nat) {f : Context → Context} (hf : ∀ x, (f x).status = x.status) :
    StatusKept s (s.modContext c f) := fun k x hx => by
  refine ⟨_, modContext_context s c f k x hx, ?_⟩
  split
  · exact hf x
  · rfl

theorem faultedNow {c : Nat} (h : StatusKept a b) (k : a.faultedNow c) : b.faultedNow c := by
  obtain ⟨x, hx, hs⟩ := k
  obtain ⟨y, hy, hys⟩ := h c x hx
  exact ⟨y, hy, hys.trans hs⟩

end StatusKept

theorem aget_map {α β : Type} (f : Nat × α → β) (l : List (Nat × α)) (k : Nat) :
    aget? (l.map fun x => (x.1, f x)) k = (aget? l k).map fun a => f (k, a) := by
  induction l with
  | nil => rfl
  | cons y r ih =>
    obtain ⟨i, x⟩ := y
    by_cases h : k = i
    · simp [aget?, h]
    · simpa [aget?, h] using ih

theorem statusKept_touchPas (s : State) (l : List (Nat × Nat)) : StatusKept s (s.touchPas l) :=
  .ite (.refl s) fun c _ hx => ⟨_, (aget_map _ s.contexts c).trans (congrArg (Option.map _) hx), rfl⟩

theorem statusKept_completeLost (s : State) (die c : Nat) (a : DWord) (n : Word) (status : Nat) :
    StatusKept s (s.completeLost die c a n status) :=
  .of_contexts (stored_errRec { s with cplDropped := s.cplDropped + 1 } _ _ _ _ _ _ _ _).contexts

theorem statusKept_completeNow (s : State) (die c : Nat) (a : DWord) (n : Word) (status : Nat) :
    StatusKept s (s.completeNow die c a n status) := by
  unfold State.completeNow
  split
  · exact .ite (statusKept_completeLost s _ _ _ _ _) ((statusKept_touchPas s _).trans (.of_stored (stored_commitLines _ _ _)))
  · exact .trans (.of_stored (stored_noteWalks s _ _ _ _)) (statusKept_completeLost _ _ _ _ _ _)

theorem statusKept_complete (s : State) (c : Nat) (a : DWord) (n : Word) (status : Nat) : StatusKept s (s.complete c a n status) :=
  .ite (.refl s) (.ite (statusKept_completeNow s _ _ _ _ _) (.of_stored (stored_post s _ _)))

theorem statusKept_releaseSlots (s : State) (c : Nat) (l : List SysOp) : StatusKept s (s.releaseSlots c l) := by
  refine .foldl (fun s o => ?_) l s
  split
  · refine .modContext s c fun x => ?_
    split <;> rfl
  all_goals exact .refl s

theorem statusKept_dropGrid (s : State) (g : Nat) : StatusKept s (s.dropGrid g) :=
  .of_contexts (stored_writeBacks (State.purgeTwins (s.purgeHearths _) _) _).contexts

theorem statusKept_endGrid (s : State) (g status : Nat) : StatusKept s (s.endGrid g status) := by
  unfold State.endGrid
  split
  · exact .refl s
  · next x _ =>
    have released := (StatusKept.of_stored ((stored_releaseRing s x.rlRes).trans (stored_releaseGroups _ g))).trans
      (statusKept_releaseSlots _ x.ctx x.sysops)
    have completed := released.trans (statusKept_complete _ x.ctx x.pkt.cpladdr x.closed status)
    exact (StatusKept.ite completed (completed.trans (.of_stored (stored_notifyCtx _ _ _ _ _ _)))).trans (statusKept_dropGrid _ g)

theorem statusKept_endGrids (s : State) (c status : Nat) : StatusKept s (s.endGrids c status) :=
  .foldl (fun s g => statusKept_endGrid s g status) _ (s.recallGrids c)

theorem statusKept_clearContext (s : State) (c : Nat) : StatusKept s (s.clearContext c) :=
  .modContext s c fun _ => rfl

/-- The context of a thread that faults it is faulted, whatever its policy (19 R307). -/
theorem faultBy_faultedNow (s : State) (t : Nat) (w : Thread) (h : (s.context? w.ctx).isSome = true) :
    (s.faultBy t w).faultedNow w.ctx := by
  obtain ⟨x, hx⟩ := Option.isSome_iff_exists.mp h
  have hx' : (s.setThread t { w with stopped := true }).context? w.ctx = some x := hx
  have marked : State.faultedNow ((s.setThread t { w with stopped := true }).modContext w.ctx fun x => { x with status := .faulted })
      w.ctx := ⟨{ x with status := .faulted }, by rw [modContext_context _ _ _ _ _ hx', if_pos rfl], rfl⟩
  have told := (StatusKept.of_stored (stored_notifyCtx _ w.ctx 0x02 (w.trapcause.toNat % 65536) w.trappc w.place)).faultedNow marked
  have cleared := ((statusKept_endGrids _ w.ctx 0x0020).trans (statusKept_clearContext _ w.ctx)).faultedNow told
  unfold State.faultBy State.faultContext
  simp only [hx']
  split
  · exact cleared
  · exact told

end Sys2Proof.Machine
end

section
/-! SUPPORT (08 R184, 19 R306 to R308). What taking a trap does in each of its cases. -/

namespace Sys2Proof.Machine

variable {s : State} {t : Nat} {w : Thread} {e : Entry} {x : Context} {k : TrapInfo} {pc hdr : DWord}

/-! ## The cases -/

/-- The state as a trap is taken, past the notice of RLOG_FULL and the records of the walks that ended in PAGE. -/
def State.noticed (s : State) (w : Thread) (k : TrapInfo) (pc : DWord) : State :=
  let s := { s with cur := none }.rlogNotice (trapped w k pc) k
  if k.cause = .page then s.noteMalformed (trapped w k pc) [(lowestLane k.mask, k.addr)] else s

theorem stored_noticed (s : State) (w : Thread) (k : TrapInfo) (pc : DWord) : Stored { s with cur := none } (s.noticed w k pc) :=
  stored_ite ((stored_rlogNotice _ _ _).trans (stored_noteMalformed _ _ _)) (stored_rlogNotice _ _ _)

theorem noticed_context (c : Nat) : (s.noticed w k pc).context? c = s.context? c :=
  congrArg (aget? · c) (stored_noticed s w k pc).contexts

theorem takeTrap_eq (hx : s.context? w.ctx = some x) : s.takeTrap t w k pc hdr =
    if (w.handler || x.tba == 0#64) = true then (s.noticed w k pc).faultBy t (trapped w k pc)
    else if k.cause = .page then (s.noticed w k pc).takePage t (trapped w k pc) x
    else (s.noticed w k pc).enterHandler t (trapped w k pc) x hdr k.cause := by
  have found : (s.noticed w k pc).context? (trapped w k pc).ctx = some x := (noticed_context w.ctx).trans hx
  simp only [State.noticed, trapped] at found ⊢
  simp only [State.takeTrap, State.takeTrapAt, found]
  rfl

/-- A trap in handler mode, or with no handler, faults the context, whatever its cause (19 R307, log 81). -/
theorem takeTrap_faultedNow (hx : s.context? w.ctx = some x) (h : w.handler = true ∨ x.tba = 0#64) :
    (s.takeTrap t w k pc hdr).faultedNow w.ctx := by
  rw [takeTrap_eq hx, if_pos (by simpa using h)]
  exact faultBy_faultedNow _ t (trapped w k pc) (by rw [noticed_context]; exact Option.isSome_of_eq_some hx)

/-! ## PAGE (19 R308) -/

theorem takeTrap_page (hx : s.context? w.ctx = some x) (hh : w.handler = false) (ht : x.tba ≠ 0#64) (hk : k.cause = .page) :
    s.takeTrap t w k pc hdr = (s.noticed w k pc).takePage t (trapped w k pc) x := by
  rw [takeTrap_eq hx, if_neg (by simp [hh, ht]), if_pos hk]

theorem takeTrap_page_faultedNow (hx : s.context? w.ctx = some x) (hk : k.cause = .page)
    (hp : x.fpolicy.getLsbD 0 = true) : (s.takeTrap t w k pc hdr).faultedNow w.ctx := by
  by_cases h : w.handler = true ∨ x.tba = 0#64
  · exact takeTrap_faultedNow hx h
  · rw [not_or, Bool.not_eq_true] at h
    rw [takeTrap_page hx h.1 h.2 hk, State.takePage, if_pos hp]
    exact faultBy_faultedNow _ t (trapped w k pc) (by rw [noticed_context]; exact Option.isSome_of_eq_some hx)

/-- Under HALT_AND_NOTIFY the thread halts where it is. -/
theorem takeTrap_page_halts (hx : s.context? w.ctx = some x) (hh : w.handler = false) (ht : x.tba ≠ 0#64) (hk : k.cause = .page)
    (hp : x.fpolicy.getLsbD 0 = false) :
    (s.takeTrap t w k pc hdr).thread? t = some { trapped w k pc with halted := true } := by
  rw [takeTrap_page hx hh ht hk, State.takePage, if_neg (Bool.eq_false_iff.mp hp), (stored_notifyCtx _ _ _ _ _ _).thread,
    setThread_thread_same]

/-! ## Entering the handler (19 R306) -/

theorem pcField_eq_fieldOf (a : DWord) : pcField a = fieldOf a := by
  apply BitVec.eq_of_toNat_eq
  simp [pcField, fieldOf, Nat.shiftRight_eq_div_pow]

/-- The frame of a trap, whose flags are those of the clause under way or of the header at `hdr` (19 Table 19.1, log 25). -/
def State.trapFrame (s : State) (w : Thread) (e : Entry) (hdr : DWord) : List Byte :=
  frameBytes hdr e.mask e.fmt e.flg (s.frameFlags w hdr) w.ember.isSome w.susp.isSome

/-- The state once the frame of a trap stands at TSP - 64. -/
def State.withFrame (s : State) (w : Thread) (e : Entry) (hdr : DWord) (pas : List Nat) : State :=
  (State.touchPas { s with cur := none } (pas.map fun pa => (pa, 16))).writeGranules w e.gstep (w.tsp.toNat - 64) pas
    (s.trapFrame w e hdr)

/-- The thread at the start of its handler, which runs on the trapped path. -/
def handling (w : Thread) (k : TrapInfo) (pc : DWord) (x : Context) : Thread :=
  { trapped w k pc with
    tsp := w.tsp - 64#64, handler := true, hcause := some k.cause, clause := none
    stack := onRunning (fun y => { y with pc := pcField x.tba }) w.stack, spilled := 0 }

theorem withFrame_cur (pas : List Nat) : (s.withFrame w e hdr pas).cur = none := by
  refine (stored_writeGranules w e.gstep pas _ _ _).cur.trans ?_
  unfold State.touchPas
  split <;> rfl

/-- The trap registers have no part in where a frame stands and what it writes. -/
theorem writeGranules_trapped (step : Word) (pas : List Nat) (s : State) (off : Nat) (bs : List Byte) :
    s.writeGranules (trapped w k pc) step off pas bs = s.writeGranules w step off pas bs := by
  induction pas generalizing s off bs with
  | nil => rfl
  | cons pa r ih => exact ih _ _ _

/-! What a frame is made of does not depend on which thread is current, or on the trap registers. -/

theorem walk_cur (s : State) (n : Option Nat) (va table level fuel : Nat) :
    State.walk { s with cur := n } va table level fuel = s.walk va table level fuel := by
  induction fuel generalizing table level with
  | zero => rfl
  | succ fuel ih =>
    rw [State.walk, State.walk, ih]
    rfl

theorem access_cur (s : State) (n : Option Nat) (place c : Nat) (va : DWord) (a : Access) :
    State.access { s with cur := n } place c va a = s.access place c va a := by
  unfold State.access State.translate
  simp only [walk_cur]
  rfl

theorem framePas_trapped (off : Nat) (a : Access) :
    State.framePas { s with cur := none } (trapped w k pc) off a = s.framePas w off a := by
  unfold State.framePas State.privPa
  simp only [access_cur]
  rfl

theorem frameFlags_trapped : State.frameFlags { s with cur := none } (trapped w k pc) hdr = s.frameFlags w hdr := by
  unfold State.frameFlags
  simp only [access_cur]
  rfl

theorem entries_held (h : w.stackHeld) : s.entries w = w.stack := by
  simp [State.entries, h.1, State.spilledFrom]

theorem setPath_held (f : Entry → Entry) (h : w.stackHeld) :
    s.setPath t w f = s.setThread t { w with stack := onRunning f w.stack, spilled := 0 } := by
  have hl : (onRunning f w.stack).length ≤ 16 := (onRunning_length f _).trans_le h.2
  rw [State.setPath, entries_held h, State.putEntries, List.drop_eq_nil_of_le hl, State.writeSpill, List.take_of_length_le hl,
    Nat.sub_eq_zero_of_le hl]

/-- A trap that enters the handler leaves its frame and the thread at the start of the handler, and nothing else. -/
theorem takeTrap_handling (hx : s.context? w.ctx = some x) (hp : s.path? w = some e) (hh : w.handler = false) (hk : k.cause ≠ .page)
    (hr : k.cause ≠ .rlogFull) (ht : x.tba ≠ 0#64) (hs : 64 ≤ w.tsp.toNat) (held : w.stackHeld) {pas : List Nat}
    (hpas : s.framePas w (w.tsp.toNat - 64) .write = .ok pas) :
    s.takeTrap t w k pc hdr = (s.withFrame w e hdr pas).setThread t (handling w k pc x) := by
  have path : State.path? { s with cur := none } (trapped w k pc) = some e := by
    rw [State.path?, entries_held (w := trapped w k pc) held]
    exact (path_held hp held : running? w.stack = some e)
  rw [takeTrap_enters s t w k pc hdr x hx hh hk hr ht]
  unfold State.enterHandler
  dsimp only
  rw [path, if_neg (show ¬ (trapped w k pc).tsp.toNat < 64 from Nat.not_lt.mpr hs), framePas_trapped,
    show s.framePas w ((trapped w k pc).tsp.toNat - 64) .write = .ok pas from hpas]
  dsimp only
  rw [writeGranules_trapped, frameFlags_trapped, ← pcField_eq_fieldOf, setPath_held]
  · rfl
  · exact held

theorem handling_path (s : State) (hp : running? w.stack = some e) :
    s.path? (handling w k pc x) = some { e with pc := pcField x.tba } := by
  rw [State.path?, State.entries, show (handling w k pc x).spilled = 0 from rfl, State.spilledFrom, List.append_nil]
  exact running_onRunning _ _ _ hp fun _ => rfl

end Sys2Proof.Machine
end

section
/-! OBLIGATION O41. -/

namespace Sys2Proof.Machine

/-- Settles O41: the first check at issue that fails, a trap on request, and each way in which a trap that is taken ends. -/
theorem takingATrap : Obligations.TakingATrap := by
  unfold Obligations.TakingATrap
  intro s t w e c
  refine ⟨fun g code => ⟨trapOp_meaning rfl, trapOp_meaning rfl⟩, ?_, ?_⟩
  · intro i g hi hcur ht hp hc hg u traps outside onEmber priv pending
    have at' : AtIssue s t w e c := ⟨hcur, ht, hp, hc⟩
    have reserved : reservedHere g.desc c i = true ↔ outside := by
      rw [reservedHere_iff, outside_iff]
      simp only [outside, u, or_assoc]
    have ember : emberIllegal w i = true ↔ onEmber := emberIllegal_iff
    have privileged : privHere w i = true ↔ priv := privHere_iff
    have hazard : hazardHere w c i = true ↔ pending := hazardHere_iff
    rw [← reserved, ← ember, ← privileged, ← hazard]
    simp only [Bool.not_eq_true]
    refine ⟨fun h => traps_of_issueTrap at' hi nofun (issueTrap_reserved hg h),
      fun h1 h => traps_of_issueTrap at' hi nofun (issueTrap_ember hg h1 h),
      fun h1 h2 h => traps_of_issueTrap at' hi nofun (issueTrap_priv hg h1 h2 h),
      fun h1 h2 h3 h => traps_of_issueTrap at' hi nofun (issueTrap_hazard hg h1 h2 h3 h),
      fun h1 h2 h3 h4 hs => ⟨fun hb => ?_, fun hb hr => ?_⟩⟩
    · exact trapsOver_of_issueTrap at' hi rfl ((issueTrap_lost hg h1 h2 h3 h4).trans (lostRegister_vector hs hb))
    · exact trapsOver_of_issueTrap at' hi rfl ((issueTrap_lost hg h1 h2 h3 h4).trans (lostRegister_scalar hs hb hr))
  · intro k pc hdr x ht hp hx s'
    refine ⟨fun hh hk hr htba htsp held pas hpas => ?_, fun h => takeTrap_faultedNow hx (.inl h),
      fun h => takeTrap_faultedNow hx (.inr h), fun _ hk hpol => takeTrap_page_faultedNow hx hk hpol,
      fun hh hk htba hpol => ?_⟩
    · have entered := takeTrap_handling (t := t) (pc := pc) (hdr := hdr) hx hp hh hk hr htba htsp held hpas
      refine ⟨?_, ⟨handling w k pc x, ?_, rfl, rfl, rfl, rfl, rfl, rfl, rfl, ?_, ?_⟩, fun a => ?_⟩
      · simp only [s', entered]
        exact withFrame_cur pas
      · simp only [s', entered, setThread_thread_same]
      · exact ⟨fun _ => rfl, fun _ _ => rfl, fun _ => rfl, fun _ => rfl, rfl⟩
      · exact handling_path s' (path_held hp held)
      · simp only [s', entered]
        rfl
    · refine ⟨_, takeTrap_page_halts hx hh htba hk hpol, rfl, ?_, rfl, rfl, rfl, hh, rfl, ?_⟩
      · simp [trapped, Thread.trapRegs, hk, Cause.code]
      · exact ⟨fun _ => rfl, fun _ _ => rfl, fun _ => rfl, fun _ => rfl, rfl⟩

end Sys2Proof.Machine
end

section
/-! OBLIGATION O57. -/

namespace Sys2Proof.Laws.Encoding

/-- Every instruction is read back from its word, and an event has none. -/
theorem roundTrip (i : Instr) : Statement i := by
  cases i with
  | smov d a => exact smov d a
  | smovi d imm => exact smovi d imm
  | smovhi d imm => exact smovhi d imm
  | sadd d a b => exact sadd d a b
  | saddi d a imm => exact saddi d a imm
  | ssub d a b => exact ssub d a b
  | smul d a b => exact smul d a b
  | smulh d a b => exact smulh d a b
  | smulhu d a b => exact smulhu d a b
  | sand d a b => exact sand d a b
  | sor d a b => exact sor d a b
  | sxor d a b => exact sxor d a b
  | snot d a => exact snot d a
  | sshl d a b => exact sshl d a b
  | sshr d a b => exact sshr d a b
  | ssar d a b => exact ssar d a b
  | smin d a b => exact smin d a b
  | smax d a b => exact smax d a b
  | sminu d a b => exact sminu d a b
  | smaxu d a b => exact smaxu d a b
  | scmp c d a b => exact scmp c d a b
  | scmpu c d a b => exact scmpu c d a b
  | ssel d a b c => exact ssel d a b c
  | spopc d a => exact spopc d a
  | sclz d a => exact sclz d a
  | sld priv wide d a b => exact sld priv wide d a b
  | sldk d mode off => exact sldk d mode off
  | sget g d r => exact sget g d r
  | sset r a => exact sset r a
  | setfmt f => exact setfmt f
  | sreadlane d a lane => exact sreadlane d a lane
  | vmov g d a => exact vmov g d a
  | vmovi g d imm => exact vmovi g d imm
  | vadd g d a b => exact vadd g d a b
  | vaddi g d a imm => exact vaddi g d a imm
  | vsub g d a b => exact vsub g d a b
  | vmul g d a b => exact vmul g d a b
  | vmulh g d a b => exact vmulh g d a b
  | vmulhu g d a b => exact vmulhu g d a b
  | vmad g d a b c => exact vmad g d a b c
  | vand g d a b => exact vand g d a b
  | vor g d a b => exact vor g d a b
  | vxor g d a b => exact vxor g d a b
  | vnot g d a => exact vnot g d a
  | vshl g d a b => exact vshl g d a b
  | vshr g d a b => exact vshr g d a b
  | vsar g d a b => exact vsar g d a b
  | vmin g d a b => exact vmin g d a b
  | vmax g d a b => exact vmax g d a b
  | vminu g d a b => exact vminu g d a b
  | vmaxu g d a b => exact vmaxu g d a b
  | vabs g d a => exact vabs g d a
  | vneg g d a => exact vneg g d a
  | vcmp c g d a b => exact vcmp c g d a b
  | vcmpu c g d a b => exact vcmpu c g d a b
  | vsel g d p b c => exact vsel g d p b c
  | vpopc g d a => exact vpopc g d a
  | vclz g d a => exact vclz g d a
  | vbrev g d a => exact vbrev g d a
  | vbfe uns g d a off width => exact vbfe uns g d a off width
  | vbfi g d a off width => exact vbfi g d a off width
  | vadd64 g d a b => exact vadd64 g d a b
  | vsub64 g d a b => exact vsub64 g d a b
  | vmul64 g d a b => exact vmul64 g d a b
  | vshl64 g d a b => exact vshl64 g d a b
  | pand g d a b => exact pand g d a b
  | por g d a b => exact por g d a b
  | pxor g d a b => exact pxor g d a b
  | pnot g d a => exact pnot g d a
  | vfadd rnd g d a b => exact vfadd rnd g d a b
  | vfsub rnd g d a b => exact vfsub rnd g d a b
  | vfmul rnd g d a b => exact vfmul rnd g d a b
  | vffma rnd g d a b c => exact vffma rnd g d a b c
  | vfmin g d a b => exact vfmin g d a b
  | vfmax g d a b => exact vfmax g d a b
  | vfabs g d a => exact vfabs g d a
  | vfneg g d a => exact vfneg g d a
  | vfcmp c g d a b => exact vfcmp c g d a b
  | vfclass g d a => exact vfclass g d a
  | vfdiv rnd g d a b => exact vfdiv rnd g d a b
  | vfsqrt rnd g d a => exact vfsqrt rnd g d a
  | vfrcp rnd g d a => exact vfrcp rnd g d a
  | vfrsq rnd g d a => exact vfrsq rnd g d a
  | vfexp2 rnd g d a => exact vfexp2 rnd g d a
  | vflog2 rnd g d a => exact vflog2 rnd g d a
  | vfsinpi rnd g d a => exact vfsinpi rnd g d a
  | vfcospi rnd g d a => exact vfcospi rnd g d a
  | vfrnd rnd g d a => exact vfrnd rnd g d a
  | vhadd rnd g d a b => exact vhadd rnd g d a b
  | vhmul rnd g d a b => exact vhmul rnd g d a b
  | vhfma rnd g d a b c => exact vhfma rnd g d a b c
  | vbadd rnd g d a b => exact vbadd rnd g d a b
  | vbmul rnd g d a b => exact vbmul rnd g d a b
  | vbfma rnd g d a b c => exact vbfma rnd g d a b c
  | vcvt rnd dt st g d a => exact vcvt rnd dt st g d a
  | vshfl g d a lane fb => exact vshfl g d a lane fb
  | vbcast g d a lane => exact vbcast g d a lane
  | vvote g d v => exact vvote g d v
  | vballot g d a => exact vballot g d a
  | vscan op ty excl g d a => exact vscan op ty excl g d a
  | vreduce op ty g d a => exact vreduce op ty g d a
  | vcompact g d a p => exact vcompact g d a p
  | ld sz sp h home q g d a b => exact ld sz sp h home q g d a b
  | ldu stash wide h home q d a b => exact ldu stash wide h home q d a b
  | st sz sp rule fsum g a b c => exact st sz sp rule fsum g a b c
  | stf sz stash rule q g d a b c => exact stf sz stash rule q g d a b c
  | stl rule g a b c => exact stl rule g a b c
  | pref h home g a b => exact pref h home g a b
  | stepw => exact stepw
  | stepg => exact stepg
  | pause n => exact pause n
  | tdef t lo hi => exact tdef t lo hi
  | tfree t => exact tfree t
  | tstate d t => exact tstate d t
  | cpin t a b fc => exact cpin t a b fc
  | cpout rule free zero a t fc => exact cpout rule free zero a t fc
  | cptt d s fc => exact cptt d s fc
  | cwait fc n => exact cwait fc n
  | wbind w a => exact wbind w a
  | wunbind w => exact wunbind w
  | pin d base bytes => exact pin d base bytes
  | unpin a => exact unpin a
  | mmip q d a b ri => exact mmip q d a b ri
  | mmop q d a b ri => exact mmop q d a b ri
  | mmrw q d a ri => exact mmrw q d a ri
  | mmldb q a => exact mmldb q a
  | mmzero q d => exact mmzero q d
  | mmlda df q a ri => exact mmlda df q a ri
  | mmdrain rnd relu bias q d a sa sb => exact mmdrain rnd relu bias q d a sa sb
  | vqlut tbl q a => exact vqlut tbl q a
  | spdg q m w g n => exact spdg q m w g n
  | fbopen wide stash vt d c v l => exact fbopen wide stash vt d c v l
  | fbadv upTo d n => exact fbadv upTo d n
  | fbend d a => exact fbend d a
  | fbclose d => exact fbclose d
  | fbrd val q d a => exact fbrd val q d a
  | br tgt => exact br tgt
  | brc g tgt jn ej => exact brc g tgt jn ej
  | jt a tgt jn ej => exact jt a tgt jn ej
  | join => exact join
  | call l tgt => exact call l tgt
  | ret l => exact ret l
  | exit g => exact exit g
  | trap g code => exact trap g code
  | bkpt g tag => exact bkpt g tag
  | rte => exact rte
  | live n => exact live n
  | nop => exact nop
  | mark v => exact mark v
  | launch a => exact launch a
  | evsig e => exact evsig e
  | csrr d r => exact csrr d r
  | csrw r a => exact csrw r a
  | _ => exact of_event rfl

/-- Settles O57: one law for each encoded instruction, and an event has no word. -/
theorem encodingsDecode : Obligations.EncodingsDecode := by
  unfold Obligations.EncodingsDecode
  intro i w wf word
  exact roundTrip i wf w word

end Sys2Proof.Laws.Encoding
end

section
/-! OBLIGATION O38. -/

namespace Sys2Proof.Machine

variable {s : State} {i : Instr} {t : Nat} {w : Thread} {e : Entry} {c : Clause}

/-- Eight times a sign-extended offset is the offset shifted by three places (05 R77). -/
theorem target_eq_at8 (c : Clause) (tgt : BitVec 20) : c.target tgt = c.at8 tgt := by
  have shifted : tgt.signExtend 64 <<< 3 = BitVec.ofInt 64 (8 * tgt.toInt) := by
    rw [BitVec.shiftLeft_eq_mul_twoPow, BitVec.signExtend, show BitVec.twoPow 64 3 = BitVec.ofInt 64 8 from rfl,
      ← BitVec.ofInt_mul, Int.mul_comm]
  rw [Clause.target, Clause.at8, shifted]

/-- An instruction whose meaning is a jump of its thread, of which it may have written registers, goes to the jump's address. -/
theorem performs_jump {w' : Thread} {a : DWord} (h : Issues s i t w e c) (hs : w'.stack = w.stack) (hn : w'.spilled = w.spilled)
    (he : exec i s = .next (s.jump t w' e a)) : Performs s i s t w' e fun y => { y with pc := pcField a } := by
  rw [State.jump, ← pcField_eq_fieldOf] at he
  exact performs_of w' _ h.path hs hn (fun _ => rfl) he

theorem exec_br {tgt : BitVec 20} (h : Issues s (.br tgt) t w e c) :
    exec (.br tgt) s = .next (s.jump t w e (c.at8 tgt)) :=
  target_eq_at8 c tgt ▸ (issue_next h _ : execBr tgt s = _)

theorem exec_call {l : SReg} {tgt : BitVec 20} (h : Issues s (.call l tgt) t w e c) :
    exec (.call l tgt) s = .next (s.jump t (w.setS l.toNat (c.here + 8#64)) e (c.at8 tgt)) :=
  target_eq_at8 c tgt ▸ (issue_next h _ : execCall l tgt s = _)

theorem exec_ret {l : SReg} (h : Issues s (.ret l) t w e c) :
    exec (.ret l) s = if (w.sreg l.toNat).toNat % 8 ≠ 0 then .next (s.trapHere t w c ⟨.align, w.sreg l.toNat, e.mask⟩)
      else .next (s.jump t w e (w.sreg l.toNat)) :=
  (issue_next h _ : execRet l s = _)

/-- Settles O38: each of the three ends in a jump, which keeps bits [58:3] of its address (log 94), but for a RET to an address that
is no multiple of 8. -/
theorem branches : Obligations.Branches := by
  unfold Obligations.Branches
  intro s t w e c
  refine ⟨fun tgt h => ?_, fun l tgt h => ?_, fun l h => ⟨fun aligned => ?_, fun misaligned => ?_⟩⟩
  · exact performs_jump h rfl rfl (exec_br h)
  · exact performs_jump h rfl rfl (exec_call h)
  · exact performs_jump h rfl rfl ((exec_ret h).trans (if_neg (not_not.mpr aligned)))
  · exact traps_of ((exec_ret h).trans (if_pos misaligned))

end Sys2Proof.Machine
end

section
/-! SUPPORT (log 1). What passes before a step leaves the agenda alone. -/

namespace Sys2Proof.Machine

theorem Stored.agenda {s s' : State} (h : Stored s s') : s'.agenda = s.agenda := by
  obtain ⟨m, h, d, b, l, c, rfl⟩ := h
  rfl

theorem foldl_agenda {α : Type} {f : State → α → State} (hf : ∀ s a, (f s a).agenda = s.agenda) (l : List α) (s : State) :
    (l.foldl f s).agenda = s.agenda := by
  induction l generalizing s with
  | nil => rfl
  | cons a r ih => exact (ih _).trans (hf s a)

variable (s : State) (die : Nat)

/-! ## What dies and homes write -/

theorem stored_traceNow (bs : List Byte) : Stored s (s.traceNow die bs) :=
  stored_ite (stored_putNow s die _ _) (.trans (stored_ite (.refl s) (stored_putNow s die _ _)) (stored_putNow _ die _ _))

theorem stored_spendNow (bs : List Byte) : Stored s (s.spendNow die bs) :=
  stored_ite ((stored_ringAppend s _ bs).trans (stored_setRingWord _ _ _ _)) (stored_putNow s die _ _)

theorem stored_releaseNow (n : Nat) : Stored s (s.releaseNow die n) := stored_ite (stored_setRingWord s _ _ _) (.refl s)

theorem stored_finish (status : Nat) (res : List DWord) : Stored s (s.finish die status res) :=
  (stored_modDie s die _).trans (stored_raise _ die 0)

theorem stored_noteLostAt (c : Nat) (step : Word) (key : Nat) (va : DWord) (pa n : Nat) :
    Stored s (s.noteLostAt die c step key va pa n) := by
  refine .trans (stored_foldl _ (fun s a => ?_) _ s) (stored_dropL3 _ pa n)
  split
  · exact stored_uncorrected s _ _ _ _ _ _ _
  · exact .refl s

@[simp] theorem touchPas_agenda (l : List (Nat × Nat)) : (s.touchPas l).agenda = s.agenda := by
  unfold State.touchPas
  split <;> rfl

@[simp] theorem touchPa_agenda (pa n : Nat) : (s.touchPa pa n).agenda = s.agenda := touchPas_agenda s _

theorem completeNow_agenda (c : Nat) (a : DWord) (gsteps : Word) (status : Nat) :
    (s.completeNow die c a gsteps status).agenda = s.agenda := by
  have lost : ∀ s : State, (s.completeLost die c a gsteps status).agenda = s.agenda := fun s =>
    (stored_errRec _ _ _ _ _ _ _ _ _).agenda
  unfold State.completeNow
  split
  · split
    · exact lost s
    · exact (stored_commitLines _ _ _).agenda.trans (touchPa_agenda s _ _)
  · exact (lost _).trans (stored_noteWalks _ _ _ _ _).agenda

/-! ## Commands that have waited for their operand -/

theorem noteOperand_agenda (a : DWord) (n : Nat) : (s.noteOperand die a n).agenda = s.agenda := by
  unfold State.noteOperand
  split
  · rfl
  · exact (touchPa_agenda _ _ _).trans (stored_noteLostAt s die _ _ _ _ _ _).agenda

theorem createContext_agenda (bs : List Byte) : (s.createContext bs).1.agenda = s.agenda := by
  unfold State.createContext
  dsimp only
  split
  · rfl
  split
  · rfl
  split <;> rfl

theorem createAt_agenda (a : DWord) : (s.createAt die a).1.agenda = s.agenda :=
  (createContext_agenda _ _).trans (noteOperand_agenda s die a 128)

theorem countsAt_agenda (a : DWord) (c : Nat) : (s.countsAt die a c).1.agenda = s.agenda := by
  unfold State.countsAt
  split
  · rfl
  · refine (stored_writeAt _ _ _).agenda.trans ?_
    split
    · rfl
    · exact touchPa_agenda s _ _

theorem memCommand_agenda (c : Cmd) : (s.memCommand die c).1.agenda = s.agenda := by
  unfold State.memCommand
  split
  · exact createAt_agenda s die _
  split
  · exact countsAt_agenda s die _ _
  · exact noteOperand_agenda s die _ _

theorem runCmd_agenda {f : State → State × Reply} (hf : ∀ s, (f s).1.agenda = s.agenda) (c : Cmd) :
    (s.runCmd die c f).agenda = s.agenda := by
  unfold State.runCmd
  dsimp only
  split
  · exact (stored_finish _ die _ _).agenda.trans (hf _)
  · exact hf _

/-! ## Before a step -/

theorem perform_agenda (p : Post) : (s.perform die p).agenda = s.agenda := by
  cases p with
  | complete c a g st => exact completeNow_agenda s die c a g st
  | record k bs => exact (stored_putNow s die k bs).agenda
  | spend bs => exact (stored_spendNow s die bs).agenda
  | trace bs => exact (stored_traceNow s die bs).agenda
  | notice ty c i a b => exact (stored_noticeNow s die ty c i a b).agenda
  | lost k n => exact (stored_loseNow s die k n).agenda
  | release n => exact (stored_releaseNow s die n).agenda
  | command c => exact runCmd_agenda s die (fun s => memCommand_agenda s die c) c

theorem flushPosts_agenda : s.flushPosts.agenda = s.agenda := by
  unfold State.flushPosts
  split
  · rfl
  · refine foldl_agenda (fun s d => (foldl_agenda (fun s p => ?_) _ _).trans (stored_modDie s d _).agenda) _ s
    split
    · exact perform_agenda s d p
    · exact (stored_post s d p).agenda

theorem flushHomes_agenda : s.flushHomes.agenda = s.agenda := by
  unfold State.flushHomes
  split
  · rfl
  · refine foldl_agenda (fun s h => ?_) _ _
    split
    · exact (stored_ringPut s _ _ _).agenda
    · rfl

theorem noteWaits_agenda : s.noteWaits.agenda = s.agenda := by
  unfold State.noteWaits
  dsimp only
  split
  · rfl
  · refine foldl_agenda (fun s x => ?_) _ _
    split
    · rfl
    split
    · rfl
    · exact (stored_errRec _ _ _ _ _ _ _ _ _).agenda

theorem pass_agenda : s.pass.agenda = s.agenda :=
  calc s.elapse.flushPosts.flushHomes.noteWaits.agenda
    _ = s.elapse.flushPosts.flushHomes.agenda := noteWaits_agenda _
    _ = s.elapse.flushPosts.agenda := flushHomes_agenda _
    _ = s.elapse.agenda := flushPosts_agenda _

end Sys2Proof.Machine
end

section
/-! SUPPORT (05 R61, R64, R65, R87). What stands at a clause's place, and what a step makes of it. -/

namespace Sys2Proof.Machine

/-! ## The word -/

theorem decodeWord_wf {x : DWord} {i : Instr} (h : decodeWord x = .ok i) : i.wf = true := by
  unfold decodeWord at h
  dsimp only at h
  split at h
  · cases h
  split at h
  · split at h
    · cases h
      assumption
    · cases h
  · cases h

variable {x : DWord} {eng ix cnt : Nat} {m : Mask}

theorem fetchedWord_instr {i : Instr} (hd : decodeWord x = .ok i) (hc : opcodeClass (bits x.toNat 55 9) = some eng)
    (hl : endsClause (bits x.toNat 55 9) = true → ix = cnt) : fetchedWord x eng ix cnt m = .instr i := by
  have last : ¬ (endsClause (bits x.toNat 55 9) = true ∧ ix ≠ cnt) := fun h => h.2 (hl h.1)
  simp [fetchedWord, hc, hd, last]

/-- No instruction of the clause's class. -/
theorem fetchedWord_illegal (hc : opcodeClass (bits x.toNat 55 9) ≠ some eng) :
    fetchedWord x eng ix cnt m = .trap ⟨.illegalOp, 0#64, m⟩ := by
  unfold fetchedWord
  dsimp only
  split
  · rfl
  · rename_i k hk
    rw [if_pos fun h => hc (hk.trans (congrArg some h))]

/-- An instruction that ends a clause before the clause's last place, or reserved bits. -/
theorem fetchedWord_reserved (hc : opcodeClass (bits x.toNat 55 9) = some eng)
    (h : (endsClause (bits x.toNat 55 9) = true ∧ ix ≠ cnt) ∨ decodeWord x = .error .reservedEnc) :
    fetchedWord x eng ix cnt m = .trap ⟨.reservedEnc, 0#64, m⟩ := by
  unfold fetchedWord
  dsimp only
  rw [hc]
  dsimp only
  rw [if_neg (not_not.mpr rfl)]
  split
  · rfl
  · rename_i last
    rw [h.resolve_left last]

/-! ## The fetch -/

variable {s : State} {t : Nat} {w : Thread} {e : Entry} {c : Clause}

theorem fetch_wait (h : s.pageReached w.mmu w.ctx c.here = false) : s.fetch w e c = .wait := by
  simp [State.fetch, h]

theorem fetch_error {k : Cause} (h : s.pageReached w.mmu w.ctx c.here = true) (hx : s.codeWord w c.here = .error k) :
    s.fetch w e c = .trap ⟨k, c.here, e.mask⟩ := by
  simp [State.fetch, h, hx]

theorem fetch_word (h : s.pageReached w.mmu w.ctx c.here = true) (hx : s.codeWord w c.here = .ok x) :
    s.fetch w e c = fetchedWord x c.eng c.ix c.cnt e.mask := by
  simp [State.fetch, h, hx]

/-! ## The step -/

@[simp] theorem turnTo_cur (s : State) (t : Nat) (w : Thread) : (s.turnTo t w).cur = some t := by
  unfold State.turnTo
  split <;> rfl

theorem turnTo_wave (s : State) (t : Nat) (h : w.ember = none) : s.turnTo t w = { s with cur := some t } := by
  simp only [State.turnTo, h]

section
variable (hb : w.badCtl = false) (hp : s.path? w = some e) (hc : w.clause = some c)
include hb hp hc

theorem runThread_instr {i : Instr} (hf : s.fetch w e c = .instr i) :
    s.runThread t w = exec i ((s.noteRead w e c.here 8).turnTo t w) := by
  simp [State.runThread, hb, hp, hc, hf]

theorem runThread_trap {k : TrapInfo} (hf : s.fetch w e c = .trap k) :
    s.runThread t w = .next (s.trapOver (s.noteRead w e c.here 8) t w c k) := by
  simp [State.runThread, hb, hp, hc, hf]

theorem runThread_wait (hf : s.fetch w e c = .wait) : s.runThread t w = .next (s.stallHere t w) := by
  simp [State.runThread, hb, hp, hc, hf]
end

theorem step_issuer (ha : s.agenda = []) (hi : s.pass.issuer = some (t, w)) : step s = s.pass.runThread t w := by
  have empty : s.pass.agenda = [] := (pass_agenda s).trans ha
  simp only [step, empty, hi]

theorem step_event {i : Instr} {r : List Instr} (ha : s.agenda = i :: r) :
    step s = State.runEvent { s.pass with agenda := r } i := by
  have head : s.pass.agenda = i :: r := (pass_agenda s).trans ha
  simp only [step, head]

end Sys2Proof.Machine
end

section
/-! OBLIGATION O58. -/

namespace Sys2Proof.Machine

/-- Settles O58: a step is `runThread` of the issuer, by what the fetch finds, or `runEvent` of the agenda's head. -/
theorem stepRunsDecoded : Obligations.StepRunsDecoded := by
  unfold Obligations.StepRunsDecoded
  intro s
  refine ⟨fun ha t w e c hi hp hc hb => ?_, fun i r ha => ⟨fun hw => ?_, fun hw s' he => ?_⟩⟩
  · have run := step_issuer ha hi
    refine ⟨fun unreached => ?_, turnTo_wave _ t, turnTo_cur _ t w, fun reached => ⟨fun k hx => ?_, fun x hx => ?_⟩⟩
    · exact run.trans (runThread_wait hb hp hc (fetch_wait unreached))
    · exact run.trans (runThread_trap hb hp hc (fetch_error reached hx))
    have word := fetch_word (e := e) reached hx
    refine ⟨fun i hd ho hl => ⟨decodeWord_wf hd, ?_⟩, fun ho => ?_, fun ho hr => ?_⟩
    · exact run.trans (runThread_instr hb hp hc (word.trans (fetchedWord_instr hd ho hl)))
    · exact run.trans (runThread_trap hb hp hc (word.trans (fetchedWord_illegal ho)))
    · exact run.trans (runThread_trap hb hp hc (word.trans (fetchedWord_reserved ho hr)))
  · rw [step_event ha, State.runEvent, if_pos hw]
  · rw [step_event ha, State.runEvent, if_neg (Bool.eq_false_iff.mp hw), he]

end Sys2Proof.Machine
end

section
/-! OBLIGATION O45. -/

namespace Sys2Proof.Machine

theorem passLines_thread (s : State) (w : Thread) (l : List Thread) (u : Nat) : (s.passLines w l).thread? u = s.thread? u :=
  ((stored_writeBacks s _).trans (stored_caches _ _)).thread u

/-- What a hand-over makes of each thread: the lanes of its group that wait for nothing run on their embers (10 R234). -/
theorem handover_thread {s s' : State} {t : Nat} {w : Thread} {target : DWord} (hw : s.thread? t = some w)
    (he : exec (.handoverComplete t target) s = .next s') (u : Nat) :
    s'.thread? u = (s.thread? u).map fun x => if s.comesOver t w target x then w.takeOver x else x := by
  have run : exec (.handoverComplete t target) s = execHandoverComplete t target s := rfl
  rw [run, execHandoverComplete, hw] at he
  injection he with he
  rw [← he, passLines_thread]
  refine Eq.trans (congrArg (aget? · u) (List.map_congr_left fun x _ => ?_))
    (aget_map (fun x => if s.comesOver t w target x.2 then w.takeOver x.2 else x.2) s.threads u)
  split <;> rfl

/-- Lane 0 of a wave on its way to an ember, for which it waits until its v0 has come. Of its record's v0 the word of lane 1 is
marked lost. -/
def waitingLane : Thread :=
  { benchThread 0 with
    ember := some { cluster := 0, ctxno := 0, batch := 0, parent := 9, lane := 0, phase := .waiting, awaited := [0], atStepg := false }
    launched := laneBit 0, stack := [{ benchEntry with mask := laneBit 0 }], clause := none
    v := [(vix 0 1, 5#32)], badV := [vix 0 1] }

/-- Its wave, which waits for no data. -/
def waitedWave : Thread := { benchThread 0 with clause := none }

/-- A machine that holds the two. -/
def handingOver : State := { State.reset with threads := [(1, waitingLane), (9, waitedWave)] }

/-- The lane's ember takes the marks of lost words off every lane of the register that it has waited for, so that the word of lane 1
no longer reads as lost. -/
theorem takeOver_waitingLane : waitingLane.vreg 0 1 = 0#32 ∧ (waitedWave.takeOver waitingLane).vreg 0 1 = 5#32 := by decide

theorem handingOver_comes : handingOver.comesOver 9 waitedWave 0x1010#64 waitingLane = true := by decide

/-- Refutes O45, by its clause for a lane that has waited: all words but those of the lane's own awaited registers are to read as
before. No run marks a word of another lane lost in a lane's record, but the clause is for every state, and in `handingOver` such a
word reads 0 before the hand-over and 5 after it. -/
theorem not_clausesAndEmbers : ¬ Obligations.ClausesAndEmbers := by
  unfold Obligations.ClausesAndEmbers
  intro ⟨_, handover, _, _⟩
  obtain ⟨-, -, late⟩ := handover handingOver 9 1 waitedWave waitingLane _ 0x1010#64 rfl rfl rfl rfl rfl
  have waitsForNothing : ¬ ∃ y ∈ handingOver.threads, ∃ k, y.2.ember = some k
      ∧ (waitedWave.awaits y.2.live k.lane = true
        ∨ handingOver.lanesReached waitedWave.mmu waitedWave.grid (handingOver.gkey waitedWave k.lane) = false)
      ∧ k.parent = 9 ∧ k.batch = 0 := by
    rintro ⟨y, -, k, -, awaits | unreached, -⟩
    · exact Bool.false_ne_true awaits
    · exact Bool.false_ne_true unreached.symm
  obtain ⟨s', y, run, found, -, -, -, words⟩ := late rfl waitsForNothing
  have taken : y = waitedWave.takeOver waitingLane := by
    have handed := handover_thread (s := handingOver) rfl run 1
    rw [found] at handed
    exact Option.some.inj (handed.trans (congrArg some (if_pos handingOver_comes)))
  have kept : y.vreg 0 1 = waitingLane.vreg 0 1 := words 0 1 (by decide) (by decide)
  rw [taken, takeOver_waitingLane.1, takeOver_waitingLane.2] at kept
  exact absurd kept (by decide)

end Sys2Proof.Machine
end

section
/-! SUPPORT (06 R94, R101, R102). The values of the integer instructions, each as its table writes it. -/

namespace Sys2Proof.Machine

/-! ## Bits counted -/

theorem popcount_eq_length (n x : Nat) : popcount n x = ((List.range n).filter fun i => x.testBit i).length := by
  induction n generalizing x with
  | zero => rfl
  | succ n ih =>
    rw [popcount, ih, List.range_succ_eq_map, List.filter_cons, List.filter_map, Nat.testBit_zero]
    have hshift : ((fun i => x.testBit i) ∘ Nat.succ) = fun i => (x / 2).testBit i := funext fun i => Nat.testBit_succ x i
    rw [hshift]
    split
    next h => rw [List.length_cons, List.length_map, Nat.add_comm, decide_eq_true_eq.mp h]
    next h => rw [List.length_map, show x % 2 = 0 by simpa using h, Nat.zero_add]

theorem leadingZeros_eq_length (n x : Nat) :
    leadingZeros n x = ((List.range n).takeWhile fun i => !x.testBit (n - 1 - i)).length := by
  induction n with
  | zero => rfl
  | succ n ih =>
    rw [leadingZeros, ih, List.range_succ_eq_map, List.takeWhile_cons, List.takeWhile_map]
    have hshift : ((fun i => !x.testBit (n + 1 - 1 - i)) ∘ Nat.succ) = fun i => !x.testBit (n - 1 - i) :=
      funext fun i => by simp only [Function.comp_apply]; congr 2; omega
    rw [hshift]
    cases h : x.testBit n <;> simp [h, Nat.add_comm]

theorem clz32_eq_leadingZeros (n x : Nat) : clz32 n x = leadingZeros n x := by
  induction n with
  | zero => rfl
  | succ n ih => rw [clz32, leadingZeros, ih]

@[simp] theorem popcount_toNat {n : Nat} (x : BitVec n) : popcount n x.toNat = setBits x := popcount_eq_length n x.toNat

@[simp] theorem leadingZeros_toNat {n : Nat} (x : BitVec n) : leadingZeros n x.toNat = zerosAbove x :=
  leadingZeros_eq_length n x.toNat

@[simp] theorem clz32_toNat {n : Nat} (x : BitVec n) : clz32 n x.toNat = zerosAbove x :=
  (clz32_eq_leadingZeros n _).trans (leadingZeros_toNat x)

theorem reverseBits_lt (n x : Nat) : reverseBits n x < 2 ^ n := by
  induction n generalizing x with
  | zero => exact Nat.one_pos
  | succ n ih =>
    have hlow := ih (x / 2)
    rw [reverseBits, Nat.pow_succ]
    rcases Nat.mod_two_eq_zero_or_one x with h | h <;> rw [h] <;> omega

theorem testBit_reverseBits (n x i : Nat) : (reverseBits n x).testBit i = (decide (i < n) && x.testBit (n - 1 - i)) := by
  induction n generalizing x with
  | zero => simp [reverseBits]
  | succ n ih =>
    rw [reverseBits, Nat.mul_comm, Nat.testBit_two_pow_mul_add _ (reverseBits_lt n _), ih, ← Nat.testBit_succ]
    split
    next h => simp [h, show i < n + 1 by omega, show n - 1 - i + 1 = n - i by omega]
    next h =>
      obtain rfl | hi : i = n ∨ n + 1 ≤ i := by omega
      · simp [Nat.testBit_zero]
      · rw [Nat.testBit_lt_two_pow ((Nat.mod_lt x (by decide)).trans_le (Nat.pow_le_pow_right (by decide) (by omega : 1 ≤ i - n)))]
        simp [Nat.not_lt.mpr hi]

@[simp] theorem reverseBits_toNat {n : Nat} (x : BitVec n) : BitVec.ofNat n (reverseBits n x.toNat) = x.reverse := by
  apply BitVec.eq_of_getLsbD_eq
  intro i hi
  rw [BitVec.getLsbD_ofNat, testBit_reverseBits, BitVec.getLsbD_reverse, BitVec.getMsbD]
  simp [hi, BitVec.getLsbD]

/-! ## Shifts: a count past the width leaves no bit, or the sign alone -/

theorem ite_shiftLeft {n : Nat} (a : BitVec n) (k : Nat) : (if n ≤ k then 0#n else a <<< k) = a <<< k := by
  split
  next h => exact (BitVec.shiftLeft_eq_zero h).symm
  · rfl

theorem ite_ushiftRight {n : Nat} (a : BitVec n) (k : Nat) : (if n ≤ k then 0#n else a >>> k) = a >>> k := by
  split
  next h => exact (BitVec.ushiftRight_eq_zero h).symm
  · rfl

theorem shl64_eq (a b : DWord) : shl64 a b = a <<< b.toNat := ite_shiftLeft a _
theorem shr64_eq (a b : DWord) : shr64 a b = a >>> b.toNat := ite_ushiftRight a _
theorem shl32_eq (a b : Word) : shl32 a b = a <<< b.toNat := ite_shiftLeft a _
theorem shr32_eq (a b : Word) : shr32 a b = a >>> b.toNat := ite_ushiftRight a _

/-- A shift right past the width spreads the sign, as one to the lowest place does. -/
theorem sshiftRight_min {n : Nat} (a : BitVec (n + 1)) (k : Nat) : a.sshiftRight (min k n) = a.sshiftRight k := by
  by_cases h : k ≤ n
  · rw [Nat.min_eq_left h]
  · have hn : n ≤ k := by omega
    apply BitVec.eq_of_getLsbD_eq
    intro i hi
    rw [Nat.min_eq_right hn, BitVec.getLsbD_sshiftRight, BitVec.getLsbD_sshiftRight]
    rcases i with _ | i
    · simp [show ¬ k < n + 1 by omega, BitVec.msb_eq_getLsbD_last]
    · simp [show ¬ n + (i + 1) < n + 1 by omega, show ¬ k + (i + 1) < n + 1 by omega]

theorem sar64_eq (a b : DWord) : sar64 a b = a.sshiftRight b.toNat := sshiftRight_min a b.toNat
theorem sar32_eq (a b : Word) : sar32 a b = a.sshiftRight b.toNat := sshiftRight_min a b.toNat

/-! ## The lesser and the greater -/

section
variable {n : Nat} (a b : BitVec n)

theorem ite_toInt_le {α : Type} (x y : α) : (if a.toInt ≤ b.toInt then x else y) = if b.slt a then y else x := by
  by_cases h : a.toInt ≤ b.toInt <;> simp [BitVec.slt_eq_decide, h]

theorem ite_toNat_le {α : Type} (x y : α) : (if a.toNat ≤ b.toNat then x else y) = if b < a then y else x := by
  by_cases h : a.toNat ≤ b.toNat <;> simp [BitVec.lt_def, h]
end

/-- Where two values are level either of them is the greater. -/
theorem smax_eq {n : Nat} (a b : BitVec n) : (if a.toInt ≤ b.toInt then b else a) = if a.slt b then b else a := by
  rcases Int.lt_trichotomy a.toInt b.toInt with h | h | h
  · simp [BitVec.slt_eq_decide, h, Int.le_of_lt h]
  · rw [BitVec.eq_of_toInt_eq h, ite_self, ite_self]
  · simp [BitVec.slt_eq_decide, Int.not_le.mpr h, Int.not_lt.mpr (Int.le_of_lt h)]

theorem umax_eq {n : Nat} (a b : BitVec n) : (if a.toNat ≤ b.toNat then b else a) = if a < b then b else a := by
  rcases Nat.lt_trichotomy a.toNat b.toNat with h | h | h
  · simp [BitVec.lt_def, h, Nat.le_of_lt h]
  · rw [BitVec.eq_of_toNat_eq h, ite_self, ite_self]
  · simp [BitVec.lt_def, Nat.not_le.mpr h, Nat.not_lt.mpr (Nat.le_of_lt h)]

end Sys2Proof.Machine
end

section
/-! OBLIGATION O1. -/

namespace Sys2Proof.Machine

/-- An instruction that issues and writes one s register. -/
theorem Issues.writesS {s : State} {i : Instr} {t : Nat} {w : Thread} {e : Entry} {c : Clause} (h : Issues s i t w e c)
    {d : SReg} {f : Thread → Entry → DWord} {v : DWord}
    (he : exec i s = issue i s fun s t w e _ => .next (s.retire t (w.setS d.toNat (f w e)) e)) (hv : f w e = v) :
    WritesS s i t w e d v :=
  scalar_writes h.path h.soundS d v (hv ▸ he.trans (issue_next h _))

/-- Settles O1: every form writes one s register, with the value that its table gives. -/
theorem scalarResults : Obligations.ScalarResults := by
  unfold Obligations.ScalarResults
  intro s i t w e c d v h hv
  cases i with
  | smov | smovi | smovhi | sadd | saddi | ssub | smul | smulh | smulhu | sand | sor | sxor | snot | scmp | scmpu =>
    cases hv
    exact h.writesS (f := fun w _ => _) rfl rfl
  | sshl => cases hv; exact h.writesS (f := fun w _ => _) rfl (shl64_eq _ _)
  | sshr => cases hv; exact h.writesS (f := fun w _ => _) rfl (shr64_eq _ _)
  | ssar => cases hv; exact h.writesS (f := fun w _ => _) rfl (sar64_eq _ _)
  | smin => cases hv; exact h.writesS (f := fun w _ => _) rfl (ite_toInt_le _ _ _ _)
  | smax => cases hv; exact h.writesS (f := fun w _ => _) rfl (smax_eq _ _)
  | sminu => cases hv; exact h.writesS (f := fun w _ => _) rfl (ite_toNat_le _ _ _ _)
  | smaxu => cases hv; exact h.writesS (f := fun w _ => _) rfl (umax_eq _ _)
  | ssel => cases hv; exact h.writesS (f := fun w _ => _) rfl (ite_not _ _ _)
  | spopc => cases hv; exact h.writesS (f := fun w _ => _) rfl (congrArg _ (popcount_toNat _))
  | sclz => cases hv; exact h.writesS (f := fun w _ => _) rfl (congrArg _ (leadingZeros_toNat _))
  | sreadlane => cases hv; exact h.writesS (f := fun w e => _) rfl (apply_ite (BitVec.setWidth 64) _ _ _)
  | _ => cases hv

end Sys2Proof.Machine
end

section
/-! SUPPORT (06 R102). Bit fields. -/

namespace Sys2Proof.Machine

theorem shr32_ofNat (a : Word) {o : Nat} (h : o ≤ 32) : shr32 a (BitVec.ofNat 32 o) = a >>> o := by
  rw [shr32_eq, BitVec.toNat_ofNat, Nat.mod_eq_of_lt (by omega)]

theorem shl32_ofNat (a : Word) {o : Nat} (h : o ≤ 32) : shl32 a (BitVec.ofNat 32 o) = a <<< o := by
  rw [shl32_eq, BitVec.toNat_ofNat, Nat.mod_eq_of_lt (by omega)]

/-- A mask of all 32 bits changes nothing. -/
theorem and_lowMask (x : Word) {n : Nat} (h : n ≤ 32) :
    x &&& lowMask n = if n < 32 then x &&& BitVec.ofNat 32 (2 ^ n - 1) else x := by
  split
  next => rfl
  next hn =>
    obtain rfl : n = 32 := by omega
    exact BitVec.and_allOnes

theorem bfe_eq (uns : Bool) (a off width : Word) : bfe uns a off width = bitField uns a off width := by
  simp only [bfe, bitField, shr32_ofNat a (Nat.min_le_right _ _), and_lowMask _ (Nat.min_le_right _ _)]
  cases uns <;> simp [lowMask]

theorem bfi_eq (d a off width : Word) : bfi d a off width = fieldInsert d a off width := by
  simp only [bfi, fieldInsert, shl32_ofNat _ (Nat.min_le_right _ _), lowMask]

end Sys2Proof.Machine
end

section
/-! OBLIGATION O5. -/

namespace Sys2Proof.Machine

section
variable {s : State} {i : Instr} {t : Nat} {w : Thread} {e : Entry} {c : Clause} (h : Issues s i t w e c) {g : Guard} {d : VReg}
include h

/-- An instruction that issues and writes a v register in each lane that takes part. -/
theorem Issues.writesV {f : Thread → Nat → Word} {v : Nat → Word} (he : exec i s = vectorOp i s g d f)
    (hv : ∀ l, f w l = v l) : WritesV s i t w e g d v flNone := by
  obtain rfl : f w = v := funext hv
  exact vector_writes h.path h.soundV g d _ flNone (retire_fl .. ▸ he.trans (issue_next h _))

/-- As `Issues.writesV`, for an even pair. -/
theorem Issues.writesPair {f : Thread → Nat → DWord} {v : Nat → DWord} (he : exec i s = vectorOp64 i s g d f)
    (hv : ∀ l, f w l = v l) : WritesPair s i t w e g d v flNone := by
  obtain rfl : f w = v := funext hv
  exact pair_writes h.path h.soundV g d _ (he.trans (issue_next h _))

end

theorem vectorResult_writes {s : State} {i : Instr} {t : Nat} {w : Thread} {e : Entry} {c : Clause} {g : Guard} {d : VReg}
    {v : Nat → Word} (h : Issues s i t w e c) (hv : vectorResult w i = some (g, d, v)) : WritesV s i t w e g d v flNone := by
  cases i with
  | vmov | vmovi | vadd | vaddi | vsub | vmul | vmulh | vmulhu | vmad | vand | vor | vxor | vnot | vneg | vsel =>
    cases hv; exact h.writesV rfl fun _ => rfl
  | vshl => cases hv; exact h.writesV rfl fun _ => shl32_eq _ _
  | vshr => cases hv; exact h.writesV rfl fun _ => shr32_eq _ _
  | vsar => cases hv; exact h.writesV rfl fun _ => sar32_eq _ _
  | vmin => cases hv; exact h.writesV rfl fun _ => ite_toInt_le _ _ _ _
  | vmax => cases hv; exact h.writesV rfl fun _ => smax_eq _ _
  | vminu => cases hv; exact h.writesV rfl fun _ => ite_toNat_le _ _ _ _
  | vmaxu => cases hv; exact h.writesV rfl fun _ => umax_eq _ _
  | vabs => cases hv; exact h.writesV rfl fun _ => by rw [BitVec.slt_zero_eq_msb]
  | vpopc => cases hv; exact h.writesV rfl fun _ => congrArg _ (popcount_toNat _)
  | vclz => cases hv; exact h.writesV rfl fun _ => congrArg _ (clz32_toNat _)
  | vbrev => cases hv; exact h.writesV rfl fun _ => reverseBits_toNat _
  | vbfe => cases hv; exact h.writesV rfl fun _ => bfe_eq _ _ _ _
  | vbfi => cases hv; exact h.writesV rfl fun _ => bfi_eq _ _ _ _
  | _ => cases hv

theorem pairResult_writes {s : State} {i : Instr} {t : Nat} {w : Thread} {e : Entry} {c : Clause} {g : Guard} {d : VReg}
    {v : Nat → DWord} (h : Issues s i t w e c) (hv : pairResult w i = some (g, d, v)) : WritesPair s i t w e g d v flNone := by
  cases i with
  | vadd64 | vsub64 | vmul64 => cases hv; exact h.writesPair rfl fun _ => rfl
  | vshl64 => cases hv; exact h.writesPair rfl fun _ => ite_shiftLeft _ _
  | _ => cases hv

/-- Settles O5: every form is the shared write of a v register or of a pair, with the value that its table gives in each lane. -/
theorem vectorResults : Obligations.VectorResults := by
  unfold Obligations.VectorResults
  intro s i t w e c g d h
  exact ⟨fun v hv => vectorResult_writes h hv, fun v hv => pairResult_writes h hv⟩

end Sys2Proof.Machine
end

section
/-! OBLIGATION O6. -/

namespace Sys2Proof.Machine

/-- An instruction that issues and writes a predicate in each lane that takes part. -/
theorem Issues.writesP {s : State} {i : Instr} {t : Nat} {w : Thread} {e : Entry} {c : Clause} (h : Issues s i t w e c)
    {g : Guard} {d : PReg} {m : Thread → Mask → Mask} {b : Nat → Prop}
    (he : exec i s = issue i s fun s t w e _ => .next (s.retire t (w.setPred d.toNat (active w e g) (m w (active w e g))) e))
    (hm : ∀ l, l < 128 → TakesPart w e g l = true → ((m w (active w e g)).getLsbD l = true ↔ b l)) :
    WritesP s i t w e g d b flNone :=
  predicate_writes h.path g d _ b flNone hm (retire_fl .. ▸ he.trans (issue_next h _))

/-- As `Issues.writesP`, where each lane is looked at by itself. -/
theorem Issues.writesP_lanes {s : State} {i : Instr} {t : Nat} {w : Thread} {e : Entry} {c : Clause} (h : Issues s i t w e c)
    {g : Guard} {d : PReg} {f : Thread → Nat → Bool} {b : Nat → Prop} (he : exec i s = predicateOp i s g d f)
    (hf : ∀ l, f w l = true ↔ b l) : WritesP s i t w e g d b flNone := by
  refine h.writesP (m := fun w m => maskOf ((lanesOf m).filter (f w))) he fun l hl hp => ?_
  rw [getLsbD_maskOf _ _ hl, decide_eq_true_eq, List.mem_filter, mem_active, hf]
  simp [hl, hp]

/-! ## Votes (06 R116) -/

theorem mask_eq_zero_iff (m : Mask) : m = 0#128 ↔ ∀ l, l < 128 → m.getLsbD l = false := by
  constructor
  · rintro rfl l _
    exact BitVec.getLsbD_zero
  · intro h
    exact BitVec.eq_of_getLsbD_eq fun l hl => (h l hl).trans BitVec.getLsbD_zero.symm

section
variable (w : Thread) (e : Entry) (g : Guard)

theorem voteHolds_all (p : PReg) : voteHolds (.all p) w (active w e g) = true ↔
    ∀ k, k < 128 → TakesPart w e g k = true → (w.preg p.toNat).getLsbD k = true := by
  rw [voteHolds, beq_iff_eq, mask_eq_zero_iff]
  refine forall₂_congr fun k hk => ?_
  rw [BitVec.getLsbD_and, active_getLsbD _ _ _ _ hk, BitVec.getLsbD_not]
  cases TakesPart w e g k <;> simp [hk]

theorem voteHolds_any (p : PReg) : voteHolds (.any p) w (active w e g) = true ↔
    ∃ k, k < 128 ∧ TakesPart w e g k = true ∧ (w.preg p.toNat).getLsbD k = true := by
  rw [voteHolds, bne_iff_ne, ne_eq, mask_eq_zero_iff]
  push Not
  refine exists_congr fun k => and_congr_right fun hk => ?_
  rw [BitVec.getLsbD_and, active_getLsbD _ _ _ _ hk]
  simp

theorem voteHolds_uni (r : VReg) : voteHolds (.uni r) w (active w e g) = true ↔
    ∀ j k, j < 128 → k < 128 → TakesPart w e g j = true → TakesPart w e g k = true → w.vreg r.toNat j = w.vreg r.toNat k := by
  have hall : voteHolds (.uni r) w (active w e g) = true ↔
      ∀ j ∈ lanesOf (active w e g), ∀ k ∈ lanesOf (active w e g), w.vreg r.toNat j = w.vreg r.toNat k := by
    unfold voteHolds
    cases lanesOf (active w e g) with
    | nil => simp
    | cons a ls =>
      simp only [List.all_eq_true, beq_iff_eq]
      constructor
      · intro same
        have first : ∀ j ∈ a :: ls, w.vreg r.toNat j = w.vreg r.toNat a := by simpa using same
        exact fun j hj k hk => (first j hj).trans (first k hk).symm
      · exact fun same k hk => same k (List.mem_cons_of_mem _ hk) a List.mem_cons_self
  rw [hall]
  simp only [mem_active]
  exact ⟨fun h j k hj hk pj pk => h j ⟨hj, pj⟩ k ⟨hk, pk⟩, fun h j hj k hk => h j k hj.1 hk.1 hj.2 hk.2⟩
end

/-- A vote gives every lane that takes part the one answer. -/
theorem Issues.writesVote {s : State} {t : Nat} {w : Thread} {e : Entry} {c : Clause} {g : Guard} {d : PReg} {v : Vote}
    (h : Issues s (.vvote g d v) t w e c) {b : Prop} (hb : voteHolds v w (active w e g) = true ↔ b) :
    WritesP s (.vvote g d v) t w e g d (fun _ => b) flNone := by
  refine h.writesP (m := fun w m => if voteHolds v w m then m else 0#128) rfl fun l hl hp => ?_
  rw [← hb]
  split
  next yes => simp [active_getLsbD _ _ _ _ hl, hp, yes]
  next no => simp [no]

/-- Settles O6: compares and logic look at each lane by itself, and a vote at all lanes that take part. -/
theorem predicateResults : Obligations.PredicateResults := by
  unfold Obligations.PredicateResults
  intro s i t w e c g d b h hb
  cases i with
  | vcmp | vcmpu => cases hb; exact h.writesP_lanes rfl fun _ => Iff.rfl
  | pand => cases hb; exact h.writesP_lanes rfl fun _ => Bool.and_eq_true_iff
  | por => cases hb; exact h.writesP_lanes rfl fun _ => Bool.or_eq_true_iff
  | pxor => cases hb; exact h.writesP_lanes rfl fun _ => bne_iff_ne
  | pnot => cases hb; exact h.writesP_lanes rfl fun _ => (Bool.not_eq_true' _).to_iff
  | vvote g d v =>
    cases v with
    | all p => cases hb; exact h.writesVote (voteHolds_all w e g p)
    | any p => cases hb; exact h.writesVote (voteHolds_any w e g p)
    | uni r => cases hb; exact h.writesVote (voteHolds_uni w e g r)
  | _ => cases hb

end Sys2Proof.Machine
end

section
/-! OBLIGATION O2. -/

namespace Sys2Proof.Machine

/-- A byte below a word is the first of the number's bytes (02 R12). -/
theorem toNat_append_byte {n : Nat} (x : BitVec n) (b : Byte) : (x ++ b).toNat = b.toNat + 256 * x.toNat := by
  rw [BitVec.toNat_append, ← Nat.shiftLeft_add_eq_or_of_lt b.isLt, Nat.shiftLeft_eq]
  omega

section
variable (g : Grid) (off : Nat)

/-- The argument block's bytes as the statement names them. -/
theorem leNat_argBytes_word : leNat (g.argBytes off 4) =
    (g.args.getD (off + 3) 0#8 ++ g.args.getD (off + 2) 0#8 ++ g.args.getD (off + 1) 0#8 ++ g.args.getD (off + 0) 0#8).toNat := by
  simp only [toNat_append_byte, Grid.argBytes]
  rfl

theorem leNat_argBytes_doubleword : leNat (g.argBytes off 8) =
    (g.args.getD (off + 7) 0#8 ++ g.args.getD (off + 6) 0#8 ++ g.args.getD (off + 5) 0#8 ++ g.args.getD (off + 4) 0#8
      ++ (g.args.getD (off + 3) 0#8 ++ g.args.getD (off + 2) 0#8 ++ g.args.getD (off + 1) 0#8 ++ g.args.getD (off + 0) 0#8)).toNat := by
  rw [BitVec.toNat_append, ← Nat.shiftLeft_add_eq_or_of_lt (BitVec.isLt _), Nat.shiftLeft_eq]
  simp only [toNat_append_byte, Grid.argBytes, List.range, List.range.loop, List.map, leNat, Nat.mul_zero, Nat.add_zero]
  omega
end

section
variable {s : State} {t : Nat} {w : Thread} {e : Entry} {c : Clause} {g : Grid} {d : SReg} {mode : BitVec 2} {off : BitVec 12}
variable (h : Issues s (.sldk d mode off) t w e c) (hg : s.grid? w.grid = some g)
include h hg

/-- What SLDK does once it issues: the trap, or the value of its bytes. -/
theorem exec_sldk : exec (.sldk d mode off) s =
    if off.toNat % (if mode = 2#2 then 8 else 4) ≠ 0
    then .next (s.trapHere t w c ⟨.align, g.pkt.karg + off.setWidth 64, e.mask⟩)
    else .next (s.retire t (w.setS d.toNat (if mode = 1#2
        then (BitVec.ofNat 32 (leNat (g.argBytes off.toNat (if mode = 2#2 then 8 else 4)))).signExtend 64
        else BitVec.ofNat 64 (leNat (g.argBytes off.toNat (if mode = 2#2 then 8 else 4))))) e) := by
  refine (issue_next h _ : execSldk d mode off s = _).trans ?_
  simp only [hg]

theorem sldk_writes {v : DWord} (ha : off.toNat % (if mode = 2#2 then 8 else 4) = 0)
    (hv : (if mode = 1#2 then (BitVec.ofNat 32 (leNat (g.argBytes off.toNat (if mode = 2#2 then 8 else 4)))).signExtend 64
      else BitVec.ofNat 64 (leNat (g.argBytes off.toNat (if mode = 2#2 then 8 else 4)))) = v) :
    WritesS s (.sldk d mode off) t w e d v := by
  have hx := exec_sldk h hg
  rw [if_neg (not_not_intro ha), hv] at hx
  exact scalar_writes h.path h.soundS d v hx
end

/-- Settles O2. -/
theorem argumentReads : Obligations.ArgumentReads := by
  unfold Obligations.ArgumentReads
  intro s t w e c g d mode off h hg
  refine ⟨fun hm ha => ?_, fun hm ha => ?_, fun hm ha => ?_, fun ha => ?_⟩
  · subst hm
    exact sldk_writes h hg ha ((congrArg (BitVec.ofNat 64) (leNat_argBytes_word g off.toNat)).trans (BitVec.ofNat_toNat ..))
  · subst hm
    refine sldk_writes h hg ha (congrArg (BitVec.signExtend 64) ?_)
    exact (congrArg (BitVec.ofNat 32) (leNat_argBytes_word g off.toNat)).trans ((BitVec.ofNat_toNat ..).trans (BitVec.setWidth_eq _))
  · subst hm
    exact sldk_writes h hg ha
      ((congrArg (BitVec.ofNat 64) (leNat_argBytes_doubleword g off.toNat)).trans ((BitVec.ofNat_toNat ..).trans (BitVec.setWidth_eq _)))
  · exact traps_of ((exec_sldk h hg).trans (if_pos ha))

end Sys2Proof.Machine
end

section
/-! OBLIGATION O3. -/

namespace Sys2Proof.Machine

/-- 03 Table 3.3, each register as a number. -/
theorem sprValue_eq {s : State} {w : Thread} {g : Grid} {p : Group} (e : Entry) (lane : Nat) (r : Spr)
    (hg : s.grid? w.grid = some g) (hp : s.group? w.group = some p) :
    s.sprValue w e lane r = BitVec.ofNat 128 (match r with
      | .exec => e.mask.toNat | .faultmask => w.faultmask.toNat | .fmt => e.fmt.toNat | .laneid => lane | .waveix => w.wix
      | .groupix => p.gix | .gkey => p.gix * g.groupLanes + w.wix * g.width + lane
      | .stepno => e.wstep.toNat * 2 ^ 32 + e.gstep.toNat | .icount => e.icnt.toNat
      | .clock => if g.pkt.det = true then e.icnt.toNat else (s.die w.die).clock.toNat | .time => s.time.toNat
      | .dieid => w.die | .hearthid => w.hearth | .width => g.width
      | .ember => match w.ember with
        | none => 0
        | some m => 2 ^ 63 + m.ctxno
      | .trapcause => w.trapcause.toNat | .trappc => w.trappc.toNat | .trapaddr => w.trapaddr.toNat
      | .karg => g.pkt.karg.toNat | .seed => g.pkt.seed.toNat | .fpflags => e.flg.toNat | .eject => w.eject.toNat) := by
  simp only [State.sprValue, hg, hp]
  cases r with
  | laneid | waveix | groupix | gkey | dieid | hearthid | width => rfl
  | exec | faultmask => exact ((BitVec.ofNat_toNat ..).trans (BitVec.setWidth_eq _)).symm
  | fmt | icount | time | trapcause | trappc | trapaddr | karg | seed | eject => exact (BitVec.ofNat_toNat _ _).symm
  | stepno =>
    have hval : (e.wstep ++ e.gstep).toNat = e.wstep.toNat * 2 ^ 32 + e.gstep.toNat := by
      rw [BitVec.toNat_append, ← Nat.shiftLeft_add_eq_or_of_lt e.gstep.isLt, Nat.shiftLeft_eq]
    exact (BitVec.ofNat_toNat _ _).symm.trans (congrArg _ hval)
  | clock =>
    simp only
    split
    · exact (BitVec.ofNat_toNat _ _).symm
    · exact (BitVec.ofNat_toNat _ _).symm
  | ember => cases w.ember <;> rfl
  | fpflags =>
    have hval : (flWord e.flg).toNat = e.flg.toNat := BitVec.toNat_setWidth_of_le (by decide)
    exact (BitVec.ofNat_toNat _ _).symm.trans (congrArg _ hval)

theorem Spr.mask_iff (r : Spr) : r.mask = true ↔ r = .exec ∨ r = .faultmask := by
  cases r <;> decide

/-- An instruction that issues and writes an s register and the next. -/
theorem Issues.writesSPair {s : State} {i : Instr} {t : Nat} {w : Thread} {e : Entry} {c : Clause} (h : Issues s i t w e c)
    (d : Nat) (x : Mask) (he : exec i s = .next (s.retire t ((w.setS d (x.extractLsb' 0 64)).setS (d + 1) (x.extractLsb' 64 64)) e)) :
    ∃ s' y, exec i s = .next s' ∧ RunsOn s s' t w y e id
      ∧ (∀ k, y.sreg k = if k = d + 1 then x.extractLsb' 64 64 else if k = d then x.extractLsb' 0 64 else w.sreg k)
      ∧ (∀ k l, y.vreg k l = w.vreg k l) ∧ ∀ k, y.preg k = w.preg k := by
  obtain ⟨y, hr, hs, hv, hp⟩ := retire_writes (t := t)
    ((w.setS d (x.extractLsb' 0 64)).setS (d + 1) (x.extractLsb' 64 64)) id h.path rfl fun _ => rfl
  refine ⟨_, y, he, retire_eq .. ▸ hr, fun k => ?_, fun k l => hv k l, fun k => hp k⟩
  rw [hs, sreg_setS _ (by simp [Thread.setS, h.soundS]), sreg_setS _ h.soundS]

section
variable {s : State} {t : Nat} {w : Thread} {e : Entry} {c : Clause} {g : Guard} {r : Spr}

theorem exec_sget_s {d : SReg} (h : Issues s (.sget g (.s d) r) t w e c) (hr : r.mask = false) :
    exec (.sget g (.s d) r) s = .next (s.retire t (w.setS d.toNat ((s.sprValue w e (sgetLane e) r).extractLsb' 0 64)) e) := by
  refine (issue_next h _ : execSget g (.s d) r s = _).trans ?_
  simp [hr]

theorem exec_sget_mask {d : SReg} (h : Issues s (.sget g (.s d) r) t w e c) (hr : r.mask = true) :
    exec (.sget g (.s d) r) s = .next (s.retire t ((w.setS d.toNat ((s.sprValue w e (sgetLane e) r).extractLsb' 0 64)).setS
      (d.toNat + 1) ((s.sprValue w e (sgetLane e) r).extractLsb' 64 64)) e) := by
  refine (issue_next h _ : execSget g (.s d) r s = _).trans ?_
  simp [hr]

theorem extractLsb'_setWidth {n : Nat} (x : BitVec n) {m start len : Nat} (h : start + len ≤ m) :
    (x.setWidth m).extractLsb' start len = x.extractLsb' start len := by
  apply BitVec.eq_of_getLsbD_eq
  intro i hi
  simp [show start + i < m by omega]

/-- A register of 32 bits gives each lane its low word. -/
theorem sget_writesV {d : VReg} (h : Issues s (.sget g (.v d) r) t w e c) (hr : r.wide = false) :
    WritesV s (.sget g (.v d) r) t w e g d (fun l => (s.sprValue w e l r).setWidth 32) flNone := by
  refine vector_writes h.path h.soundV g d _ flNone (retire_fl .. ▸ (issue_next h _ : execSget g (.v d) r s = _).trans ?_)
  simp only [hr, Bool.false_eq_true, if_false, BitVec.setWidth_eq_extractLsb' (show 32 ≤ 128 by decide), List.map_eq_flatMap]

/-- One of 64 bits gives it an even pair. -/
theorem sget_writesPair {d : VReg} (h : Issues s (.sget g (.v d) r) t w e c) (hr : r.wide = true) :
    WritesPair s (.sget g (.v d) r) t w e g d (fun l => (s.sprValue w e l r).setWidth 64) flNone := by
  refine pair_writes h.path h.soundV g d _ ((issue_next h _ : execSget g (.v d) r s = _).trans ?_)
  simp only [hr, if_true, extractLsb'_setWidth _ (show 0 + 32 ≤ 64 by decide), extractLsb'_setWidth _ (show 32 + 32 ≤ 64 by decide)]
end

/-- Settles O3. -/
theorem specialReads : Obligations.SpecialReads := by
  unfold Obligations.SpecialReads
  intro s t w e c g r
  refine ⟨fun d h => ⟨fun hx hf => ?_, fun hm => ?_⟩, fun d h => ?_, fun y q lane hg hp => sprValue_eq e lane r hg hp⟩
  · have hm : r.mask = false := Bool.eq_false_iff.mpr fun hm => ((Spr.mask_iff r).mp hm).elim hx hf
    refine scalar_writes h.path h.soundS d _ ?_
    rw [exec_sget_s h hm, BitVec.setWidth_eq_extractLsb' (show 64 ≤ 128 by decide)]
    rfl
  · exact h.writesSPair _ _ (exec_sget_mask h ((Spr.mask_iff r).mpr hm))
  · cases hr : r.wide
    · exact sget_writesV h hr
    · exact sget_writesPair h hr

end Sys2Proof.Machine
end

section
/-! OBLIGATION O4. -/

namespace Sys2Proof.Machine

theorem ejectOk_iff (g : Grid) (x : DWord) : ejectOk g x = true ↔ x.toNat ≤ 8 ∧ (g.pkt.det = true → x.toNat ≤ g.e) := by
  cases h : g.pkt.det <;> simp [ejectOk, h]

theorem low_three_bits_eq_zero (x : DWord) : x.extractLsb' 0 3 = 0#3 ↔ x.toNat % 8 = 0 := by
  rw [← BitVec.toNat_inj, BitVec.extractLsb'_toNat]
  rfl

section
variable {s : State} {t : Nat} {w : Thread} {e : Entry} {c : Clause} {r : Spr} {a : SSrc}

/-- The instruction retires with its thread as `w'` and a change of its path. -/
theorem Issues.performs {i : Instr} (h : Issues s i t w e c) (w' : Thread) (f : Entry → Entry)
    (he : exec i s = .next (s.retirePath t w' e f)) (hs : w'.stack = w.stack) (hn : w'.spilled = w.spilled) (hf : ∀ y, (f y).st = y.st) :
    Performs s i s t w' e f :=
  performs_of w' f h.path hs hn hf he

theorem sset_fmt (h : Issues s (.sset .fmt a) t w e c) :
    if ((a.value w).extractLsb' 0 32).extractLsb' 13 19 = 0#19 ∧ fmtOk ((a.value w).extractLsb' 0 13) = true
    then Performs s (.sset .fmt a) s t w e (fun y => { y with fmt := (a.value w).extractLsb' 0 32 })
    else Traps s (.sset .fmt a) t w c ⟨.reservedEnc, 0#64, e.mask⟩ := by
  have he := (issue_next h _ : execSset .fmt a s = _)
  have hlow : ((a.value w).extractLsb' 0 32).extractLsb' 0 13 = (a.value w).extractLsb' 0 13 :=
    BitVec.eq_of_getLsbD_eq fun i hi => by simp
  simp only [hlow] at he
  split
  next ok => exact h.performs _ _ (he.trans (if_pos ok)) rfl rfl fun _ => rfl
  next bad => exact traps_of (he.trans (if_neg bad))

theorem sset_fpflags (h : Issues s (.sset .fpflags a) t w e c) :
    Performs s (.sset .fpflags a) s t w e (fun y => { y with flg := (a.value w).extractLsb' 0 5 }) :=
  h.performs _ _ (issue_next h _ : execSset .fpflags a s = _) rfl rfl fun _ => rfl

theorem sset_eject {g : Grid} (h : Issues s (.sset .eject a) t w e c) (hg : s.grid? w.grid = some g) :
    if (a.value w).toNat ≤ 8 ∧ (g.pkt.det = true → (a.value w).toNat ≤ g.e)
    then Performs s (.sset .eject a) s t (if w.ember.isSome = true then w else { w with eject := (a.value w).extractLsb' 0 4 }) e id
    else Traps s (.sset .eject a) t w c ⟨.reservedEnc, 0#64, e.mask⟩ := by
  have he : exec (.sset .eject a) s = if ¬ ejectOk g (a.value w) = true
      then .next (s.trapHere t w c ⟨.reservedEnc, 0#64, e.mask⟩)
      else .next (s.retire t (if w.ember.isSome = true then w else { w with eject := (a.value w).extractLsb' 0 4 }) e) :=
    (issue_next h _ : execSset .eject a s = _).trans (by simp only [hg, Bool.not_eq_true', Bool.not_eq_true])
  split
  next ok =>
    refine h.performs _ _ (he.trans (if_neg (not_not_intro ((ejectOk_iff g _).mpr ok)))) ?_ ?_ fun _ => rfl
    · split <;> rfl
    · split <;> rfl
  next bad => exact traps_of (he.trans (if_pos (mt (ejectOk_iff g _).mp bad)))

theorem sset_trappc (h : Issues s (.sset .trappc a) t w e c) :
    if (a.value w).toNat % 8 = 0 then Performs s (.sset .trappc a) s t { w with trappc := a.value w } e id
    else Traps s (.sset .trappc a) t w c ⟨.reservedEnc, 0#64, e.mask⟩ := by
  have he := (issue_next h _ : execSset .trappc a s = _)
  split
  next ok => exact h.performs _ _ (he.trans (if_neg (not_not_intro ((low_three_bits_eq_zero _).mpr ok)))) rfl rfl fun _ => rfl
  next bad => exact traps_of (he.trans (if_pos (mt (low_three_bits_eq_zero _).mp bad)))

theorem sset_faultmask {n : SReg} (h : Issues s (.sset .faultmask (.s n)) t w e c) :
    Performs s (.sset .faultmask (.s n)) s t { w with faultmask := w.sreg (n.toNat + 1) ++ w.sreg n.toNat } e id :=
  h.performs _ _ (issue_next h _ : execSset .faultmask (.s n) s = _) rfl rfl fun _ => rfl

theorem setfmt_performs {f : BitVec 13} (h : Issues s (.setfmt f) t w e c) :
    Performs s (.setfmt f) s t w e (fun y => { y with fmt := f.setWidth 32 }) :=
  h.performs _ _ (issue_next h _ : execSetfmt f s = _) rfl rfl fun _ => rfl
end

/-- Settles O4, a register at a time. -/
theorem specialWrites : Obligations.SpecialWrites := by
  unfold Obligations.SpecialWrites
  refine fun s t w e c => ⟨fun f h => setfmt_performs h, fun r a g h hg => ⟨?_, ?_, ?_, ?_, ?_⟩⟩
  · rintro rfl
    exact sset_fmt h
  · rintro rfl
    exact sset_fpflags h
  · rintro rfl
    exact sset_eject h hg
  · rintro rfl
    exact sset_trappc h
  · rintro n rfl rfl
    exact sset_faultmask h

end Sys2Proof.Machine
end

section
/-! OBLIGATION O14. -/

namespace Sys2Proof.Machine

/-- An instruction that issues and moves values between the lanes that take part. -/
theorem Issues.writesAcross {s : State} {i : Instr} {t : Nat} {w : Thread} {e : Entry} {c : Clause} (h : Issues s i t w e c)
    {g : Guard} {d : VReg} {f : Thread → Mask → Nat → Word} {v : Nat → Word} (he : exec i s = crossOp i s g d f)
    (hv : ∀ l, f w (active w e g) l = v l) : WritesV s i t w e g d v flNone := by
  obtain rfl : f w (active w e g) = v := funext hv
  exact vector_writes h.path h.soundV g d _ flNone (retire_fl .. ▸ he.trans (issue_next h _))

theorem takesPart_active (w : Thread) (e : Entry) (g : Guard) (j : Nat) :
    takesPart (active w e g) j = true ↔ j < 128 ∧ TakesPart w e g j = true := by
  rw [takesPart, Bool.and_eq_true, decide_eq_true_eq]
  exact and_congr_right fun hj => by rw [active_getLsbD w e g j hj]

/-- Settles O14: both look up a lane of the mask of those that take part. -/
theorem shuffles : Obligations.Shuffles := by
  unfold Obligations.Shuffles
  intro s t w e c g d a
  constructor
  · intro n fb h
    exact h.writesAcross (rfl : _ = execVshfl g d a n fb s) fun l => if_congr (takesPart_active w e g _) rfl rfl
  · intro n h
    exact h.writesAcross (rfl : _ = execVbcast g d a n s) fun l => if_congr (takesPart_active w e g _) rfl rfl

end Sys2Proof.Machine
end

section
/-! OBLIGATION O15. -/

namespace Sys2Proof.Machine

/-- The lanes that take part, as the model lists them. -/
theorem lanesOf_active (w : Thread) (e : Entry) (g : Guard) : lanesOf (active w e g) = partLanes w e g :=
  List.filter_congr fun l hl => active_getLsbD w e g l (List.mem_range.mp hl)

theorem mem_partLanes {w : Thread} {e : Entry} {g : Guard} {l : Nat} : l ∈ partLanes w e g ↔ l < 128 ∧ TakesPart w e g l = true := by
  rw [← lanesOf_active, mem_active]

/-- Flags gathered over a list: each that any member raises. -/
theorem getLsbD_foldl_or {α : Type} (f : α → Fl) (l : List α) (k : Nat) :
    (l.foldl (fun a x => a ||| f x) flNone).getLsbD k = l.any fun x => (f x).getLsbD k := by
  have hacc : ∀ a : Fl, (l.foldl (fun a x => a ||| f x) a).getLsbD k = (a.getLsbD k || l.any fun x => (f x).getLsbD k) := by
    induction l with
    | nil => simp
    | cons x r ih => intro a; simp [ih, Bool.or_assoc]
  simp [hacc, flNone]

/-- The flags gathered over the lanes that take part are what those lanes raise. -/
theorem raisedBy_foldl (w : Thread) (e : Entry) (g : Guard) (f : Nat → Fl) :
    RaisedBy w e g f ((partLanes w e g).foldl (fun a l => a ||| f l) flNone) := by
  intro k _
  rw [getLsbD_foldl_or, List.any_eq_true]
  simp only [mem_partLanes, and_assoc]

section
variable {s : State} {t : Nat} {w : Thread} {e : Entry} {c : Clause} {op : RedOp} {ty : RedTy} {g : Guard} {a : VReg}

/-- The lanes below `l`, or up to it, as VSCAN picks them. -/
theorem scan_filter (excl : Bool) (l k : Nat) :
    (if excl = true then decide (k < l) else decide (k ≤ l)) = decide (k < l ∨ (excl = false ∧ k = l)) := by
  cases excl <;> simp [Nat.le_iff_lt_or_eq]

/-- VSCAN's result of lane l. -/
def scanned (w : Thread) (e : Entry) (op : RedOp) (ty : RedTy) (excl : Bool) (g : Guard) (a : VReg) (l : Nat) : Word × Fl :=
  reduce op ty (((partLanes w e g).filter fun k => decide (k < l ∨ (excl = false ∧ k = l))).map fun k => w.vreg a.toNat k)

theorem vscan_writes {d : VReg} {excl : Bool} (h : Issues s (.vscan op ty excl g d a) t w e c) :
    WritesV s (.vscan op ty excl g d a) t w e g d (fun l => (scanned w e op ty excl g a l).1)
      ((partLanes w e g).foldl (fun f l => f ||| (scanned w e op ty excl g a l).2) flNone) := by
  refine vector_writes h.path h.soundV g d _ _ ((issue_next h _ : execVscan op ty excl g d a s = _).trans ?_)
  simp only [lanesOf_active, List.foldl_map, List.map_map, scan_filter]
  rfl

/-- The combination of every lane that takes part. -/
def reduced (w : Thread) (e : Entry) (op : RedOp) (ty : RedTy) (g : Guard) (a : VReg) : Word × Fl :=
  reduce op ty ((partLanes w e g).map fun k => w.vreg a.toNat k)

theorem vreduce_writes {d : VReg} (h : Issues s (.vreduce op ty g (.v d) a) t w e c) :
    WritesV s (.vreduce op ty g (.v d) a) t w e g d (fun _ => (reduced w e op ty g a).1) (reduced w e op ty g a).2 := by
  refine vector_writes h.path h.soundV g d _ _ ((issue_next h _ : execVreduce op ty g (.v d) a s = _).trans ?_)
  simp only [lanesOf_active]
  rfl

theorem redIdentity_lt (op : RedOp) (ty : RedTy) : redIdentity op ty < 2 ^ 32 := by
  cases op <;> cases ty <;> decide

theorem vreduce_performs {d : SReg} (h : Issues s (.vreduce op ty g (.s d) a) t w e c) :
    Performs s (.vreduce op ty g (.s d) a) s t (w.setS d.toNat (if partLanes w e g = [] then BitVec.ofNat 64 (redIdentity op ty)
        else (reduced w e op ty g a).1.setWidth 64)) e (fun y => y.raise (reduced w e op ty g a).2) := by
  refine h.performs _ _ ((issue_next h _ : execVreduce op ty g (.s d) a s = _).trans ?_) rfl rfl fun _ => rfl
  simp only [lanesOf_active, retireFl_eq]
  have hid : (BitVec.ofNat 32 (redIdentity op ty)).setWidth 64 = BitVec.ofNat 64 (redIdentity op ty) := by
    rw [← BitVec.ofNat_toNat, BitVec.toNat_ofNat, Nat.mod_eq_of_lt (redIdentity_lt op ty)]
  rw [apply_ite (BitVec.setWidth 64), hid]
  rfl
end

/-- Settles O15: the lanes of the mask are those that take part, in ascending order. -/
theorem scansAndReductions : Obligations.ScansAndReductions := by
  unfold Obligations.ScansAndReductions
  intro s t w e c op ty g a
  simp only [List.filter_true]
  exact ⟨fun d excl h => ⟨_, raisedBy_foldl w e g _, vscan_writes h⟩, fun d h => vreduce_writes h, fun d h => vreduce_performs h⟩

end Sys2Proof.Machine
end

section
/-! OBLIGATION O16. -/

namespace Sys2Proof.Machine

theorem vballot_writes {s : State} {t : Nat} {w : Thread} {e : Entry} {c : Clause} {g : Guard} {p : PReg} {d : SReg}
    (h : Issues s (.vballot g d p) t w e c) : ∃ s' x, exec (.vballot g d p) s = .next s' ∧ RunsOn s s' t w x e id
      ∧ (∀ l, l < 128 → ((x.sreg (d.toNat + 1) ++ x.sreg d.toNat).getLsbD l = true ↔
          TakesPart w e g l = true ∧ (w.preg p.toNat).getLsbD l = true))
      ∧ (∀ r, r ≠ d.toNat → r ≠ d.toNat + 1 → x.sreg r = w.sreg r)
      ∧ (∀ r l, x.vreg r l = w.vreg r l) ∧ ∀ r, x.preg r = w.preg r := by
  obtain ⟨s', x, he, hr, hs, hv, hp⟩ := h.writesSPair d.toNat (active w e g &&& w.preg p.toNat) (issue_next h _ : execVballot g d p s = _)
  refine ⟨s', x, he, hr, fun l hl => ?_, fun r h0 h1 => ?_, hv, hp⟩
  · rw [hs, hs, if_pos rfl, if_neg (Nat.ne_of_lt (Nat.lt_succ_self _)), if_pos rfl]
    have halves : ∀ m : Mask, m.extractLsb' 64 64 ++ m.extractLsb' 0 64 = m := fun m =>
      BitVec.eq_of_getLsbD_eq fun i hi => by
        rw [BitVec.getLsbD_append]
        by_cases h64 : i < 64
        · simp [h64]
        · simp [h64, show i - 64 < 64 by omega, show 64 + (i - 64) = i by omega]
    rw [halves, BitVec.getLsbD_and, active_getLsbD _ _ _ _ hl, Bool.and_eq_true]
  · rw [hs, if_neg h1, if_neg h0]

/-- Words given to lanes in ascending order, as many as there are of both: the lane above n others gets the n-th. -/
theorem lastTo_zip {ls : List Nat} (hl : ∀ l ∈ ls, l < 128) (hs : ls.Pairwise (· < ·)) (vs : List Word) (d r n : Nat) (hn : n < 128) :
    lastTo ((ls.zip vs).map fun x => (vix d x.1, x.2)) (vix r n) =
      if r = d ∧ n ∈ ls then vs[(ls.filter fun k => decide (k < n)).length]? else none := by
  induction ls generalizing vs with
  | nil => simp [lastTo]
  | cons a t ih =>
    cases vs with
    | nil => simp [lastTo]
    | cons v vs =>
      obtain ⟨hfirst, hrest⟩ := List.pairwise_cons.mp hs
      simp only [List.zip_cons_cons, List.map_cons, lastTo, ih (fun l h => hl l (List.mem_cons_of_mem _ h)) hrest,
        vix_inj (hl a List.mem_cons_self) hn, List.mem_cons]
      by_cases hr : r = d
      · by_cases ha : n = a
        · subst ha
          have hnone : (n :: t).filter (fun k => decide (k < n)) = [] := by
            simp only [List.filter_eq_nil_iff, List.mem_cons, decide_eq_true_eq, Nat.not_lt]
            rintro k (rfl | hk)
            · exact Nat.le_refl k
            · exact (hfirst k hk).le
          have hout : n ∉ t := fun h => Nat.lt_irrefl n (hfirst n h)
          simp [hr, hnone, hout]
        · by_cases hmem : n ∈ t
          · simp [hr, hmem, Ne.symm ha, hfirst n hmem]
          · simp [hr, ha, hmem, Ne.symm ha]
      · simp [hr, Ne.symm hr]

theorem partLanes_ascending (w : Thread) (e : Entry) (g : Guard) : (partLanes w e g).Pairwise (· < ·) :=
  List.pairwise_lt_range.filter _

theorem vcompact_writes {s : State} {t : Nat} {w : Thread} {e : Entry} {c : Clause} {g : Guard} {p : PReg} {d a : VReg}
    (h : Issues s (.vcompact g d a p) t w e c) : ∃ s' x, exec (.vcompact g d a p) s = .next s' ∧ RunsOn s s' t w x e id
      ∧ (∀ r l, l < 128 →
          let from' := (partLanes w e g).filter fun k => (w.preg p.toNat).getLsbD k
          let n := ((partLanes w e g).filter fun k => decide (k < l)).length
          x.vreg r l = if r = d.toNat ∧ TakesPart w e g l = true ∧ n < from'.length then w.vreg a.toNat (from'.getD n 0)
            else w.vreg r l)
      ∧ (∀ r, x.sreg r = w.sreg r) ∧ ∀ r, x.preg r = w.preg r := by
  have he : exec (.vcompact g d a p) s = _ := (issue_next h _ : execVcompact g d a p s = _)
  rw [lanesOf_active] at he
  obtain ⟨x, hr, hs, hv, hp⟩ := retire_writes (t := t) (w.setWords (((partLanes w e g).zip
    (((partLanes w e g).filter fun k => (w.preg p.toNat).getLsbD k).map fun k => w.vreg a.toNat k)).map
      fun x => (vix d.toNat x.1, x.2))) id h.path (by rw [setWords_eq w _ h.soundV]) fun _ => rfl
  refine ⟨_, x, he, retire_eq .. ▸ hr, fun r l hl => ?_, fun r => ?_, fun r => ?_⟩
  · rw [hv, setWords_vreg w _ h.soundV, lastTo_zip (fun k hk => (mem_partLanes.mp hk).1) (partLanes_ascending w e g) _ _ _ _ hl,
      List.getElem?_map]
    simp only [mem_partLanes, hl, true_and, List.getD_eq_getElem?_getD]
    generalize ((partLanes w e g).filter fun k => decide (k < l)).length = n
    generalize (partLanes w e g).filter (fun k => (w.preg p.toNat).getLsbD k) = src
    by_cases hd : r = d.toNat ∧ TakesPart w e g l = true
    · by_cases hn : n < src.length
      · simp [hd, hn]
      · simp [hd, hn]
    · rw [if_neg hd, if_neg fun k => hd ⟨k.1, k.2.1⟩]
      rfl
  · rw [hs, setWords_eq w _ h.soundV]; rfl
  · rw [hp, setWords_eq w _ h.soundV]; rfl

/-- Settles O16. -/
theorem ballotsAndCompacts : Obligations.BallotsAndCompacts := by
  unfold Obligations.BallotsAndCompacts
  exact fun s t w e c g p => ⟨fun d h => vballot_writes h, fun d a h => vcompact_writes h⟩

end Sys2Proof.Machine
end

section
/-! OBLIGATION O7. -/

namespace Sys2Proof.Machine

/-- Refutes O7: its clause on powers of two is for every number r of stochastic bits, and holds for those below 2^32 alone, as `srBits`
gives them. At r = 2^32 the mode SR rounds the exact power 2^1 up, since `roundsUp` asks for 2^32 in the sum of the bits cut off, which
are 0, and r: it delivers the code after that of 2, and raises nothing. -/
theorem not_floatResults : ¬ Obligations.FloatResults := by
  unfold Obligations.FloatResults
  rintro ⟨-, special⟩
  obtain ⟨-, -, -, -, -, -, -, -, powers, -⟩ := special .sr (2 ^ 32) 0 0 (by decide) (by decide)
  have delivered : fexp2 .sr (2 ^ 32) (fp32.round .rne 0 false ⟨1, 0, false⟩).1 = (0x40000000, flNone) :=
    (powers 1 (by decide) (by decide)).1
  have one : (fp32.round .rne 0 false ⟨1, 0, false⟩).1 = 0x3F800000 := by decide
  have above : fexp2 .sr (2 ^ 32) 0x3F800000 = (0x40000001, flNone) := by decide +kernel
  rw [one, above] at delivered
  exact absurd delivered (by decide)

end Sys2Proof.Machine
end

section
/-! OBLIGATION O8. -/

namespace Sys2Proof.Machine

section
variable {s : State} {i : Instr} {t : Nat} {w : Thread} {e : Entry} {c : Clause} (h : Issues s i t w e c) {g : Guard}
include h

/-- An instruction that issues and delivers float results in each lane that takes part, with the flags of those lanes. -/
theorem Issues.exec_floatOp {f : (Nat → Nat) → Thread → Nat → List (Nat × Word) × Fl} (he : exec i s = floatOp i s g f) :
    exec i s = .next (s.retireFl t (w.setWords ((partLanes w e g).flatMap fun l => (f (s.srOf w e l) w l).1)) e
      ((partLanes w e g).foldl (fun a l => a ||| (f (s.srOf w e l) w l).2) flNone)) := by
  refine (he.trans (issue_next h _)).trans ?_
  simp only [lanesOf_active, List.flatMap_map, List.foldl_map]

/-- One word in each lane. -/
theorem Issues.writesFloat {d : VReg} {f : (Nat → Nat) → Thread → Nat → List (Nat × Word) × Fl} {v : Nat → Word} {fl : Nat → Fl}
    (he : exec i s = floatOp i s g f) (hf : ∀ l, f (s.srOf w e l) w l = ([(vix d.toNat l, v l)], fl l)) :
    ∃ x, RaisedBy w e g fl x ∧ WritesV s i t w e g d v x := by
  refine ⟨_, raisedBy_foldl w e g fl, vector_writes h.path h.soundV g d v _ ((h.exec_floatOp he).trans ?_)⟩
  simp only [hf, lanesOf_active, List.map_eq_flatMap]

/-- Two 16-bit results in each lane, element 0 in the low half. -/
theorem Issues.writesHalves {d : VReg} {f : Nat → Nat → Thread → Nat → FRes} {v : Nat → Nat → FRes}
    (he : exec i s = f16Op i s g d f) (hf : ∀ l k, f (s.srOf w e l k) k w l = v l k) :
    ∃ fl, RaisedBy w e g (fun l => (v l 0).2 ||| (v l 1).2) fl
      ∧ WritesV s i t w e g d (fun l => BitVec.ofNat 32 ((v l 0).1 + 2 ^ 16 * (v l 1).1)) fl :=
  h.writesFloat he fun l => by simp only [hf]

end

theorem exec_halfResult {s : State} {i : Instr} {w : Thread} {e : Entry} {g : Guard} {d : VReg} {f : Nat → Nat → FRes}
    (hf : halfResult s w e i = some (g, d, f)) :
    ∃ f', exec i s = f16Op i s g d f' ∧ ∀ l k, f' (s.srOf w e l k) k w l = f l k := by
  unfold exec
  cases i with
  | vhadd | vhmul | vhfma | vbadd | vbmul | vbfma => cases hf; exact ⟨_, rfl, fun _ _ => rfl⟩
  | _ => cases hf

/-- Settles O8: every form is the shared write of two results in each lane. -/
theorem halfResults : Obligations.HalfResults := by
  unfold Obligations.HalfResults
  intro s i t w e c g d f h hf
  obtain ⟨f', he, hf'⟩ := exec_halfResult hf
  exact h.writesHalves he hf'

end Sys2Proof.Machine
end

section
/-! SUPPORT (06 R107, R108). The order of FP32 codes is the order of their values. -/

namespace Sys2Proof.Machine

/-! ## Codes that are no NaN -/

/-- A finite code's value, in units of the least subnormal. -/
theorem decode_fin {f : Fmt} {a : Nat} {n : Bool} {m : Nat} {e : Int} (h : f.decode a = .fin n m e) :
    n = a.testBit (f.eb + f.mb) ∧ a % 2 ^ (f.eb + f.mb) ≤ f.top ∧ f.low ≤ e
      ∧ m * 2 ^ (e - f.low).toNat = f.magUnits (a % 2 ^ (f.eb + f.mb)) := by
  unfold Fmt.decode at h
  simp only at h
  split at h
  next hfin =>
    unfold Fmt.magUnits
    split at h
    next hsub =>
      have hlow : a % 2 ^ (f.eb + f.mb) < 2 ^ f.mb := (Nat.div_eq_zero_iff_lt (Nat.two_pow_pos _)).mp hsub
      cases h
      exact ⟨rfl, hfin, Int.le_refl _, by rw [if_pos hsub, Int.sub_self, Int.toNat_zero, Nat.pow_zero, Nat.mul_one, Nat.mod_eq_of_lt hlow]⟩
    next hnorm =>
      cases h
      rw [if_neg hnorm]
      generalize a % 2 ^ (f.eb + f.mb) / 2 ^ f.mb = x at hnorm ⊢
      exact ⟨rfl, hfin, by omega, by rw [show ((x : Int) - 1 + f.low - f.low).toNat = x - 1 by omega]⟩
  next => split at h <;> (try split at h) <;> cases h

/-- The code of an infinity is the one after the greatest finite code. -/
theorem decode_inf {f : Fmt} (hf : f.Ieee) {a : Nat} {n : Bool} (h : f.decode a = .inf n) :
    n = a.testBit (f.eb + f.mb) ∧ a % 2 ^ (f.eb + f.mb) = f.top + 1 := by
  unfold Fmt.decode at h
  simp only [hf.inf, Bool.not_true, Bool.false_eq_true, if_false] at h
  split at h
  · split at h <;> cases h
  next hbig =>
  split at h
  next hmant =>
    cases h
    refine ⟨rfl, ?_⟩
    have hexp := Nat.div_add_mod' (a % 2 ^ (f.eb + f.mb)) (2 ^ f.mb)
    have htop := hf.top
    have hlt : a % 2 ^ (f.eb + f.mb) / 2 ^ f.mb < 2 ^ f.eb :=
      Nat.div_lt_of_lt_mul (by rw [← Nat.pow_add, Nat.add_comm f.mb]; exact Nat.mod_lt _ (Nat.two_pow_pos _))
    have hle := Nat.mul_le_mul_right (2 ^ f.mb) (show a % 2 ^ (f.eb + f.mb) / 2 ^ f.mb ≤ 2 ^ f.eb - 1 from Nat.le_sub_one_of_lt hlt)
    unfold Fmt.infCode at htop
    rw [hmant, Nat.add_zero] at hexp
    omega
  · cases h

/-- Each code's magnitude is less than the next. -/
theorem magUnits_lt_succ (f : Fmt) (k : Nat) : f.magUnits k < f.magUnits (k + 1) := by
  have hpos := Nat.two_pow_pos f.mb
  have hdiv := Nat.div_add_mod' k (2 ^ f.mb)
  have hmod := Nat.mod_lt k hpos
  obtain ⟨s, k', rfl, hlow, hhigh⟩ : ∃ s k', k = s * 2 ^ f.mb + k' ∧ (s ≠ 0 → 2 ^ f.mb ≤ k') ∧ k' + 1 ≤ 2 ^ (f.mb + 1) := by
    rw [Nat.pow_succ]
    cases hs : k / 2 ^ f.mb with
    | zero => exact ⟨0, k, by omega, by omega, by rw [hs] at hdiv; omega⟩
    | succ s => exact ⟨s, 2 ^ f.mb + k % 2 ^ f.mb, by rw [hs, Nat.succ_mul] at hdiv; omega, by omega, by omega⟩
  rw [Nat.add_assoc, magUnits_binade f hlow (by omega), magUnits_binade f (fun hs => (hlow hs).trans (Nat.le_succ _)) hhigh]
  exact Nat.mul_lt_mul_of_pos_right (Nat.lt_succ_self k') (Nat.two_pow_pos s)

theorem magUnits_strictMono (f : Fmt) : StrictMono f.magUnits := strictMono_nat_of_lt_succ (magUnits_lt_succ f)

theorem magUnits_zero (f : Fmt) : f.magUnits 0 = 0 := by
  simp [Fmt.magUnits]

/-- A finite value in units of 2^q, in units of 2^u. -/
theorem scaled_span (n : Bool) (m : Nat) {e q u : Int} (hu : u ≤ q) (hq : q ≤ e) :
    scaled n m e u = scaled n m e q * 2 ^ (q - u).toNat := by
  have hspan : (m * 2 ^ (e - u).toNat : Nat) = (m * 2 ^ (e - q).toNat : Nat) * 2 ^ (q - u).toNat := by
    rw [two_pow_span hu hq, Nat.mul_assoc]
  unfold scaled
  rw [hspan]
  cases n <;> push_cast <;> simp

/-! ## The order -/

/-- Signed numbers are ordered as what a strictly increasing function with u 0 = 0 makes of their magnitudes. -/
theorem signed_lt_iff {u : Nat → Nat} (hu : StrictMono u) (h0 : u 0 = 0) (n1 n2 : Bool) (k1 k2 : Nat) :
    (if n1 = true then -(u k1 : Int) else u k1) < (if n2 = true then -(u k2 : Int) else u k2) ↔
      (if n1 = true then -(k1 : Int) else k1) < (if n2 = true then -(k2 : Int) else k2) := by
  have hlt : ∀ i j, u i < u j ↔ i < j := fun i j => hu.lt_iff_lt
  have hpos : ∀ k, 0 < u k ↔ 0 < k := fun k => by simpa [h0] using hlt 0 k
  have h12 := hlt k1 k2
  have h21 := hlt k2 k1
  have hp1 := hpos k1
  have hp2 := hpos k2
  cases n1 <;> cases n2 <;> simp only [if_true, if_false, Bool.false_eq_true] <;> omega

/-- The exact order of values is that of their codes' keys (06 R107, R108). -/
theorem below_iff_key {f : Fmt} (hf : f.Ieee) {a b : Nat} (ha : (f.decode a).isNan = false) (hb : (f.decode b).isNan = false) :
    (f.decode a).below (f.decode b) ↔ f.key a < f.key b := by
  unfold Fmt.key
  cases hx : f.decode a with
  | nan => rw [hx] at ha; cases ha
  | inf n =>
    obtain ⟨hn, hm⟩ := decode_inf hf hx
    cases hy : f.decode b with
    | nan => rw [hy] at hb; cases hb
    | inf k =>
      obtain ⟨hk, hm'⟩ := decode_inf hf hy
      rw [← hn, ← hk, hm, hm']
      cases n <;> cases k <;> simp [FVal.below] <;> omega
    | fin k m e =>
      obtain ⟨hk, hm', -, -⟩ := decode_fin hy
      rw [← hn, ← hk, hm]
      generalize b % 2 ^ (f.eb + f.mb) = y at hm' ⊢
      cases n <;> cases k <;> simp [FVal.below] <;> omega
  | fin n m e =>
    obtain ⟨hn, hm, he, hval⟩ := decode_fin hx
    cases hy : f.decode b with
    | nan => rw [hy] at hb; cases hb
    | inf k =>
      clear hval
      obtain ⟨hk, hm'⟩ := decode_inf hf hy
      rw [← hn, ← hk, hm']
      generalize a % 2 ^ (f.eb + f.mb) = x at hm ⊢
      cases n <;> cases k <;> simp [FVal.below] <;> omega
    | fin k m' e' =>
      obtain ⟨hk, hm', he', hval'⟩ := decode_fin hy
      have hq : f.low ≤ min e e' := Int.le_min.mpr ⟨he, he'⟩
      have hpos : (0 : Int) < 2 ^ (min e e' - f.low).toNat := by positivity
      rw [FVal.below, ← Int.mul_lt_mul_right hpos, ← scaled_span n m hq (Int.min_le_left _ _),
        ← scaled_span k m' hq (Int.min_le_right _ _), scaled, scaled, hval, hval', ← hn, ← hk]
      exact signed_lt_iff (magUnits_strictMono f) (magUnits_zero f) _ _ _ _

/-- A key below another is below it with the zeros told apart as well. -/
theorem keyZ_lt_of_key_lt {f : Fmt} {a b : Nat} (h : f.key a < f.key b) : f.keyZ a < f.keyZ b := by
  unfold Fmt.key at h
  unfold Fmt.keyZ
  cases ha : a.testBit (f.eb + f.mb) <;> cases hb : b.testBit (f.eb + f.mb) <;>
    simp only [ha, hb, if_true, if_false, Bool.false_eq_true] at h ⊢ <;> omega

end Sys2Proof.Machine
end

section
/-! OBLIGATION O9. -/

namespace Sys2Proof.Machine

theorem ieee_fp32 : fp32.Ieee := ieee_of_arith (.inl rfl)

theorem isNan_of_signals {x : FVal} (h : x.signals = true) : x.isNan = true := by
  cases x with
  | nan => rfl
  | inf | fin => cases h

/-- No value is below or above a NaN. -/
theorem not_below_of_nan {x y : FVal} (h : (x.isNan || y.isNan) = true) : ¬ x.below y ∧ ¬ y.below x := by
  cases x <;> cases y <;> simp_all [FVal.below, FVal.isNan]

/-- VFCMP's answer is 06 Table 6.5 of the exact values. -/
theorem fcmp_meets (k : FCond) (a b : Nat) : (fcmp k a b).1 = true ↔ k.meets (fp32.decode a) (fp32.decode b) := by
  by_cases hun : ((fp32.decode a).isNan || (fp32.decode b).isNan) = true
  · obtain ⟨hlt, hgt⟩ := not_below_of_nan hun
    cases k <;> simp [fcmp, FCond.meets, hun, hlt, hgt]
  · have hnan : (fp32.decode a).isNan = false ∧ (fp32.decode b).isNan = false := by simpa using hun
    have hlt := below_iff_key ieee_fp32 hnan.1 hnan.2
    have hgt := below_iff_key ieee_fp32 hnan.2 hnan.1
    cases k with
    | eq => simp [fcmp, FCond.meets, hun, hlt, hgt]; omega
    | ne | lt | le | gt | ge | un | ord => simp [fcmp, FCond.meets, hun, hlt, hgt]

/-- VFCMP's flags. -/
theorem fcmp_flags (k : FCond) (a b : Nat) : (fcmp k a b).2 =
    if ((fp32.decode a).signals || (fp32.decode b).signals
      || (k.ordered && ((fp32.decode a).isNan || (fp32.decode b).isNan))) = true then flNv else flNone := by
  have hsig : ((fp32.decode a).signals || (fp32.decode b).signals) = true → ((fp32.decode a).isNan || (fp32.decode b).isNan) = true := by
    simp only [Bool.or_eq_true]
    exact Or.imp isNan_of_signals isNan_of_signals
  unfold fcmp
  dsimp only
  generalize ((fp32.decode a).signals || (fp32.decode b).signals) = sig at *
  generalize ((fp32.decode a).isNan || (fp32.decode b).isNan) = un at *
  cases k with
  | eq | ne | un | ord => simp [FCond.ordered]
  | lt | le | gt | ge =>
    cases un with
    | true => simp [FCond.ordered]
    | false =>
      have hquiet : sig = false := Bool.eq_false_iff.mpr fun h => Bool.false_ne_true (hsig h)
      simp [FCond.ordered, hquiet]

theorem vfcmp_writes {s : State} {t : Nat} {w : Thread} {e : Entry} {c : Clause} {k : FCond} {g : Guard} {d : PReg} {a b : FSrc}
    (h : Issues s (.vfcmp k g d a b) t w e c) :
    WritesP s (.vfcmp k g d a b) t w e g d (fun l => (fcmp k (a.value w l).toNat (b.value w l).toNat).1 = true)
      ((partLanes w e g).foldl (fun f l => f ||| (fcmp k (a.value w l).toNat (b.value w l).toNat).2) flNone) := by
  refine predicate_writes h.path g d (maskOf ((partLanes w e g).filter fun l => (fcmp k (a.value w l).toNat (b.value w l).toNat).1))
    _ _ (fun l hl hp => ?_) ((issue_next h _ : execVfcmp k g d a b s = _).trans ?_)
  · rw [getLsbD_maskOf _ _ hl, decide_eq_true_eq, List.mem_filter, mem_partLanes]
    simp only [hl, hp, true_and]
  · simp only [lanesOf_active, List.foldl_map, List.filter_map, List.map_map, fnum]
    rw [show ((fun x : Nat × Bool × Fl => x.1) ∘ fun l => (l, fcmp k (a.value w l).toNat (b.value w l).toNat)) = id from rfl, List.map_id]
    rfl

/-- Settles O9: VFCMP's answer and flags in each lane are those of the exact values. -/
theorem floatCompares : Obligations.FloatCompares := by
  unfold Obligations.FloatCompares
  intro s t w e c k g d a b h
  simp only [← fcmp_flags, ← fcmp_meets]
  exact ⟨_, raisedBy_foldl w e g _, vfcmp_writes h⟩

end Sys2Proof.Machine
end

section
/-! OBLIGATION O10. -/

namespace Sys2Proof.Machine

section
variable (m : Bool) (a b : Nat)

theorem fminmax_flags : (fminmax m a b).2 =
    if ((fp32.decode a).signals || (fp32.decode b).signals) = true then flNv else flNone := by
  unfold fminmax
  cases fp32.decode a <;> cases fp32.decode b <;> rfl

variable {a b}

/-- Two NaNs give the quiet form of the first. -/
theorem fminmax_nans (ha : (fp32.decode a).isNan = true) (hb : (fp32.decode b).isNan = true) (hlt : a < 2 ^ 32) :
    (fminmax m a b).1 = a ||| 2 ^ 22 := by
  unfold fminmax
  cases hx : fp32.decode a with
  | inf | fin => rw [hx] at ha; cases ha
  | nan n s p =>
    cases hy : fp32.decode b with
    | inf | fin => rw [hy] at hb; cases hb
    | nan => exact ieee_fp32.quiet_of_nan hlt hx

/-- One NaN gives the other operand. -/
theorem fminmax_nan_left (ha : (fp32.decode a).isNan = true) (hb : (fp32.decode b).isNan = false) : (fminmax m a b).1 = b := by
  unfold fminmax
  cases hx : fp32.decode a with
  | inf | fin => rw [hx] at ha; cases ha
  | nan =>
    cases hy : fp32.decode b with
    | inf | fin => rfl
    | nan => rw [hy] at hb; cases hb

theorem fminmax_nan_right (ha : (fp32.decode a).isNan = false) (hb : (fp32.decode b).isNan = true) : (fminmax m a b).1 = a := by
  unfold fminmax
  cases hx : fp32.decode a with
  | nan => rw [hx] at ha; cases ha
  | inf | fin =>
    cases hy : fp32.decode b with
    | inf | fin => rw [hy] at hb; cases hb
    | nan => rfl

/-- Of two numbers the keys, the zeros told apart, decide. -/
theorem fminmax_numbers (ha : (fp32.decode a).isNan = false) (hb : (fp32.decode b).isNan = false) :
    (fminmax m a b).1 = if (decide (fp32.keyZ a ≤ fp32.keyZ b) != m) = true then a else b := by
  unfold fminmax
  cases hx : fp32.decode a with
  | nan => rw [hx] at ha; cases ha
  | inf | fin =>
    cases hy : fp32.decode b with
    | nan => rw [hy] at hb; cases hb
    | inf | fin => rfl

theorem numbers_of_below {x y : FVal} (h : x.below y) : x.isNan = false ∧ y.isNan = false := by
  have hn : (x.isNan || y.isNan) = false := Bool.eq_false_iff.mpr fun hn => (not_below_of_nan hn).1 h
  simpa using hn

theorem fminmax_below (h : (fp32.decode a).below (fp32.decode b)) : (fminmax m a b).1 = if m = true then b else a := by
  obtain ⟨ha, hb⟩ := numbers_of_below h
  have hz := keyZ_lt_of_key_lt ((below_iff_key ieee_fp32 ha hb).mp h)
  rw [fminmax_numbers m ha hb, decide_eq_true hz.le]
  cases m <;> rfl

theorem fminmax_above (h : (fp32.decode b).below (fp32.decode a)) : (fminmax m a b).1 = if m = true then a else b := by
  obtain ⟨hb, ha⟩ := numbers_of_below h
  have hz := keyZ_lt_of_key_lt ((below_iff_key ieee_fp32 hb ha).mp h)
  rw [fminmax_numbers m ha hb, decide_eq_false (Int.not_le.mpr hz)]
  cases m <;> rfl
end

/-- Settles O10. -/
theorem minMax : Obligations.MinMax := by
  unfold Obligations.MinMax
  intro m a b
  refine ⟨fminmax_flags m _ _, fun ha hb => ?_, fminmax_nan_left m, fminmax_nan_right m, fminmax_below m, fminmax_above m, ?_, ?_⟩
  · rw [fminmax_nans m ha hb a.isLt, BitVec.toNat_or]
    rfl
  · rintro rfl rfl
    cases m <;> decide
  · rintro rfl rfl
    cases m <;> decide

end Sys2Proof.Machine
end

section
/-! SUPPORT (06 R112). VCVT: the elements that it converts, and the word that they make. -/

namespace Sys2Proof.Machine

theorem etyBits_eq_32_iff (t : ETy) : etyBits t = 32 ↔ t.perWord = 1 := by cases t <;> decide

theorem div_etyBits (t : ETy) : 32 / etyBits t = t.perWord := by cases t <;> rfl

theorem cvtCount_eq (dt sty : ETy) : cvtCount dt sty =
    if dt.perWord = 1 ∧ sty.perWord = 1 then 1 else if dt.perWord = 1 ∨ sty.perWord = 1 then 2 else min dt.perWord sty.perWord := by
  simp only [cvtCount, etyBits_eq_32_iff, div_etyBits]

theorem cvtSrc_eq_two_iff (dt sty : ETy) : (cvtSrc dt sty == 2) = true ↔ sty.perWord = 1 ∧ dt.perWord ≠ 1 := by
  unfold cvtSrc
  split
  next h => simpa using h
  next h => simpa using h

theorem cvtDst_eq_two_iff (dt sty : ETy) : cvtDst dt sty = 2 ↔ dt.perWord = 1 ∧ sty.perWord ≠ 1 := by
  unfold cvtDst
  split
  next h => simpa using h
  next h => simpa using h

/-- Element j of a number, as the statement cuts it out. -/
theorem bits_eq (x lo n : Nat) : bits x lo n = x / 2 ^ lo % 2 ^ n := by rw [bits, Nat.shiftRight_eq_div_pow]

section
variable (dt sty : ETy) (m : Rnd) (r : Nat → Nat) (x n : Nat)

theorem cvtPack_word : (cvtPack dt sty m r x n).1 = convertedWord dt sty m r x n := by
  induction n with
  | zero => rfl
  | succ n ih =>
    have hsum : convertedWord dt sty m r x (n + 1) = convertedWord dt sty m r x n
        + (convert dt sty m (r n) (x / 2 ^ (etyBits sty * n) % 2 ^ etyBits sty)).1 * 2 ^ (etyBits dt * n) := by
      simp [convertedWord, List.range_succ]
    rw [hsum, ← ih, ← bits_eq]
    rfl

/-- The packed word raises what some element raises. -/
theorem cvtPack_flags (k : Nat) : (cvtPack dt sty m r x n).2.getLsbD k = true ↔
    ∃ j, j < n ∧ (convert dt sty m (r j) (x / 2 ^ (etyBits sty * j) % 2 ^ etyBits sty)).2.getLsbD k = true := by
  induction n with
  | zero => simp [cvtPack, flNone]
  | succ n ih =>
    rw [cvtPack, BitVec.getLsbD_or, Bool.or_eq_true, ih, bits_eq]
    constructor
    · rintro (⟨j, hj, h⟩ | h)
      · exact ⟨j, Nat.lt_succ_of_lt hj, h⟩
      · exact ⟨n, Nat.lt_succ_self n, h⟩
    · rintro ⟨j, hj, h⟩
      rcases Nat.lt_succ_iff_lt_or_eq.mp hj with hj | rfl
      · exact .inl ⟨j, hj, h⟩
      · exact .inr h
end

/-- The halves of a number's low 64 bits. -/
theorem extractLsb'_low_ofNat (y : Nat) : (BitVec.ofNat 64 y).extractLsb' 0 32 = BitVec.ofNat 32 y := by
  apply BitVec.eq_of_getLsbD_eq
  intro i hi
  rw [BitVec.getLsbD_extractLsb', BitVec.getLsbD_ofNat, BitVec.getLsbD_ofNat]
  simp [hi, show i < 64 by omega]

theorem extractLsb'_high_ofNat (y : Nat) : (BitVec.ofNat 64 y).extractLsb' 32 32 = BitVec.ofNat 32 (y / 2 ^ 32) := by
  apply BitVec.eq_of_getLsbD_eq
  intro i hi
  rw [BitVec.getLsbD_extractLsb', BitVec.getLsbD_ofNat, BitVec.getLsbD_ofNat, Nat.testBit_div_two_pow, Nat.add_comm]
  simp [hi, show i + 32 < 64 by omega]

section
variable {s : State} {i : Instr} {t : Nat} {w : Thread} {e : Entry} {c : Clause} {g : Guard} {d : VReg}

/-- As `pair_writes`, with flags raised on the path. -/
theorem pair_writes_flags (hp : s.path? w = some e) (hb : w.badV = []) (v : Nat → DWord) (fl : Fl)
    (he : exec i s = .next (s.retireFl t (w.setWords ((lanesOf (active w e g)).flatMap fun l =>
      [(vix d.toNat l, (v l).extractLsb' 0 32), (vix (d.toNat + 1) l, (v l).extractLsb' 32 32)])) e fl)) :
    WritesPair s i t w e g d v fl := by
  obtain ⟨x, hr, hs, hv, hq⟩ := retire_writes (t := t) (w.setWords ((lanesOf (active w e g)).flatMap fun l =>
      [(vix d.toNat l, (v l).extractLsb' 0 32), (vix (d.toNat + 1) l, (v l).extractLsb' 32 32)])) (fun y => y.raise fl) hp
    (by rw [setWords_eq w _ hb]) fun _ => rfl
  refine ⟨_, x, he, retireFl_eq .. ▸ hr, fun r l hl => ?_, fun r => ?_, fun r => ?_⟩
  · rw [hv, setWords_vreg w _ hb, lastTo_pairs _ (fun l h => ((mem_lanesOf _ _).1 h).1) _ _ _ _ _ hl, apply_ite (Option.getD · _),
      apply_ite (Option.getD · _)]
    simp only [mem_active, hl, true_and, Option.getD_some, Option.getD_none]
  · rw [hs, setWords_eq w _ hb]; rfl
  · rw [hq, setWords_eq w _ hb]; rfl

/-- VCVT of elements x, n of them in each lane. -/
theorem vcvt_writes {m : Rnd} {dt sty : ETy} {a : CvtSrc} (h : Issues s (.vcvt m dt sty g d a) t w e c) {x : Nat → Nat} {n : Nat}
    (hx : ∀ l, CvtSrc.num a (cvtSrc dt sty == 2) w l = x l) (hn : cvtCount dt sty = n) :
    ∃ fl, (∀ k, k < 5 → (fl.getLsbD k = true ↔ ∃ l j, l < 128 ∧ j < n ∧ TakesPart w e g l = true
        ∧ (convert dt sty m (s.srOf w e l j) (x l / 2 ^ (etyBits sty * j) % 2 ^ etyBits sty)).2.getLsbD k = true))
      ∧ if dt.perWord = 1 ∧ sty.perWord ≠ 1
        then WritesPair s (.vcvt m dt sty g d a) t w e g d
          (fun l => BitVec.ofNat 64 (convertedWord dt sty m (s.srOf w e l) (x l) n)) fl
        else WritesV s (.vcvt m dt sty g d a) t w e g d
          (fun l => BitVec.ofNat 32 (convertedWord dt sty m (s.srOf w e l) (x l) n)) fl := by
  have he := h.exec_floatOp (id (rfl : execVcvt m dt sty g d a s = _))
  simp only [hx, hn, cvtPack_word] at he
  have raised := raisedBy_foldl w e g fun l => (cvtPack dt sty m (s.srOf w e l) (x l) n).2
  refine ⟨_, fun k hk => (raised k hk).trans ?_, ?_⟩
  · simp only [cvtPack_flags]
    constructor
    · rintro ⟨l, hl, hp, j, hj, hfl⟩
      exact ⟨l, j, hl, hj, hp, hfl⟩
    · rintro ⟨l, j, hl, hj, hp, hfl⟩
      exact ⟨l, hl, hp, j, hj, hfl⟩
  · split
    next hd =>
      refine pair_writes_flags h.path h.soundV _ _ (he.trans ?_)
      simp only [if_pos ((cvtDst_eq_two_iff dt sty).mpr hd), extractLsb'_low_ofNat, extractLsb'_high_ofNat, lanesOf_active]
    next hd =>
      refine vector_writes h.path h.soundV g d _ _ (he.trans ?_)
      simp only [if_neg (mt (cvtDst_eq_two_iff dt sty).mp hd), lanesOf_active, List.map_eq_flatMap]
end

end Sys2Proof.Machine
end

section
/-! SUPPORT (02 R17, Table 2.4). One conversion, by the kinds of its two types. -/

namespace Sys2Proof.Machine

section
variable {dt sty : ETy} (mode : Rnd) (r x : Nat)

theorem convert_float_float {f g : Fmt} (hf : etyFmt dt = some f) (hg : etyFmt sty = some g) (hne : dt ≠ sty) :
    convert dt sty mode r x = toFloat f mode r (g.decode x) := by
  simp only [convert, hf, hg, if_neg hne]

theorem convert_float_int {g : Fmt} (hd : etyFmt dt = none) (hg : etyFmt sty = some g) :
    convert dt sty mode r x = toInt dt mode r (g.decode x) := by
  simp only [convert, hd, hg]

theorem convert_int_float {f : Fmt} (hf : etyFmt dt = some f) (hs : etyFmt sty = none) :
    convert dt sty mode r x = f.round mode r (decide (etyInt sty x < 0)) ⟨(etyInt sty x).natAbs, 0, false⟩ := by
  simp only [convert, hf, hs]

theorem convert_int_int (hd : etyFmt dt = none) (hs : etyFmt sty = none) :
    convert dt sty mode r x = (intToInt dt sty x, flNone) := by
  simp only [convert, hd, hs]
end

/-! ## Into a float format -/

section
variable (f : Fmt) (mode : Rnd) (r : Nat)

theorem toFloat_fin (n : Bool) (m : Nat) (e : Int) : toFloat f mode r (.fin n m e) = f.round mode r n ⟨m, e, false⟩ := by
  unfold toFloat
  split <;> rfl

theorem toFloat_inf (n : Bool) : toFloat f mode r (.inf n) =
    if f.inf = true then (f.sign n + f.infCode, flNone) else (f.sign n + f.top, flNv) := rfl

theorem toFloat_nan (n sig : Bool) (pay : Nat) : toFloat f mode r (.nan n sig pay) =
    if f.inf = true then (f.sign n + (f.infCode ||| 2 ^ (f.mb - 1) ||| pay / 2 ^ (23 - f.mb)), if sig = true then flNv else flNone)
    else (if f = e4m3 then f.sign n + 0x7F else 0, flNv) := rfl
end

theorem etyFmt_eq_e4m3_iff {dt : ETy} {f : Fmt} (hf : etyFmt dt = some f) : f = e4m3 ↔ dt = .e4m3 := by
  cases dt <;> cases hf <;> decide

/-! ## Into an integer type -/

/-- A number of n bits, as the code that holds it. -/
theorem intCode_eq (n : Nat) (j : Int) : intCode n j = (j % 2 ^ n).toNat := rfl

/-- A finite number cut at whole units. -/
theorem cut_zero (m : Nat) (e : Int) : (Mag.mk m e false).cut 0 = exactCut (m * 2 ^ e.toNat) (2 ^ (-e).toNat) := by
  rw [cut_exact m (Int.min_le_right 0 e) (Int.min_le_left 0 e)]
  rw [show (e - min 0 e).toNat = e.toNat by omega, show (0 - min 0 e).toNat = (-e).toNat by omega]

/-- A value saturated at the ends of a range. -/
theorem saturated (dt : ETy) (v : Int) (fl : Fl) :
    (if v < (etyRange dt).1 ∨ (etyRange dt).2 < v
      then (intCode (etyBits dt) (clampInt (etyRange dt).1 (etyRange dt).2 v), flNv) else (intCode (etyBits dt) v, fl)) =
    if v < (etyRange dt).1 then (((etyRange dt).1 % 2 ^ etyBits dt).toNat, flNv)
    else if (etyRange dt).2 < v then (((etyRange dt).2 % 2 ^ etyBits dt).toNat, flNv)
    else ((v % 2 ^ etyBits dt).toNat, fl) := by
  unfold clampInt
  by_cases hlo : v < (etyRange dt).1
  · simp [hlo, intCode_eq]
  · by_cases hhi : (etyRange dt).2 < v
    · simp [hlo, hhi, intCode_eq]
    · simp [hlo, hhi, intCode_eq]

theorem toInt_fin (dt : ETy) (mode : Rnd) (r : Nat) (n : Bool) (m : Nat) (e : Int) {gap z k : Nat} {v : Int}
    (hgap : gap = 2 ^ (-e).toNat) (hz : z = m * 2 ^ e.toNat)
    (hk : k = if goesUp mode n r (z / gap) (z % gap) gap = true then z / gap + 1 else z / gap)
    (hv : v = if n = true then -(k : Int) else k) :
    toInt dt mode r (.fin n m e) =
      if v < (etyRange dt).1 then (((etyRange dt).1 % 2 ^ etyBits dt).toNat, flNv)
      else if (etyRange dt).2 < v then (((etyRange dt).2 % 2 ^ etyBits dt).toNat, flNv)
      else ((v % 2 ^ etyBits dt).toNat, if z % gap = 0 then flNone else flNx) := by
  have hround : ((Mag.mk m e false).cut 0).round mode n r = k := by
    rw [cut_zero, ← hgap, ← hz, Cut.round, roundsUp_exactCut mode n r rfl, hk]
    rfl
  have hinx : ((Mag.mk m e false).cut 0).inx = (z % gap != 0) := by rw [cut_zero, ← hgap, ← hz]; rfl
  rw [← saturated]
  simp only [toInt, hround, hinx, ← hv, bne_iff_ne, ne_eq, ite_not]

theorem etyRange_le (dt : ETy) : (etyRange dt).1 ≤ (etyRange dt).2 := by cases dt <;> decide

theorem intToInt_held {dt sty : ETy} {x : Nat} (hlo : (etyRange dt).1 ≤ etyInt sty x) (hhi : etyInt sty x ≤ (etyRange dt).2) :
    intToInt dt sty x = (etyInt sty x % 2 ^ etyBits dt).toNat := by
  simp only [intToInt, hlo, hhi, and_self, if_true]
  rfl

/-- A narrower type saturates. -/
theorem intToInt_narrow {dt sty : ETy} (x : Nat) (h : etyBits dt < etyBits sty) :
    intToInt dt sty x = (max (etyRange dt).1 (min (etyRange dt).2 (etyInt sty x)) % 2 ^ etyBits dt).toNat := by
  have hle := etyRange_le dt
  by_cases hin : (etyRange dt).1 ≤ etyInt sty x ∧ etyInt sty x ≤ (etyRange dt).2
  · rw [intToInt_held hin.1 hin.2, Int.min_eq_right hin.2, Int.max_eq_right hin.1]
  · simp only [intToInt, hin, if_false, h, if_true, intCode_eq]
    congr 2
    unfold clampInt
    split
    · omega
    · split <;> omega

end Sys2Proof.Machine
end

section
/-! OBLIGATION O13. -/

namespace Sys2Proof.Machine

/-- The source operand, of one word or two. -/
theorem cvtSrc_num (a : CvtSrc) (dt sty : ETy) (w : Thread) (l : Nat) : CvtSrc.num a (cvtSrc dt sty == 2) w l = match a with
    | .v r => if sty.perWord = 1 ∧ dt.perWord ≠ 1 then (w.vpair r.toNat l).toNat else (w.vreg r.toNat l).toNat
    | .s r => if sty.perWord = 1 ∧ dt.perWord ≠ 1 then (w.sreg r.toNat).toNat else (w.sreg r.toNat).toNat % 2 ^ 32 := by
  cases a with
  | v r => exact if_congr (cvtSrc_eq_two_iff dt sty) rfl rfl
  | s r => exact if_congr (cvtSrc_eq_two_iff dt sty) rfl rfl

/-- Settles O13: the instruction by its shared write, and a conversion by the kinds of its types. -/
theorem conversions : Obligations.Conversions := by
  unfold Obligations.Conversions
  refine ⟨fun s t w e c m dt sty g d a h => vcvt_writes h (cvtSrc_num a dt sty w) (cvtCount_eq dt sty),
    fun dt sty mode r x _ _ => ⟨fun f g hf hg hne => ?_, fun g hd hg => ?_, fun f hf hs => ?_, fun hd hs => ?_⟩⟩
  · rw [convert_float_float mode r x hf hg hne]
    refine ⟨fun n m e hx => ?_, fun n hx => ?_, fun n sig pay hx => ?_⟩
    · rw [hx, toFloat_fin]
    · rw [hx, toFloat_inf]
    · rw [hx, toFloat_nan]
      simp only [etyFmt_eq_e4m3_iff hf]
  · rw [convert_float_int mode r x hd hg]
    refine ⟨fun n sig pay hx => ?_, fun n hx => ?_, fun n m e hx => ?_⟩
    · rw [hx]; rfl
    · rw [hx]; rfl
    · rw [hx]; exact toInt_fin dt mode r n m e rfl rfl rfl rfl
  · exact convert_int_float mode r x hf hs
  · rw [convert_int_int mode r x hd hs]
    exact ⟨fun hlo hhi => by rw [intToInt_held hlo hhi], fun hn => by rw [intToInt_narrow x hn]⟩

end Sys2Proof.Machine
end

section
/-! SUPPORT (07 R126, 13 R277, 22 R337). What one access to memory finds, and when it is reached. -/

namespace Sys2Proof.Machine

/-- A read of a lane by one access to memory, as the first level that holds its line serves it. -/
def servedRead (s : State) (u : LineUse) (strict : Bool) (addr va : DWord) : LaneRead :=
  ⟨(s.serve u).1, (s.serve u).2, strict, false, addr, va, [u]⟩

section
variable {s : State} {u : LineUse} {bs : List Byte} {src : Nat}

theorem readBytes_length (s : State) (pa n : Nat) : (s.readBytes pa n).length = n := by
  induction n generalizing pa with
  | zero => rfl
  | succ n ih => rw [State.readBytes, List.length_cons, ih]

theorem serve_of_finds (h : s.Finds u bs) : s.serve u = (bs, none) := by
  unfold State.Finds at h
  unfold State.serve
  cases hl : s.l1Hit u with
  | some l =>
    simp only [hl] at h ⊢
    cases hp : l.priv with
    | false =>
      rw [hp, if_neg Bool.false_ne_true] at h
      simp [h]
    | true =>
      rw [hp, if_pos rfl] at h
      simp [h.1, h.2]
  | none =>
    simp only [hl] at h ⊢
    obtain ⟨hwhole, rfl⟩ := h
    cases hl2 : s.l2Hit u with
    | some l => rfl
    | none => simp [State.loadBytes, hwhole hl2]

variable (strict : Bool) (addr va : DWord)

/-- A read that its expander completes, or that needs none, delivers what it finds (06 R95). -/
theorem answered_of_finds (h : s.Finds u bs) (hx : s.near u = true ∨ cxlPortOf u.pa = none ∨ Config.cxlAnswers s.tick u.pa = true) :
    s.answered (servedRead s u strict addr va) = ⟨bs, none, strict, false, addr, va, [u]⟩ := by
  unfold State.answered servedRead
  rw [serve_of_finds h]
  rcases hx with hx | hx | hx <;> simp [hx]

/-- One that meets a loss, or that its expander does not complete, delivers the loss. -/
theorem answered_of_loses (h : s.Loses u src bs) :
    s.answered (servedRead s u strict addr va) = ⟨bs, some src, strict, false, addr, va, [u]⟩ := by
  unfold State.Loses at h
  unfold State.answered servedRead State.serve
  cases hl : s.l1Hit u with
  | some l =>
    simp only [hl] at h ⊢
    obtain ⟨hp, hmeets, rfl, rfl⟩ := h
    simp [hp, hmeets, State.bytesBut]
  | none =>
    simp only [hl] at h ⊢
    obtain ⟨hl2, rfl, hlost | ⟨hwhole, hport, hsilent, rfl⟩⟩ := h
    · simp [hl2, State.loadBytes, hlost]
    · have hfar : s.near u = false := by simp [State.near, hl, hl2]
      simp [hl2, State.loadBytes, hwhole, hport, hsilent, hfar, List.map_const', readBytes_length]

/-- A read that has lost nothing leaves no record. -/
theorem logLost_none (s : State) (w : Thread) (e : Entry) (lane : Nat) {r : LaneRead} (h : r.lost = none) :
    s.logLost w e [(lane, r)] = s := by
  unfold State.logLost State.dropLost
  simp [h, nub]

theorem carries_reaches {die pa : Nat} (h : s.carries die pa = true) : s.reaches die pa = true := by
  unfold State.carries at h
  split at h
  next hp => simp [State.reaches, hp]
  next => exact h

/-- An access is reached when an L1 or L2 answers or its home is. -/
theorem farReached_iff (s : State) (w : Thread) (lane : Nat) :
    s.farReached w.die (s.farOf w [(lane, servedRead s u strict addr va)]) = true ↔
      s.near u = true ∨ s.reaches w.die u.pa = true := by
  have hfar : s.farOf w [(lane, servedRead s u strict addr va)] = [s.farUse w lane addr strict u] := rfl
  rw [hfar, State.farReached, List.all_cons, List.all_nil, Bool.and_true, State.farUse]
  cases hn : s.near u with
  | true => simp [Far.answered]
  | false => simpa using carries_reaches

theorem farSpans_served (s : State) (w : Thread) (lane : Nat) :
    farSpans (s.farOf w [(lane, servedRead s u strict addr va)]) = [(u.va.toNat, u.n)] := by
  have hfar : s.farOf w [(lane, servedRead s u strict addr va)] = [s.farUse w lane addr strict u] := rfl
  rw [hfar, State.farUse]
  cases s.near u <;> rfl
end

end Sys2Proof.Machine
end

section
/-! OBLIGATION O18. -/

namespace Sys2Proof.Machine

/-! ## The access of an SLD -/

def sldSpace (priv : Bool) : Space := if priv then .priv else .global
def sldSize (wide : Bool) : Size := if wide then .b64 else .b32
def sldBytes (wide : Bool) : Nat := if wide = true then 8 else 4

/-- The address that an SLD translates, and what comes of it. -/
def sldVa (s : State) (w : Thread) (priv : Bool) (lane : Nat) (x : DWord) : DWord := if priv = true then s.privAddr w lane x.toNat else x
def sldFound (s : State) (w : Thread) (priv : Bool) (lane n : Nat) (x : DWord) : Except Cause (Nat × DWord) :=
  if priv = true then s.privPa w lane x.toNat n .read else s.access w.mmu w.ctx x .read
def sldUse (s : State) (w : Thread) (priv : Bool) (lane n : Nat) (x : DWord) (pa : Nat) (leaf : DWord) : LineUse :=
  if priv = true then privUse w true (sldVa s w priv lane x) pa leaf n else s.globalUse w true false none x pa leaf n
def sldLanes (w : Thread) (e : Entry) (priv : Bool) : Mask := if priv = true then laneBit (sldLane w e) &&& e.mask else e.mask

section
variable {s : State} {w : Thread} {e : Entry} {priv wide : Bool} {a : SReg} {lane : Nat} {x : DWord}

theorem byteAddr_sld (wide : Bool) (x : DWord) : byteAddr (sldSize wide) x = x := by cases wide <;> rfl
theorem bytes_sld (wide : Bool) : (sldSize wide).bytes = sldBytes wide := by cases wide <;> rfl

theorem misaligned_sld (wide : Bool) (x : DWord) : misaligned (sldSize wide) x = decide (x.toNat % sldBytes wide ≠ 0) := by
  cases wide <;> rfl

theorem readWaits_sld : s.readWaits w e (sldSpace priv) = (!priv && s.gridReadWaits w e) := by cases priv <;> rfl

theorem xlatReached_sld : s.xlatReached w (sldSpace priv) (.s a) (sldSize wide) lane x = s.walkReached w.mmu w.ctx (sldVa s w priv lane x) := by
  cases priv <;> simp only [State.xlatReached, sldSpace, sldVa, byteAddr_sld] <;> rfl

/-- The read of a misaligned address. -/
theorem readLane_sld_misaligned (h : x.toNat % sldBytes wide ≠ 0) :
    s.readLane w (sldSpace priv) .normal none (.s a) (sldSize wide) lane x = .error ⟨.align, x, x⟩ := by
  have hm : misaligned (sldSize wide) x = true := (misaligned_sld wide x).trans (decide_eq_true h)
  cases priv with
  | true => simp [sldSpace, State.readLane, State.privLane, hm, Except.map]
  | false => simp [sldSpace, State.readLane, State.globalLane, hm, Except.map]

/-- One that its page or the segment's size forbids. -/
theorem readLane_sld_error {k : Cause} (ha : x.toNat % sldBytes wide = 0) (hg : priv = true → (s.grid? w.grid).isSome = true)
    (h : sldFound s w priv lane (sldBytes wide) x = .error k) :
    s.readLane w (sldSpace priv) .normal none (.s a) (sldSize wide) lane x = .error ⟨k, x, sldVa s w priv lane x⟩ := by
  have hm : misaligned (sldSize wide) x = false := (misaligned_sld wide x).trans (decide_eq_false (not_not_intro ha))
  cases priv with
  | true =>
    obtain ⟨g, hg⟩ := Option.isSome_iff_exists.mp (hg rfl)
    have h : s.privPa w lane x.toNat (sldBytes wide) .read = .error k := h
    simp [sldSpace, State.readLane, State.privLane, hm, Except.map, byteAddr_sld, bytes_sld, h, hg, sldVa, State.privAddr]
  | false =>
    have h : s.access w.mmu w.ctx x .read = .error k := h
    simp [sldSpace, State.readLane, State.globalLane, hm, Except.map, byteAddr_sld, h, sldVa]

/-- One that goes to memory. -/
theorem readLane_sld_ok {pa : Nat} {leaf : DWord} (ha : x.toNat % sldBytes wide = 0)
    (h : sldFound s w priv lane (sldBytes wide) x = .ok (pa, leaf)) :
    s.readLane w (sldSpace priv) .normal none (.s a) (sldSize wide) lane x
      = .ok (servedRead s (sldUse s w priv lane (sldBytes wide) x pa leaf) (s.strictAt w leaf) x (sldVa s w priv lane x)) := by
  have hm : misaligned (sldSize wide) x = false := (misaligned_sld wide x).trans (decide_eq_false (not_not_intro ha))
  cases priv with
  | true =>
    have h : s.privPa w lane x.toNat (sldBytes wide) .read = .ok (pa, leaf) := h
    cases hg : s.grid? w.grid with
    | none => simp [State.privPa, hg] at h
    | some g =>
      simp [sldSpace, State.readLane, State.privLane, hm, Except.map, byteAddr_sld, bytes_sld, h, hg, sldVa, State.privAddr, servedRead,
        sldUse, show (Hint.normal != Hint.stream) = true from rfl]
  | false =>
    have h : s.access w.mmu w.ctx x .read = .ok (pa, leaf) := h
    simp [sldSpace, State.readLane, State.globalLane, hm, Except.map, byteAddr_sld, bytes_sld, h, sldVa, servedRead, sldUse,
      show (Hint.normal != Hint.stream) = true from rfl, show (Hint.normal == Hint.keep) = false from rfl]

end

/-! ## Traps -/

section
variable {s : State} {i : Instr} {t : Nat} {w : Thread} {c : Clause} {k : TrapInfo} {l : List (Nat × DWord)}

theorem trapsAt_of (he : exec i s = .next (s.trapAt t w c k l)) : TrapsAt s i t w c k l := by
  unfold TrapsAt Stalls
  rw [he]
  unfold State.trapAt
  constructor <;> intro h <;> simp only [h] <;> rfl

/-- A trap other than PAGE does not look at the addresses that did not translate. -/
theorem trapAt_of_not_page (l l' : List (Nat × DWord)) (hk : k.cause ≠ .page) : s.trapAt t w c k l = s.trapAt t w c k l' := by
  simp only [State.trapAt, State.takeTrapAt, if_neg hk]
end

/-! ## What an SLD does -/

/-- The state after the reads of an SLD, its access on the way `u` and its result `r`. -/
def sldReads (s : State) (w : Thread) (e : Entry) (u : LineUse) (r : LaneRead) : State :=
  let s' := (s.noteReads w e [(sldLane w e, r)]).touched w [(u.va.toNat, u.n)]
  if r.lost = some 2 then s'.dropLate w (r.uses.map (·.pa)) else s'

section
variable {s : State} {t : Nat} {w : Thread} {e : Entry} {c : Clause} {priv wide : Bool} {d a : SReg} {b : SSrc} {x : DWord}
variable (h : Issues s (.sld priv wide d a b) t w e c) (hx : w.sreg a.toNat + b.value w = x)
include h hx

theorem sld_waits (hw : (priv = false ∧ s.gridReadWaits w e = true) ∨ s.walkReached w.mmu w.ctx (sldVa s w priv (sldLane w e) x) = false) :
    Stalls s (.sld priv wide d a b) t w := by
  refine (issue_next h _ : execSld priv wide d a b s = _).trans (if_pos ?_)
  rw [hx]
  refine Eq.trans (congrArg₂ _ readWaits_sld (congrArg _ (xlatReached_sld (lane := sldLane w e)))) ?_
  rcases hw with ⟨rfl, hw⟩ | hw <;> simp [hw]

variable (hready : priv = true ∨ s.gridReadWaits w e = false) (hwalk : s.walkReached w.mmu w.ctx (sldVa s w priv (sldLane w e) x) = true)
include hready hwalk

/-- It waits for nothing before its access. -/
theorem sld_goes : exec (.sld priv wide d a b) s =
    match s.readLane w (sldSpace priv) .normal none (.s a) (sldSize wide) (sldLane w e) x with
    | .error y => .next (s.trapAt t w c ⟨y.cause, y.addr, sldLanes w e priv⟩ [(sldLane w e, y.va)])
    | .ok r =>
      let far := s.farOf w [(sldLane w e, r)]
      if !s.farReached w.die far then .next (s.stallHere t w)
      else
      let r := s.answered r
      let s' := (s.noteReads w e [(sldLane w e, r)]).touched w (farSpans far)
      let s' := if r.lost = some 2 then s'.dropLate w (r.uses.map (·.pa)) else s'
      if r.lost.isSome && r.strict then .next (s.trapOver s' t w c ⟨.memerr, x, sldLanes w e priv⟩)
      else .next (s'.retire t (w.setS d.toNat (BitVec.ofNat 64 (leNat r.bytes))) e) := by
  refine (issue_next h _ : execSld priv wide d a b s = _).trans ((if_neg ?_).trans ?_)
  · rw [hx]
    refine fun hs => Bool.false_ne_true (Eq.trans (Eq.symm ?_) hs)
    refine Eq.trans (congrArg₂ _ readWaits_sld (congrArg _ (xlatReached_sld (lane := sldLane w e)))) ?_
    rcases hready with rfl | hw <;> simp [*]
  · rw [hx]
    rfl

theorem sld_traps_align (ha : x.toNat % sldBytes wide ≠ 0) :
    Traps s (.sld priv wide d a b) t w c ⟨.align, x, sldLanes w e priv⟩ := by
  have he := sld_goes h hx hready hwalk
  rw [readLane_sld_misaligned ha] at he
  exact traps_of (he.trans (congrArg Host.Outcome.next (trapAt_of_not_page _ _ (by simp))))

variable (ha : x.toNat % sldBytes wide = 0)
include ha

theorem sld_traps_page {k : Cause} (hg : priv = true → (s.grid? w.grid).isSome = true)
    (hf : sldFound s w priv (sldLane w e) (sldBytes wide) x = .error k) :
    TrapsAt s (.sld priv wide d a b) t w c ⟨k, x, sldLanes w e priv⟩ [(sldLane w e, sldVa s w priv (sldLane w e) x)] := by
  have he := sld_goes h hx hready hwalk
  rw [readLane_sld_error ha hg hf] at he
  exact trapsAt_of he

variable {pa : Nat} {leaf : DWord} (hf : sldFound s w priv (sldLane w e) (sldBytes wide) x = .ok (pa, leaf)) {u : LineUse}
variable (hu : sldUse s w priv (sldLane w e) (sldBytes wide) x pa leaf = u)
include hf hu

/-- It waits for its home, where no L1 or L2 answers. -/
theorem sld_waits_home (hfar : ¬ (s.near u = true ∨ s.reaches w.die u.pa = true)) : Stalls s (.sld priv wide d a b) t w := by
  have he := sld_goes h hx hready hwalk
  rw [readLane_sld_ok ha hf, hu] at he
  refine he.trans (if_pos ?_)
  rw [Bool.not_eq_true']
  exact Bool.eq_false_iff.mpr (mt (farReached_iff _ _ _ s w _).mp hfar)

/-- With its read answered it retires, or traps where a word is lost strictly. -/
theorem sld_answered (hfar : s.near u = true ∨ s.reaches w.die u.pa = true) {r : LaneRead}
    (hr : s.answered (servedRead s u (s.strictAt w leaf) x (sldVa s w priv (sldLane w e) x)) = r) :
    exec (.sld priv wide d a b) s =
      if (r.lost.isSome && r.strict) = true
      then .next (s.trapOver (sldReads s w e u r) t w c ⟨.memerr, x, sldLanes w e priv⟩)
      else .next ((sldReads s w e u r).retire t (w.setS d.toNat (BitVec.ofNat 64 (leNat r.bytes))) e) := by
  have he := sld_goes h hx hready hwalk
  rw [readLane_sld_ok ha hf, hu] at he
  refine he.trans ((if_neg ?_).trans ?_)
  · rw [(farReached_iff _ _ _ s w _).mpr hfar]
    exact Bool.false_ne_true
  · simp only [hr, farSpans_served]
    rfl

end

section
variable {s : State} {t : Nat} {w : Thread} {e : Entry} {c : Clause} {priv wide : Bool} {d a : SReg} {b : SSrc}
variable {u : LineUse} {bs : List Byte} {src : Nat} {strict : Bool} {addr va : DWord}

/-- One that meets a loss of its L2's own drops the line. -/
theorem sldReads_lost :
    sldReads s w e u ⟨bs, some src, strict, false, addr, va, [u]⟩ =
      let s' := (s.noteReads w e [(sldLane w e, ⟨bs, some src, strict, false, addr, va, [u]⟩)]).touched w [(u.va.toNat, u.n)]
      if src = 2 then s'.dropLate w [u.pa] else s' := by
  simp only [sldReads, Option.some.injEq, List.map_cons, List.map_nil]

variable (h : Issues s (.sld priv wide d a b) t w e c)
include h

/-- A read that has lost nothing leaves the lines that it has filled and the ranges that it has touched. -/
theorem sld_performs_found
    (he : exec (.sld priv wide d a b) s = .next ((sldReads s w e u ⟨bs, none, strict, false, addr, va, [u]⟩).retire t
      (w.setS d.toNat (BitVec.ofNat 64 (leNat bs))) e)) :
    Performs s (.sld priv wide d a b) ((s.fills w e.gstep [(s.gkey w (sldLane w e), u)]).touched w [(u.va.toNat, u.n)]) t
      (w.setS d.toNat (BitVec.ofNat 64 (leNat bs))) e id := by
  have hreads : sldReads s w e u ⟨bs, none, strict, false, addr, va, [u]⟩
      = (s.fills w e.gstep [(s.gkey w (sldLane w e), u)]).touched w [(u.va.toNat, u.n)] := by
    unfold sldReads State.noteReads
    rw [logLost_none _ _ _ _ rfl]
    rfl
  rw [hreads, retire_eq] at he
  exact performs_of _ id h.path rfl rfl (fun _ => rfl) he

/-- One that has lost a word reads zeros, or traps MEMERR where it is STRICT. -/
theorem sld_performs_lost {s1 : State} {lanes : Mask} (hs1 : sldReads s w e u ⟨bs, some src, strict, false, addr, va, [u]⟩ = s1)
    (he : exec (.sld priv wide d a b) s = if strict = true
      then .next (s.trapOver (sldReads s w e u ⟨bs, some src, strict, false, addr, va, [u]⟩) t w c ⟨.memerr, addr, lanes⟩)
      else .next ((sldReads s w e u ⟨bs, some src, strict, false, addr, va, [u]⟩).retire t
        (w.setS d.toNat (BitVec.ofNat 64 (leNat bs))) e)) :
    (strict = false → Performs s (.sld priv wide d a b) s1 t (w.setS d.toNat (BitVec.ofNat 64 (leNat bs))) e id)
    ∧ (strict = true → s.trapReached w .memerr = true → TrapsOver s (.sld priv wide d a b) s1 t w c ⟨.memerr, addr, lanes⟩)
    ∧ (strict = true → s.trapReached w .memerr = false → Stalls s (.sld priv wide d a b) t w) := by
  rw [hs1] at he
  refine ⟨?_, ?_, ?_⟩
  · rintro rfl
    rw [if_neg Bool.false_ne_true, retire_eq] at he
    exact performs_of _ id h.path rfl rfl (fun _ => rfl) he
  · rintro rfl -
    exact trapsOver_of (he.trans (if_pos rfl))
  · rintro rfl hfar
    exact (trapsOver_of (he.trans (if_pos rfl))).2 hfar
end

/-- The way of an SLD's access. -/
theorem sldUse_way (s : State) (w : Thread) (priv : Bool) (lane n : Nat) (x : DWord) (pa : Nat) (leaf : DWord) :
    (sldUse s w priv lane n x pa leaf).pa = pa ∧ (sldUse s w priv lane n x pa leaf).va = sldVa s w priv lane x
      ∧ (sldUse s w priv lane n x pa leaf).n = n := by
  cases priv <;> exact ⟨rfl, rfl, rfl⟩

/-- Settles O18, in the order in which SLD looks: for what it waits, at its address, at its page, for its home, and at what its read
finds. -/
theorem scalarLoads : Obligations.ScalarLoads := by
  unfold Obligations.ScalarLoads
  intro s t w e c priv wide d a b h
  refine ⟨fun hp hw => sld_waits h rfl (.inl ⟨hp, hw⟩), fun hw => sld_waits h rfl (.inr hw), fun hready hwalk =>
    ⟨sld_traps_align h rfl hready hwalk, fun ha => ⟨fun k => sld_traps_page h rfl hready hwalk ha, fun pa leaf hf => ?_⟩⟩⟩
  obtain ⟨hpa, hva, hn⟩ := sldUse_way s w priv (sldLane w e) (sldBytes wide) (w.sreg a.toNat + b.value w) pa leaf
  have answered := fun comes {r} => sld_answered h rfl hready hwalk ha hf rfl (hpa.symm ▸ comes) (r := r)
  refine ⟨fun far => sld_waits_home h rfl hready hwalk ha hf rfl (hpa.symm ▸ far), fun bs comes hx hfinds => ?_,
    fun src bs comes hloses => ?_⟩
  · have hr := answered_of_finds (s.strictAt w leaf) (w.sreg a.toNat + b.value w)
      (sldVa s w priv (sldLane w e) (w.sreg a.toNat + b.value w)) hfinds (hpa.symm ▸ hx)
    have done := sld_performs_found h (answered comes hr)
    rw [hva, hn] at done
    exact done
  · have hr := answered_of_loses (s.strictAt w leaf) (w.sreg a.toNat + b.value w)
      (sldVa s w priv (sldLane w e) (w.sreg a.toNat + b.value w)) hloses
    have hreads := sldReads_lost (s := s) (w := w) (e := e) (bs := bs) (src := src) (strict := s.strictAt w leaf)
      (u := sldUse s w priv (sldLane w e) (sldBytes wide) (w.sreg a.toNat + b.value w) pa leaf)
      (addr := w.sreg a.toNat + b.value w) (va := sldVa s w priv (sldLane w e) (w.sreg a.toNat + b.value w))
    rw [hpa, hva, hn] at hreads
    exact sld_performs_lost h hreads (answered comes hr)

end Sys2Proof.Machine
end

section
/-! SUPPORT. The choice of the first of a list by a rank, and the shapes in which an instruction stalls or retires. -/

namespace Sys2Proof.Machine

/-! ## The first of a list by a rank -/

section
variable {α : Type} (better : α → α → Bool)

/-- The choice that replaces the one so far by each better one is one of the list. -/
theorem mem_foldl_choice (a : α) (l : List α) : l.foldl (fun m x => if better x m = true then x else m) a ∈ a :: l := by
  induction l generalizing a with
  | nil => exact List.mem_singleton.mpr rfl
  | cons x r ih =>
    rw [List.foldl_cons]
    split
    · exact List.mem_cons_of_mem _ (ih x)
    · rcases List.mem_cons.mp (ih a) with h | h
      · rw [h]; exact List.mem_cons_self
      · exact List.mem_cons_of_mem _ (List.mem_cons_of_mem _ h)

/-- Its rank is the lowest, where a better one has no higher rank and one that is not better no lower. -/
theorem rank_foldl_choice_le (rank : α → Nat) (hb : ∀ x m, better x m = true → rank x ≤ rank m)
    (hn : ∀ x m, better x m = false → rank m ≤ rank x) (a : α) (l : List α) :
    ∀ y ∈ a :: l, rank (l.foldl (fun m x => if better x m = true then x else m) a) ≤ rank y := by
  induction l generalizing a with
  | nil => exact fun y hy => List.mem_singleton.mp hy ▸ Nat.le_refl _
  | cons x r ih =>
    intro y hy
    rw [List.foldl_cons]
    cases hx : better x a with
    | true =>
      have h := ih x
      rw [if_pos rfl]
      rcases List.mem_cons.mp hy with rfl | hy
      · exact (h x List.mem_cons_self).trans (hb _ _ hx)
      · exact h y hy
    | false =>
      have h := ih a
      rw [if_neg Bool.false_ne_true]
      rcases List.mem_cons.mp hy with rfl | hy
      · exact h y List.mem_cons_self
      · rcases List.mem_cons.mp hy with rfl | hy
        · exact (h a List.mem_cons_self).trans (hn _ _ hx)
        · exact h y (List.mem_cons_of_mem _ hy)
end

/-- The trap to take first is one of those owed, and none is of a lower rank (23 R355). -/
theorem firstOwed_spec {l : List Owed} {o : Owed} (h : firstOwed l = some o) :
    o ∈ l ∧ ∀ k ∈ l, o.info.cause.rank ≤ k.info.cause.rank := by
  cases l with
  | nil => simp [firstOwed] at h
  | cons a r =>
    cases h
    refine ⟨mem_foldl_choice (fun x m : Owed => x.info.cause.rank < m.info.cause.rank
      || (x.info.cause.rank == m.info.cause.rank && x.due.isGrid && !m.due.isGrid)) a r, rank_foldl_choice_le (fun x m : Owed =>
        x.info.cause.rank < m.info.cause.rank || (x.info.cause.rank == m.info.cause.rank && x.due.isGrid && !m.due.isGrid))
      (fun o => o.info.cause.rank) ?_ ?_ a r⟩
    · intro x m hb
      simp only [Bool.or_eq_true, decide_eq_true_eq, Bool.and_eq_true, beq_iff_eq] at hb
      omega
    · intro x m hb
      simp only [Bool.or_eq_false_iff, decide_eq_false_iff_not] at hb
      omega

theorem firstOwed_eq_none_iff {l : List Owed} : firstOwed l = none ↔ l = [] := by
  cases l <;> simp [firstOwed]

/-! ## Ends of an instruction -/

section
variable {s s1 : State} {i : Instr} {t : Nat} {w w' : Thread} {e : Entry} {c : Clause}

theorem stalls_of (he : exec i s = .next (s.stallHere t w)) : Stalls s i t w := he

/-- An instruction that retires from a state `s1` with its thread as `w'`. -/
theorem performs_retire (h : Issues s i t w e c) (hs : w'.stack = w.stack) (hn : w'.spilled = w.spilled)
    (he : exec i s = .next (s1.retire t w' e)) : Performs s i s1 t w' e id :=
  performs_of w' id h.path hs hn (fun _ => rfl) (by rw [he, retire_eq])
end

end Sys2Proof.Machine
end

section
/-! OBLIGATION O29. -/

namespace Sys2Proof.Machine

theorem atCwait_iff (o : Owed) (fc : Nat) : o.atCwait fc = true ↔ o.due = .cwait fc := by
  unfold Owed.atCwait
  cases o.due <;> simp

/-- Settles O29: a CWAIT takes the first trap that is owed at its counter, and looks at the counter where there is none. -/
theorem counterWaits : Obligations.CounterWaits := by
  unfold Obligations.CounterWaits
  intro s t w e c fc n h due
  have hx : exec (.cwait fc n) s = _ := (issue_next h _ : execCwait fc n s = _)
  have hdue : ∀ o, o ∈ (w.owed.filter fun o => !w.handler && o.atCwait fc.toNat) ↔ w.handler = false ∧ due o := by
    intro o
    simp only [List.mem_filter, Bool.and_eq_true, Bool.not_eq_true', atCwait_iff, due]
    tauto
  constructor
  · rintro hh ⟨k, hk⟩
    cases hf : firstOwed (w.owed.filter fun o => !w.handler && o.atCwait fc.toNat) with
    | none =>
      rw [firstOwed_eq_none_iff] at hf
      exact absurd ((hdue k).mpr ⟨hh, hk⟩) (hf ▸ List.not_mem_nil)
    | some o =>
      obtain ⟨hmem, hle⟩ := firstOwed_spec hf
      refine ⟨o, ((hdue o).mp hmem).2, fun k hk => hle k ((hdue k).mpr ⟨hh, hk⟩), ?_⟩
      rw [hf] at hx
      exact hx
  · intro hno
    have hf : firstOwed (w.owed.filter fun o => !w.handler && o.atCwait fc.toNat) = none := by
      rw [firstOwed_eq_none_iff, List.eq_nil_iff_forall_not_mem]
      intro o ho
      obtain ⟨hh, hd⟩ := (hdue o).mp ho
      rcases hno with hno | hno
      · exact absurd hno (hh ▸ Bool.false_ne_true)
      · exact hno o hd
    rw [hf] at hx
    constructor <;> intro hn
    · exact performs_retire h rfl rfl (hx.trans (if_neg (Nat.not_lt.mpr hn)))
    · exact stalls_of (hx.trans (if_pos hn))

end Sys2Proof.Machine
end

section
/-! OBLIGATION O26. -/

namespace Sys2Proof.Machine

section
variable {s : State} {i : Instr} {t : Nat} {w : Thread} {e : Entry} {c : Clause} {g : Grid} {p : Group}

/-- An instruction on tiles, whose group step is open, goes on with its grid and its group. -/
theorem tileOp_next (h : Issues s i t w e c) (hg : s.grid? w.grid = some g) (hp : s.group? w.group = some p)
    (hw : s.groupReadWaits w e = false) (k : State → Nat → Thread → Entry → Clause → Grid → Group → Out) :
    tileOp i s k = k s t w e c g p := by
  rw [tileOp, issue_next h]
  simp [hg, hp, hw]

variable {n : TileNo} (hg : s.grid? w.grid = some g) (hp : s.group? w.group = some p) (hw : s.groupReadWaits w e = false)
include hg hp hw

theorem tdef_meaning {lo hi : SReg} (h : Issues s (.tdef n lo hi) t w e c) {y : Tile}
    (hy : { p.tile n.toNat with defined := true, desc := w.sreg hi.toNat ++ w.sreg lo.toNat } = y) :
    (descReserved y = true → Traps s (.tdef n lo hi) t w c ⟨.reservedEnc, 0#64, e.mask⟩)
    ∧ (descReserved y = false → g.stashBytes < y.base + y.bytes →
        Traps s (.tdef n lo hi) t w c ⟨.prot, BitVec.ofNat 64 y.base, e.mask⟩)
    ∧ (descReserved y = false → y.base + y.bytes ≤ g.stashBytes → s.tileFit w p n.toNat notMoving true true = .ok →
        Performs s (.tdef n lo hi) (s.setGroup w.group (p.setTile n.toNat
          (y.change w.wix (if y.desc.getLsbD 68 = true then .ready else .empty)))) t w e id) := by
  have hx : exec (.tdef n lo hi) s = _ := (tileOp_next h hg hp hw _ : execTdef n lo hi s = _)
  simp only [hy] at hx
  refine ⟨fun hr => traps_of (hx.trans (if_pos hr)), fun hr hs => ?_, fun hr hs hf => ?_⟩
  · exact traps_of (hx.trans (by simp only [hr, hs, Bool.false_eq_true, if_false, if_true]))
  · refine performs_retire h rfl rfl (hx.trans ?_)
    simp only [hr, Nat.not_lt.mpr hs, hf, Bool.false_eq_true, if_false]
    rw [← hy]

theorem tfree_meaning (h : Issues s (.tfree n) t w e c) :
    ((p.tile n.toNat).defined = false → Performs s (.tfree n) s t w e id)
    ∧ ((p.tile n.toNat).defined = true → s.tileFit w p n.toNat notMoving true true = .ok →
        Performs s (.tfree n) (s.setGroup w.group (p.setTile n.toNat
          { (p.tile n.toNat).change w.wix .empty with defined := false })) t w e id) := by
  have hx : exec (.tfree n) s = _ := (tileOp_next h hg hp hw _ : execTfree n s = _)
  refine ⟨fun hd => performs_retire h rfl rfl (hx.trans ?_), fun hd hf => performs_retire h rfl rfl (hx.trans ?_)⟩
  · simp only [hd, Bool.not_false, if_true]
  · simp only [hd, hf, Bool.not_true, Bool.false_eq_true, if_false]

theorem tstate_meaning {d : SReg} (h : Issues s (.tstate d n) t w e c) :
    WritesS s (.tstate d n) t w e d (BitVec.ofNat 64 (((p.tile n.toNat).seen w.wix).code
      + (if (p.tile n.toNat).defined then 4 else 0) + (if (p.tile n.toNat).owner = some w.wix then 8 else 0))) :=
  scalar_writes h.path h.soundS d _ (tileOp_next h hg hp hw _ : execTstate d n s = _)
end

/-- Settles O26, for each of the three instructions. -/
theorem tileTable : Obligations.TileTable := by
  unfold Obligations.TileTable
  intro s t w e c n g p hg hp hw
  exact ⟨fun lo hi h => tdef_meaning hg hp hw h rfl, tfree_meaning hg hp hw, fun d => tstate_meaning hg hp hw⟩

end Sys2Proof.Machine
end

section
/-! SUPPORT (07 R119 to R122, R133, R369). What the lanes of an access meet: the errors of each space, and the first cause among lanes. -/

namespace Sys2Proof.Machine

/-! ## The first cause among lanes -/

/-- The choice that replaces the one so far by each of lower rank is the first of the lowest rank. -/
theorem foldl_choice_eq {α : Type} (rank : α → Nat) (n : Nat) {low : α} (a : α) (l : List α) (hle : ∀ x ∈ a :: l, n ≤ rank x)
    (hf : (a :: l).find? (fun x => rank x == n) = some low) : l.foldl (fun m x => if rank x < rank m then x else m) a = low := by
  induction l generalizing a with
  | nil =>
    by_cases ha : rank a = n
    · simpa [ha] using hf
    · simp [ha] at hf
  | cons x r ih =>
    have hxn := hle x (by simp)
    have han := hle a (by simp)
    rw [List.foldl_cons]
    split
    · next hlt =>
      have ha : rank a ≠ n := by omega
      refine ih x (fun y hy => hle y (List.mem_cons_of_mem _ hy)) ?_
      rwa [List.find?_cons_of_neg (by simpa using ha)] at hf
    · next hge =>
      refine ih a (fun y hy => hle y ?_) ?_
      · rcases List.mem_cons.mp hy with rfl | hy
        · simp
        · simp [hy]
      · by_cases ha : rank a = n
        · rwa [List.find?_cons_of_pos (by simpa using ha)] at hf ⊢
        · have hx : rank x ≠ n := by omega
          rw [List.find?_cons_of_neg (by simpa using ha)] at hf ⊢
          rwa [List.find?_cons_of_neg (by simpa using hx)] at hf

theorem laneErrs_cons {α : Type} (l : Nat) (x : Except LaneErr α) (r : List (Nat × Except LaneErr α)) :
    laneErrs ((l, x) :: r) = match x with
      | .error e => (l, e) :: laneErrs r
      | .ok _ => laneErrs r := by
  cases x <;> rfl

theorem laneOks_cons {α : Type} (l : Nat) (x : Except LaneErr α) (r : List (Nat × Except LaneErr α)) :
    laneOks ((l, x) :: r) = match x with
      | .error _ => laneOks r
      | .ok a => (l, a) :: laneOks r := by
  cases x <;> rfl

section
variable {α : Type} {f : Nat → Except LaneErr α} {ls : List Nat}

theorem laneErrs_of_ok (h : ∀ l ∈ ls, ∃ a, f l = .ok a) : laneErrs (ls.map fun l => (l, f l)) = [] := by
  induction ls with
  | nil => rfl
  | cons l r ih =>
    obtain ⟨a, ha⟩ := h l (by simp)
    rw [List.map_cons, laneErrs_cons, ha]
    exact ih fun k hk => h k (List.mem_cons_of_mem _ hk)

theorem laneOks_of_ok {g : Nat → α} (h : ∀ l ∈ ls, f l = .ok (g l)) :
    laneOks (ls.map fun l => (l, f l)) = ls.map fun l => (l, g l) := by
  induction ls with
  | nil => rfl
  | cons l r ih =>
    rw [List.map_cons, laneOks_cons, h l (by simp), List.map_cons]
    simp only [ih fun k hk => h k (List.mem_cons_of_mem _ hk)]

theorem mem_laneErrs {y : Nat × LaneErr} (h : y ∈ laneErrs (ls.map fun l => (l, f l))) : y.1 ∈ ls ∧ f y.1 = .error y.2 := by
  unfold laneErrs at h
  obtain ⟨z, hz, hy⟩ := List.mem_filterMap.mp h
  obtain ⟨l, hl, rfl⟩ := List.mem_map.mp hz
  simp only at hy
  split at hy
  · next e he => cases hy; exact ⟨hl, he⟩
  · cases hy

variable {k : Cause} {P : Nat → Bool} {addr va : Nat → DWord}

/-- The lanes of the first cause, where `P` names them and every other lane meets a later one or none. -/
theorem laneErrs_filter (hbad : ∀ l ∈ ls, P l = true → f l = .error ⟨k, addr l, va l⟩)
    (hrest : ∀ l ∈ ls, P l = false → ∀ x, f l = .error x → k.lane < x.cause.lane) :
    (laneErrs (ls.map fun l => (l, f l))).filter (fun x => x.2.cause == k) = (ls.filter P).map fun l => (l, ⟨k, addr l, va l⟩) := by
  induction ls with
  | nil => rfl
  | cons l r ih =>
    have ih := ih (fun k hk => hbad k (List.mem_cons_of_mem _ hk)) fun k hk => hrest k (List.mem_cons_of_mem _ hk)
    rw [List.map_cons, laneErrs_cons]
    cases hP : P l with
    | true => simp [hbad l (by simp) hP, hP, ih]
    | false =>
      rw [List.filter_cons_of_neg (p := P) (by simp [hP])]
      cases hf : f l with
      | ok a => exact ih
      | error x =>
        have hne : x.cause ≠ k := fun h => Nat.lt_irrefl _ (h ▸ hrest l (by simp) hP x hf)
        simp only
        rw [List.filter_cons_of_neg (by simpa using hne), ih]

/-- The first cause of several lanes names those that meet it, and the address of the lowest. -/
theorem firstCause_lanes {low : Nat} (hbad : ∀ l ∈ ls, P l = true → f l = .error ⟨k, addr l, va l⟩)
    (hrest : ∀ l ∈ ls, P l = false → ∀ x, f l = .error x → k.lane < x.cause.lane) (hlow : (ls.filter P).head? = some low) :
    firstCause (laneErrs (ls.map fun l => (l, f l)))
      = some (⟨k, addr low, maskOf (ls.filter P)⟩, (ls.filter P).map fun l => (l, va l)) := by
  have hfilter := laneErrs_filter hbad hrest
  have hrank : ∀ y ∈ laneErrs (ls.map fun l => (l, f l)), y.2.cause = k ∨ k.lane < y.2.cause.lane := by
    intro y hy
    obtain ⟨hl, hy⟩ := mem_laneErrs hy
    cases hP : P y.1 with
    | true => rw [hbad _ hl hP, Except.error.injEq] at hy; exact .inl (hy ▸ rfl)
    | false => exact .inr (hrest _ hl hP _ hy)
  obtain ⟨rest, hcons⟩ : ∃ rest, ls.filter P = low :: rest := by
    cases h : ls.filter P with
    | nil => simp [h] at hlow
    | cons a r => simp only [h, List.head?_cons, Option.some.injEq] at hlow; exact ⟨r, by rw [hlow]⟩
  have hfind : (laneErrs (ls.map fun l => (l, f l))).find? (fun y => y.2.cause.lane == k.lane) = some (low, ⟨k, addr low, va low⟩) := by
    have hp : (laneErrs (ls.map fun l => (l, f l))).filter (fun y => y.2.cause.lane == k.lane)
        = (laneErrs (ls.map fun l => (l, f l))).filter (fun y => y.2.cause == k) := by
      refine List.filter_congr fun y hy => ?_
      rw [Bool.eq_iff_iff, beq_iff_eq, beq_iff_eq]
      constructor
      · intro h
        rcases hrank y hy with hk | hk
        · exact hk
        · omega
      · exact fun h => h ▸ rfl
    rw [← List.head?_filter, hp, hfilter, hcons]
    rfl
  cases herrs : laneErrs (ls.map fun l => (l, f l)) with
  | nil => simp [herrs] at hfind
  | cons a r =>
    rw [herrs] at hfind hfilter hrank
    have hbest := foldl_choice_eq (fun y : Nat × LaneErr => y.2.cause.lane) k.lane a r
      (fun y hy => by rcases hrank y hy with h | h; exacts [h ▸ Nat.le_refl _, h.le]) hfind
    simp only [firstCause, hbest, hfilter, List.map_map]
    congr 4
    exact List.map_id' _
end

/-! ## Errors of one lane -/

section
variable {s : State} {w : Thread} {sz : Size} {a : DWord} {k : Access} {lane : Nat}

theorem misaligned_iff (hsz : sz ≠ .b4) : misaligned sz a = decide (a.toNat % sz.bytes ≠ 0) := by simp [misaligned, hsz]

/-- An access that its page forbids is PAGE or PROT (19 R316, R317). -/
theorem access_error {place c : Nat} {y : Cause} (h : s.access place c a k = .error y) : y = .page ∨ y = .prot := by
  unfold State.access at h
  split at h
  · cases h; exact .inl rfl
  · cases h; exact .inl rfl
  · cases h; exact .inr rfl
  · split at h
    · cases h; exact .inr rfl
    · split at h
      · cases h; exact .inr rfl
      · cases h

theorem privPa_error {off n : Nat} {y : Cause} (h : s.privPa w lane off n k = .error y) : y = .page ∨ y = .prot := by
  unfold State.privPa at h
  split at h
  · split at h
    · cases h; exact .inr rfl
    · exact access_error h
  · cases h; exact .inl rfl

theorem globalLane_misaligned (h : misaligned sz a = true) : s.globalLane w sz a k = .error ⟨.align, a, a⟩ := if_pos h
theorem privLane_misaligned (h : misaligned sz a = true) : s.privLane w lane sz a k = .error ⟨.align, a, a⟩ := if_pos h
theorem stashLane_misaligned (h : misaligned sz a = true) : s.stashLane w sz a = .error ⟨.align, a, a⟩ := if_pos h

theorem globalLane_eq (h : misaligned sz a = false) : s.globalLane w sz a k = match s.access w.mmu w.ctx (byteAddr sz a) k with
    | .ok x => .ok x
    | .error c => .error ⟨c, a, byteAddr sz a⟩ := if_neg (by simp [h])

theorem privLane_eq (h : misaligned sz a = false) : s.privLane w lane sz a k = match s.privPa w lane (byteAddr sz a).toNat sz.bytes k with
    | .ok x => .ok x
    | .error c => match s.grid? w.grid with
      | some g => .error ⟨c, a, privateVa g (s.gkey w lane) (byteAddr sz a).toNat⟩
      | none => .error ⟨c, a, a⟩ := if_neg (by simp [h])

theorem stashLane_eq {g : Grid} {p : Group} (hg : s.grid? w.grid = some g) (hp : s.group? w.group = some p)
    (h : misaligned sz a = false) : s.stashLane w sz a =
      if g.stashBytes < (byteAddr sz a).toNat + sz.bytes then .error ⟨.prot, a, a⟩
      else if p.busyAt w.wix (byteAddr sz a).toNat sz.bytes = true then .error ⟨.tileBusy, a, a⟩
      else .ok (byteAddr sz a).toNat := by
  simp [State.stashLane, h, hg, hp]

theorem globalLane_error {x : LaneErr} (h : misaligned sz a = false) (hx : s.globalLane w sz a k = .error x) :
    x.cause = .page ∨ x.cause = .prot := by
  rw [globalLane_eq h] at hx
  split at hx
  · cases hx
  · next c hc => cases hx; exact access_error hc

theorem privLane_error {x : LaneErr} (h : misaligned sz a = false) (hx : s.privLane w lane sz a k = .error x) :
    x.cause = .page ∨ x.cause = .prot := by
  rw [privLane_eq h] at hx
  split at hx
  · cases hx
  · next c hc => split at hx <;> (cases hx; exact privPa_error hc)

theorem stashLane_error {x : LaneErr} (h : misaligned sz a = false) (hx : s.stashLane w sz a = .error x) :
    x.cause = .prot ∨ x.cause = .tileBusy := by
  unfold State.stashLane at hx
  rw [h] at hx
  simp only [Bool.false_eq_true, if_false] at hx
  split at hx
  · split at hx
    · cases hx; exact .inl rfl
    · split at hx
      · cases hx; exact .inr rfl
      · cases hx
  · cases hx; exact .inl rfl

theorem map_error {ε α β : Type} {f : α → β} {x : Except ε α} {y : ε} : x.map f = .error y ↔ x = .error y := by
  cases x <;> simp [Except.map]

variable {sp : Space} {h : Hint} {home : Option (BitVec 4)} {b : LdBase} (hsp : sp ≠ .window)
include hsp

theorem readLane_misaligned (hm : misaligned sz a = true) : s.readLane w sp h home b sz lane a = .error ⟨.align, a, a⟩ := by
  cases sp with
  | window => exact absurd rfl hsp
  | global => exact map_error.mpr (globalLane_misaligned hm)
  | priv => exact map_error.mpr (privLane_misaligned hm)
  | stash => exact map_error.mpr (stashLane_misaligned hm)

/-- A lane that is aligned meets causes after ALIGN alone. -/
theorem readLane_error {x : LaneErr} (hm : misaligned sz a = false) (hx : s.readLane w sp h home b sz lane a = .error x) :
    Cause.align.lane < x.cause.lane := by
  cases sp with
  | window => exact absurd rfl hsp
  | global => rcases globalLane_error hm (map_error.mp hx) with h | h <;> rw [h] <;> decide
  | priv => rcases privLane_error hm (map_error.mp hx) with h | h <;> rw [h] <;> decide
  | stash => rcases stashLane_error hm (map_error.mp hx) with h | h <;> rw [h] <;> decide

theorem storeLane_misaligned (hm : misaligned sz a = true) : s.storeLane w sp sz lane a = .error ⟨.align, a, a⟩ := by
  cases sp with
  | window => exact absurd rfl hsp
  | global => simp only [State.storeLane, globalLane_misaligned hm]
  | priv => simp only [State.storeLane, privLane_misaligned hm]
  | stash => exact map_error.mpr (stashLane_misaligned hm)

theorem storeLane_error {x : LaneErr} (hm : misaligned sz a = false) (hx : s.storeLane w sp sz lane a = .error x) :
    Cause.align.lane < x.cause.lane := by
  cases sp with
  | window => exact absurd rfl hsp
  | global =>
    simp only [State.storeLane] at hx
    split at hx
    · next y hy => cases hx; rcases globalLane_error hm hy with h | h <;> rw [h] <;> decide
    · split at hx <;> cases hx; exact (by decide : Cause.align.lane < Cause.twinPartial.lane)
  | priv =>
    simp only [State.storeLane] at hx
    split at hx
    · next y hy => cases hx; rcases privLane_error hm hy with h | h <;> rw [h] <;> decide
    · split at hx <;> cases hx; exact (by decide : Cause.align.lane < Cause.twinPartial.lane)
  | stash => rcases stashLane_error hm (map_error.mp hx) with h | h <;> rw [h] <;> decide
end

end Sys2Proof.Machine
end

section
/-! SUPPORT (07 R123, R129). What a load and a store do once nothing makes them wait. -/

namespace Sys2Proof.Machine

section
variable {s : State} {i : Instr} {t : Nat} {w : Thread} {e : Entry} {c : Clause}

/-- A trap of lanes other than PAGE. -/
theorem traps_of_trapAt {k : TrapInfo} {l : List (Nat × DWord)} (hk : k.cause ≠ .page) (he : exec i s = .next (s.trapAt t w c k l)) :
    Traps s i t w c k :=
  traps_of (he.trans (congrArg Host.Outcome.next (trapAt_of_not_page _ _ hk)))

variable {sz : Size} {sp : Space} {h : Hint} {home : Option (BitVec 4)} {q : Bool} {g : Guard} {d : VReg} {a : LdBase} {b : Off}

/-- The address that a load reads in a lane (07 R119). -/
def ldAddr (w : Thread) (a : LdBase) (b : Off) (l : Nat) : DWord := a.value w l + BitVec.ofNat 64 (b.value w l)

/-- A load whose lanes meet an error. -/
theorem ld_errs (hi : Issues s (.ld sz sp h home q g d a b) t w e c) (hw : partLanes w e g = [] ∨ s.readWaits w e sp = false)
    (hr : ∀ l ∈ partLanes w e g, s.xlatReached w sp a sz l (ldAddr w a b l) = true) {k : TrapInfo} {v : List (Nat × DWord)}
    (hf : firstCause (laneErrs ((partLanes w e g).map fun l => (l, s.readLane w sp h home a sz l (ldAddr w a b l)))) = some (k, v)) :
    exec (.ld sz sp h home q g d a b) s = .next (s.trapAt t w c k v) := by
  have hx : exec (.ld sz sp h home q g d a b) s = _ := (issue_next hi _ : execLd sz sp h home q g d a b s = _)
  rw [lanesOf_active] at hx
  have hnw : ¬ (partLanes w e g ≠ [] ∧ s.readWaits w e sp = true) := by
    rintro ⟨h1, h2⟩
    rcases hw with hw | hw
    · exact h1 hw
    · simp [hw] at h2
  have hall : ((partLanes w e g).all fun l => s.xlatReached w sp a sz l (ldAddr w a b l)) = true := List.all_eq_true.mpr hr
  simp only [ldAddr] at hall hf
  simp only [hnw, if_false, hall, Bool.not_true, Bool.false_eq_true, hf] at hx
  exact hx
end

section
variable {s : State} {t : Nat} {w : Thread} {e : Entry} {c : Clause} {sp : Space} {sz : Size} {rule : Rule} {ls : List Nat}
variable {addr : Nat → DWord} {f : State → List (Nat × DWord × StDest) → Out}

/-- A store whose lanes meet an error. -/
theorem storeChecked_errs (hr : ∀ l ∈ ls, s.storeReached w sp sz l (addr l) = true) {k : TrapInfo} {v : List (Nat × DWord)}
    (hf : firstCause (laneErrs (ls.map fun l => (l, s.storeLane w sp sz l (addr l)))) = some (k, v)) :
    storeChecked s t w e c sp sz rule ls addr f = .next (s.trapAt t w c k v) := by
  simp only [storeChecked, List.all_eq_true.mpr hr, Bool.not_true, Bool.false_eq_true, if_false, hf]

/-- A store whose lanes meet none: what it reserves, and its effect. -/
theorem storeChecked_ok {dest : Nat → StDest} (hr : ∀ l ∈ ls, s.storeReached w sp sz l (addr l) = true)
    (hd : ∀ l ∈ ls, s.storeLane w sp sz l (addr l) = .ok (dest l)) {n r : Nat}
    (hn : (if sp = .global then ls.length * cellEntries sz else 0) = n) (hk : (if sp = .priv then 0 else s.anyRecords w rule ls.length) = r)
    {s1 : State} (hs : (if sp = .global then s.reserveGlobal w e.gstep n r else s.reserveStash w e.wstep r) = s1) :
    storeChecked s t w e c sp sz rule ls addr f =
      if r ≠ 0 ∧ s.ringOpen w.die .resolution = false then .next (s.stallHere t w)
      else match s.reserveTrap w n r (addr (ls.headD 0)) (maskOf ls) with
      | some tr => .next (s.trapHere t w c tr)
      | none => f (s1.touched w (s1.storeSpans w sp sz (ls.map fun l => (l, addr l, dest l)))) (ls.map fun l => (l, addr l, dest l)) := by
  simp only [storeChecked, List.all_eq_true.mpr hr, Bool.not_true, Bool.false_eq_true, if_false,
    laneErrs_of_ok fun l hl => ⟨dest l, hd l hl⟩, firstCause, laneOks_of_ok hd, List.map_map, Function.comp_def, List.length_map, hn, hk, hs]
    <;> rfl
end

section
variable {s : State} {t : Nat} {w : Thread} {e : Entry} {c : Clause} {sz : Size} {sp : Space} {rule : Rule} {fsum : Bool} {g : Guard}
variable {a : StBase} {b : Off} {v : VReg}

/-- The address that a store writes in a lane (07 R119). -/
def stAddr (w : Thread) (a : StBase) (b : Off) (l : Nat) : DWord := a.value w l + BitVec.ofNat 64 (b.value w l)

theorem st_goes (h : Issues s (.st sz sp rule fsum g a b v) t w e c) :
    exec (.st sz sp rule fsum g a b v) s = storeChecked s t w e c sp sz rule (partLanes w e g) (stAddr w a b) fun s' ok =>
      .next ((s'.performStores w e sz rule fsum v none ok).retire t w e) := by
  rw [← lanesOf_active]
  exact (issue_next h _ : execSt sz sp rule fsum g a b v s = _)
end

end Sys2Proof.Machine
end

section
/-! OBLIGATION O24. -/

namespace Sys2Proof.Machine

/-- Settles O24: of the lanes' causes ALIGN is the first, whatever the others meet. -/
theorem misalignedAccesses : Obligations.MisalignedAccesses := by
  unfold Obligations.MisalignedAccesses
  intro s t w e c sz sp g low hsp hsz
  have first : ∀ {α : Type} (addr : Nat → DWord) (f : Nat → Except LaneErr α),
      (∀ l, misaligned sz (addr l) = true → f l = .error ⟨.align, addr l, addr l⟩) →
      (∀ l x, misaligned sz (addr l) = false → f l = .error x → Cause.align.lane < x.cause.lane) →
      ((partLanes w e g).filter fun l => decide ((addr l).toNat % sz.bytes ≠ 0)).head? = some low → _ :=
    fun addr f hm hr hlow => firstCause_lanes (ls := partLanes w e g) (f := f) (k := .align) (va := addr) (addr := addr)
      (P := fun l => decide ((addr l).toNat % sz.bytes ≠ 0)) (fun l _ h => hm l ((misaligned_iff hsz).trans h))
      (fun l _ h x => hr l x ((misaligned_iff hsz).trans h)) hlow
  refine ⟨fun h home q d a b hi hw hr hlow => ?_, fun rule fsum a b v hi hr hlow => ?_⟩
  · exact traps_of_trapAt Cause.noConfusion (ld_errs hi (.inr hw) hr
      (first (ldAddr w a b) _ (fun l => readLane_misaligned hsp) (fun l x => readLane_error hsp) hlow))
  · exact traps_of_trapAt Cause.noConfusion ((st_goes hi).trans (storeChecked_errs hr
      (first (stAddr w a b) _ (fun l => storeLane_misaligned hsp) (fun l x => storeLane_error hsp) hlow)))

end Sys2Proof.Machine
end

section
/-! OBLIGATION O20. -/

namespace Sys2Proof.Machine

/-- The last word of a list that goes to an index is the first of the list read backwards. -/
theorem lastTo_eq_find? {α : Type} (l : List (Nat × α)) (k : Nat) : lastTo l k = (l.reverse.find? fun x => x.1 == k).map (·.2) := by
  induction l with
  | nil => rfl
  | cons x r ih =>
    rw [lastTo, List.reverse_cons, List.find?_append, ih]
    by_cases h : x.1 = k
    · cases r.reverse.find? (fun x => x.1 == k) <;> simp [h]
    · cases r.reverse.find? (fun x => x.1 == k) <;> simp [h]

/-! ## A load waits for a close -/

section
variable {s : State} {t : Nat} {w : Thread} {e : Entry} {c : Clause} {sz : Size} {sp : Space} {h : Hint} {home : Option (BitVec 4)}
variable {q stash wide : Bool} {g : Guard}

theorem ld_stalls {d : VReg} {a : LdBase} {b : Off} (hi : Issues s (.ld sz sp h home q g d a b) t w e c) (hp : partLanes w e g ≠ [])
    (hw : s.readWaits w e sp = true) : Stalls s (.ld sz sp h home q g d a b) t w := by
  rw [← lanesOf_active] at hp
  exact stalls_of ((issue_next hi _ : execLd sz sp h home q g d a b s = _).trans (if_pos ⟨hp, hw⟩))

theorem ldu_stalls {d a : SReg} {b : SSrc} (hi : Issues s (.ldu stash wide h home q d a b) t w e c)
    (hw : s.readWaits w e (if stash = true then .stash else .global) = true) : Stalls s (.ldu stash wide h home q d a b) t w :=
  stalls_of ((issue_next hi _ : execLdu stash wide h home q d a b s = _).trans (if_pos hw))
end

/-! ## The data of a load arrives -/

section
variable {s : State} {t : Nat} {w : Thread} {o : Op} (ht : s.thread? t = some w) (ho : (w.ops.find? fun x => x.uid == o.uid) = some o)
variable (hr : s.farReached w.die o.far = true)
include ht ho hr

theorem loadDataArrives_load {ws : List (Nat × Word)} (hk : o.kind = .load ws) :
    exec (.loadDataArrives t o.uid) s = .next (s.setThread t ((w.setWords ws).finish o)) := by
  simp [exec, execLoadDataArrives, ht, ho, hr, hk]

theorem fbrdDataArrives_load {ws : List (Nat × Word)} (hk : o.kind = .load ws) :
    exec (.fbrdDataArrives t o.uid) s = .next (s.setThread t ((w.setWords ws).finish o)) := by
  simp [exec, execFbrdDataArrives, ht, ho, hr, hk]

theorem loadDataArrives_loadS {d : Nat} {x : DWord} (hk : o.kind = .loadS d x) :
    exec (.loadDataArrives t o.uid) s = .next (s.setThread t ((w.setS d x).finish o)) := by
  simp [exec, execLoadDataArrives, ht, ho, hr, hk]
end

/-- Settles O20: a load that must wait stalls at once, and data that arrives is the words that the operation has kept. -/
theorem loadsWaitAndArrive : Obligations.LoadsWaitAndArrive := by
  unfold Obligations.LoadsWaitAndArrive
  refine ⟨fun s t w e c h home q => ⟨fun sz sp g d a b => ld_stalls, fun stash wide d a b => ldu_stalls⟩,
    fun s t w o ht ho hr hv hs => ⟨fun ws hk => ?_, fun d x hk => ?_⟩⟩
  · have words : ∀ k l, ((w.setWords ws).finish o).vreg k l
        = ((ws.reverse.find? fun x => x.1 == vix k l).map (·.2)).getD (w.vreg k l) := fun k l => by
      rw [← lastTo_eq_find?]
      exact setWords_vreg w ws hv k l
    have kept : (w.setWords ws).finish o = { w with v := tsets 0#32 w.v ws, ops := w.ops.filter fun y => y.uid ≠ o.uid } := by
      rw [setWords_eq w ws hv, Thread.finish]
    have scalars : ∀ k, ((w.setWords ws).finish o).sreg k = w.sreg k := fun k => by rw [kept]; rfl
    exact ⟨⟨_, loadDataArrives_load ht ho hr hk, by rw [kept], fun k l _ => words k l, scalars⟩,
      ⟨_, fbrdDataArrives_load ht ho hr hk, by rw [kept], fun k l _ => words k l, scalars⟩⟩
  · refine ⟨_, loadDataArrives_loadS ht ho hr hk, ?_, fun k l _ => rfl, fun k => sreg_setS w hs d x k⟩
    simp only [Thread.setS, Thread.finish, hs, List.filter_nil]

end Sys2Proof.Machine
end

section
/-! SUPPORT (19 R318, 22 R342). What the touch of ranges changes, and what of the state it does not look at. -/

namespace Sys2Proof.Machine

/-- Nothing changes but the TLBs, the dies, and the marks of use of the contexts' pins. -/
structure Looked (s s' : State) : Prop where
  rest : ∃ l d c, s' = { s with tlbs := l, dies := d, contexts := c }
  contexts : ∀ k, ∃ f : Context → List (Nat × Pin), s'.context? k = (s.context? k).map fun x => { x with pins := f x }

theorem Looked.refl (s : State) : Looked s s :=
  ⟨⟨s.tlbs, s.dies, s.contexts, rfl⟩, fun k => ⟨(·.pins), by cases s.context? k <;> rfl⟩⟩

theorem Looked.trans {a b c : State} (h : Looked a b) (k : Looked b c) : Looked a c := by
  obtain ⟨l, d, x, rfl⟩ := h.rest
  obtain ⟨l', d', x', rfl⟩ := k.rest
  refine ⟨⟨l', d', x', rfl⟩, fun n => ?_⟩
  obtain ⟨f, hf⟩ := h.contexts n
  obtain ⟨f', hf'⟩ := k.contexts n
  refine ⟨fun y => f' { y with pins := f y }, ?_⟩
  rw [hf', hf, Option.map_map]
  rfl

theorem looked_of_tlbs (s : State) (l : List (Nat × List TlbEntry)) (d : List Die) : Looked s { s with tlbs := l, dies := d } :=
  ⟨⟨l, d, s.contexts, rfl⟩, fun k => (Looked.refl s).contexts k⟩

theorem looked_fillTlb (s : State) (place c va : Nat) : Looked s (s.fillTlb place c va) := by
  have first : ∀ s e, Looked s (State.putFirst s place e) := by
    intro s e
    unfold State.putFirst
    split
    · exact .refl s
    · exact looked_of_tlbs s _ s.dies
  unfold State.fillTlb
  split
  · exact .refl s
  split
  · exact first s _
  · exact .refl s
  split
  · exact (looked_of_tlbs s s.tlbs _).trans (first _ _)
  · exact .refl s

theorem aget?_map {α β : Type} (f : Nat → α → β) (l : List (Nat × α)) (k : Nat) :
    aget? (l.map fun x => (x.1, f x.1 x.2)) k = (aget? l k).map (f k) := by
  induction l with
  | nil => rfl
  | cons x r ih =>
    obtain ⟨i, v⟩ := x
    by_cases h : k = i
    · subst h; simp [aget?]
    · simpa [aget?, h] using ih

/-- A context's pins after accesses to physical ranges (22 R342). -/
def State.pinsAfter (s : State) (l : List (Nat × Nat)) (k : Nat) (x : Context) : List (Nat × Pin) :=
  x.pins.map fun p => (p.1, { p.2 with touched := p.2.touched || s.pinMeets k x p.2 l })

theorem looked_touchPas (s : State) (l : List (Nat × Nat)) : Looked s (s.touchPas l) := by
  unfold State.touchPas
  split
  · exact .refl s
  · refine ⟨⟨s.tlbs, s.dies, _, rfl⟩, fun k => 
      ⟨s.pinsAfter l k, aget?_map (fun k (x : Context) => ({ x with pins := s.pinsAfter l k x } : Context)) s.contexts k⟩⟩

theorem looked_touch (s : State) (place c : Nat) (l : List (Nat × Nat)) : Looked s (s.touch place c l) := by
  unfold State.touch
  split
  · exact .refl s
  · exact looked_touchPas s _

theorem looked_touched (s : State) (w : Thread) (l : List (Nat × Nat)) : Looked s (s.touched w l) := by
  unfold State.touched
  have fold : ∀ (m : List Nat) (a : State), Looked s a → Looked s (m.foldl (fun s va => s.fillTlb w.mmu w.ctx va) a) := by
    intro m
    induction m with
    | nil => exact fun a h => h
    | cons x r ih => exact fun a h => ih _ (h.trans (looked_fillTlb a _ _ x))
  exact fold _ _ (looked_touch s _ _ l)

section
variable {s s' : State} (h : Looked s s')
include h

theorem Looked.uid : s'.uid = s.uid := by obtain ⟨l, d, c, rfl⟩ := h.rest; rfl
theorem Looked.time : s'.time = s.time := by obtain ⟨l, d, c, rfl⟩ := h.rest; rfl
theorem Looked.grids : s'.grids = s.grids := by obtain ⟨l, d, c, rfl⟩ := h.rest; rfl
theorem Looked.groups : s'.groups = s.groups := by obtain ⟨l, d, c, rfl⟩ := h.rest; rfl

theorem Looked.grid? (k : Nat) : s'.grid? k = s.grid? k := by rw [State.grid?, h.grids, State.grid?]
theorem Looked.group? (k : Nat) : s'.group? k = s.group? k := by rw [State.group?, h.groups, State.group?]

theorem Looked.gkey (w : Thread) (lane : Nat) : s'.gkey w lane = s.gkey w lane := by
  obtain ⟨l, d, c, rfl⟩ := h.rest; rfl

theorem Looked.strict (c : Nat) : s'.strict c = s.strict c := by
  obtain ⟨f, hf⟩ := h.contexts c
  unfold State.strict
  rw [hf]
  cases s.context? c <;> rfl

theorem Looked.strictAt (w : Thread) (leaf : DWord) : s'.strictAt w leaf = s.strictAt w leaf := by
  rw [State.strictAt, h.strict, State.strictAt]
end

theorem pinMeets_nil (s : State) (c : Nat) (x : Context) (p : Pin) : s.pinMeets c x p [] = false := by
  unfold State.pinMeets
  rw [List.any_eq_false]
  intro i _
  split <;> exact Bool.false_ne_true

/-- An access to no range changes nothing. -/
theorem touched_nil (s : State) (w : Thread) : s.touched w [] = s := by
  have same : s.touchPas [] = s := by
    unfold State.touchPas
    split
    · rfl
    · simp [pinMeets_nil]
  have spans : s.touch w.mmu w.ctx [] = s := by
    unfold State.touch
    split
    · rfl
    · exact same
  exact spans

end Sys2Proof.Machine
end

section
/-! SUPPORT (07 R124, R126, R128, 13 R277). What the reads of a load bring about where none of them loses a word, and what the read of a
lane finds in each space. -/

namespace Sys2Proof.Machine

/-! ## Several reads that find their bytes -/

/-- The accesses to memory of lanes' reads, each with its lane. -/
def laneUses (l : List (Nat × LaneRead)) : List (Nat × LineUse) := l.flatMap fun x => x.2.uses.map fun u => (x.1, u)

section
variable {s : State} {w : Thread} {e : Entry} {l : List (Nat × LaneRead)}

/-- Reads that have lost nothing leave no records. -/
theorem logLost_found (hl : ∀ x ∈ l, x.2.lost = none) : s.logLost w e l = s := by
  have hno : l.filterMap (·.2.lost) = [] := List.filterMap_eq_nil_iff.mpr hl
  have hdrop : ∀ s, (∀ x ∈ l, x.2.lost = none) → l.foldl (fun s x => State.dropLost s x.2) s = s := by
    clear hno hl
    induction l with
    | nil => exact fun s _ => rfl
    | cons x r ih =>
      intro s hl
      have hx : s.dropLost x.2 = s := by simp [State.dropLost, hl x (by simp)]
      rw [List.foldl_cons, hx]
      exact ih s fun y hy => hl y (List.mem_cons_of_mem _ hy)
  unfold State.logLost
  rw [hno]
  split
  · rfl
  · exact hdrop s hl

theorem noteReads_found (hl : ∀ x ∈ l, x.2.lost = none) :
    s.noteReads w e l = s.fills w e.gstep ((laneUses l).map fun x => (s.gkey w x.1, x.2)) := by
  rw [State.noteReads, logLost_found hl, laneUses, List.map_flatMap]
  simp only [List.map_map, Function.comp_def]

theorem owesOf_found (hl : ∀ x ∈ l, x.2.lost = none ∧ x.2.past = false) : owesOf l = [] := by
  have hm : (l.filter fun x => x.2.lost.isSome && x.2.strict) = [] :=
    List.filter_eq_nil_iff.mpr fun x hx => by simp [(hl x hx).1]
  have hp : (l.filter fun x => x.2.past) = [] := List.filter_eq_nil_iff.mpr fun x hx => by simp [(hl x hx).2]
  simp [owesOf, hm, hp]

/-- Each access is kept with its lane, its address and its length, and is sent where its home is reached or a cache answers. -/
theorem farOf_laneUses (s : State) (w : Thread) (l : List (Nat × LaneRead)) :
    List.Forall₂ (fun x f => f.lane = x.1 ∧ f.va = x.2.va ∧ f.len = x.2.n ∧ f.sent = (s.near x.2 || s.reaches w.die x.2.pa))
      (laneUses l) (s.farOf w l) := by
  induction l with
  | nil => exact .nil
  | cons x r ih =>
    have head : List.Forall₂ (fun (x : Nat × LineUse) (f : Far) =>
        f.lane = x.1 ∧ f.va = x.2.va ∧ f.len = x.2.n ∧ f.sent = (s.near x.2 || s.reaches w.die x.2.pa))
        (x.2.uses.map fun u => (x.1, u)) (x.2.uses.map (s.farUse w x.1 x.2.addr x.2.strict)) := by
      rw [List.forall₂_map_left_iff, List.forall₂_map_right_iff, List.forall₂_same]
      intro u _
      unfold State.farUse
      cases hn : s.near u <;> simp [Far.answered]
    exact List.rel_append head ih

theorem farSpans_laneUses (s : State) (w : Thread) (l : List (Nat × LaneRead)) :
    farSpans (s.farOf w l) = (laneUses l).map fun x => (x.2.va.toNat, x.2.n) := by
  have h := farOf_laneUses s w l
  generalize s.farOf w l = far at h ⊢
  generalize laneUses l = uses at h ⊢
  induction h with
  | nil => rfl
  | cons hf _ ih =>
    rw [List.map_cons, ← ih, ← hf.2.1, ← hf.2.2.1]
    rfl

theorem stored_fills (s : State) (w : Thread) (step : Word) (l : List (Nat × LineUse)) : Stored s (s.fills w step l) :=
  stored_foldl _ (fun s _ => stored_useLine s _ _ _ _ _) l s

/-- An instruction that retires with a read outstanding that has lost nothing: the caches and the TLBs have seen its accesses, and it owes
no trap. -/
theorem performs_load {i : Instr} {t : Nat} {c : Clause} (h : Issues s i t w e c) (hl : ∀ x ∈ l, x.2.lost = none ∧ x.2.past = false)
    {s1 : State} (hs : (s.noteReads w e l).touched w (farSpans (s.farOf w l)) = s1) (o : Op) (d : Due)
    (he : exec i s = .next ({ s1 with uid := s1.uid + 1 }.retire t
      ((w.addOp { o with uid := s1.uid, since := s1.time }).owe (owesOf l) d) e)) :
    Performs s i { (s.fills w e.gstep ((laneUses l).map fun x => (s.gkey w x.1, x.2))).touched w
        ((laneUses l).map fun x => (x.2.va.toNat, x.2.n)) with uid := s.uid + 1 } t
      (w.addOp { o with uid := s.uid, since := s.time }) e id := by
  rw [noteReads_found fun x hx => (hl x hx).1, farSpans_laneUses] at hs
  rw [hs]
  have hnames : s1.uid = s.uid ∧ s1.time = s.time := by
    have look := looked_touched (s.fills w e.gstep ((laneUses l).map fun x => (s.gkey w x.1, x.2))) w
      ((laneUses l).map fun x => (x.2.va.toNat, x.2.n))
    obtain ⟨m, b, x, y, z, u, hfill⟩ := stored_fills s w e.gstep ((laneUses l).map fun x => (s.gkey w x.1, x.2))
    rw [← hs, look.uid, look.time, hfill]
    exact ⟨rfl, rfl⟩
  have howe : ∀ x : Thread, x.owe [] d = x := fun x => by simp [Thread.owe]
  have hop : ({ o with uid := s1.uid, since := s1.time } : Op) = { o with uid := s.uid, since := s.time } := by
    rw [hnames.1, hnames.2]
  rw [owesOf_found hl, howe, hop, hnames.1] at he
  exact performs_retire h rfl rfl he
end

/-! ## The read of a lane -/

section
variable {s : State} {w : Thread} {sp : Space} {h : Hint} {home : Option (BitVec 4)} {b : LdBase} {sz : Size} {lane : Nat}
variable {a : DWord} {bs : List Byte}

theorem winEsize_le (d : BitVec 256) : winEsize d ≤ 8 := by
  have hbits : bits d.toNat 192 2 < 2 ^ 2 := Nat.mod_lt _ (by decide)
  exact (Nat.pow_le_pow_right (by decide) (Nat.le_of_lt_succ hbits)).trans (by decide)

/-- A window's element is read at its home, whatever the caches hold (13 R276). -/
theorem serve_atHome {va : DWord} {pa n : Nat} {leaf : DWord} (hc : s.rangeLost pa n = none) :
    s.serve (atHome w va pa leaf n) = (s.readBytes pa n, none) :=
  serve_of_finds (show s.Finds (atHome w va pa leaf n) (s.readBytes pa n) from ⟨fun _ => hc, rfl⟩)

theorem stashBytes_whole {p : Group} {o n : Nat} (hl : p.stashLost o n = false) :
    p.stashBytes o n = (List.range n).map fun i => tget 0#8 p.stash (o + i) := by
  unfold Group.stashLost at hl
  rw [List.any_eq_false] at hl
  exact List.map_congr_left fun i hi => if_neg (hl i hi)

/-- The accesses of a lane's read: of global space and the lane's own one, and of stash space none. -/
def readsBy (s : State) (w : Thread) (sp : Space) (h : Hint) (home : Option (BitVec 4)) (sz : Size) (lane : Nat) (a : DWord)
    (uses : List LineUse) : Prop :=
  match sp with
  | .global => ∃ pa leaf, uses = [s.globalUse w (h != .stream) (h == .keep) home (byteAddr sz a) pa leaf sz.bytes]
  | .priv => ∃ pa leaf, uses = [privUse w (h != .stream) (s.privAddr w lane (byteAddr sz a).toNat) pa leaf sz.bytes]
  | .stash => uses = []
  | .window => True

theorem misaligned_eq_false (ha : sz ≠ .b4 → a.toNat % sz.bytes = 0) : misaligned sz a = false := by
  by_cases hsz : sz = .b4
  · simp [misaligned, hsz, Nat.mod_one]
  · simp [misaligned, hsz, ha hsz]

/-- A lane's read finds the bytes that its space holds for it. -/
theorem readLane_of_reads (hr : s.Reads w sp h home b sz lane a bs) : ∃ r, s.readLane w sp h home b sz lane a = .ok r ∧ r.bytes = bs
    ∧ r.addr = a ∧ (r.lost = none ∧ r.past = false) ∧ readsBy s w sp h home sz lane a r.uses := by
  obtain ⟨halign, hr⟩ := hr
  have hm := misaligned_eq_false halign
  cases sp with
  | global =>
    obtain ⟨pa, leaf, hacc, hfind⟩ := hr
    refine ⟨_, (by simp only [State.readLane, globalLane_eq hm, hacc, Except.map]; rfl), ?_, rfl, ⟨?_, rfl⟩, pa, leaf, rfl⟩ <;>
      simp only [serve_of_finds hfind]
  | priv =>
    obtain ⟨pa, leaf, g, hg, hacc, hfind⟩ := hr
    have hva : s.privAddr w lane (byteAddr sz a).toNat = privateVa g (s.gkey w lane) (byteAddr sz a).toNat := by
      simp [State.privAddr, hg]
    refine ⟨_, (by simp only [State.readLane, privLane_eq hm, hacc, Except.map, hg]; rfl), ?_, rfl, ⟨?_, rfl⟩, pa, leaf, by rw [hva]⟩ <;>
      simp only [serve_of_finds hfind]
  | stash =>
    obtain ⟨g, p, hg, hp, hin, hbusy, hlost, hbs⟩ := hr
    refine ⟨_, (by simp only [State.readLane, stashLane_eq hg hp hm, Nat.not_lt.mpr hin, hbusy, Except.map, hp, hlost,
      Bool.false_eq_true, if_false]; rfl), ?_, rfl, ⟨rfl, rfl⟩, ?_⟩
    · exact (stashBytes_whole hlost).trans hbs.symm
    · rfl
  | window =>
    obtain ⟨n, d, pi, pa, l1, l2, rfl, hwin, hsz, hes, hlen, hia, hidx, hslen, hacc, hclean, hbs⟩ := hr
    have hle : ¬ 8 < winEsize d := Nat.not_lt.mpr (winEsize_le d)
    have hsa := serve_of_finds hidx
    refine ⟨_, (by simp only [State.readLane, State.windowLane, hsz, hes, hle, hm, Bool.false_eq_true, or_self, if_false, hwin, ne_eq,
      not_true_eq_false, Nat.not_le.mpr hlen, State.windowElem, hia, hsa, Option.isSome_none, Nat.not_le.mpr hslen, hacc]; rfl),
      ?_, rfl, ⟨?_, rfl⟩, trivial⟩
    · rw [serve_atHome (hes ▸ hclean), hbs, hes]
    · rw [serve_atHome (hes ▸ hclean)]

/-- The words that a lane's bytes put into its registers, one for each register. -/
theorem zip_loadWords (sz : Size) (a : DWord) (bs : List Byte) :
    (List.range sz.regs).zip (loadWords sz (a.getLsbD 0) bs) = (List.range sz.regs).map fun k => (k, loadedWord sz a bs k) := by
  cases sz <;> rfl
end

end Sys2Proof.Machine
end

section
/-! OBLIGATION O19. -/

namespace Sys2Proof.Machine

section
variable {s : State} {t : Nat} {w : Thread} {e : Entry} {c : Clause} {h : Hint} {home : Option (BitVec 4)} {q : Bool} {f : Nat}
variable (hf : c.flag q = some f)
include hf

/-- An LD whose lanes all find their bytes leaves an operation that holds their words. -/
theorem ld_performs {sz : Size} {sp : Space} {g : Guard} {d : VReg} {a : LdBase} {b : Off} {rd : Nat → List Byte}
    (hi : Issues s (.ld sz sp h home q g d a b) t w e c) (hw : partLanes w e g = [] ∨ s.readWaits w e sp = false)
    (hx : ∀ l ∈ partLanes w e g, s.xlatReached w sp a sz l (ldAddr w a b l) = true) {r : Nat → LaneRead}
    (hr : ∀ l ∈ partLanes w e g, s.readLane w sp h home a sz l (ldAddr w a b l) = .ok (r l) ∧ (r l).bytes = rd l
      ∧ (r l).addr = ldAddr w a b l ∧ ((r l).lost = none ∧ (r l).past = false)) {us : List (Nat × LineUse)}
    (hus : laneUses ((partLanes w e g).map fun l => (l, r l)) = us) :
    Performs s (.ld sz sp h home q g d a b) { (s.fills w e.gstep (us.map fun x => (s.gkey w x.1, x.2))).touched w
        (us.map fun x => (x.2.va.toNat, x.2.n)) with uid := s.uid + 1 } t
      (w.addOp { uid := s.uid, flag := f, regs := (List.range sz.regs).map (d.toNat + ·), sreg := none
                 kind := .load ((partLanes w e g).flatMap fun l => (List.range sz.regs).map fun k =>
                   (vix (d.toNat + k) l, loadedWord sz (ldAddr w a b l) (rd l) k))
                 far := s.farOf w ((partLanes w e g).map fun l => (l, r l)), since := s.time }) e id := by
  have words : (((partLanes w e g).map fun l => (l, r l)).flatMap fun x =>
      ((List.range sz.regs).zip (loadWords sz (x.2.addr.getLsbD 0) x.2.bytes)).map fun y => (vix (d.toNat + y.1) x.1, y.2))
      = (partLanes w e g).flatMap fun l => (List.range sz.regs).map fun k =>
          (vix (d.toNat + k) l, loadedWord sz (ldAddr w a b l) (rd l) k) := by
    rw [List.flatMap_map]
    refine List.flatMap_congr fun l hl => ?_
    obtain ⟨-, hb, ha, -⟩ := hr l hl
    rw [ha, hb, zip_loadWords, List.map_map]
    rfl
  have found : ∀ x ∈ (partLanes w e g).map fun l => (l, r l), x.2.lost = none ∧ x.2.past = false := by
    intro x hx
    obtain ⟨l, hl, rfl⟩ := List.mem_map.mp hx
    exact (hr l hl).2.2.2
  have goes : exec (.ld sz sp h home q g d a b) s = _ := (issue_next hi _ : execLd sz sp h home q g d a b s = _)
  rw [lanesOf_active] at goes
  have hnw : ¬ (partLanes w e g ≠ [] ∧ s.readWaits w e sp = true) := by
    rintro ⟨h1, h2⟩
    rcases hw with hw | hw
    · exact h1 hw
    · exact Bool.false_ne_true (hw.symm.trans h2)
  have hall : ((partLanes w e g).all fun l => s.xlatReached w sp a sz l (a.value w l + BitVec.ofNat 64 (b.value w l))) = true :=
    List.all_eq_true.mpr hx
  have herr := laneErrs_of_ok (f := fun l => s.readLane w sp h home a sz l (a.value w l + BitVec.ofNat 64 (b.value w l)))
    fun l hl => ⟨r l, (hr l hl).1⟩
  have hok := laneOks_of_ok (f := fun l => s.readLane w sp h home a sz l (a.value w l + BitVec.ofNat 64 (b.value w l)))
    fun l hl => (hr l hl).1
  simp only [hnw, if_false, hall, Bool.not_true, Bool.false_eq_true, herr, firstCause, hok, words, hf, Option.getD_some] at goes
  rw [← hus]
  exact performs_load hi found rfl
    { uid := 0, flag := f, regs := (List.range sz.regs).map (d.toNat + ·), sreg := none, kind := _, far := _, since := 0#64 } (.flag f) goes

/-- An LDU that finds its bytes leaves an operation that holds its number. -/
theorem ldu_performs {stash wide : Bool} {d a : SReg} {b : SSrc} (hi : Issues s (.ldu stash wide h home q d a b) t w e c)
    {sp : Space} (hsp : (if stash = true then Space.stash else Space.global) = sp) {sz : Size}
    (hsz : (if wide = true then Size.b64 else Size.b32) = sz) {va : DWord} (hva : w.sreg a.toNat + b.value w = va)
    (hw : s.readWaits w e sp = false) (hx : s.xlatReached w sp (.s a) sz 0 va = true) {r : LaneRead}
    (hr : s.readLane w sp h home (.s a) sz 0 va = .ok r) (hfound : r.lost = none ∧ r.past = false) {us : List (Nat × LineUse)}
    (hus : laneUses [(lowestLane e.mask, r)] = us) :
    Performs s (.ldu stash wide h home q d a b) { (s.fills w e.gstep (us.map fun x => (s.gkey w x.1, x.2))).touched w
        (us.map fun x => (x.2.va.toNat, x.2.n)) with uid := s.uid + 1 } t
      (w.addOp { uid := s.uid, flag := f, regs := [], sreg := some d.toNat
                 kind := .loadS d.toNat (BitVec.ofNat 64 (leNat r.bytes))
                 far := s.farOf w [(lowestLane e.mask, r)], since := s.time }) e id := by
  have goes : exec (.ldu stash wide h home q d a b) s = _ := (issue_next hi _ : execLdu stash wide h home q d a b s = _)
  simp only [hsp, hsz, hva, hw, hx, hr, hf, Bool.false_eq_true, if_false, Bool.not_true, Option.getD_some] at goes
  rw [← hus]
  exact performs_load hi (by simpa using hfound) rfl
    { uid := 0, flag := f, regs := [], sreg := some d.toNat, kind := _, far := _, since := 0#64 } (.flag f) goes
end

/-! ## The accesses in each space -/

section
variable {s : State} {w : Thread} {h : Hint} {home : Option (BitVec 4)} {sz : Size} {ls : List Nat} {addr : Nat → DWord} {r : Nat → LaneRead}

/-- Where each lane makes one access, the accesses are the lanes' own, in ascending lane. -/
theorem laneUses_one {u : Nat → LineUse} (hu : ∀ l ∈ ls, (r l).uses = [u l]) :
    laneUses (ls.map fun l => (l, r l)) = ls.map fun l => (l, u l) := by
  rw [laneUses, List.flatMap_map]
  induction ls with
  | nil => rfl
  | cons l m ih =>
    rw [List.flatMap_cons, hu l (by simp), ih fun k hk => hu k (List.mem_cons_of_mem _ hk)]
    rfl

theorem laneUses_none (hu : ∀ l ∈ ls, (r l).uses = []) : laneUses (ls.map fun l => (l, r l)) = [] := by
  rw [laneUses, List.flatMap_map, List.flatMap_eq_nil_iff]
  intro l hl
  rw [hu l hl, List.map_nil]

/-- The addresses of the accesses by lane, and the way of each, in the spaces in which a lane makes one or none. -/
theorem laneUses_way {sp : Space} (hr : ∀ l ∈ ls, readsBy s w sp h home sz l (addr l) (r l).uses) {us : List (Nat × LineUse)}
    (hus : laneUses (ls.map fun l => (l, r l)) = us) :
    ∀ m, (match sp with
      | .global => some (ls.map fun l => (l, byteAddr sz (addr l)))
      | .priv => some (ls.map fun l => (l, s.privAddr w l (byteAddr sz (addr l)).toNat))
      | .stash => some []
      | .window => none) = some m →
    us.map (fun x => (x.1, x.2.va)) = m ∧ ∀ x ∈ us, ∃ pa leaf,
      x.2 = if sp = .priv then privUse w (h != .stream) x.2.va pa leaf sz.bytes
        else s.globalUse w (h != .stream) (h == .keep) home x.2.va pa leaf sz.bytes := by
  cases sp with
  | window => exact fun m hm => nomatch hm
  | stash =>
    rintro m ⟨⟩
    rw [← hus, laneUses_none hr]
    exact ⟨rfl, by simp⟩
  | global =>
    rintro m ⟨⟩
    choose! pa leaf hu using hr
    rw [laneUses_one hu] at hus
    subst hus
    refine ⟨by rw [List.map_map]; rfl, fun x hx => ?_⟩
    obtain ⟨l, -, rfl⟩ := List.mem_map.mp hx
    exact ⟨pa l, leaf l, (if_neg (by simp)).symm⟩
  | priv =>
    rintro m ⟨⟩
    choose! pa leaf hu using hr
    rw [laneUses_one hu] at hus
    subst hus
    refine ⟨by rw [List.map_map]; rfl, fun x hx => ?_⟩
    obtain ⟨l, -, rfl⟩ := List.mem_map.mp hx
    exact ⟨pa l, leaf l, (if_pos rfl).symm⟩
end

/-- Settles O19: each lane's read finds its bytes in its space, and what the instruction leaves follows from those reads. -/
theorem loads : Obligations.Loads := by
  unfold Obligations.Loads
  intro s t w e c h home q f hf issued
  constructor
  · intro sz sp g d a b rd i addr hi hw hlanes
    have hlanes := fun l (hl : l ∈ partLanes w e g) => hlanes l (mem_partLanes.mp hl).1 (mem_partLanes.mp hl).2
    have hread : ∀ l ∈ partLanes w e g, ∃ r, s.readLane w sp h home a sz l (ldAddr w a b l) = .ok r ∧ r.bytes = rd l
        ∧ r.addr = ldAddr w a b l ∧ (r.lost = none ∧ r.past = false) ∧ readsBy s w sp h home sz l (ldAddr w a b l) r.uses :=
      fun l hl => readLane_of_reads (hlanes l hl).2
    have : Nonempty LaneRead := ⟨⟨[], none, false, false, 0#64, 0#64, []⟩⟩
    choose! r hr using hread
    exact ⟨_, _, farOf_laneUses s w ((partLanes w e g).map fun l => (l, r l)), laneUses_way (fun l hl => (hr l hl).2.2.2.2) rfl,
      ld_performs hf hi hw (fun l hl => (hlanes l hl).1)
        (fun l hl => ⟨(hr l hl).1, (hr l hl).2.1, (hr l hl).2.2.1, (hr l hl).2.2.2.1⟩) rfl⟩
  · intro stash wide d a b rd i sp sz va hi hw hx hreads
    obtain ⟨r, hr, rfl, -, hfound, hby⟩ := readLane_of_reads hreads
    refine ⟨_, _, farOf_laneUses s w [(lowestLane e.mask, r)], ?_, ldu_performs hf hi rfl rfl rfl hw hx hr hfound rfl⟩
    have hva : byteAddr sz va = va := by cases wide <;> rfl
    have way := laneUses_way (ls := [lowestLane e.mask]) (r := fun _ => r) (addr := fun _ => va) (sp := sp) (s := s) (w := w)
      (h := h) (home := home) (sz := sz)
    cases stash with
    | true => exact way (fun _ _ => hby) rfl
    | false => exact hva ▸ way (fun _ _ => hby) rfl

end Sys2Proof.Machine
end

section
/-! SUPPORT (19 R318, 22 R342). The touch of ranges does not look at the grids. -/

namespace Sys2Proof.Machine

section
variable (s : State) (gs : List (Nat × Grid))

theorem walk_grids (va table level fuel : Nat) :
    State.walk { s with grids := gs } va table level fuel = s.walk va table level fuel := by
  induction fuel generalizing table level with
  | zero => rfl
  | succ n ih =>
    have entry : ∀ a, State.clean64 { s with grids := gs } a = s.clean64 a := fun a => rfl
    have leaf : ∀ v l e, State.leafXlat { s with grids := gs } v l e = s.leafXlat v l e := fun v l e => rfl
    simp only [State.walk, entry, leaf, ih]

theorem translate_grids (place c : Nat) (va : DWord) :
    State.translate { s with grids := gs } place c va = s.translate place c va := by
  have hit : ∀ p c v, State.tlbHit { s with grids := gs } p c v = s.tlbHit p c v := fun p c v => rfl
  have leaf : ∀ v l e, State.leafXlat { s with grids := gs } v l e = s.leafXlat v l e := fun v l e => rfl
  have ctx : ∀ c, State.context? { s with grids := gs } c = s.context? c := fun c => rfl
  simp only [State.translate, hit, leaf, ctx, walk_grids]

theorem touchPas_grids (l : List (Nat × Nat)) : State.touchPas { s with grids := gs } l = { s.touchPas l with grids := gs } := by
  simp only [State.touchPas, State.pinMeets, translate_grids]
  split <;> rfl

theorem touch_grids (place c : Nat) (l : List (Nat × Nat)) :
    State.touch { s with grids := gs } place c l = { s.touch place c l with grids := gs } := by
  simp only [State.touch, State.spansAt, translate_grids, touchPas_grids]
  split <;> rfl

theorem putFirst_grids (place : Nat) (e : TlbEntry) :
    State.putFirst { s with grids := gs } place e = { s.putFirst place e with grids := gs } := by
  simp only [State.putFirst]
  split <;> rfl

theorem fillTlb_grids (place c va : Nat) :
    State.fillTlb { s with grids := gs } place c va = { s.fillTlb place c va with grids := gs } := by
  have die : ∀ d, State.die { s with grids := gs } d = s.die d := fun d => rfl
  have ctx : ∀ c, State.context? { s with grids := gs } c = s.context? c := fun c => rfl
  have last : ∀ d e, State.putLast { s with grids := gs } d e = { s.putLast d e with grids := gs } := fun d e => rfl
  simp only [State.fillTlb, die, ctx, walk_grids, putFirst_grids, last]
  split
  · rfl
  split
  · rfl
  · rfl
  split <;> rfl

theorem touched_grids (w : Thread) (l : List (Nat × Nat)) :
    State.touched { s with grids := gs } w l = { s.touched w l with grids := gs } := by
  have fold : ∀ (m : List Nat) (a : State), m.foldl (fun s va => s.fillTlb w.mmu w.ctx va) { a with grids := gs }
      = { m.foldl (fun s va => s.fillTlb w.mmu w.ctx va) a with grids := gs } := by
    intro m
    induction m with
    | nil => exact fun a => rfl
    | cons x r ih =>
      intro a
      rw [List.foldl_cons, List.foldl_cons, fillTlb_grids]
      exact ih _
  unfold State.touched
  rw [touch_grids]
  exact fold _ _
end

end Sys2Proof.Machine
end

section
/-! SUPPORT (07 R129, R131, R132). What the reservations of a store and its pending writes change. -/

namespace Sys2Proof.Machine

/-- The members of a list, each made a write with the number of its place from `first` on. -/
def numbered {α : Type} (mk : α → Nat → PWrite) (first : Nat) (l : List α) : List PWrite :=
  ((List.range l.length).zip l).map fun x => mk x.2 (first + x.1)

theorem numbered_cons {α : Type} (mk : α → Nat → PWrite) (first : Nat) (x : α) (r : List α) :
    numbered mk first (x :: r) = mk x first :: numbered mk (first + 1) r := by
  unfold numbered
  rw [List.length_cons, List.range_succ_eq_map, List.zip_cons_cons, List.map_cons, List.zip_map_left, List.map_map]
  congr 1
  refine List.map_congr_left fun y _ => ?_
  simp only [Function.comp_apply, Prod.map_fst, Prod.map_snd, id_eq]
  congr 1
  omega

/-- Nothing has changed but the writes pending in a grid, to which `ws` have come, and the names given out, `n` of them. -/
structure PendsGrid (s s1 : State) (k : Nat) (g : Grid) (ws : List PWrite) (n : Nat) : Prop where
  rest : s1 = { s with grids := s1.grids, uid := s.uid + n }
  grid : s1.grid? k = some { g with pend := g.pend ++ ws }
  others : ∀ j, j ≠ k → s1.grid? j = s.grid? j

/-- The same of a group. -/
structure PendsGroup (s s1 : State) (k : Nat) (p : Group) (ws : List PWrite) (n : Nat) : Prop where
  rest : s1 = { s with groups := s1.groups, uid := s.uid + n }
  group : s1.group? k = some { p with pend := p.pend ++ ws }
  others : ∀ j, j ≠ k → s1.group? j = s.group? j

section
variable {s s1 : State} {k n : Nat} {g : Grid} {p : Group} {ws : List PWrite}

theorem PendsGrid.refl (hg : s.grid? k = some g) : PendsGrid s s k g [] 0 := ⟨rfl, by simpa using hg, fun _ _ => rfl⟩
theorem PendsGroup.refl (hp : s.group? k = some p) : PendsGroup s s k p [] 0 := ⟨rfl, by simpa using hp, fun _ _ => rfl⟩

/-- One more write. -/
theorem PendsGrid.push (h : PendsGrid s s1 k g ws n) (x : PWrite) :
    PendsGrid s ({ s1 with uid := s1.uid + 1 }.modGrid k fun g => { g with pend := g.pend ++ [x] }) k g (ws ++ [x]) (n + 1) := by
  have hg : State.grid? { s1 with uid := s1.uid + 1 } k = some { g with pend := g.pend ++ ws } := h.grid
  have hm : ({ s1 with uid := s1.uid + 1 }.modGrid k fun g => { g with pend := g.pend ++ [x] })
      = { s1 with uid := s1.uid + 1, grids := aset s1.grids k { g with pend := g.pend ++ ws ++ [x] } } := by
    rw [State.modGrid, hg]; rfl
  rw [hm]
  refine ⟨?_, ?_, fun j hj => ?_⟩
  · rw [h.rest]; rfl
  · simp [State.grid?]
  · rw [← h.others j hj]
    exact aget_aset_ne _ _ hj

theorem PendsGroup.push (h : PendsGroup s s1 k p ws n) (x : PWrite) :
    PendsGroup s ({ s1 with uid := s1.uid + 1 }.modGroup k fun p => { p with pend := p.pend ++ [x] }) k p (ws ++ [x]) (n + 1) := by
  have hp : State.group? { s1 with uid := s1.uid + 1 } k = some { p with pend := p.pend ++ ws } := h.group
  have hm : ({ s1 with uid := s1.uid + 1 }.modGroup k fun p => { p with pend := p.pend ++ [x] })
      = { s1 with uid := s1.uid + 1, groups := aset s1.groups k { p with pend := p.pend ++ ws ++ [x] } } := by
    rw [State.modGroup, hp]; rfl
  rw [hm]
  refine ⟨?_, ?_, fun j hj => ?_⟩
  · rw [h.rest]; rfl
  · simp [State.group?]
  · rw [← h.others j hj]
    exact aget_aset_ne _ _ hj

theorem PendsGrid.uid (h : PendsGrid s s1 k g ws n) : s1.uid = s.uid + n := by rw [h.rest]
theorem PendsGroup.uid (h : PendsGroup s s1 k p ws n) : s1.uid = s.uid + n := by rw [h.rest]

theorem PendsGrid.strict (h : PendsGrid s s1 k g ws n) (c : Nat) : s1.strict c = s.strict c := by rw [h.rest]; rfl
theorem PendsGroup.strict (h : PendsGroup s s1 k p ws n) (c : Nat) : s1.strict c = s.strict c := by rw [h.rest]; rfl
theorem PendsGrid.strictAt (h : PendsGrid s s1 k g ws n) (w : Thread) (leaf : DWord) : s1.strictAt w leaf = s.strictAt w leaf := by
  rw [State.strictAt, h.strict, State.strictAt]

/-- The keys of writers are as before: pending writes have no part in them. -/
theorem PendsGrid.gkey (h : PendsGrid s s1 k g ws n) (hg : s.grid? k = some g) (w : Thread) (lane : Nat) :
    s1.gkey w lane = s.gkey w lane := by
  have hp : s1.group? w.group = s.group? w.group := by rw [h.rest]; rfl
  unfold State.gkey
  rw [hp]
  by_cases hk : w.grid = k
  · rw [hk, h.grid, hg]; cases s.group? w.group <;> rfl
  · rw [h.others _ hk]

theorem PendsGroup.gkey (h : PendsGroup s s1 k p ws n) (hp : s.group? k = some p) (w : Thread) (lane : Nat) :
    s1.gkey w lane = s.gkey w lane := by
  have hg : s1.grid? w.grid = s.grid? w.grid := by rw [h.rest]; rfl
  unfold State.gkey
  rw [hg]
  by_cases hk : w.group = k
  · rw [hk, h.group, hp]; cases s.grid? w.grid <;> rfl
  · rw [h.others _ hk]

variable {α : Type} {step : State → α → State} {mk : α → Nat → PWrite} (l : List α)

/-- A run over a list of which each member leaves a write of its own. -/
theorem PendsGrid.foldl (hs : ∀ a ws n, ∀ x ∈ l, PendsGrid s a k g ws n →
      step a x = { a with uid := a.uid + 1 }.modGrid k fun g => { g with pend := g.pend ++ [mk x (s.uid + n)] })
    (h : PendsGrid s s1 k g ws n) : PendsGrid s (l.foldl step s1) k g (ws ++ numbered mk (s.uid + n) l) (n + l.length) := by
  induction l generalizing s1 ws n with
  | nil => simpa [numbered] using h
  | cons x r ih =>
    have next := ih (fun a ws n y hy => hs a ws n y (List.mem_cons_of_mem _ hy)) (h.push (mk x (s.uid + n)))
    rw [List.foldl_cons, hs s1 ws n x (by simp) h, numbered_cons, List.length_cons, show n + (r.length + 1) = n + 1 + r.length by omega]
    rw [List.append_assoc] at next
    exact next

theorem PendsGroup.foldl (hs : ∀ a ws n, ∀ x ∈ l, PendsGroup s a k p ws n →
      step a x = { a with uid := a.uid + 1 }.modGroup k fun p => { p with pend := p.pend ++ [mk x (s.uid + n)] })
    (h : PendsGroup s s1 k p ws n) : PendsGroup s (l.foldl step s1) k p (ws ++ numbered mk (s.uid + n) l) (n + l.length) := by
  induction l generalizing s1 ws n with
  | nil => simpa [numbered] using h
  | cons x r ih =>
    have next := ih (fun a ws n y hy => hs a ws n y (List.mem_cons_of_mem _ hy)) (h.push (mk x (s.uid + n)))
    rw [List.foldl_cons, hs s1 ws n x (by simp) h, numbered_cons, List.length_cons, show n + (r.length + 1) = n + 1 + r.length by omega]
    rw [List.append_assoc] at next
    exact next
end

end Sys2Proof.Machine
end

section
/-! SUPPORT (07 R131 to R134). The reservations of a store, and what an ST or STF does in each of its outcomes. -/

namespace Sys2Proof.Machine

/-! ## Reservations -/

theorem stored_ringReserve (s : State) (die n : Nat) : Stored s (s.ringReserve die n) := by
  unfold State.ringReserve
  simp only []
  split
  · exact (stored_setRingWord s _ _ _).trans (stored_ringCheck _ _ _ _)
  · exact .refl s

/-- What reservations leave for the writes that follow: names, times, keys and strictness are as before. -/
structure SameBase (s s' : State) (w : Thread) : Prop where
  uid : s'.uid = s.uid
  time : s'.time = s.time
  gkey : ∀ l, s'.gkey w l = s.gkey w l
  strict : s'.strict w.ctx = s.strict w.ctx

theorem SameBase.trans {a b c : State} {w : Thread} (h : SameBase a b w) (k : SameBase b c w) : SameBase a c w :=
  ⟨k.uid.trans h.uid, k.time.trans h.time, fun l => (k.gkey l).trans (h.gkey l), k.strict.trans h.strict⟩

theorem SameBase.strictAt {s s' : State} {w : Thread} (h : SameBase s s' w) (leaf : DWord) : s'.strictAt w leaf = s.strictAt w leaf := by
  rw [State.strictAt, h.strict, State.strictAt]

theorem Looked.base {s s' : State} (h : Looked s s') (w : Thread) : SameBase s s' w := ⟨h.uid, h.time, h.gkey w, h.strict w.ctx⟩

section
variable {s : State} {w : Thread} {step : Word} {n k : Nat} {g : Grid} {p : Group}

/-- A grid with the reservations of a store: n entries of the commit log and k records of the resolution ring. -/
def Grid.reserve (g : Grid) (w : Thread) (step : Word) (n k : Nat) : Grid :=
  { g with logRes := if n = 0 then g.logRes else g.logRes ++ [(step, n)]
           rlRes := if k = 0 then g.rlRes else g.rlRes ++ [(step, w.die, k)] }

theorem reserveGlobal_eq (hg : s.grid? w.grid = some g) : ∃ s0, Stored s s0 ∧ (k = 0 → s0 = s)
    ∧ s.reserveGlobal w step n k = s0.setGrid w.grid (g.reserve w step n k) := by
  refine ⟨if k = 0 then s else s.ringReserve w.die (32 * k), ?_, fun hk => if_pos hk, ?_⟩
  · split
    · exact .refl s
    · exact stored_ringReserve s _ _
  · have hg' : (if k = 0 then s else s.ringReserve w.die (32 * k)).grid? w.grid = some g := by
      split
      · exact hg
      · obtain ⟨m, h, d, b, l, c, hs⟩ := stored_ringReserve s w.die (32 * k)
        rw [hs]
        exact hg
    unfold State.reserveGlobal
    rw [State.modGrid, hg']
    rfl

/-- The reservations of a store of global space: those of the grid alone, beside the ring. -/
theorem reserveGlobal_spec (hg : s.grid? w.grid = some g) :
    SameBase s (s.reserveGlobal w step n k) w ∧ (s.reserveGlobal w step n k).grid? w.grid = some (g.reserve w step n k)
      ∧ (∀ j, j ≠ w.grid → (s.reserveGlobal w step n k).grid? j = s.grid? j)
      ∧ (k = 0 → s.reserveGlobal w step n k = { s with grids := (s.reserveGlobal w step n k).grids }) := by
  obtain ⟨s0, ⟨m, h, d, b, l, c, hs⟩, hsame, hres⟩ := reserveGlobal_eq (n := n) (k := k) (step := step) hg
  rw [hres]
  refine ⟨⟨?_, ?_, fun l => ?_, ?_⟩, by simp [State.setGrid, State.grid?], fun j hj => ?_, fun hk => ?_⟩
  · rw [hs]; rfl
  · rw [hs]; rfl
  · have hp : (s0.setGrid w.grid (g.reserve w step n k)).group? w.group = s.group? w.group := by rw [hs]; rfl
    have hg' : (s0.setGrid w.grid (g.reserve w step n k)).grid? w.grid = some (g.reserve w step n k) := by
      simp [State.setGrid, State.grid?]
    rw [State.gkey, hp, hg', State.gkey, hg]
    cases s.group? w.group <;> rfl
  · rw [hs]; rfl
  · rw [hs]
    exact aget_aset_ne _ _ hj
  · rw [hsame hk]; rfl

theorem reserveStash_spec (hp : s.group? w.group = some p) :
    SameBase s (s.reserveStash w step k) w
      ∧ (s.reserveStash w step k).group? w.group = some { p with rlRes := if k = 0 then p.rlRes else p.rlRes ++ [(step, w.die, k)] }
      ∧ (∀ j, j ≠ w.group → (s.reserveStash w step k).group? j = s.group? j)
      ∧ (k = 0 → s.reserveStash w step k = s) := by
  by_cases hk : k = 0
  · rw [State.reserveStash, if_pos hk]
    exact ⟨⟨rfl, rfl, fun _ => rfl, rfl⟩, by simpa [hk] using hp, fun _ _ => rfl, fun _ => rfl⟩
  · obtain ⟨m, h, d, b, l, c, hs⟩ := stored_ringReserve s w.die (32 * k)
    have hp' : (s.ringReserve w.die (32 * k)).group? w.group = some p := by rw [hs]; exact hp
    have hres : s.reserveStash w step k
        = (s.ringReserve w.die (32 * k)).setGroup w.group { p with rlRes := p.rlRes ++ [(step, w.die, k)] } := by
      rw [State.reserveStash, if_neg hk, State.modGroup, hp']
    rw [hres]
    refine ⟨⟨?_, ?_, fun l => ?_, ?_⟩, by simp [State.setGroup, State.group?, hk], fun j hj => ?_, fun h => absurd h hk⟩
    · rw [hs]; rfl
    · rw [hs]; rfl
    · have hg : ((s.ringReserve w.die (32 * k)).setGroup w.group { p with rlRes := p.rlRes ++ [(step, w.die, k)] }).grid? w.grid
          = s.grid? w.grid := by rw [hs]; rfl
      rw [State.gkey, hg, State.gkey, hp]
      simp only [State.setGroup, State.group?, aget_aset_same]
      cases s.grid? w.grid <;> rfl
    · rw [hs]; rfl
    · rw [hs]
      exact aget_aset_ne _ _ hj

theorem anyRecords_eq (hg : s.grid? w.grid = some g) (rule : Rule) (m : Nat) :
    s.anyRecords w rule m = if rule = .any ∧ g.pkt.det = false ∧ s.recording w.ctx = true then m else 0 := by
  rw [State.anyRecords, hg]

variable {addr : DWord} {m : Mask}

/-- Reservations fail for want of commit-log entries (07 R132). -/
theorem reserveTrap_log (hn : n ≠ 0) (hfree : s.logFree w.ctx < n) : s.reserveTrap w n k addr m = some ⟨.logfull, addr, m⟩ :=
  if_pos ⟨hfree, hn⟩

/-- Else for want of room in the ring (20 R329). -/
theorem reserveTrap_ring (hn : n = 0 ∨ n ≤ s.logFree w.ctx) (hk : k ≠ 0) (hfull : s.ringFull w.die (32 * k) = true) :
    s.reserveTrap w n k addr m = some ⟨.rlogFull, (s.die w.die).rring.base, m⟩ := by
  rw [State.reserveTrap, if_neg (by omega), if_pos ⟨hk, hfull⟩]

theorem reserveTrap_none (hn : n = 0 ∨ n ≤ s.logFree w.ctx) (hk : k = 0 ∨ s.ringFull w.die (32 * k) = false) :
    s.reserveTrap w n k addr m = none := by
  rw [State.reserveTrap, if_neg (by omega), if_neg]
  rintro ⟨h0, hf⟩
  rcases hk with hk | hk
  · exact h0 hk
  · exact Bool.false_ne_true (hk.symm.trans hf)
end

/-! ## ST and STF as one -/

/-- The state from which the writes of a store take their names: an STF has taken one for its operation. -/
def StoreForm.base (f : StoreForm) (s : State) : State := if f.stf.isSome = true then { s with uid := s.uid + 1 } else s

/-- The thread of a store once it has retired: an STF's operation is outstanding (07 R134). -/
def StoreForm.after (f : StoreForm) (w : Thread) (e : Entry) (flag uid : Nat) (time : DWord) : Thread :=
  match f.stf with
  | some (_, d) => w.addOp { uid := uid, flag := flag, regs := (List.range f.sz.regs).map (d.toNat + ·), sreg := none
                             kind := .stf (f.sp == .global) (if f.sp = .global then e.gstep else e.wstep) d.toNat
                               (f.sz == .b64) (active w e f.g), far := [], since := time }
  | none => w

/-- The state that holds a store's writes. -/
def StoreForm.pends (f : StoreForm) (s : State) (w : Thread) (e : Entry) (ok : List (Nat × DWord × StDest)) : State :=
  (f.base s).performStores w e f.sz f.rule f.fsum f.v (f.stf.map fun _ => s.uid) ok

section
variable {s : State} {i : Instr} {f : StoreForm} {t : Nat} {w : Thread} {e : Entry} {c : Clause} {flag : Nat}

theorem store_goes (hi : Issues s i t w e c) (hf : storeForm i = some f) (hflag : ∀ q d, f.stf = some (q, d) → c.flag q = some flag) :
    exec i s = storeChecked s t w e c f.sp f.sz f.rule (partLanes w e f.g) (f.addr w) fun s' ok =>
      .next ((f.pends s' w e ok).retire t (f.after w e flag s'.uid (f.pends s' w e ok).time) e) := by
  rw [← lanesOf_active]
  unfold storeForm at hf
  split at hf
  · cases hf
    exact (issue_next hi _ : execSt _ _ _ _ _ _ _ _ s = _)
  · next sz stash rule q g d a b v =>
    cases hf
    have hx : exec (.stf sz stash rule q g d a b v) s = _ := (issue_next hi _ : execStf sz stash rule q g d a b v s = _)
    simp only [hflag q d rfl, Option.getD_some] at hx
    rw [hx]
    cases stash <;> rfl
  · cases hf

variable (hi : Issues s i t w e c) (hf : storeForm i = some f) (hflag : ∀ q d, f.stf = some (q, d) → c.flag q = some flag)
variable (hr : ∀ l ∈ partLanes w e f.g, s.storeReached w f.sp f.sz l (f.addr w l) = true)
include hi hf hflag hr

/-- The lanes of the first cause trap. -/
theorem store_traps {P : Nat → Bool} {k : Cause} {va : Nat → DWord} {low : Nat}
    (hbad : ∀ l ∈ partLanes w e f.g, P l = true → s.storeLane w f.sp f.sz l (f.addr w l) = .error ⟨k, f.addr w l, va l⟩)
    (hrest : ∀ l ∈ partLanes w e f.g, P l = false → ∀ x, s.storeLane w f.sp f.sz l (f.addr w l) = .error x → k.lane < x.cause.lane)
    (hlow : ((partLanes w e f.g).filter P).head? = some low) :
    TrapsAt s i t w c ⟨k, f.addr w low, maskOf ((partLanes w e f.g).filter P)⟩ (((partLanes w e f.g).filter P).map fun l => (l, va l)) :=
  trapsAt_of ((store_goes hi hf hflag).trans (storeChecked_errs hr
    (firstCause_lanes (f := fun l => s.storeLane w f.sp f.sz l (f.addr w l)) hbad hrest hlow)))

variable {dest : Nat → StDest} (hd : ∀ l ∈ partLanes w e f.g, s.storeLane w f.sp f.sz l (f.addr w l) = .ok (dest l)) {n r : Nat}
variable (hn : (if f.sp = .global then (partLanes w e f.g).length * cellEntries f.sz else 0) = n)
variable (hk : (if f.sp = .priv then 0 else s.anyRecords w f.rule (partLanes w e f.g).length) = r)
include hd hn hk

/-- A store whose lanes may all be written waits for its ring, traps where its reservations fail, or leaves its writes (07 R132, 20 R329,
22 R337). -/
theorem store_outcomes {s1 : State} (hs : (if f.sp = .global then s.reserveGlobal w e.gstep n r else s.reserveStash w e.wstep r) = s1)
    {s2 : State} (ht : s1.touched w (s1.storeSpans w f.sp f.sz ((partLanes w e f.g).map fun l => (l, f.addr w l, dest l))) = s2)
    {s3 : State} (hp : f.pends s2 w e ((partLanes w e f.g).map fun l => (l, f.addr w l, dest l)) = s3) :
    let open' := r = 0 ∨ s.ringOpen w.die .resolution = true
    (¬ open' → Stalls s i t w)
    ∧ (open' → n ≠ 0 → s.logFree w.ctx < n →
        Traps s i t w c ⟨.logfull, f.addr w ((partLanes w e f.g).headD 0), maskOf (partLanes w e f.g)⟩)
    ∧ (open' → (n = 0 ∨ n ≤ s.logFree w.ctx) → r ≠ 0 → s.ringFull w.die (32 * r) = true →
        Traps s i t w c ⟨.rlogFull, (s.die w.die).rring.base, maskOf (partLanes w e f.g)⟩)
    ∧ (open' → (n = 0 ∨ n ≤ s.logFree w.ctx) → (r = 0 ∨ s.ringFull w.die (32 * r) = false) →
        Performs s i s3 t (f.after w e flag s2.uid s3.time) e id) := by
  have hx := (store_goes hi hf hflag).trans (storeChecked_ok hr hd hn hk hs)
  rw [ht, hp] at hx
  have goes : (r = 0 ∨ s.ringOpen w.die .resolution = true) → exec i s = _ := fun ho => hx.trans (if_neg (by
    rintro ⟨h0, hc⟩
    rcases ho with ho | ho
    · exact h0 ho
    · exact Bool.false_ne_true (hc.symm.trans ho)))
  refine ⟨fun ho => ?_, fun ho h0 hfree => ?_, fun ho hfit h0 hfull => ?_, fun ho hfit hroom => ?_⟩
  · obtain ⟨h0, hc⟩ := not_or.mp ho
    exact stalls_of (hx.trans (if_pos ⟨h0, Bool.eq_false_iff.mpr hc⟩))
  · have hx := goes ho
    rw [reserveTrap_log h0 hfree] at hx
    exact traps_of hx
  · have hx := goes ho
    rw [reserveTrap_ring hfit h0 hfull] at hx
    exact traps_of hx
  · have hx := goes ho
    rw [reserveTrap_none hfit hroom] at hx
    have hkept : ∀ uid time, (f.after w e flag uid time).stack = w.stack ∧ (f.after w e flag uid time).spilled = w.spilled := by
      intro uid time
      unfold StoreForm.after
      split <;> exact ⟨rfl, rfl⟩
    exact performs_retire hi (hkept _ _).1 (hkept _ _).2 hx
end

/-! ## The writes of a store -/

section
variable {s s2 : State} {f : StoreForm} {w : Thread} {e : Entry} {g : Grid} {p : Group} {ls : List Nat} {pa : Nat → Nat}

theorem writes_eq_numbered (step : Word) (stf : Option Nat) (first : Nat) (strict : Nat → Bool) :
    f.writes s w step ls pa stf first strict = numbered (fun l n => laneWrite s w step f.sz f.rule f.fsum f.v stf l (f.addr w l) (pa l) n
      (strict l)) first ls := rfl

theorem laneWrite_congr {a : State} (hk : ∀ l, a.gkey w l = s.gkey w l) (step : Word) (sz : Size) (rule : Rule) (fsum : Bool) (v : VReg)
    (stf : Option Nat) (l : Nat) (addr : DWord) (pa n : Nat) (strict : Bool) :
    laneWrite a w step sz rule fsum v stf l addr pa n strict = laneWrite s w step sz rule fsum v stf l addr pa n strict := by
  rw [laneWrite, hk, laneWrite]

theorem base_spec (f : StoreForm) (s : State) : (f.base s).uid = s.uid + (if f.stf.isSome = true then 1 else 0)
    ∧ f.base s = { s with uid := (f.base s).uid } := by
  unfold StoreForm.base
  split <;> exact ⟨rfl, rfl⟩

/-- The writes of a store of global space, from the state that holds its reservations. -/
theorem pends_global (hbase : SameBase s s2 w) (hg : s2.grid? w.grid = some g) (leaf : Nat → DWord) :
    PendsGrid (f.base s2) (f.pends s2 w e (ls.map fun l => (l, f.addr w l, .global (pa l) (leaf l)))) w.grid g
      (f.writes s w e.gstep ls pa (f.stf.map fun _ => s.uid) (s.uid + if f.stf.isSome = true then 1 else 0)
        fun l => s.strictAt w (leaf l)) ls.length := by
  obtain ⟨huid, hrest⟩ := base_spec f s2
  have hg2 : (f.base s2).grid? w.grid = some g := by rw [hrest]; exact hg
  rw [writes_eq_numbered, ← hbase.uid, ← huid, StoreForm.pends, State.performStores, List.foldl_map]
  have run := PendsGrid.foldl (s := f.base s2) ls
    (step := fun a l => { a with uid := a.uid + 1 }.modGrid w.grid fun g => { g with pend := g.pend ++ [laneWrite a w e.gstep f.sz f.rule
      f.fsum f.v (f.stf.map fun _ => s2.uid) l (f.addr w l) (pa l) a.uid (a.strictAt w (leaf l))] })
    (mk := fun l n => laneWrite s w e.gstep f.sz f.rule f.fsum f.v (f.stf.map fun _ => s2.uid) l (f.addr w l) (pa l) n
      (s.strictAt w (leaf l))) ?_ (PendsGrid.refl hg2)
  · simpa using run
  · intro a ws n l _ ha
    have hkey : ∀ l, a.gkey w l = s.gkey w l := fun l => (ha.gkey hg2 w l).trans
      ((show (f.base s2).gkey w l = s2.gkey w l by rw [hrest]; rfl).trans (hbase.gkey l))
    have hstrict : a.strictAt w (leaf l) = s.strictAt w (leaf l) := (ha.strictAt w _).trans
      ((show (f.base s2).strictAt w (leaf l) = s2.strictAt w (leaf l) by rw [hrest]; rfl).trans (hbase.strictAt _))
    simp only [laneWrite_congr hkey, hstrict, ha.uid]

/-- The writes of a store of stash space. -/
theorem pends_stash (hbase : SameBase s s2 w) (hp : s2.group? w.group = some p) :
    PendsGroup (f.base s2) (f.pends s2 w e (ls.map fun l => (l, f.addr w l, .stash (pa l)))) w.group p
      (f.writes s w e.wstep ls pa (f.stf.map fun _ => s.uid) (s.uid + if f.stf.isSome = true then 1 else 0)
        fun _ => s.strict w.ctx) ls.length := by
  obtain ⟨huid, hrest⟩ := base_spec f s2
  have hp2 : (f.base s2).group? w.group = some p := by rw [hrest]; exact hp
  rw [writes_eq_numbered, ← hbase.uid, ← huid, StoreForm.pends, State.performStores, List.foldl_map]
  have run := PendsGroup.foldl (s := f.base s2) ls
    (step := fun a l => { a with uid := a.uid + 1 }.modGroup w.group fun p => { p with pend := p.pend ++ [laneWrite a w e.wstep f.sz f.rule
      f.fsum f.v (f.stf.map fun _ => s2.uid) l (f.addr w l) (pa l) a.uid (a.strict w.ctx)] })
    (mk := fun l n => laneWrite s w e.wstep f.sz f.rule f.fsum f.v (f.stf.map fun _ => s2.uid) l (f.addr w l) (pa l) n
      (s.strict w.ctx)) ?_ (PendsGroup.refl hp2)
  · simpa using run
  · intro a ws n l _ ha
    have hkey : ∀ l, a.gkey w l = s.gkey w l := fun l => (ha.gkey hp2 w l).trans
      ((show (f.base s2).gkey w l = s2.gkey w l by rw [hrest]; rfl).trans (hbase.gkey l))
    have hstrict : a.strict w.ctx = s.strict w.ctx := (ha.strict _).trans
      ((show (f.base s2).strict w.ctx = s2.strict w.ctx by rw [hrest]; rfl).trans hbase.strict)
    simp only [laneWrite_congr hkey, hstrict, ha.uid]
end

end Sys2Proof.Machine
end

section
/-! OBLIGATION O21. -/

namespace Sys2Proof.Machine

/-- A trap other than PAGE does not look at the addresses that did not translate. -/
theorem TrapsAt.traps {s : State} {i : Instr} {t : Nat} {w : Thread} {c : Clause} {k : TrapInfo} {l : List (Nat × DWord)}
    (h : TrapsAt s i t w c k l) (hk : k.cause ≠ .page) : Traps s i t w c k := by
  refine ⟨fun hr => (h.1 hr).trans ?_, h.2⟩
  simp only [State.takeTrapAt, if_neg hk]

/-! ## The lane of a store -/

section
variable {s : State} {w : Thread} {sz : Size} {lane : Nat} {a : DWord} (hm : misaligned sz a = false)
include hm

theorem storeLane_global_error {y : Cause} (h : s.access w.mmu w.ctx (byteAddr sz a) .write = .error y) :
    s.storeLane w .global sz lane a = .error ⟨y, a, byteAddr sz a⟩ := by
  simp only [State.storeLane, globalLane_eq hm, h]

theorem storeLane_global_twin {pa : Nat} {leaf : DWord} (h : s.access w.mmu w.ctx (byteAddr sz a) .write = .ok (pa, leaf))
    (ht : leafTwin leaf = true) : s.storeLane w .global sz lane a = .error ⟨.twinPartial, a, byteAddr sz a⟩ := by
  simp only [State.storeLane, globalLane_eq hm, h, ht, if_true]

theorem storeLane_global_ok {pa : Nat} {leaf : DWord} (h : s.access w.mmu w.ctx (byteAddr sz a) .write = .ok (pa, leaf))
    (ht : leafTwin leaf = false) : s.storeLane w .global sz lane a = .ok (.global pa leaf) := by
  simp only [State.storeLane, globalLane_eq hm, h, ht, Bool.false_eq_true, if_false]

variable {g : Grid} {p : Group} (hg : s.grid? w.grid = some g) (hp : s.group? w.group = some p)
include hg hp

theorem storeLane_stash_past (h : g.stashBytes < (byteAddr sz a).toNat + sz.bytes) :
    s.storeLane w .stash sz lane a = .error ⟨.prot, a, a⟩ := by
  simp only [State.storeLane, stashLane_eq hg hp hm, h, if_true, Except.map]

theorem storeLane_stash_busy (h : ¬ g.stashBytes < (byteAddr sz a).toNat + sz.bytes)
    (hb : p.busyAt w.wix (byteAddr sz a).toNat sz.bytes = true) : s.storeLane w .stash sz lane a = .error ⟨.tileBusy, a, a⟩ := by
  simp only [State.storeLane, stashLane_eq hg hp hm, h, hb, if_true, if_false, Except.map]

theorem storeLane_stash_ok (h : ¬ g.stashBytes < (byteAddr sz a).toNat + sz.bytes)
    (hb : p.busyAt w.wix (byteAddr sz a).toNat sz.bytes = false) :
    s.storeLane w .stash sz lane a = .ok (.stash (byteAddr sz a).toNat) := by
  simp only [State.storeLane, stashLane_eq hg hp hm, h, hb, if_false, Except.map, Bool.false_eq_true]
end

/-! ## The traps of a store to global space -/

section
variable {s : State} {i : Instr} {f : StoreForm} {t : Nat} {w : Thread} {e : Entry} {c : Clause} {flag : Nat}
variable (hi : Issues s i t w e c) (hf : storeForm i = some f) (hflag : ∀ q d, f.stf = some (q, d) → c.flag q = some flag)
variable (hm : ∀ l ∈ partLanes w e f.g, misaligned f.sz (f.addr w l) = false) (hsp : f.sp = .global)
variable (hr : ∀ l ∈ partLanes w e f.g, s.storeReached w f.sp f.sz l (f.addr w l) = true)
include hi hf hflag hm hsp hr

/-- Of the lanes whose page forbids the store those of the first cause trap (07 R122). -/
theorem store_traps_page {x : Cause} {low : Nat} {bad : List Nat}
    (hbad : ((partLanes w e f.g).filter fun l => decide (s.access w.mmu w.ctx (byteAddr f.sz (f.addr w l)) .write = .error x)) = bad)
    (hlow : bad.head? = some low)
    (hfirst : ∀ l ∈ partLanes w e f.g, ∀ y, s.access w.mmu w.ctx (byteAddr f.sz (f.addr w l)) .write = .error y → x.own ≤ y.own) :
    TrapsAt s i t w c ⟨x, f.addr w low, maskOf bad⟩ (bad.map fun l => (l, byteAddr f.sz (f.addr w l))) := by
  subst hbad
  have hx : x = .page ∨ x = .prot := by
    have hmem := List.mem_of_mem_head? hlow
    exact access_error (of_decide_eq_true (List.mem_filter.mp hmem).2)
  refine store_traps hi hf hflag hr (fun l hl hP => hsp ▸ storeLane_global_error (hm l hl) (of_decide_eq_true hP))
    (fun l hl hP y hy => ?_) hlow
  rw [hsp] at hy
  cases hacc : s.access w.mmu w.ctx (byteAddr f.sz (f.addr w l)) .write with
  | error z =>
    rw [storeLane_global_error (hm l hl) hacc] at hy
    cases hy
    have hne : x ≠ z := fun h => of_decide_eq_false hP (h ▸ hacc)
    have hle := hfirst l hl z hacc
    rcases hx with rfl | rfl <;> rcases access_error hacc with rfl | rfl
    · exact absurd rfl hne
    · exact (by decide : Cause.page.lane < Cause.prot.lane)
    · exact absurd hle (by decide)
    · exact absurd rfl hne
  | ok z =>
    obtain ⟨pa, leaf⟩ := z
    cases ht : leafTwin leaf with
    | true =>
      rw [storeLane_global_twin (hm l hl) hacc ht] at hy
      cases hy
      rcases hx with rfl | rfl
      · exact (by decide : Cause.page.lane < Cause.twinPartial.lane)
      · exact (by decide : Cause.prot.lane < Cause.twinPartial.lane)
    | false => rw [storeLane_global_ok (hm l hl) hacc ht] at hy; cases hy

/-- Those to a TWIN page all trap (07 R133). -/
theorem store_traps_twin {pa : Nat → Nat} {leaf : Nat → DWord}
    (hacc : ∀ l ∈ partLanes w e f.g, s.access w.mmu w.ctx (byteAddr f.sz (f.addr w l)) .write = .ok (pa l, leaf l)) {low : Nat}
    (hlow : ((partLanes w e f.g).filter fun l => leafTwin (leaf l)).head? = some low) :
    Traps s i t w c ⟨.twinPartial, f.addr w low, maskOf ((partLanes w e f.g).filter fun l => leafTwin (leaf l))⟩ := by
  refine (store_traps hi hf hflag hr (P := fun l => leafTwin (leaf l))
    (fun l hl hP => hsp ▸ storeLane_global_twin (hm l hl) (hacc l hl) hP) (fun l hl hP y hy => ?_) hlow).traps Cause.noConfusion
  rw [hsp, storeLane_global_ok (hm l hl) (hacc l hl) hP] at hy
  cases hy
end

/-! ## The traps of a store to stash space -/

section
variable {s : State} {i : Instr} {f : StoreForm} {t : Nat} {w : Thread} {e : Entry} {c : Clause} {flag : Nat} {g : Grid} {p : Group}
variable (hi : Issues s i t w e c) (hf : storeForm i = some f) (hflag : ∀ q d, f.stf = some (q, d) → c.flag q = some flag)
variable (hg : s.grid? w.grid = some g) (hp : s.group? w.group = some p)
variable (hm : ∀ l ∈ partLanes w e f.g, misaligned f.sz (f.addr w l) = false) (hsp : f.sp = .stash)
variable (hr : ∀ l ∈ partLanes w e f.g, s.storeReached w f.sp f.sz l (f.addr w l) = true)
include hi hf hflag hg hp hm hsp hr

/-- The lanes past STASH trap (07 R122). -/
theorem store_traps_past {past : List Nat}
    (hpast : ((partLanes w e f.g).filter fun l => decide (g.stashBytes < (byteAddr f.sz (f.addr w l)).toNat + f.sz.bytes)) = past)
    {low : Nat} (hlow : past.head? = some low) : Traps s i t w c ⟨.prot, f.addr w low, maskOf past⟩ := by
  subst hpast
  refine (store_traps hi hf hflag hr (fun l hl hP => hsp ▸ storeLane_stash_past (hm l hl) hg hp (of_decide_eq_true hP))
    (fun l hl hP y hy => ?_) hlow).traps Cause.noConfusion
  rw [hsp] at hy
  have hin := of_decide_eq_false hP
  cases hb : p.busyAt w.wix (byteAddr f.sz (f.addr w l)).toNat f.sz.bytes with
  | true =>
    rw [storeLane_stash_busy (hm l hl) hg hp hin hb] at hy
    cases hy
    exact (by decide : Cause.prot.lane < Cause.tileBusy.lane)
  | false => rw [storeLane_stash_ok (hm l hl) hg hp hin hb] at hy; cases hy

/-- Else those in a tile that moves or that another wave has changed (07 R140). -/
theorem store_traps_busy (hin : ∀ l ∈ partLanes w e f.g, ¬ g.stashBytes < (byteAddr f.sz (f.addr w l)).toNat + f.sz.bytes) {busy : List Nat}
    (hbusy : ((partLanes w e f.g).filter fun l => p.busyAt w.wix (byteAddr f.sz (f.addr w l)).toNat f.sz.bytes) = busy)
    {low : Nat} (hlow : busy.head? = some low) : Traps s i t w c ⟨.tileBusy, f.addr w low, maskOf busy⟩ := by
  subst hbusy
  refine (store_traps hi hf hflag hr (fun l hl hP => hsp ▸ storeLane_stash_busy (hm l hl) hg hp (hin l hl) hP)
    (fun l hl hP y hy => ?_) hlow).traps Cause.noConfusion
  rw [hsp, storeLane_stash_ok (hm l hl) hg hp (hin l hl) hP] at hy
  cases hy
end

/-! ## What the writes leave -/

section
variable {s s1 s2 s3 : State} {f : StoreForm} {w : Thread} {g : Grid} {p : Group} {step : Word} {n k m : Nat} {ws : List PWrite}

/-- After the writes of a store of global space, beside its reservations. -/
theorem left_by_global {l : List (Nat × Nat)} (hg : s.grid? w.grid = some g) (hs : s.reserveGlobal w step n k = s1)
    (ht : s1.touched w l = s2) (h : PendsGrid (f.base s2) s3 w.grid (g.reserve w step n k) ws m) :
    s3.time = s.time ∧ s3.grid? w.grid = some { g.reserve w step n k with pend := g.pend ++ ws }
      ∧ (∀ j, j ≠ w.grid → s3.grid? j = s.grid? j) ∧ (k = 0 → { s3 with grids := s.grids, uid := s.uid } = s.touched w l) := by
  obtain ⟨base, -, others, frame⟩ := reserveGlobal_spec (n := n) (k := k) (step := step) hg
  have look := looked_touched s1 w l
  rw [hs] at base others frame
  rw [ht] at look
  have hb := (base_spec f s2).2
  have hgrids : (f.base s2).grids = s1.grids := by rw [hb]; exact look.grids
  refine ⟨?_, h.grid, fun j hj => (h.others j hj).trans ?_, fun hk => ?_⟩
  · rw [h.rest, hb]
    exact look.time.trans base.time
  · rw [State.grid?, hgrids]
    exact others j hj
  · have hsame : ∀ a : State, Looked s a → { a with grids := s.grids, uid := s.uid } = a := by
      intro a ha
      obtain ⟨x, d, y, rfl⟩ := ha.rest
      rfl
    rw [h.rest, hb, ← ht, frame hk, touched_grids]
    exact hsame _ (looked_touched s w l)

/-- After the writes of a store of stash space. -/
theorem left_by_stash (hp : s.group? w.group = some p) (hs : s.reserveStash w step k = s1) (ht : s1.touched w [] = s2) {q : Group}
    (hq : { p with rlRes := if k = 0 then p.rlRes else p.rlRes ++ [(step, w.die, k)] } = q)
    (h : PendsGroup (f.base s2) s3 w.group q ws m) :
    s3.time = s.time ∧ s3.group? w.group = some { q with pend := p.pend ++ ws }
      ∧ (∀ j, j ≠ w.group → s3.group? j = s.group? j) ∧ (k = 0 → { s3 with groups := s.groups, uid := s.uid } = s.touched w []) := by
  obtain ⟨base, -, others, frame⟩ := reserveStash_spec (k := k) (step := step) hp
  rw [hs] at base others frame
  rw [touched_nil] at ht
  have hb := (base_spec f s2).2
  have hgroups : (f.base s2).groups = s1.groups := by rw [hb, ← ht]
  refine ⟨?_, ?_, fun j hj => (h.others j hj).trans ?_, fun hk => ?_⟩
  · rw [h.rest, hb, ← ht]
    exact base.time
  · rw [h.group, ← hq]
  · rw [State.group?, hgroups]
    exact others j hj
  · rw [h.rest, hb, ← ht, frame hk, touched_nil]
end

/-- Settles O21: the lanes' traps come first, then what the reservations meet, and else the writes are pending. -/
theorem pendingStores : Obligations.PendingStores := by
  unfold Obligations.PendingStores
  intro s i f t w e c g p pa flag hi hf hg hp hflag va ls n k stf w' ws open' fails hm
  have hafter : ∀ uid time, uid = s.uid → time = s.time → f.after w e flag uid time = w' := by
    rintro uid time rfl rfl
    rfl
  have hrecs : f.sp ≠ .priv → (if f.sp = .priv then 0 else s.anyRecords w f.rule (partLanes w e f.g).length) = k := fun h => by
    rw [if_neg h, anyRecords_eq hg]
  have hreach : f.sp = .global → (∀ l ∈ ls, s.walkReached w.mmu w.ctx (va l) = true) →
      ∀ l ∈ partLanes w e f.g, s.storeReached w f.sp f.sz l (f.addr w l) = true := fun hsp h => hsp ▸ h
  refine ⟨?_, ?_, ?_⟩
  · intro hsp hwalk x low found bad hlow hfirst
    exact store_traps_page hi hf hflag hm hsp (hreach hsp hwalk) rfl hlow hfirst
  · intro hsp leaf hl onTwin
    have hr := hreach hsp fun l h => (hl l h).1
    have hacc := fun l h => (hl l h).2
    have hn : (if f.sp = .global then (partLanes w e f.g).length * cellEntries f.sz else 0) = n := if_pos hsp
    have hdest : onTwin = [] → ∀ l ∈ partLanes w e f.g, s.storeLane w f.sp f.sz l (f.addr w l) = .ok (.global (pa l) (leaf l)) :=
      fun ht l h => hsp ▸ storeLane_global_ok (hm l h) (hacc l h) (Bool.eq_false_iff.mpr (List.filter_eq_nil_iff.mp ht l h))
    have outcomes := fun ht => store_outcomes hi hf hflag hr (hdest ht) hn (hrecs (by rw [hsp]; decide)) rfl rfl rfl
    refine ⟨fun low => store_traps_twin hi hf hflag hm hsp hr hacc, fun ht => (outcomes ht).1, fun ht => (outcomes ht).2.1,
      fun ht => (outcomes ht).2.2.1, fun ht ho hfit hroom => ?_⟩
    have done := (outcomes ht).2.2.2 ho hfit hroom
    have hspans : ∀ a : State, a.storeSpans w f.sp f.sz (ls.map fun l => (l, f.addr w l, .global (pa l) (leaf l)))
        = ls.map fun l => ((va l).toNat, f.sz.bytes) := fun a => by
      simp only [hsp, State.storeSpans, List.map_map]
      rfl
    rw [if_pos hsp, hspans] at done
    have base := (reserveGlobal_spec (n := n) (k := k) (step := e.gstep) hg).1.trans
      ((looked_touched _ w (ls.map fun l => ((va l).toNat, f.sz.bytes))).base w)
    have pends := pends_global (e := e) (f := f) (pa := pa) (ls := ls) base
      (((looked_touched _ w (ls.map fun l => ((va l).toNat, f.sz.bytes))).grid? w.grid).trans
        (reserveGlobal_spec (n := n) (k := k) (step := e.gstep) hg).2.1) leaf
    obtain ⟨htime, hgrid, hothers, hframe⟩ := left_by_global hg rfl rfl pends
    rw [hafter _ _ base.uid htime] at done
    exact ⟨_, done, hgrid, hothers, hframe⟩
  · intro hsp hpa past busy
    have hr : ∀ l ∈ partLanes w e f.g, s.storeReached w f.sp f.sz l (f.addr w l) = true := fun l _ => hsp ▸ rfl
    have hn : (if f.sp = .global then (partLanes w e f.g).length * cellEntries f.sz else 0) = 0 := if_neg (by rw [hsp]; decide)
    have hpast : past = (partLanes w e f.g).filter fun l => decide (g.stashBytes < (byteAddr f.sz (f.addr w l)).toNat + f.sz.bytes) :=
      List.filter_congr fun l hl => by rw [hpa l hl]
    have hbusy : busy = (partLanes w e f.g).filter fun l => p.busyAt w.wix (byteAddr f.sz (f.addr w l)).toNat f.sz.bytes :=
      List.filter_congr fun l hl => by rw [hpa l hl]
    have hin : past = [] → ∀ l ∈ partLanes w e f.g, ¬ g.stashBytes < (byteAddr f.sz (f.addr w l)).toNat + f.sz.bytes :=
      fun h l hl => by simpa using List.filter_eq_nil_iff.mp (hpast.symm.trans h) l hl
    have hdest : past = [] → busy = [] → ∀ l ∈ partLanes w e f.g, s.storeLane w f.sp f.sz l (f.addr w l) = .ok (.stash (pa l)) :=
      fun hpn hbn l hl => by
        rw [hsp, hpa l hl]
        exact storeLane_stash_ok (hm l hl) hg hp (hin hpn l hl) (Bool.eq_false_iff.mpr (List.filter_eq_nil_iff.mp (hbusy.symm.trans hbn) l hl))
    have outcomes := fun hpn hbn => store_outcomes hi hf hflag hr (hdest hpn hbn) hn (hrecs (by rw [hsp]; decide)) rfl rfl rfl
    refine ⟨fun low => store_traps_past hi hf hflag hg hp hm hsp hr hpast.symm,
      fun low hpn => store_traps_busy hi hf hflag hg hp hm hsp hr (hin hpn) hbusy.symm, fun hpn hbn => (outcomes hpn hbn).1,
      fun hpn hbn ho => (outcomes hpn hbn).2.2.1 ho (.inl rfl), fun hpn hbn ho hroom => ?_⟩
    have done := (outcomes hpn hbn).2.2.2 ho (.inl rfl) hroom
    have hspans : ∀ (a : State) l, a.storeSpans w f.sp f.sz l = [] := fun a l => by rw [hsp, State.storeSpans]
    rw [if_neg (by rw [hsp]; decide), hspans] at done
    have base := (reserveStash_spec (k := k) (step := e.wstep) hp).1.trans ((looked_touched _ w []).base w)
    have pends := pends_stash (e := e) (f := f) (pa := pa) (ls := ls) base
      (((looked_touched _ w []).group? w.group).trans (reserveStash_spec (k := k) (step := e.wstep) hp).2.1)
    obtain ⟨htime, hgroup, hothers, hframe⟩ := left_by_stash hp rfl rfl rfl pends
    rw [hafter _ _ base.uid htime] at done
    exact ⟨_, done, hgroup, hothers, hframe⟩

end Sys2Proof.Machine
end

section
/-! OBLIGATION O23. -/

namespace Sys2Proof.Machine

/-! ## Octets -/

theorem partLanes_nodup (w : Thread) (e : Entry) (g : Guard) : (partLanes w e g).Nodup :=
  (partLanes_ascending w e g).imp Nat.ne_of_lt

/-- An octet of lanes has all its eight lanes where it has as many. -/
theorem octetOf_length_iff {ls : List Nat} (hnd : ls.Nodup) (m : Nat) : (octetOf ls m).length = 8 ↔ ∀ j, j < 8 → 8 * m + j ∈ ls := by
  have hmem : ∀ x, x ∈ (octetOf ls m).toFinset ↔ x ∈ ls ∧ x / 8 = m := fun x => by simp [octetOf]
  have hcard : (octetOf ls m).toFinset.card = (octetOf ls m).length := List.toFinset_card_of_nodup (hnd.filter _)
  have hsub : (octetOf ls m).toFinset ⊆ Finset.Ico (8 * m) (8 * m + 8) := fun x hx => by
    obtain ⟨-, hx⟩ := (hmem x).mp hx
    exact Finset.mem_Ico.mpr (by omega)
  rw [← hcard]
  constructor
  · intro h j hj
    have heq := Finset.eq_of_subset_of_card_le hsub (by rw [h, Nat.card_Ico]; omega)
    exact ((hmem _).mp (heq ▸ Finset.mem_Ico.mpr (by omega))).1
  · intro h
    have heq : (octetOf ls m).toFinset = Finset.Ico (8 * m) (8 * m + 8) := Finset.Subset.antisymm hsub fun x hx => by
      have hx := Finset.mem_Ico.mp hx
      have hx8 : 8 * m + (x - 8 * m) = x := by omega
      exact (hmem x).mpr ⟨hx8 ▸ h (x - 8 * m) (by omega), by omega⟩
    rw [heq, Nat.card_Ico]
    omega

/-- The octet is there whole, on one aligned line (07 R136). -/
theorem octetWhole_iff {ls : List Nat} (hnd : ls.Nodup) (addr : Nat → DWord) (m : Nat) : octetWhole ls addr m = true ↔
    (∀ j, j < 8 → 8 * m + j ∈ ls ∧ addr (8 * m + j) = addr (8 * m) + BitVec.ofNat 64 (16 * j)) ∧ (addr (8 * m)).toNat % 128 = 0 := by
  unfold octetWhole
  simp only [Bool.and_eq_true, beq_iff_eq, decide_eq_true_eq, List.all_eq_true, octetOf_length_iff hnd]
  constructor
  · rintro ⟨⟨hin, halign⟩, hline⟩
    refine ⟨fun j hj => ⟨hin j hj, ?_⟩, halign⟩
    have hmem : 8 * m + j ∈ octetOf ls m := by
      simp only [octetOf, List.mem_filter, beq_iff_eq]
      exact ⟨hin j hj, by omega⟩
    have hl := hline _ hmem
    rwa [show 8 * m + j - 8 * m = j by omega] at hl
  · rintro ⟨h, halign⟩
    refine ⟨⟨fun j hj => (h j hj).1, halign⟩, fun l hl => ?_⟩
    simp only [octetOf, List.mem_filter, beq_iff_eq] at hl
    have hl8 : 8 * m + (l - 8 * m) = l := by omega
    have hj := (h (l - 8 * m) (by omega)).2
    rwa [hl8] at hj

/-! ## The lanes of an STL -/

/-- A TWIN_PARTIAL of a wave names the octets of its lanes, and one of an ember its own lanes (07 R136, log 41). -/
theorem octetMask_twin (w : Thread) (a : DWord) (ls : List Nat) (h : ∀ l ∈ ls, l < 128) : octetMask w ⟨.twinPartial, a, maskOf ls⟩ = ⟨.twinPartial, a,
    if w.ember = none then maskOf ((List.range 128).filter fun l => ls.any fun k => k / 8 == l / 8) else maskOf ls⟩ := by
  have hmem : ∀ k, k ∈ lanesOf (maskOf ls) ↔ k ∈ ls := fun k => by
    unfold lanesOf
    rw [List.mem_filter, List.mem_range]
    refine ⟨fun hk => ?_, fun hk => ⟨h k hk, ?_⟩⟩
    · simpa [getLsbD_maskOf _ _ hk.1] using hk.2
    · simpa [getLsbD_maskOf _ _ (h k hk)] using hk
  have hany : ∀ l, ((lanesOf (maskOf ls)).any fun k => k / 8 == l / 8) = ls.any fun k => k / 8 == l / 8 := fun l => by
    rw [Bool.eq_iff_iff, List.any_eq_true, List.any_eq_true]
    simp only [hmem]
  unfold octetMask
  simp only [hany, true_and]
  split <;> rfl

/-- A lane's octet meets a TWIN page and does not write a line whole. -/
def twinFails (w : Thread) (ls : List Nat) (addr : Nat → DWord) (leaf : Nat → DWord) (l : Nat) : Bool :=
  (ls.any fun k => k / 8 == l / 8 && leafTwin (leaf k)) && (w.ember.isSome || !octetWhole ls addr (l / 8))

section
variable {s : State} {w : Thread} {ls : List Nat} {addr : Nat → DWord} {pa : Nat → Nat} {leaf : Nat → DWord}

theorem globalLane_b128 {a : DWord} {x : Nat × DWord} (ha : a.toNat % 16 = 0) (h : s.access w.mmu w.ctx a .write = .ok x) :
    s.globalLane w .b128 a .write = .ok x := by
  have hm : misaligned .b128 a = false := misaligned_eq_false fun _ => ha
  rw [globalLane_eq hm, show byteAddr .b128 a = a from rfl, h]

/-- Each lane of an STL whose pages may be written: TWIN_PARTIAL where its octet fails, else its place. -/
theorem stlLanes_eq (hl : ∀ l ∈ ls, (addr l).toNat % 16 = 0 ∧ s.access w.mmu w.ctx (addr l) .write = .ok (pa l, leaf l)) :
    s.stlLanes w ls addr = ls.map fun l =>
      (l, if twinFails w ls addr leaf l = true then .error ⟨.twinPartial, addr l, addr l⟩ else .ok (pa l, leaf l)) := by
  have hlane := fun l h => globalLane_b128 (s := s) (w := w) (hl l h).1 (hl l h).2
  unfold State.stlLanes
  rw [List.map_map]
  refine List.map_congr_left fun l h => ?_
  have hany : ((ls.map fun l => (l, s.globalLane w .b128 (addr l) .write)).any fun y => y.1 / 8 == l / 8 && onTwin y)
      = ls.any fun k => k / 8 == l / 8 && leafTwin (leaf k) := by
    rw [List.any_map, Bool.eq_iff_iff, List.any_eq_true, List.any_eq_true]
    refine exists_congr fun k => and_congr_right fun hk => ?_
    simp only [Function.comp_apply, onTwin, hlane k hk]
  have hfails : ((ls.any fun k => k / 8 == l / 8 && leafTwin (leaf k)) && (w.ember.isSome || !octetWhole ls addr (l / 8)))
      = twinFails w ls addr leaf l := rfl
  simp only [Function.comp_apply, hany, hlane l h, hfails]
  cases twinFails w ls addr leaf l <;> rfl
end

section
variable {s : State} {t : Nat} {w : Thread} {e : Entry} {c : Clause} {rule : Rule} {g : Guard} {a : StBase} {b : Off} {v : VReg} {gr : Grid}
variable (h : Issues s (.stl rule g a b v) t w e c)
include h

theorem stl_goes {ls : List Nat} (hls : partLanes w e g = ls) {addr : Nat → DWord}
    (haddr : (fun l => a.value w l + BitVec.ofNat 64 (b.value w l)) = addr) (hw : ∀ l ∈ ls, s.walkReached w.mmu w.ctx (addr l) = true) :
    exec (.stl rule g a b v) s = match firstCause (laneErrs (s.stlLanes w ls addr)) with
    | some (tr, l) => .next (s.trapAt t w c (octetMask w tr) l)
    | none =>
      let ok := (laneOks (s.stlLanes w ls addr)).map fun x => (x.1, addr x.1, x.2)
      let twin := (ok.filter fun x => leafTwin x.2.2.2).length / 8
      let cell := (ok.filter fun x => !leafTwin x.2.2.2).length
      let r := s.anyRecords w rule ls.length
      let det := match s.grid? w.grid with
        | some g => g.pkt.det
        | none => false
      if r ≠ 0 ∧ s.ringOpen w.die .resolution = false then .next (s.stallHere t w)
      else match s.reserveTrap w (2 * cell + twin) r (addr (ls.headD 0)) (maskOf ls) with
      | some tr => .next (s.trapHere t w c tr)
      | none =>
        let s := s.touched w (ok.map fun x => (x.2.1.toNat, 16))
        .next (((s.reserveGlobal w e.gstep (2 * cell + twin) r).performStl w e rule v det ok).retire t w e) := by
  have hx : exec (.stl rule g a b v) s = _ := (issue_next h _ : execStl rule g a b v s = _)
  rw [lanesOf_active, hls] at hx
  subst haddr
  refine hx.trans (if_neg ?_)
  rw [List.all_eq_true.mpr hw]
  exact Bool.false_ne_true

variable {ls : List Nat} (hls : partLanes w e g = ls) {addr : Nat → DWord}
variable (haddr : (fun l => a.value w l + BitVec.ofNat 64 (b.value w l)) = addr) {pa : Nat → Nat} {leaf : Nat → DWord}
variable (hl : ∀ l ∈ ls, (addr l).toNat % 16 = 0 ∧ s.walkReached w.mmu w.ctx (addr l) = true
  ∧ s.access w.mmu w.ctx (addr l) .write = .ok (pa l, leaf l))
include hls haddr hl

/-- The octets that fail trap (07 R136). -/
theorem stl_traps {low : Nat} (hlow : (ls.filter (twinFails w ls addr leaf)).head? = some low) :
    Traps s (.stl rule g a b v) t w c (octetMask w ⟨.twinPartial, addr low, maskOf (ls.filter (twinFails w ls addr leaf))⟩) := by
  have hx := stl_goes h hls haddr fun l hm => (hl l hm).2.1
  rw [stlLanes_eq fun l hm => ⟨(hl l hm).1, (hl l hm).2.2⟩, firstCause_lanes (k := .twinPartial) (va := addr) (addr := addr) (ls := ls)
    (P := twinFails w ls addr leaf) (fun l _ hP => if_pos hP) (fun l _ hP x hx => by rw [hP] at hx; cases hx) hlow] at hx
  refine traps_of_trapAt ?_ hx
  unfold octetMask
  split <;> exact Cause.noConfusion

variable (hgr : s.grid? w.grid = some gr) (hok : ∀ l ∈ ls, twinFails w ls addr leaf l = false) {n k : Nat}
variable (hn : 2 * (ls.filter fun l => !leafTwin (leaf l)).length + (ls.filter fun l => leafTwin (leaf l)).length / 8 = n)
variable (hk : (if rule = .any ∧ gr.pkt.det = false ∧ s.recording w.ctx = true then ls.length else 0) = k)
include hgr hok hn hk

/-- Where none fails the STL leaves its writes, if its reservations can be made. -/
theorem stl_performs (hfit : n = 0 ∨ n ≤ s.logFree w.ctx) (hroom : k = 0 ∨ s.ringOpen w.die .resolution = true ∧ s.ringFull w.die (32 * k) = false) :
    Performs s (.stl rule g a b v) (((s.touched w (ls.map fun l => ((addr l).toNat, 16))).reserveGlobal w e.gstep n k).performStl w e rule v
      gr.pkt.det (ls.map fun l => (l, addr l, pa l, leaf l))) t w e id := by
  have hx := stl_goes h hls haddr fun l hm => (hl l hm).2.1
  have hlanes : s.stlLanes w ls addr = ls.map fun l => (l, (Except.ok (pa l, leaf l) : Except LaneErr (Nat × DWord))) := by
    rw [stlLanes_eq fun l hm => ⟨(hl l hm).1, (hl l hm).2.2⟩]
    exact List.map_congr_left fun l hm => by rw [hok l hm]; rfl
  have hopen : ¬ (k ≠ 0 ∧ s.ringOpen w.die .resolution = false) := by
    rintro ⟨h0, hc⟩
    rcases hroom with h1 | h1
    · exact h0 h1
    · exact Bool.false_ne_true (hc.symm.trans h1.1)
  have hrecs : s.anyRecords w rule ls.length = k := (anyRecords_eq hgr _ _).trans hk
  have herrs : laneErrs (ls.map fun l => (l, (Except.ok (pa l, leaf l) : Except LaneErr (Nat × DWord)))) = [] :=
    laneErrs_of_ok fun l _ => ⟨_, rfl⟩
  have hoks : laneOks (ls.map fun l => (l, (Except.ok (pa l, leaf l) : Except LaneErr (Nat × DWord)))) = ls.map fun l => (l, pa l, leaf l) :=
    laneOks_of_ok fun l _ => rfl
  rw [hlanes, herrs, hoks] at hx
  simp only [firstCause, List.map_map, List.filter_map, Function.comp_def, List.length_map, hrecs, hgr, hn, hopen, if_false,
    reserveTrap_none hfit (hroom.imp_right And.right)] at hx
  exact performs_retire h rfl rfl hx
end

/-! ## The writes of an STL -/

section
variable {s s2 : State} {w : Thread} {e : Entry} {rule : Rule} {v : VReg} {gr gr2 : Grid} {ls : List Nat} {addr : Nat → DWord}
variable {pa : Nat → Nat} {leaf : Nat → DWord} {det : Bool}

/-- The line that the octet from lane l on writes (07 R136). -/
def lineWrite (s : State) (w : Thread) (e : Entry) (rule : Rule) (v : VReg) (l : Nat) (a : DWord) : TWrite :=
  { grid := w.grid, step := e.gstep, va := a.toNat
    data := (List.range 8).flatMap fun j => storeBytes w .b128 v (l + j)
    rule := rule, w := ⟨s.gkey w l, 0, 0⟩, die := w.die }

/-- On CELL pages each lane leaves a write of 16 bytes (07 R136). -/
theorem performStl_cells (hbase : SameBase s s2 w) (hg : s2.grid? w.grid = some gr2) (hcell : ∀ l ∈ ls, leafTwin (leaf l) = false) :
    PendsGrid s2 (s2.performStl w e rule v det (ls.map fun l => (l, addr l, pa l, leaf l))) w.grid gr2
      (numbered (fun l n => laneWrite s w e.gstep .b128 rule false v none l (addr l) (pa l) n (s.strictAt w (leaf l))) s.uid ls)
      ls.length := by
  rw [← hbase.uid, State.performStl, List.foldl_map]
  have run := PendsGrid.foldl (s := s2) ls
    (step := fun a l => if leafTwin (leaf l) = true then (if l % 8 = 0 then a.twinWrite (pa l) det (lineWrite a w e rule v l (addr l)) else a)
      else { a with uid := a.uid + 1 }.modGrid w.grid fun g => { g with pend := g.pend ++ [laneWrite a w e.gstep .b128 rule false v
        none l (addr l) (pa l) a.uid (a.strictAt w (leaf l))] })
    (mk := fun l n => laneWrite s w e.gstep .b128 rule false v none l (addr l) (pa l) n (s.strictAt w (leaf l))) ?_ (PendsGrid.refl hg)
  · rw [Nat.zero_add] at run
    exact run
  · intro a ws n l hl ha
    have hkey : ∀ l, a.gkey w l = s.gkey w l := fun l => (ha.gkey hg w l).trans (hbase.gkey l)
    simp only [hcell l hl, Bool.false_eq_true, if_false, laneWrite_congr hkey, (ha.strictAt w _).trans (hbase.strictAt _), ha.uid]

/-- Of an octet that writes a TWIN line whole the lowest lane writes it. -/
theorem performStl_line {m : Nat} (hls : ls = (List.range 8).map (8 * m + ·)) (htwin : ∀ l ∈ ls, leafTwin (leaf l) = true) :
    s2.performStl w e rule v det (ls.map fun l => (l, addr l, pa l, leaf l)) = s2.twinWrite (pa (8 * m)) det (lineWrite s2 w e rule v (8 * m) (addr (8 * m))) := by
  have later : ∀ (l : List Nat) (a : State), (∀ k ∈ l, leafTwin (leaf k) = true ∧ k % 8 ≠ 0) →
      a.performStl w e rule v det (l.map fun l => (l, addr l, pa l, leaf l)) = a := by
    intro l
    induction l with
    | nil => exact fun a _ => rfl
    | cons k r ih =>
      intro a hk
      obtain ⟨ht, h8⟩ := hk k (by simp)
      rw [List.map_cons, State.performStl, List.foldl_cons]
      simp only [ht, if_true, h8, if_false]
      exact ih a fun k' hk' => hk k' (List.mem_cons_of_mem _ hk')
  have hcons : ls = 8 * m :: (List.range 7).map (8 * m + 1 + ·) := by
    rw [hls, List.range_succ_eq_map, List.map_cons, List.map_map]
    refine congrArg₂ List.cons (by omega) (List.map_congr_left fun j _ => ?_)
    simp only [Function.comp_apply]
    omega
  rw [hcons] at htwin ⊢
  rw [List.map_cons, State.performStl, List.foldl_cons]
  simp only [htwin (8 * m) (by simp), if_true, Nat.mul_mod_right]
  refine later _ _ fun k hk => ⟨htwin k (List.mem_cons_of_mem _ hk), ?_⟩
  obtain ⟨j, hj, rfl⟩ := List.mem_map.mp hk
  have := List.mem_range.mp hj
  omega
end

/-- Settles O23: on CELL pages the lanes' writes are pending, a whole octet writes its TWIN line, and any other octet that meets a TWIN
page traps. -/
theorem lineStores : Obligations.LineStores := by
  unfold Obligations.LineStores
  intro s t w e c rule g a b v gr pa leaf i ls f base hi hgr hl k
  have look := looked_touched s w (ls.map fun l => ((f.addr w l).toNat, 16))
  have hg' : base.grid? w.grid = some gr := (look.grid? _).trans hgr
  have hnd := partLanes_nodup w e g
  refine ⟨?_, ?_, ?_⟩
  · intro hcell hfit hroom
    have hfails : ∀ l ∈ ls, twinFails w ls (f.addr w) leaf l = false := fun l _ => by
      have : (ls.any fun k => k / 8 == l / 8 && leafTwin (leaf k)) = false := List.any_eq_false.mpr fun k hk => by simp [hcell k hk]
      rw [twinFails, this, Bool.false_and]
    have hn : 2 * (ls.filter fun l => !leafTwin (leaf l)).length + (ls.filter fun l => leafTwin (leaf l)).length / 8 = 2 * ls.length := by
      rw [List.filter_eq_self.mpr fun l h => by rw [hcell l h]; rfl, List.filter_eq_nil_iff.mpr fun l h => by rw [hcell l h]; decide]
      rfl
    have hzero : 2 * ls.length = 0 ↔ ls = [] := by rw [Nat.mul_eq_zero, List.length_eq_zero_iff]; simp
    have done := stl_performs hi rfl (addr := f.addr w) rfl hl hgr hfails hn rfl (hfit.imp_left hzero.mpr) hroom
    obtain ⟨res, hgrid, hothers, hframe⟩ := reserveGlobal_spec (n := 2 * ls.length) (k := k) (step := e.gstep) hg'
    have cells := performStl_cells (e := e) (rule := rule) (v := v) (det := gr.pkt.det) (addr := f.addr w) (pa := pa)
      ((look.base w).trans res) hgrid hcell
    refine ⟨_, done, cells.grid.trans ?_, fun hk => ?_⟩
    · simp only [Grid.reserve, hzero]
      rfl
    · rw [cells.rest, hframe hk]
      obtain ⟨x, d, y, hrest⟩ := look.rest
      simp only [base, hrest]
  · intro m hls hember halign hline hfree hk
    have hmem : ∀ l ∈ ls, l / 8 = m ∧ leafTwin (leaf l) = true := fun l h => by
      rw [hls] at h
      obtain ⟨j, hj, rfl⟩ := List.mem_map.mp h
      have hj := List.mem_range.mp hj
      exact ⟨by omega, (hline j hj).2⟩
    have hwhole : octetWhole ls (f.addr w) m = true := (octetWhole_iff hnd _ m).mpr
      ⟨fun j hj => ⟨show _ ∈ ls from hls ▸ List.mem_map.mpr ⟨j, List.mem_range.mpr hj, rfl⟩, (hline j hj).1⟩, halign⟩
    have hfails : ∀ l ∈ ls, twinFails w ls (f.addr w) leaf l = false := fun l h => by
      rw [twinFails, (hmem l h).1, hwhole, hember]
      simp
    have hn : 2 * (ls.filter fun l => !leafTwin (leaf l)).length + (ls.filter fun l => leafTwin (leaf l)).length / 8 = 1 := by
      rw [List.filter_eq_nil_iff.mpr fun l h => by rw [(hmem l h).2]; decide, List.filter_eq_self.mpr fun l h => (hmem l h).2, hls]
      simp
    have done : Performs s i ((base.reserveGlobal w e.gstep 1 k).performStl w e rule v gr.pkt.det (ls.map fun l => (l, f.addr w l, pa l, leaf l)))
      t w e id := stl_performs hi rfl rfl hl hgr hfails hn rfl (.inr hfree) (.inl hk)
    have hres : base.reserveGlobal w e.gstep 1 k = base.setGrid w.grid { gr with logRes := gr.logRes ++ [(e.gstep, 1)] } := by
      obtain ⟨s0, -, hs0, heq⟩ := reserveGlobal_eq (n := 1) (k := k) (step := e.gstep) hg'
      rw [heq, hs0 hk, Grid.reserve, if_pos hk, if_neg (by decide)]
    have hkey := ((look.base w).trans (reserveGlobal_spec (n := 1) (k := k) (step := e.gstep) hg').1).gkey (8 * m)
    rw [performStl_line hls fun l h => (hmem l h).2, lineWrite, hkey, hres] at done
    exact done
  · intro whole fails low lanes hlow hfail hfirst hlanes
    have hfails : ∀ l, twinFails w ls (f.addr w) leaf l = true ↔ fails l := fun l => by
      have hw : octetWhole ls (f.addr w) (l / 8) = true ↔ whole (l / 8) := octetWhole_iff hnd _ _
      rw [twinFails, Bool.and_eq_true, Bool.or_eq_true, List.any_eq_true, Bool.not_eq_true', ← Bool.not_eq_true, hw]
      simp only [Bool.and_eq_true, beq_iff_eq, fails]
    have hhead : (ls.filter (twinFails w ls (f.addr w) leaf)).head? = some low := by
      have hsorted : (ls.filter (twinFails w ls (f.addr w) leaf)).Pairwise (· < ·) := (partLanes_ascending w e g).filter _
      have hin := List.mem_filter.mpr ⟨hlow, (hfails low).mpr hfail⟩
      cases hlist : ls.filter (twinFails w ls (f.addr w) leaf) with
      | nil => rw [hlist] at hin; exact absurd hin List.not_mem_nil
      | cons x r =>
        rw [hlist] at hin hsorted
        have hx := List.mem_filter.mp (hlist ▸ List.mem_cons_self : x ∈ ls.filter (twinFails w ls (f.addr w) leaf))
        have hle := hfirst x hx.1 ((hfails x).mp hx.2)
        rcases List.mem_cons.mp hin with rfl | hr
        · rfl
        · have := List.rel_of_pairwise_cons hsorted hr
          omega
    have hmask : octetMask w ⟨.twinPartial, f.addr w low, maskOf (ls.filter (twinFails w ls (f.addr w) leaf))⟩
        = ⟨.twinPartial, f.addr w low, lanes⟩ := by
      have hin : ∀ k, k ∈ ls.filter (twinFails w ls (f.addr w) leaf) ↔ k ∈ ls ∧ fails k := fun k => by rw [List.mem_filter, hfails k]
      refine (octetMask_twin w _ _ fun l hl => (mem_partLanes.mp (List.mem_filter.mp hl).1).1).trans (congrArg (TrapInfo.mk _ _) (BitVec.eq_of_getLsbD_eq fun l h => ?_))
      rw [Bool.eq_iff_iff, hlanes l h]
      split
      · rename_i hnone
        rw [getLsbD_maskOf _ _ h, decide_eq_true_iff, List.mem_filter, List.any_eq_true]
        simp only [List.mem_range, h, true_and, hnone, true_or, beq_iff_eq]
        exact exists_congr fun k => (and_congr_left' (hin k)).trans and_assoc
      · rename_i hember
        rw [getLsbD_maskOf _ _ h, decide_eq_true_iff, hin]
        refine ⟨fun hl => ⟨.inr hl.1, l, hl.1, hl.2, rfl⟩, fun hl => ?_⟩
        obtain ⟨hl1, k, -, ⟨hk, hk2⟩, hkl⟩ := hl
        refine ⟨hl1.resolve_left hember, ?_⟩
        show (∃ k ∈ ls, k / 8 = l / 8 ∧ _) ∧ _
        rw [← hkl]
        exact ⟨hk, hk2⟩
    have done : Traps s i t w c (octetMask w ⟨.twinPartial, f.addr w low, maskOf (ls.filter (twinFails w ls (f.addr w) leaf))⟩) :=
      stl_traps hi rfl rfl hl hhead
    rw [hmask] at done
    exact done

end Sys2Proof.Machine
end

section
/-! SUPPORT (07 R129, 13 R280, R281). Private lines where no word is lost and no link of a dirty granule is down: what a store does to them. -/

namespace Sys2Proof.Machine

/-- No word of memory or of a line is lost, and every dirty granule can be written back. -/
structure Sound (s : State) : Prop where
  badMem : s.badMem = []
  badL3 : s.badL3 = []
  whole : s.writesWhole

/-- A line of an L1 that has lost no word and can be written back. -/
def LineSound (s : State) (l : L1Line) : Prop := l.bad = [] ∧ ∀ d ∈ l.dirty, s.linkDown d.pa = false

theorem mem_aset {α : Type} {l : List (Nat × α)} {k : Nat} {v : α} {x : Nat × α} (h : x ∈ aset l k v) : x = (k, v) ∨ x ∈ l := by
  induction l with
  | nil => exact .inl (List.mem_singleton.mp h)
  | cons y r ih =>
    obtain ⟨i, z⟩ := y
    unfold aset at h
    split at h
    · rcases List.mem_cons.mp h with h | h
      · exact .inl h
      · exact .inr (List.mem_cons_of_mem _ h)
    · split at h
      · rcases List.mem_cons.mp h with h | h
        · exact .inl h
        · exact .inr h
      · rcases List.mem_cons.mp h with rfl | h
        · exact .inr List.mem_cons_self
        · exact (ih h).imp_right (List.mem_cons_of_mem _)

theorem mem_of_aget {α : Type} {l : List (Nat × α)} {k : Nat} {v : α} (h : aget? l k = some v) : (k, v) ∈ l := by
  induction l with
  | nil => cases h
  | cons y r ih =>
    unfold aget? at h
    split at h
    · next hk => cases h; rw [hk]; exact List.mem_cons_self
    · exact List.mem_cons_of_mem _ (ih h)

theorem linkDown_congr (s : State) {x y : Nat} (h : x / 128 = y / 128) : s.linkDown x = s.linkDown y := by
  have : cxlPortOf x = cxlPortOf y := by
    have hd : x / 2 ^ 45 = y / 2 ^ 45 := by omega
    have hlo : 2 ^ 45 ≤ x ↔ 2 ^ 45 ≤ y := by omega
    have hhi : x < 9 * 2 ^ 45 ↔ y < 9 * 2 ^ 45 := by omega
    simp only [cxlPortOf, hd, hlo, hhi]
  simp only [State.linkDown, this]

theorem l1At_setL1 (s : State) (p : Nat) (ls : List L1Line) : (s.setL1 p ls).caches.l1At p = ls := by
  simp [State.setL1, Caches.l1At]

namespace Sound
variable {s : State} (h : Sound s)
include h

theorem line {p : Nat} {l : L1Line} (hl : l ∈ s.caches.l1At p) : LineSound s l := by
  unfold Caches.l1At at hl
  cases hp : aget? s.caches.l1 p with
  | none => rw [hp] at hl; cases hl
  | some ls =>
    rw [hp] at hl
    exact h.whole _ (mem_of_aget hp) l hl

theorem setL1 {p : Nat} {ls : List L1Line} (hls : ∀ l ∈ ls, LineSound s l) : Sound (s.setL1 p ls) := by
  refine ⟨h.badMem, h.badL3, fun x hx l hl => ?_⟩
  rcases mem_aset hx with rfl | hx
  · exact hls l hl
  · exact h.whole x hx l hl

theorem wordLost {a : Nat} (ha : s.linkDown a = false) : s.wordLost a = none := by
  simp [State.wordLost, h.badMem, h.badL3, ha]

theorem freshWords (pa n : Nat) : s.freshWords pa n = s := by
  unfold State.freshWords
  rw [h.badMem, h.badL3]
  conv => rhs; rw [show s = { s with badMem := [], badL3 := [] } by rw [← h.badMem, ← h.badL3]]
  rfl

theorem writeBack (die : Nat) {d : Dirty} (hd : s.linkDown d.pa = false) : s.writeBack die [] d = s := by
  have hlost : ((wordsIn d.pa 16).filter fun a => ([] : List Nat).contains (a / 8)) = [] := List.filter_eq_nil_iff.mpr fun a _ => by simp
  simp only [State.writeBack, hd, Bool.false_eq_true, if_false, hlost, List.foldl_nil, List.isEmpty_nil, if_true, h.freshWords]

theorem cleanLine (p : Nat) {l : L1Line} (hl : LineSound s l) (mine : Dirty → Bool) : (s.cleanLine p l mine).1 = s := by
  unfold State.cleanLine
  rw [hl.1]
  have : ∀ ds : List Dirty, (∀ d ∈ ds, s.linkDown d.pa = false) → ds.foldl (fun s d => s.writeBack (p % 16) [] d) s = s := fun ds hds => by
    induction ds with
    | nil => rfl
    | cons d r ih => rw [List.foldl_cons, h.writeBack _ (hds d (by simp)), ih fun x hx => hds x (List.mem_cons_of_mem _ hx)]
  exact this _ fun d hd => hl.2 d (List.mem_filter.mp hd).1

/-- A line that gives way leaves memory as it is. -/
theorem putL1 (p : Nat) {l : L1Line} (hl : LineSound s l) : s.putL1 p l = s.setL1 p ((l :: s.caches.l1At p).take 512) := by
  have hall : ∀ x ∈ l :: s.caches.l1At p, LineSound s x := fun x hx => by
    rcases List.mem_cons.mp hx with rfl | hx
    · exact hl
    · exact h.line hx
  have hs : Sound (s.setL1 p ((l :: s.caches.l1At p).take 512)) := h.setL1 fun x hx => hall x (List.mem_of_mem_take hx)
  unfold State.putL1
  have : ∀ ls : List L1Line, (∀ x ∈ ls, LineSound s x) → ls.foldl (fun s x => (s.cleanLine p x fun _ => true).1)
      (s.setL1 p ((l :: s.caches.l1At p).take 512)) = s.setL1 p ((l :: s.caches.l1At p).take 512) := fun ls hx => by
    induction ls with
    | nil => rfl
    | cons x r ih =>
      rw [List.foldl_cons, hs.cleanLine p (l := x) (hx x (by simp)), ih fun y hy => hx y (List.mem_cons_of_mem _ hy)]
  exact this _ fun x hx => hall x (List.mem_of_mem_drop hx)

theorem setL3 (f : Nat) (ls : List Nat) : Sound (s.setL3 f ls) := ⟨h.badMem, h.badL3, h.whole⟩

theorem useL3 (u : LineUse) : Sound (s.useL3 u) ∧ ∃ x, s.useL3 u = { s with caches := { s.caches with l3 := x } } := by
  simp only [State.useL3]
  split
  · exact ⟨h.setL3 _ _, _, rfl⟩
  · split
    · exact ⟨h.setL3 _ _, _, rfl⟩
    · exact ⟨h, _, rfl⟩

theorem lineWhole {u : LineUse} (hu : s.linkDown u.pa = false) : s.lineWhole u = true := by
  have : s.rangeLost (128 * u.line) 128 = none := by
    refine List.findSome?_eq_none_iff.mpr fun a ha => h.wordLost ?_
    unfold wordsIn at ha
    obtain ⟨i, hi, rfl⟩ := List.mem_map.mp ha
    have hi := List.mem_range.mp hi
    refine (linkDown_congr s ?_).trans hu
    unfold LineUse.line at hi ⊢
    omega
  rw [State.lineWhole, this]
  rfl

theorem l1Line {u : LineUse} {l : L1Line} (hl : s.l1Line? u = some l) : LineSound s l ∧ l.line = u.line ∧ l.priv = u.priv := by
  unfold State.l1Line? at hl
  split at hl
  · have hp := List.find?_some hl
    simp only [L1Line.is, Bool.and_eq_true, beq_iff_eq] at hp
    exact ⟨h.line (List.mem_of_find?_eq_some hl), hp⟩
  · cases hl

theorem l1Hit (u : LineUse) : s.l1Hit u = s.l1Line? u := by
  unfold State.l1Hit
  cases hl : s.l1Line? u with
  | none => rfl
  | some l =>
    have : l.spoilt u = false := by simp [L1Line.spoilt, LineUse.meets, (h.l1Line hl).1.1]
    rw [Option.filter_some, this]
    rfl

theorem dropSpoilt (die c : Nat) (step : Word) (key : Nat) {u : LineUse} (hu : u.l2 = none) :
    (s.dropSpoiltL1 die c step key u).dropSpoiltL2 die c step key u = s := by
  have h1 : s.dropSpoiltL1 die c step key u = s := by
    unfold State.dropSpoiltL1
    cases hl : s.l1Line? u with
    | none => rfl
    | some l =>
      have : l.spoilt u = false := by simp [L1Line.spoilt, LineUse.meets, (h.l1Line hl).1.1]
      rw [Option.filter_some, this]
      rfl
  rw [h1, State.dropSpoiltL2, State.l2Line?, hu]
  simp

theorem useLine_priv_eq (die : Nat) (w : Thread) (ctx : Nat) (step : Word) (key : Nat) (va : DWord) {pa : Nat} (leaf : DWord) (n : Nat)
    (hu : s.linkDown pa = false) : s.useLine die ctx step key (privUse w true va pa leaf n) = match s.l1Line? (privUse w true va pa leaf n) with
      | some l => s.firstL1 (privUse w true va pa leaf n) l
      | none => (s.useL3 (privUse w true va pa leaf n)).allocL1 (privUse w true va pa leaf n) := by
  have hw : s.lineWhole (privUse w true va pa leaf n) = true := h.lineWhole hu
  simp only [State.useLine, h.dropSpoilt die ctx step key (u := privUse w true va pa leaf n) rfl, h.l1Hit, hw, Bool.or_true]
  rfl

/-- An access to a lane's own space takes its line to the front of its L1, and changes nothing but caches. -/
theorem useLine_priv (die : Nat) (w : Thread) (ctx : Nat) (step : Word) (key : Nat) (va : DWord) {pa : Nat} (leaf : DWord) (n : Nat)
    (hu : s.linkDown pa = false) : ∃ c l r, s.useLine die ctx step key (privUse w true va pa leaf n) = { s with caches := c }
      ∧ Sound { s with caches := c } ∧ c.l1At w.mmu = l :: r ∧ LineSound s l ∧ l.line = pa / 128 ∧ l.priv = true := by
  rw [h.useLine_priv_eq die w ctx step key va leaf n hu]
  cases hl : s.l1Line? (privUse w true va pa leaf n) with
  | some l =>
    obtain ⟨hs, hline, hpriv⟩ := h.l1Line hl
    refine ⟨_, l, _, rfl, h.setL1 fun x hx => ?_, l1At_setL1 s _ _, hs, hline, hpriv⟩
    · rcases List.mem_cons.mp hx with rfl | hx
      · exact hs
      · exact h.line (List.mem_filter.mp hx).1
  | none =>
    obtain ⟨hs, x, hx⟩ := h.useL3 (privUse w true va pa leaf n)
    have hnew : LineSound s ⟨pa / 128, true, [], [], []⟩ := ⟨rfl, fun d hd => absurd hd List.not_mem_nil⟩
    have hput : (s.useL3 (privUse w true va pa leaf n)).allocL1 (privUse w true va pa leaf n) = _ :=
      hs.putL1 w.mmu (l := ⟨pa / 128, true, [], [], []⟩) ⟨rfl, fun d hd => absurd hd List.not_mem_nil⟩
    rw [hx] at hput hs
    simp only [hx]
    rw [hput]
    refine ⟨_, ⟨pa / 128, true, [], [], []⟩, _, rfl, ?_, l1At_setL1 _ _ _, hnew, rfl, rfl⟩
    · exact Sound.setL1 (s := { s with caches := { s.caches with l3 := x } }) ⟨h.badMem, h.badL3, h.whole⟩ fun y hy => by
        rcases List.mem_cons.mp (List.mem_of_mem_take hy) with rfl | hy
        · exact hnew
        · exact h.line hy

/-- A store into the first line of an L1 leaves the granule dirty and its bytes in memory. -/
theorem dirtyLine (w : Thread) (step : Word) (key : Nat) (va : DWord) {pa : Nat} (leaf : DWord) {l : L1Line} {bs : List Byte}
    (hu : s.linkDown pa = false) (hl : LineSound s l) : ∃ c d r, s.dirtyLine w step key (privUse w true va pa leaf bs.length) l bs
        = { s with caches := c }.writeBytes pa bs ∧ Sound { s with caches := c }
      ∧ c.l1At w.mmu = { l with dirty := l.dirty.filter (fun x => x.pa != pa / 16 * 16) ++ [d], bad := [] } :: r
      ∧ d.pa = pa / 16 * 16 ∧ d.grid = w.grid ∧ d.key = key := by
  have hlost : ((wordsIn pa bs.length).filter fun a => ([] : List Nat).contains (a / 8)) = [] := List.filter_eq_nil_iff.mpr fun a _ => by simp
  have hd : s.linkDown (pa / 16 * 16) = false := (linkDown_congr s (by omega)).trans hu
  simp only [State.dirtyLine, show (privUse w true va pa leaf bs.length).pa = pa from rfl, hl.1, List.filter_nil,
    show (privUse w true va pa leaf bs.length).n = bs.length from rfl, hlost, List.foldl_nil]
  refine ⟨_, _, _, rfl, h.setL1 fun x hx => ?_, l1At_setL1 s _ _, rfl, rfl, rfl⟩
  · rcases List.mem_cons.mp hx with rfl | hx
    · refine ⟨rfl, fun y hy => ?_⟩
      rcases List.mem_append.mp hy with hy | hy
      · exact hl.2 y (List.mem_filter.mp hy).1
      · rw [List.mem_singleton.mp hy]; exact hd
    · exact h.line (List.mem_filter.mp hx).1

end Sound

/-! ## Stores to a lane's own space -/

/-- Memory and caches may differ, and nothing else. -/
def OnlyMemory (s s' : State) : Prop := ∃ m c, s' = { s with mem := m, caches := c }

theorem OnlyMemory.trans {a b c : State} (h : OnlyMemory a b) (k : OnlyMemory b c) : OnlyMemory a c := by
  obtain ⟨m, x, rfl⟩ := h
  obtain ⟨m', x', rfl⟩ := k
  exact ⟨m', x', rfl⟩

theorem OnlyMemory.linkDown {s s' : State} (h : OnlyMemory s s') (x : Nat) : s'.linkDown x = s.linkDown x := by
  obtain ⟨m, c, rfl⟩ := h; rfl

theorem OnlyMemory.holdsMemory {s s' : State} (h : OnlyMemory s s') (x : Nat) : s'.holdsMemory x = s.holdsMemory x := by
  obtain ⟨m, c, rfl⟩ := h; rfl

/-- The first line of a thread's L1 is the lane's own of the address, with the lane's granule dirty (13 R281). -/
def FirstDirty (s : State) (w : Thread) (key a : Nat) : Prop :=
  ∃ x r, s.caches.l1At w.mmu = x :: r ∧ x.priv = true ∧ x.line = a / 128
    ∧ ∃ d ∈ x.dirty, d.pa = a / 16 * 16 ∧ d.grid = w.grid ∧ d.key = key

/-- A store of bytes to a lane's own space has been carried out. -/
structure PutPrivate (s s' : State) (w : Thread) (key pa : Nat) (bs : List Byte) : Prop where
  sound : Sound s'
  only : OnlyMemory s s'
  first : FirstDirty s' w key (pa + bs.length - 1)
  read : ∀ k, s'.readByte k = if pa ≤ k ∧ k < pa + bs.length ∧ s.holdsMemory k = true then bs.getD (k - pa) 0#8 else s.readByte k

section
variable {s : State} (h : Sound s) (w : Thread) (step : Word) (key : Nat) (va : DWord) {pa : Nat} {bs : List Byte}
include h

theorem storeGranule_put (leaf : DWord) (hu : s.linkDown pa = false) (hin : pa / 16 = (pa + bs.length - 1) / 16) :
    PutPrivate s (s.storeGranule w step key va pa leaf bs) w key pa bs := by
  obtain ⟨c, l, r, huse, hs, hfirst, hl, hline, hpriv⟩ := h.useLine_priv w.die w w.ctx step key va leaf bs.length hu
  have hfind : State.l1Line? { s with caches := c } (privUse w true va pa leaf bs.length) = some l := by
    have his : l.is (pa / 128) true = true := by simp [L1Line.is, hline, hpriv]
    show List.find? (fun l => l.is (pa / 128) true) (c.l1At w.mmu) = some l
    rw [hfirst]
    exact List.find?_cons_of_pos (p := fun l : L1Line => l.is (pa / 128) true) his
  obtain ⟨c', d, r', hdirty, hs', hfirst', hd⟩ := hs.dirtyLine w step key va (bs := bs) leaf hu hl
  have hgo : s.storeGranule w step key va pa leaf bs = State.writeBytes { s with caches := c' } pa bs := by
    simp only [State.storeGranule, huse, hfind]
    exact hdirty
  obtain ⟨m, hm⟩ := writeBytes_rest bs { s with caches := c' } pa
  have hmod : (pa + bs.length - 1) / 128 = pa / 128 := by omega
  refine ⟨?_, ?_, ?_, fun k => ?_⟩
  · rw [hgo, hm]
    exact ⟨hs'.badMem, hs'.badL3, hs'.whole⟩
  · exact ⟨m, c', hgo.trans hm⟩
  · rw [hgo, hm]
    exact ⟨_, r', hfirst', hpriv, hline.trans hmod.symm, d, by simp, hin ▸ hd⟩
  · rw [hgo, read_after_writeBytes]
    rfl

omit h in
/-- Two stores, one behind the other. -/
theorem PutPrivate.append {a b : State} {bs' : List Byte} (ha : PutPrivate s a w key pa bs) (hb : PutPrivate a b w key (pa + bs.length) bs')
    (hlen : 0 < bs'.length) : PutPrivate s b w key pa (bs ++ bs') := by
  refine ⟨hb.sound, ha.only.trans hb.only, ?_, fun k => ?_⟩
  · rw [List.length_append, ← Nat.add_assoc]
    exact hb.first
  · rw [hb.read, ha.read, ha.only.holdsMemory, List.length_append]
    by_cases hk : k < pa + bs.length
    · have hout : ¬ (pa + bs.length ≤ k ∧ k < pa + bs.length + bs'.length ∧ s.holdsMemory k = true) := fun h => by omega
      have hin : (pa ≤ k ∧ k < pa + (bs.length + bs'.length) ∧ s.holdsMemory k = true) ↔ pa ≤ k ∧ k < pa + bs.length ∧ s.holdsMemory k = true :=
        and_congr_right fun _ => and_congr_left fun _ => ⟨fun _ => hk, fun _ => by omega⟩
      rw [if_neg hout]
      simp only [hin]
      split
      · next hc => exact (List.getD_append _ _ _ _ (by omega)).symm
      · rfl
    · have hout : ¬ (pa ≤ k ∧ k < pa + bs.length ∧ s.holdsMemory k = true) := fun h => hk h.2.1
      have hin : (pa ≤ k ∧ k < pa + (bs.length + bs'.length) ∧ s.holdsMemory k = true)
          ↔ pa + bs.length ≤ k ∧ k < pa + bs.length + bs'.length ∧ s.holdsMemory k = true := by
        rw [← Nat.add_assoc]
        exact and_congr_left fun _ => ⟨fun _ => by omega, fun _ => by omega⟩
      rw [if_neg hout]
      simp only [hin]
      split
      · next hc => rw [List.getD_append_right _ _ _ _ (by omega), Nat.sub_sub]
      · rfl

/-- The store of a piece of the bytes. -/
def storePiece (w : Thread) (step : Word) (key : Nat) (va : DWord) (pa : Nat) (leaf : DWord) (bs : List Byte) (s : State) (g : Nat × Nat) : State :=
  s.storeGranule w step key (va + BitVec.ofNat 64 g.1) (pa + g.1) leaf ((bs.drop g.1).take g.2)

/-- A piece that ends with its granule or with the bytes. -/
theorem storePiece_put (leaf : DWord) {off len : Nat} (hu : s.linkDown (pa + off) = false) (hlen : 0 < len) (hfit : off + len ≤ bs.length)
    (hin : (pa + off) / 16 = (pa + off + len - 1) / 16) :
    PutPrivate s (storePiece w step key va pa leaf bs s (off, len)) w key (pa + off) ((bs.drop off).take len) := by
  have hl : ((bs.drop off).take len).length = len := by rw [List.length_take, List.length_drop]; omega
  exact storeGranule_put h w step key _ leaf hu (by rw [hl]; exact hin)

/-- The granules of a store, one after another. -/
theorem storePrivate_put (hu : ∀ x, covers pa bs.length x → s.linkDown x = false) (hlen : 0 < bs.length) :
    PutPrivate s (s.storePrivate w step key va pa bs) w key pa bs := by
  obtain ⟨K, hK⟩ : ∃ K, (pa % 16 + bs.length + 15) / 16 = K + 1 := ⟨(pa % 16 + bs.length + 15) / 16 - 1, by omega⟩
  have upTo : ∀ k, k ≤ K → PutPrivate s (((granulesOf pa bs.length).take (k + 1)).foldl (storePiece w step key va pa (s.leafOf w va) bs) s)
      w key pa (bs.take (min (pa + bs.length) (pa / 16 * 16 + 16 * k + 16) - pa)) := by
    intro k hk
    have hgran : ∀ i, i ≤ K → (granulesOf pa bs.length).take (i + 1) = (granulesOf pa bs.length).take i
        ++ [(max pa (pa / 16 * 16 + 16 * i) - pa, min (pa + bs.length) (pa / 16 * 16 + 16 * i + 16) - max pa (pa / 16 * 16 + 16 * i))] := by
      intro i hi
      rw [granulesOf, List.take_add_one, List.getElem?_map, List.getElem?_range (by omega)]
      rfl
    induction k with
    | zero =>
      have hput := storePiece_put h w step key va (pa := pa) (bs := bs) (s.leafOf w va) (off := 0) (len := min (pa + bs.length) (pa / 16 * 16 + 16) - pa)
        (hu pa ⟨Nat.le_refl _, by omega⟩) (by omega) (by omega) (by omega)
      rw [hgran 0 (Nat.zero_le _), List.take_zero, List.nil_append, List.foldl_cons, List.foldl_nil]
      rw [show max pa (pa / 16 * 16 + 16 * 0) = pa by omega, Nat.sub_self]
      exact hput
    | succ k ih =>
      have ih := ih (by omega)
      have hoff : max pa (pa / 16 * 16 + 16 * (k + 1)) = pa / 16 * 16 + 16 * (k + 1) := by omega
      have hend : min (pa + bs.length) (pa / 16 * 16 + 16 * k + 16) = pa / 16 * 16 + 16 * (k + 1) := by omega
      rw [hend] at ih
      rw [hgran _ hk, List.foldl_append, List.foldl_cons, List.foldl_nil, hoff]
      generalize hfirst : pa / 16 * 16 + 16 * (k + 1) - pa = off at ih ⊢
      generalize hrest : min (pa + bs.length) (pa / 16 * 16 + 16 * (k + 1) + 16) - (pa / 16 * 16 + 16 * (k + 1)) = len
      have hl : (bs.take off).length = off := by rw [List.length_take]; omega
      have hput := storePiece_put ih.sound w step key va (pa := pa) (bs := bs) (s.leafOf w va) (off := off) (len := len)
        ((ih.only.linkDown _).trans (hu _ ⟨by omega, by omega⟩)) (by omega) (by omega) (by omega)
      have := ih.append w key (bs := bs.take off) (by rw [hl]; exact hput) (by rw [List.length_take, List.length_drop]; omega)
      rw [← List.take_add] at this
      rwa [show min (pa + bs.length) (pa / 16 * 16 + 16 * (k + 1) + 16) - pa = off + len by omega]
  have hall := upTo K (Nat.le_refl K)
  have hcount : (granulesOf pa bs.length).length = K + 1 := by rw [granulesOf, List.length_map, List.length_range, hK]
  rw [List.take_of_length_le (l := granulesOf pa bs.length) (by omega), List.take_of_length_le (l := bs) (by omega)] at hall
  exact hall
end

end Sys2Proof.Machine
end

section
/-! OBLIGATION O22. -/

namespace Sys2Proof.Machine

theorem OnlyMemory.refl (s : State) : OnlyMemory s s := ⟨s.mem, s.caches, rfl⟩

theorem OnlyMemory.gkey {s s' : State} (h : OnlyMemory s s') (w : Thread) (lane : Nat) : s'.gkey w lane = s.gkey w lane := by
  obtain ⟨m, c, rfl⟩ := h; rfl

theorem Looked.privAddr {s s' : State} (h : Looked s s') (w : Thread) (lane off : Nat) : s'.privAddr w lane off = s.privAddr w lane off := by
  rw [State.privAddr, h.grid?, State.privAddr]
  simp only [h.gkey]

theorem size_bytes_pos (sz : Size) : 0 < sz.bytes := by cases sz <;> decide

theorem storeBytes_length (w : Thread) (sz : Size) (v : VReg) (l : Nat) : (storeBytes w sz v l).length = sz.bytes := by
  cases sz <;> rfl

/-- The nibble that a lane of a 4-bit store writes (07 R119). -/
theorem mergeNib_reads (old : Byte) (hi : Bool) (w : Thread) (v : VReg) (l : Nat) :
    (if hi = true then (mergeNib old hi ((storeBytes w .b4 v l).headD 0#8).toNat).extractLsb' 4 4
      else (mergeNib old hi ((storeBytes w .b4 v l).headD 0#8).toNat).extractLsb' 0 4) = (w.vreg v.toNat l).extractLsb' 0 4 := by
  have hb : ((storeBytes w .b4 v l).headD 0#8).toNat = (w.vreg v.toNat l).toNat % 16 := by
    show ((BitVec.ofNat 8 (w.vreg v.toNat l).toNat) &&& 0x0F#8).toNat = _
    rw [BitVec.toNat_and, BitVec.toNat_ofNat]
    refine (Nat.and_two_pow_sub_one_eq_mod _ 4).trans ?_
    omega
  rw [hb]
  generalize w.vreg v.toNat l = x
  have hold := old.isLt
  cases hi <;>
  · simp only [mergeNib, Bool.false_eq_true, if_false, if_true]
    refine BitVec.eq_of_toNat_eq ?_
    simp only [BitVec.extractLsb'_toNat, BitVec.toNat_ofNat, Nat.shiftRight_eq_div_pow]
    omega

section
variable {s : State} {w : Thread} {e : Entry} {sz : Size} {v : VReg}

/-- What a lane has stored at an address of its own (07 Table 7.1). -/
def LaneStored (s : State) (w : Thread) (sz : Size) (v : VReg) (addr : DWord) (pa l x : Nat) : Prop :=
  (sz ≠ .b4 → s.readByte x = (storeBytes w sz v l).getD (x - pa) 0#8)
  ∧ (sz = .b4 → (if addr.getLsbD 0 = true then (s.readByte x).extractLsb' 4 4 else (s.readByte x).extractLsb' 0 4)
      = (w.vreg v.toNat l).extractLsb' 0 4)

theorem LaneStored.congr {s s' : State} {addr : DWord} {pa l x : Nat} (h : LaneStored s w sz v addr pa l x) (hr : s'.readByte x = s.readByte x) :
    LaneStored s' w sz v addr pa l x := by
  unfold LaneStored
  rw [hr]
  exact h

theorem privRead_byte (h : Sound s) {pa : Nat} (hu : s.linkDown pa = false) : (s.privRead w pa 1).headD 0#8 = s.readByte pa := by
  unfold State.privRead
  rw [h.l1Hit]
  cases hl : s.l1Line? (privUse w true 0#64 pa 0#64 1) with
  | some l =>
    show (s.bytesBut l.bad pa 1).headD 0#8 = _
    rw [(h.l1Line hl).1.1]
    rfl
  | none =>
    show (if (s.wordLost pa).isSome = true then 0#8 else s.readByte pa) = _
    rw [h.wordLost hu]
    rfl

/-- A lane's store to its own space. -/
theorem storePriv_put (h : Sound s) {pa l : Nat} (a addr : DWord) (hu : ∀ x, covers pa sz.bytes x → s.linkDown x = false) :
    ∃ bs, bs.length = sz.bytes ∧ PutPrivate s (s.storePriv w e l a pa (if sz = .b4 then some (addr.getLsbD 0) else none) (storeBytes w sz v l))
      w (s.gkey w l) pa bs ∧ ∀ x, covers pa sz.bytes x → s.holdsMemory x = true →
        LaneStored (s.storePriv w e l a pa (if sz = .b4 then some (addr.getLsbD 0) else none) (storeBytes w sz v l)) w sz v addr pa l x := by
  by_cases hb : sz = .b4
  · subst hb
    have hput := storePrivate_put h w e.gstep (s.gkey w l) (s.privAddr w l a.toNat) (pa := pa)
      (bs := [mergeNib ((s.privRead w pa 1).headD 0#8) (addr.getLsbD 0) ((storeBytes w .b4 v l).headD 0#8).toNat]) hu Nat.one_pos
    refine ⟨_, rfl, hput, fun x hx hm => ⟨fun hne => absurd rfl hne, fun _ => ?_⟩⟩
    have hx : x = pa := by have := hx.1; have : x < pa + 1 := hx.2; omega
    subst hx
    have hread := (hput.read x).trans (if_pos ⟨Nat.le_refl _, Nat.lt_succ_self _, hm⟩)
    rw [Nat.sub_self, List.getD_cons_zero] at hread
    refine Eq.trans ?_ (mergeNib_reads ((s.privRead w x 1).headD 0#8) (addr.getLsbD 0) w v l)
    rw [← hread]
    rfl
  · have hput := storePrivate_put h w e.gstep (s.gkey w l) (s.privAddr w l a.toNat) (pa := pa) (bs := storeBytes w sz v l)
      (by rw [storeBytes_length]; exact hu) (by rw [storeBytes_length]; exact size_bytes_pos sz)
    rw [if_neg hb]
    refine ⟨_, storeBytes_length w sz v l, hput, fun x hx hm => ⟨fun _ => ?_, fun h => absurd h hb⟩⟩
    refine (hput.read x).trans (if_pos ?_)
    rw [storeBytes_length]
    exact ⟨hx.1, hx.2, hm⟩
end

section
variable (w : Thread) (e : Entry) (sz : Size) (rule : Rule) (fsum : Bool) (v : VReg) (addr : Nat → DWord) (pa : Nat → Nat)

/-- What lanes have stored to their own space: each byte is the last lane's that covers it, and the last lane's line comes first. -/
structure LanesStored (s s' : State) (ls : List Nat) : Prop where
  sound : Sound s'
  only : OnlyMemory s s'
  first : ∀ l, ls.getLast? = some l → FirstDirty s' w (s.gkey w l) (pa l + sz.bytes - 1)
  others : ∀ x, (∀ l ∈ ls, ¬ covers (pa l) sz.bytes x) → s'.readByte x = s.readByte x
  stored : ∀ l ∈ ls, ∀ x, covers (pa l) sz.bytes x → (∀ k ∈ ls, l < k → ¬ covers (pa k) sz.bytes x) → s.holdsMemory x = true →
    LaneStored s' w sz v (addr l) (pa l) l x

theorem performStores_priv {s : State} (h : Sound s) (ls : List Nat) (hasc : ls.Pairwise (· < ·))
    (hu : ∀ l ∈ ls, ∀ x, covers (pa l) sz.bytes x → s.linkDown x = false) :
    LanesStored w sz v addr pa s (s.performStores w e sz rule fsum v none (ls.map fun l => (l, addr l, .priv (pa l)))) ls := by
  induction ls using List.reverseRecOn with
  | nil => exact ⟨h, .refl s, fun l hl => (nomatch hl), fun x _ => rfl, fun l hl => absurd hl List.not_mem_nil⟩
  | append_singleton r l ih =>
    obtain ⟨hr, -, hlt⟩ := List.pairwise_append.mp hasc
    have ih := ih hr fun k hk => hu k (List.mem_append_left _ hk)
    have hlast : ∀ k ∈ r, k < l := fun k hk => hlt k hk l (by simp)
    rw [List.map_append, State.performStores, List.foldl_append]
    generalize hs1 : List.foldl _ s (r.map fun l => (l, addr l, StDest.priv (pa l))) = s1
    have ih : LanesStored w sz v addr pa s s1 r := hs1 ▸ ih
    obtain ⟨bs, hlen, hput, hlane⟩ := storePriv_put (w := w) (e := e) (v := v) (l := l) ih.sound (byteAddr sz (addr l)) (addr l)
      fun x hx => (ih.only.linkDown x).trans (hu l (by simp) x hx)
    have hkeep : ∀ x, ¬ covers (pa l) sz.bytes x → _ = s1.readByte x := fun x hx => (hput.read x).trans (if_neg fun hc => hx ⟨hc.1, hlen ▸ hc.2.1⟩)
    refine ⟨hput.sound, ih.only.trans hput.only, fun k hk => ?_, fun x hx => ?_, fun k hk x hx hno hm => ?_⟩
    · rw [List.getLast?_concat, Option.some.injEq] at hk
      subst hk
      rw [← ih.only.gkey, ← hlen]
      exact hput.first
    · exact (hkeep x (hx l (by simp))).trans (ih.others x fun k hk => hx k (List.mem_append_left _ hk))
    · rcases List.mem_append.mp hk with hk | hk
      · have := ih.stored k hk x hx (fun j hj => hno j (List.mem_append_left _ hj)) hm
        exact this.congr (hkeep x (hno l (by simp) (hlast k hk)))
      · rw [List.mem_singleton.mp hk] at hx ⊢
        exact hlane x hx ((ih.only.holdsMemory x).trans hm)
end

/-- Settles O22: the lanes store one after another into their own lines, which nothing beside the caches and these bytes sees. -/
theorem privateStores : Obligations.PrivateStores := by
  unfold Obligations.PrivateStores
  intro s sz rule fsum g a b v t w e c pa leaf i addr va hi hbad hbad3 hwhole hl onTwin
  let f : StoreForm := ⟨sz, .priv, rule, fsum, g, a, b, v, none⟩
  have hf : storeForm i = some f := rfl
  have hr : ∀ l ∈ partLanes w e f.g, s.storeReached w f.sp f.sz l (f.addr w l) = true := fun l h => (hl l h).2.1
  have hflag : ∀ q d, f.stf = some (q, d) → c.flag q = some 0 := fun q d h => by cases h
  have hlane : ∀ l ∈ partLanes w e g, s.storeLane w .priv sz l (addr l) = if leafTwin (leaf l) = true
      then .error ⟨.twinPartial, addr l, va l⟩ else .ok (.priv (pa l)) := fun l h => by
    obtain ⟨hm, -, -, hpa⟩ := hl l h
    simp only [State.storeLane, privLane_eq hm, hpa, va]
  refine ⟨fun low hlow => ?_, ?_⟩
  · refine (store_traps hi hf hflag hr (P := fun l => leafTwin (leaf l)) (va := va) (fun l h hP => ?_) (fun l h hP y hy => ?_) hlow).traps
      Cause.noConfusion
    · exact (hlane l h).trans (if_pos hP)
    · have := hy.symm.trans ((hlane l h).trans (if_neg (by rw [hP]; decide)))
      cases this
  · intro hnone last
    have hd : ∀ l ∈ partLanes w e f.g, s.storeLane w f.sp f.sz l (f.addr w l) = .ok (.priv (pa l)) := fun l h =>
      (hlane l h).trans (if_neg (List.filter_eq_nil_iff.mp hnone l h))
    have hspans : s.storeSpans w .priv sz ((partLanes w e g).map fun l => (l, addr l, StDest.priv (pa l)))
        = (partLanes w e g).map fun l => ((va l).toNat, sz.bytes) := by
      simp only [State.storeSpans, List.map_map]
      rfl
    have look := looked_touched s w ((partLanes w e g).map fun l => ((va l).toNat, sz.bytes))
    generalize hbase : s.touched w ((partLanes w e g).map fun l => ((va l).toNat, sz.bytes)) = base at look
    obtain ⟨-, -, -, done⟩ := store_outcomes hi hf hflag hr hd (n := 0) (r := 0) rfl rfl (s1 := s) rfl (s2 := base)
      ((congrArg (s.touched w) hspans).trans hbase) rfl
    obtain ⟨b1, b2, b3, hsame⟩ := look.rest
    have hsound : Sound base := hsame ▸ ⟨hbad, hbad3, hwhole⟩
    have lanes := performStores_priv w e sz rule fsum v addr pa hsound (partLanes w e g) (partLanes_ascending w e g)
      fun l h x hx => (hsame ▸ (hl l h).2.2.1 x hx)
    have hread : ∀ x, base.readByte x = s.readByte x := fun x => hsame ▸ rfl
    have hholds : ∀ x, base.holdsMemory x = s.holdsMemory x := fun x => hsame ▸ rfl
    refine ⟨_, done (.inl rfl) (.inl rfl) (.inl rfl), ?_, fun l h => ?_, fun x hx => (lanes.others x hx).trans (hread x), ?_, ?_⟩
    · obtain ⟨m, c, honly⟩ := lanes.only
      refine Eq.trans (b := { base with mem := s.mem, caches := s.caches }) ?_ (hsame ▸ rfl)
      exact congrArg (fun s1 : State => { s1 with mem := s.mem, caches := s.caches }) honly
    · rw [← look.gkey]
      exact lanes.first l h
    · exact fun hb l x ⟨hin, hcov, hno⟩ hm => (lanes.stored l hin x hcov hno ((hholds x).trans hm)).1 hb
    · exact fun hb l x ⟨hin, hcov, hno⟩ hm => (lanes.stored l hin x hcov hno ((hholds x).trans hm)).2 hb

end Sys2Proof.Machine
end

section
/-! SUPPORT (20 R322, R328). Records and written bytes leave the caches as they are. -/

namespace Sys2Proof.Machine

variable (s : State) (die : Nat)

theorem foldl_caches {α : Type} (f : State → α → State) (hf : ∀ s a, (f s a).caches = s.caches) (l : List α) (s : State) :
    (l.foldl f s).caches = s.caches := by
  induction l generalizing s with
  | nil => rfl
  | cons a r ih => exact (ih _).trans (hf s a)

@[simp] theorem writeBytes_caches (pa : Nat) (bs : List Byte) : (s.writeBytes pa bs).caches = s.caches := by
  obtain ⟨m, h⟩ := writeBytes_rest bs s pa
  rw [h]

@[simp] theorem writeAt_caches (a : DWord) (bs : List Byte) : (s.writeAt a bs).caches = s.caches := by
  unfold State.writeAt
  split
  · rfl
  · exact writeBytes_caches s _ bs

@[simp] theorem setRingWord_caches (r : Ring) (i x : Nat) : (s.setRingWord r i x).caches = s.caches := writeAt_caches s _ _

@[simp] theorem ringAppend_caches (r : Ring) (bs : List Byte) : (s.ringAppend r bs).caches = s.caches := by simp [State.ringAppend]

@[simp] theorem post_caches (p : Post) : (s.post die p).caches = s.caches := rfl

@[simp] theorem raise_caches (v : Nat) : (s.raise die v).caches = s.caches := by simp [State.raise, apply_ite State.caches]

@[simp] theorem loseNow_caches (k : RingId) (n : Nat) : (s.loseNow die k n).caches = s.caches := by
  simp [State.loseNow, apply_ite State.caches]

@[simp] theorem noticeNow_caches (ty ctx info : Nat) (w1 w2 : DWord) : (s.noticeNow die ty ctx info w1 w2).caches = s.caches := by
  simp [State.noticeNow, apply_ite State.caches]

@[simp] theorem notify_caches (ty ctx info : Nat) (w1 w2 : DWord) : (s.notify die ty ctx info w1 w2).caches = s.caches := by
  simp [State.notify, apply_ite State.caches]

@[simp] theorem ringCheck_caches (k : RingId) (before : Nat) : (s.ringCheck die k before).caches = s.caches := by
  simp [State.ringCheck, apply_ite State.caches]

@[simp] theorem putNow_caches (k : RingId) (bs : List Byte) : (s.putNow die k bs).caches = s.caches := by
  simp [State.putNow, apply_ite State.caches]

@[simp] theorem ringPut_caches (k : RingId) (bs : List Byte) : (s.ringPut die k bs).caches = s.caches := by
  simp [State.ringPut, apply_ite State.caches]

@[simp] theorem uncorrected_caches (src : Nat) (addr : DWord) (step : Word) (key count ctx : Nat) :
    (s.uncorrected die src addr step key count ctx).caches = s.caches := by
  simp [State.uncorrected, State.errRec]

@[simp] theorem writeBack_caches (bad : List Nat) (d : Dirty) : (s.writeBack die bad d).caches = s.caches := by
  have zero := foldl_caches (fun (s : State) (a : Nat) => s.writeBytes a (List.replicate 8 0#8)) (fun s a => writeBytes_caches s _ _)
    ((wordsIn d.pa 16).filter fun a => bad.contains (a / 8)) s
  simp only [State.writeBack]
  split
  · simp
  · show (if _ then _ else _ : State).caches = _
    split
    · exact zero
    · exact (uncorrected_caches _ _ _ _ _ _ _ _).trans zero

@[simp] theorem cleanLine_caches (p : Nat) (l : L1Line) (mine : Dirty → Bool) : (s.cleanLine p l mine).1.caches = s.caches :=
  foldl_caches _ (fun s d => writeBack_caches s _ _ d) _ s

/-- An L1 that takes a line holds it first. -/
theorem putL1_caches (p : Nat) (l : L1Line) : (s.putL1 p l).caches = (s.setL1 p ((l :: s.caches.l1At p).take 512)).caches :=
  foldl_caches _ (fun s x => cleanLine_caches s p x fun _ => true) _ _

end Sys2Proof.Machine
end

section
/-! OBLIGATION O25. -/

namespace Sys2Proof.Machine

/-! ## A global read of a line that no L1 has -/

section
variable {s : State} {u : LineUse} (hl1 : s.l1Line? u = none) (hl2 : ∀ l, s.l2Line? u = some l → l.bad = []) (hw : s.lineWhole u = true)

theorem putL2_first (l : L2Line) (ls : List L2Line) : ∃ r, putL2 l ls = l :: r := by
  simp only [putL2]
  split
  · exact ⟨_, rfl⟩
  · split <;> exact ⟨_, rfl⟩

theorem useL3_l1 (s : State) (u : LineUse) : (s.useL3 u).caches.l1 = s.caches.l1 := by
  simp only [State.useL3]
  split
  · rfl
  · split <;> rfl

theorem useL2_l1 (s : State) (u : LineUse) : (s.useL2 u).caches.l1 = s.caches.l1 := by
  unfold State.useL2
  split
  · rfl
  · simp only []
    split
    · exact useL3_l1 s u
    · exact useL3_l1 s u
  · exact useL3_l1 s u

theorem l2At_setL2 (s : State) (d : Nat) (ls : List L2Line) : (s.setL2 d ls).caches.l2At d = ls := by
  simp [State.setL2, Caches.l2At]

/-- L2 and L3 on the way of an access change nothing but caches. -/
theorem useL2_only (s : State) (u : LineUse) : ∃ c, s.useL2 u = { s with caches := c } := by
  have l3 : ∃ c, s.useL3 u = { s with caches := c } := by
    simp only [State.useL3]
    split
    · exact ⟨_, rfl⟩
    · split
      · exact ⟨_, rfl⟩
      · exact ⟨s.caches, rfl⟩
  obtain ⟨c, hc⟩ := l3
  unfold State.useL2
  split
  · exact ⟨_, rfl⟩
  · simp only [hc]
    split
    · exact ⟨_, rfl⟩
    · exact ⟨_, rfl⟩
  · exact ⟨c, hc⟩

include hw in
/-- The L2 that the access looks in has the line first, retained where it was or is to be (13 R278). -/
theorem useL2_first {d : Nat} (hd : u.l2 = some d) : ∃ l r, (s.useL2 u).caches.l2At d = l :: r ∧ l.line = u.line
    ∧ l.kept = ((s.l2Line? u).any (·.kept) || u.kept) := by
  unfold State.useL2
  rw [hd]
  cases hl : s.l2Line? u with
  | some l =>
    refine ⟨_, _, l2At_setL2 s d _, ?_, rfl⟩
    simp only [State.l2Line?, hd, Option.bind_some] at hl
    have hline := List.find?_some hl
    exact eq_of_beq hline
  | none =>
    obtain ⟨r, hr⟩ := putL2_first ⟨u.line, u.kept, []⟩ ((s.useL3 u).caches.l2At d)
    simp only [hw, if_true, hr]
    exact ⟨_, r, l2At_setL2 _ d _, rfl, rfl⟩

include hl1 hl2 hw in
theorem useLine_missed (hlooks : u.looks = true) (die c : Nat) (step : Word) (key : Nat) :
    s.useLine die c step key u = if u.puts = true then (s.useL2 u).allocL1 u else s.useL2 u := by
  have hhit : s.l1Hit u = none := by rw [State.l1Hit, hl1]; rfl
  have h1 : s.dropSpoiltL1 die c step key u = s := by
    unfold State.dropSpoiltL1
    rw [hl1]
    rfl
  have h2 : s.dropSpoiltL2 die c step key u = s := by
    unfold State.dropSpoiltL2
    rw [hhit]
    cases hl : s.l2Line? u with
    | none => rfl
    | some l => simp [LineUse.meets, hl2 l hl]
  simp only [State.useLine, h1, h2, hhit, hw, Bool.or_true, Bool.and_true, hlooks, if_true]

include hl1 hl2 hw in
theorem useLine_brings (hpriv : u.priv = false) (hlooks : u.looks = true) (die c : Nat) (step : Word) (key : Nat) :
    (∀ d, u.l2 = some d → ∃ l r, (s.useLine die c step key u).caches.l2At d = l :: r ∧ l.line = u.line
      ∧ l.kept = ((s.l2Line? u).any (·.kept) || u.kept))
    ∧ (u.puts = true → ∃ l r, (s.useLine die c step key u).caches.l1At u.place = l :: r ∧ l.line = u.line ∧ l.priv = false ∧ l.bad = []
        ∧ l.bytes = s.readBytes (128 * u.line) 128)
    ∧ (u.puts = false → (s.useLine die c step key u).caches.l1 = s.caches.l1) := by
  rw [useLine_missed hl1 hl2 hw hlooks]
  obtain ⟨cs, hcs⟩ := useL2_only s u
  have halloc : ((s.useL2 u).allocL1 u).caches = _ := putL1_caches (s.useL2 u) u.place _
  have hread : (s.useL2 u).readBytes (128 * u.line) 128 = s.readBytes (128 * u.line) 128 := by rw [hcs]; rfl
  refine ⟨fun d hd => ?_, fun hputs => ?_, fun hputs => ?_⟩
  · obtain ⟨l, r, hl, h⟩ := useL2_first hw hd
    refine ⟨l, r, ?_, h⟩
    split
    · rw [halloc]
      exact hl
    · exact hl
  · rw [if_pos hputs, halloc]
    exact ⟨_, _, l1At_setL1 _ _ _, rfl, hpriv, rfl, by simp only [hpriv, Bool.false_eq_true, if_false, hread]⟩
  · rw [if_neg (by rw [hputs]; decide)]
    exact useL2_l1 s u
end

/-! ## Who issues before a path under PAUSE -/

section
variable {s : State}

theorem best_mem {l : List (Nat × Thread)} {u : Nat} (h : s.best l = some u) : ∃ x ∈ l, x.1 = u := by
  cases l with
  | nil => cases h
  | cons a r =>
    rw [State.best, Option.some.injEq] at h
    exact ⟨_, mem_foldl_choice (fun x m => s.before x.2 m.2) a r, h⟩

theorem choose_unpaused {l : List (Nat × Thread)} {u : Nat} (h : s.choose l = some u)
    (hfree : ∃ x ∈ l, x.2.ready.isSome = true ∧ s.pauseOf x.2 = 0) : ∃ x ∈ l, x.1 = u ∧ x.2.ready.isSome = true ∧ s.pauseOf x.2 = 0 := by
  obtain ⟨y, hy, hready, hpause⟩ := hfree
  have hmem : ∀ x, x ∈ (l.filter fun x => x.2.ready.isSome).filter (fun x => s.pauseOf x.2 == 0)
      ↔ x ∈ l ∧ x.2.ready.isSome = true ∧ s.pauseOf x.2 = 0 := fun x => by
    rw [List.mem_filter, List.mem_filter, beq_iff_eq, and_assoc]
  simp only [State.choose] at h
  split at h
  · next he => exact absurd ((hmem y).mpr ⟨hy, hready, hpause⟩) (by rw [List.isEmpty_iff.mp he]; exact List.not_mem_nil)
  · obtain ⟨x, hx, hu⟩ := best_mem h
    obtain ⟨hl, hr⟩ := (hmem x).mp hx
    exact ⟨x, hl, hu, hr⟩

theorem visit_paused {l : List (Nat × Thread)} {slot t : Nat} {w : Thread} (h : l.find? (fun x => x.2.slot == slot) = some (t, w))
    (hp : s.pauseOf w ≠ 0) : s.visit l slot = .pass := by
  have hover : s.passesOver w = true := by simp [State.passesOver, hp]
  simp only [State.visit, h, hover, if_true]

theorem countVisit_paused {l : List (Nat × Thread)} {slot t : Nat} {w : Thread} (h : l.find? (fun x => x.2.slot == slot) = some (t, w))
    (hp : s.pauseOf w ≠ 0) : s.countVisit l slot = s.setThread t w.countRound := by
  have hfind : l.find? (fun x => x.2.slot == slot && s.pauseOf x.2 != 0) = some (t, w) := by
    obtain ⟨hslot, before, after, rfl, hno⟩ := List.find?_eq_some_iff_append.mp h
    refine List.find?_eq_some_iff_append.mpr ⟨?_, before, after, rfl, fun a ha => ?_⟩
    · simp only [hslot, Bool.true_and, bne_iff_ne, ne_eq, hp, not_false_eq_true]
    · have := hno a ha
      simp only [Bool.not_eq_true'] at this ⊢
      rw [this, Bool.false_and]
  simp only [State.countVisit, hfind]

theorem coreNext_ok {core : Nat} {ok : Nat → Thread → Bool} {x : Nat × Thread} (h : s.coreNext core ok = some x) : ok x.1 x.2 = true := by
  unfold State.coreNext at h
  obtain ⟨i, -, hi⟩ := List.exists_of_findSome?_eq_some h
  have := List.find?_some hi
  exact (Bool.and_eq_true_iff.mp this).2

theorem coreNext_isSome {core : Nat} {ok : Nat → Thread → Bool} {y : Nat × Thread} {m : Ember} (hy : y ∈ s.threads) (hm : y.2.ember = some m)
    (hcore : m.core = core) (hok : ok y.1 y.2 = true) : ∃ x, s.coreNext core ok = some x := by
  cases hn : s.coreNext core ok with
  | some x => exact ⟨x, rfl⟩
  | none =>
    unfold State.coreNext at hn
    have hi : ∃ i, i < 8 ∧ (tget 0 s.cores core + i) % 8 = m.ctxno % 8 :=
      ⟨(m.ctxno % 8 + 8 - tget 0 s.cores core % 8) % 8, by omega, by omega⟩
    obtain ⟨i, hi, hctx⟩ := hi
    have := List.find?_eq_none.mp (List.findSome?_eq_none_iff.mp hn i (List.mem_range.mpr hi)) y hy
    refine absurd ?_ this
    simp [Thread.onCore, hm, hcore, hctx, hok]

theorem coreTurn_unpaused {core : Nat} {x : Nat × Thread} (h : s.coreTurn core = some x)
    (hfree : ∃ y ∈ s.threads, ∃ m, y.2.ember = some m ∧ m.core = core ∧ s.canIssue y.1 y.2 = true ∧ s.pauseOf y.2 = 0) :
    s.pauseOf x.2 = 0 := by
  obtain ⟨y, hy, m, hm, hcore, hcan, hpause⟩ := hfree
  obtain ⟨z, hz⟩ := coreNext_isSome (ok := fun t w => s.canIssue t w && s.pauseOf w == 0) hy hm hcore (by simp [hcan, hpause])
  rw [State.coreTurn, hz] at h
  obtain rfl : z = x := Option.some.inj h
  have := coreNext_ok hz
  exact eq_of_beq (Bool.and_eq_true_iff.mp this).2
end

/-! ## The instructions -/

section
variable {s : State} {t : Nat} {w : Thread} {e : Entry} {c : Clause}

theorem pause_performs {n : Word} (h : Issues s (.pause n) t w e c) : Performs s (.pause n) s t w e fun y =>
    if n = 0#32 then y else { y with pause := n.toNat, pausedAt := (s.die w.die).clock } := by
  have hx : exec (.pause n) s = _ := (issue_next h _ : execPause n s = _)
  refine performs_of w _ h.path rfl rfl (fun y => ?_) hx
  split <;> rfl

theorem pref_performs {hint : Hint} {home : Option (BitVec 4)} {g : Guard} {a : LdBase} {b : Off} (h : Issues s (.pref hint home g a b) t w e c) :
    let addr := fun l => a.value w l + BitVec.ofNat 64 (b.value w l)
    let s1 := s.noteMalformed w ((partLanes w e g).filterMap fun l => (s.prefVa w a (addr l)).map fun va => (l, va))
    let s2 := s1.fills w e.gstep ((partLanes w e g).flatMap fun l => (s.prefUse w hint home a (addr l)).map fun u => (s.gkey w l, u))
    Performs s (.pref hint home g a b) (s2.touched w ((partLanes w e g).flatMap fun l => s.prefSpan w a (addr l))) t w e id := by
  have hx : exec (.pref hint home g a b) s = _ := (issue_next h _ : execPref hint home g a b s = _)
  simp only [lanesOf_active, List.filterMap_map, List.flatMap_map, Function.comp_def] at hx
  exact performs_retire h rfl rfl hx

theorem pauseEnd_spec (h : s.thread? t = some w) :
    let passed := fun y : Entry => s.detGrid w.grid = false ∧ y.pause ≠ 0 ∧ y.pause ≤ ((s.die w.die).clock - y.pausedAt).toNat
    ∃ x : Thread, exec (.pauseEnd t) s = .next (s.setThread t x) ∧ { x with stack := w.stack } = w ∧ x.stack.length = w.stack.length
      ∧ ∀ (k : Nat) (y z : Entry), w.stack[k]? = some y → x.stack[k]? = some z →
          (passed y → z = { y with pause := 0 }) ∧ (¬ passed y → z = y) := by
  intro passed
  have hover : ∀ y, s.pauseOver w y = true ↔ passed y := fun y => by
    simp only [State.pauseOver, Bool.and_eq_true, bne_iff_ne, Bool.not_eq_true', decide_eq_true_eq, passed]
    tauto
  have hx : exec (.pauseEnd t) s = .next (s.modThread t _) := rfl
  rw [State.modThread, h] at hx
  refine ⟨_, hx, rfl, List.length_map _, fun k y z hy hz => ?_⟩
  rw [List.getElem?_map, hy, Option.map_some, Option.some.injEq] at hz
  subst hz
  exact ⟨fun hp => if_pos ((hover y).mpr hp), fun hp => if_neg fun h => hp ((hover y).mp h)⟩
end

/-- Settles O25, instruction by instruction, with what a read leaves in the caches and whom the selectors choose. -/
theorem hintsAndPauses : Obligations.HintsAndPauses := by
  unfold Obligations.HintsAndPauses
  refine ⟨fun s t w e c => ⟨fun h => ?_, fun hint home g a b => pref_performs, fun n => pause_performs, pauseEnd_spec⟩, ?_, fun s => ⟨?_, ?_, ?_⟩⟩
  · exact performs_retire h rfl rfl (issue_next h _ : execNop s = _)
  · exact fun s die c step key u hpriv hlooks hl1 hl2 hw => useLine_brings hl1 hl2 hw hpriv hlooks die c step key
  · exact fun l u => choose_unpaused
  · exact fun l slot t w h hp => ⟨visit_paused h hp, countVisit_paused h hp⟩
  · exact fun core x => coreTurn_unpaused

end Sys2Proof.Machine
end

section
/-! SUPPORT (07 R126, 11 R263). What reads of words that are not lost bring about, and the record of an effect of a close. -/

namespace Sys2Proof.Machine

section
variable {s : State} {pa n : Nat}

/-- Whether a word is lost does not depend on which of its bytes asks. -/
theorem wordLost_congr (s : State) {a b : Nat} (h : a / 8 = b / 8) : s.wordLost a = s.wordLost b := by
  have hline : a / 128 = b / 128 := by omega
  have hpage : a / 65536 = b / 65536 := by omega
  have hport : cxlPortOf a = cxlPortOf b := by
    have hd : a / 2 ^ 45 = b / 2 ^ 45 := by omega
    have hlo : 2 ^ 45 ≤ a ↔ 2 ^ 45 ≤ b := by omega
    have hhi : a < 9 * 2 ^ 45 ↔ b < 9 * 2 ^ 45 := by omega
    simp only [cxlPortOf, hd, hlo, hhi]
  have hhome : homeFlue a = homeFlue b := by
    have hd : a / 2 ^ 38 = b / 2 ^ 38 := by omega
    simp only [homeFlue, hport, hd]
  have hl3 : s.l3Holds a = s.l3Holds b := by simp only [State.l3Holds, hhome, hline, hpage]
  simp only [State.wordLost, h, linkDown_congr s hline, hl3]

/-- The word of a byte of the range. -/
theorem mem_wordsIn {x : Nat} (h1 : pa < x + 8) (h2 : x < pa + n) (h8 : x % 8 = 0) : x ∈ wordsIn pa n := by
  refine List.mem_map.mpr ⟨x / 8 - pa / 8, List.mem_range.mpr ?_, ?_⟩ <;> omega

theorem wordLost_found (h : s.rangeLost pa n = none) {x : Nat} (h1 : pa ≤ x) (h2 : x < pa + n) : s.wordLost x = none := by
  rw [wordLost_congr s (b := x / 8 * 8) (by omega)]
  exact List.findSome?_eq_none_iff.mp h _ (mem_wordsIn (by omega) (by omega) (by omega))

/-- Bytes of which no word is lost are delivered as they stand. -/
theorem cleanBytes_found (h : s.rangeLost pa n = none) : s.cleanBytes pa n = s.readBytes pa n := by
  have : ∀ k a, (∀ x, a ≤ x → x < a + k → s.wordLost x = none) → s.cleanBytes a k = s.readBytes a k := by
    intro k
    induction k with
    | zero => exact fun a _ => rfl
    | succ k ih =>
      intro a ha
      rw [State.cleanBytes, State.readBytes, ha a (Nat.le_refl a) (by omega), ih (a + 1) fun x h1 h2 => ha x (by omega) (by omega)]
      rfl
  exact this n pa fun x => wordLost_found h

theorem dropL3_found (h : s.rangeLost pa n = none) : s.dropL3 pa n = s := by
  refine if_neg fun hany => ?_
  obtain ⟨w, hw, hmet⟩ := List.any_eq_true.mp hany
  obtain ⟨-, hin⟩ := Bool.and_eq_true_iff.mp hmet
  obtain ⟨h1, h2⟩ := of_decide_eq_true hin
  have hlost : s.wordLost (8 * w.1) = some 1 := by
    have hbad : (s.badL3.any fun y => y.1 == 8 * w.1 / 8) = true := List.any_eq_true.mpr ⟨w, hw, by simp⟩
    rw [State.wordLost, if_pos hbad]
  have := List.findSome?_eq_none_iff.mp h _ (mem_wordsIn (n := n) h1 h2 (by omega))
  rw [hlost] at this
  cases this

omit s pa n in
theorem foldl_unchanged {α β : Type} {f : β → α → β} {b : β} {l : List α} (h : ∀ a ∈ l, f b a = b) : l.foldl f b = b := by
  induction l with
  | nil => rfl
  | cons a r ih => rw [List.foldl_cons, h a (by simp), ih fun x hx => h x (List.mem_cons_of_mem _ hx)]

theorem noteLostAt_found (h : s.rangeLost pa n = none) (die c : Nat) (step : Word) (key : Nat) (va : DWord) :
    s.noteLostAt die c step key va pa n = s := by
  unfold State.noteLostAt
  rw [foldl_unchanged fun a ha => by simp only [List.findSome?_eq_none_iff.mp h a ha], dropL3_found h]

variable {w : Thread} {e : Entry} {va leaf : DWord}

theorem noteRead_found (ha : s.access w.mmu w.ctx va .read = .ok (pa, leaf)) (h : s.rangeLost pa n = none) :
    s.noteRead w e va n = (s.touched w [(va.toNat, n)]).readPast w va pa n := by
  simp only [State.noteRead, ha, State.noteLost, noteLostAt_found h]

/-- A read past the caches changes nothing but the lines of L1s. -/
theorem readPast_only (s : State) (w : Thread) (va : DWord) (pa n : Nat) : ∃ c, s.readPast w va pa n = { s with caches := c } := by
  have one : ∀ (s : State) u, ∃ c, s.passL1 u = { s with caches := c } := by
    intro s u
    simp only [State.passL1]
    split
    · exact ⟨s.caches, rfl⟩
    · split
      · exact ⟨_, rfl⟩
      · exact ⟨s.caches, rfl⟩
  unfold State.readPast
  generalize linesIn pa n = l
  induction l generalizing s with
  | nil => exact ⟨s.caches, rfl⟩
  | cons x r ih =>
    obtain ⟨c, hc⟩ := one s (atHome w va (128 * x) 0#64 128)
    obtain ⟨c', hc'⟩ := ih (s.passL1 (atHome w va (128 * x) 0#64 128))
    exact ⟨c', by rw [List.foldl_cons, hc', hc]⟩

theorem looked_readPast_kept (s : State) (w : Thread) (l : List (Nat × Nat)) (va : DWord) (pa n : Nat) :
    ((s.touched w l).readPast w va pa n).grids = s.grids ∧ ((s.touched w l).readPast w va pa n).groups = s.groups
      ∧ ((s.touched w l).readPast w va pa n).uid = s.uid := by
  obtain ⟨c, hc⟩ := readPast_only (s.touched w l) w va pa n
  rw [hc]
  exact ⟨(looked_touched s w l).grids, (looked_touched s w l).groups, (looked_touched s w l).uid⟩

/-- A writer key is told by the grids and groups. -/
theorem gkey_congr {s' : State} (hg : s'.grids = s.grids) (hp : s'.groups = s.groups) (lane : Nat) : s'.gkey w lane = s.gkey w lane := by
  simp only [State.gkey, State.grid?, State.group?, hg, hp]

/-- An effect is recorded for the close of the grid step. -/
theorem addSysOp_eq {g : Grid} (hg : s.grid? w.grid = some g) {k : Nat} (hk : s.uid = k) (key : Nat) (o : CloseOp) : s.addSysOp w e key o =
    { s with uid := k + 1 }.setGrid w.grid { g with sysops := g.sysops ++ [SysOp.mk e.gstep key k o] } := by
  subst hk
  simp only [State.addSysOp, State.modGrid, show State.grid? { s with uid := s.uid + 1 } w.grid = some g from hg]
end

end Sys2Proof.Machine
end

section
/-! OBLIGATION O30. -/

namespace Sys2Proof.Machine

section
variable {s : State} {t : Nat} {w : Thread} {e : Entry} {c : Clause} {g : Grid} (hg : s.grid? w.grid = some g)

/-- `i` retires from `s0`, with an effect left to the close of the grid step (08 R195). -/
def Records (s s0 : State) (i : Instr) (t : Nat) (w : Thread) (e : Entry) (g : Grid) (key : Nat) (o : CloseOp) : Prop :=
  Performs s i ({ s0 with uid := s.uid + 1 }.setGrid w.grid { g with sysops := g.sysops ++ [SysOp.mk e.gstep key s.uid o] }) t w e id

include hg in
theorem records_of {i : Instr} (h : Issues s i t w e c) {s0 : State} (hs : s0.grids = s.grids) (hu : s0.uid = s.uid) {key : Nat} {o : CloseOp}
    (hx : exec i s = .next ((s0.addSysOp w e key o).retire t w e)) : Records s s0 i t w e g key o := by
  rw [addSysOp_eq ((congrArg (aget? · w.grid) hs).trans hg) hu] at hx
  exact performs_retire h rfl rfl hx

variable {a : SReg} {va : DWord} (hva : w.sreg a.toNat = va) {pa : Nat} {leaf : DWord}

include hg hva in
/-- WBIND (07 R164): what it does once its descriptor's address is translated. -/
theorem wbind_outcomes {n : WinNo} (h : Issues s (.wbind n a) t w e c) :
    (va.toNat % 32 ≠ 0 → Traps s (.wbind n a) t w c ⟨.align, va, e.mask⟩)
    ∧ (va.toNat % 32 = 0 → s.walkReached w.mmu w.ctx va = true → s.access w.mmu w.ctx va .read = .ok (pa, leaf) →
      (s.gridReadWaits w e = true ∨ s.reaches w.die pa = false → Stalls s (.wbind n a) t w)
      ∧ (s.gridReadWaits w e = false → s.reaches w.die pa = true → s.rangeLost pa 32 = none →
        let d := BitVec.ofNat 256 (leNat (s.readBytes pa 32))
        let s1 := (s.touched w [(va.toNat, 32)]).readPast w va pa 32
        if winBad d = true then TrapsOver s (.wbind n a) s1 t w c ⟨.reservedEnc, va, e.mask⟩
        else Records s s1 (.wbind n a) t w e g (s.gkey w 0) (.wbind n.toNat d))) := by
  have hx : exec (.wbind n a) s = _ := (issue_next h _ : execWbind n a s = _)
  simp only [hva] at hx
  refine ⟨fun h0 => traps_of (hx.trans (if_pos h0)), fun h0 hw ha => ?_⟩
  have hx := hx.trans (if_neg (not_not_intro h0))
  simp only [hw, Bool.not_true, Bool.false_eq_true, if_false, ha] at hx
  refine ⟨fun hs => ?_, fun hr hreach hfound => ?_⟩
  · refine stalls_of (hx.trans (if_pos ?_))
    rcases hs with hs | hs <;> simp [hs]
  · simp only [hr, hreach, Bool.not_true, Bool.or_false, Bool.false_eq_true, if_false, cleanBytes_found hfound, noteRead_found ha hfound] at hx
    intro d s1
    obtain ⟨hgrids, -, huid⟩ := looked_readPast_kept s w [(va.toNat, 32)] va pa 32
    split
    · next hbad => exact trapsOver_of (hx.trans (if_pos hbad))
    · next hgood =>
      refine records_of hg h hgrids huid ((hx.trans (if_neg hgood)).trans ?_)
      rw [State.addSysOp, huid]

include hg hva in
/-- LAUNCH (08 R193): what it does once its packet's address is translated. -/
theorem launch_outcomes (h : Issues s (.launch a) t w e c) :
    (va.toNat % 128 ≠ 0 → Traps s (.launch a) t w c ⟨.align, va, e.mask⟩)
    ∧ (va.toNat % 128 = 0 → s.walkReached w.mmu w.ctx va = true → s.access w.mmu w.ctx va .read = .ok (pa, leaf) →
      (s.gridReadWaits w e = true ∨ s.reaches w.die pa = false → Stalls s (.launch a) t w)
      ∧ (s.gridReadWaits w e = false → s.reaches w.die pa = true → s.rangeLost pa 128 = none →
        let bs := s.readBytes pa 128
        let q := bits (leNat bs) 406 6
        let s1 := (s.touched w [(va.toNat, 128)]).readPast w va pa 128
        ∀ x, s.context? w.ctx = some x →
          (∀ u, aget? x.queues q = some u → if u.free = 0 then Stalls s (.launch a) t w
            else Records s (s1.modContext w.ctx fun y => { y with queues := aset y.queues q { u with reserved := u.reserved + 1 } })
              (.launch a) t w e g (s.gkey w (lowestLane e.mask % 128)) (.launch bs va q true))
          ∧ (aget? x.queues q = none → Records s s1 (.launch a) t w e g (s.gkey w (lowestLane e.mask % 128)) (.launch bs va q false)))) := by
  have hx : exec (.launch a) s = _ := (issue_next h _ : execLaunch a s = _)
  simp only [hva] at hx
  refine ⟨fun h0 => traps_of (hx.trans (if_pos h0)), fun h0 hw ha => ?_⟩
  have hx := hx.trans (if_neg (not_not_intro h0))
  simp only [hw, Bool.not_true, Bool.false_eq_true, if_false, ha] at hx
  refine ⟨fun hs => ?_, fun hr hreach hfound => ?_⟩
  · refine stalls_of (hx.trans (if_pos ?_))
    rcases hs with hs | hs <;> simp [hs]
  · simp only [hr, hreach, Bool.not_true, Bool.or_false, Bool.false_eq_true, if_false, cleanBytes_found hfound, noteRead_found ha hfound] at hx
    intro bs q s1 x hctx
    obtain ⟨hgrids, hgroups, huid⟩ := looked_readPast_kept s w [(va.toNat, 128)] va pa 128
    rw [hctx] at hx
    refine ⟨fun u hu => ?_, fun hu => ?_⟩
    · simp only [Option.bind_some, show aget? x.queues (bits (leNat (s.readBytes pa 128)) (48 * 8 + 22) 6) = some u from hu] at hx
      split
      · next hfull => exact stalls_of (hx.trans (if_pos hfull))
      · next hroom =>
        obtain ⟨cs, hcs⟩ := modContext_rest s1 w.ctx fun y => { y with queues := aset y.queues q { u with reserved := u.reserved + 1 } }
        have hkey := gkey_congr (s := s) (w := w) (s' := s1.modContext w.ctx fun y =>
          { y with queues := aset y.queues q { u with reserved := u.reserved + 1 } }) (by rw [hcs]; exact hgrids) (by rw [hcs]; exact hgroups)
        have hx := hx.trans (if_neg hroom)
        rw [State.pathKey, hkey] at hx
        exact records_of hg h (by rw [hcs]; exact hgrids) (by rw [hcs]; exact huid) hx
    · simp only [Option.bind_some, show aget? x.queues (bits (leNat (s.readBytes pa 128)) (48 * 8 + 22) 6) = none from hu] at hx
      exact records_of hg h hgrids huid hx
end

/-- Settles O30, instruction by instruction. -/
theorem closeEffects : Obligations.CloseEffects := by
  unfold Obligations.CloseEffects
  intro s t w e c g hg records low
  refine ⟨fun ev h => ?_, fun n h => ?_, fun a pa leaf => ⟨fun n h => wbind_outcomes hg rfl h, fun h => launch_outcomes hg rfl h⟩⟩
  · exact records_of hg h rfl rfl (issue_next h _ : execEvsig ev s = _)
  · exact records_of hg h rfl rfl (issue_next h _ : execWunbind n s = _)

end Sys2Proof.Machine
end

section
/-! OBLIGATION O31. -/

namespace Sys2Proof.Machine

theorem modContext_eq {s : State} {c : Nat} {x : Context} (h : s.context? c = some x) (f : Context → Context) :
    s.modContext c f = s.setContext c (f x) := by
  rw [State.modContext, h]

section
variable {x : Context}

/-- The lowest free number (07 R166, log 91). -/
theorem freePin_some {k : Nat} (hk : k < 32) (hfree : aget? x.pins k = none) (hlow : ∀ j, j < k → (aget? x.pins j).isSome = true) :
    (List.range 32).find? (fun k => (aget? x.pins k).isNone) = some k := by
  refine List.find?_range_eq_some.mpr ⟨by rw [hfree]; rfl, List.mem_range.mpr hk, fun j hj => ?_⟩
  rw [← Option.not_isSome, hlow j hj]
  rfl

theorem freePin_none (h : ∀ k, k < 32 → (aget? x.pins k).isSome = true) :
    (List.range 32).find? (fun k => (aget? x.pins k).isNone) = none := by
  refine List.find?_eq_none.mpr fun k hk => ?_
  rw [← Option.not_isSome, h k (List.mem_range.mp hk)]
  decide
end

section
variable {s : State} {t : Nat} {w : Thread} {e : Entry} {c : Clause} {x : Context} {d base bytes : SReg}
variable (hx : s.context? w.ctx = some x) (h : Issues s (.pin d base bytes) t w e c)
variable {a : DWord} (ha : w.sreg base.toNat = a) {z : Nat} (hz : (w.sreg bytes.toNat).toNat = z)

/-- The operands that R166 reserves. -/
def PinBad (a : DWord) (z : Nat) : Prop :=
  a.toNat % 65536 ≠ 0 ∨ a = 0#64 ∨ z % 2 ^ 48 % 65536 ≠ 0 ∨ z % 2 ^ 48 = 0 ∨ z / 2 ^ 56 = 0 ∨ z / 2 ^ 48 % 256 ≠ 0

include hx h ha hz

theorem pin_goes : (PinBad a z → exec (.pin d base bytes) s = .next (s.trapHere t w c ⟨.reservedEnc, 0#64, e.mask⟩))
    ∧ (¬ PinBad a z → exec (.pin d base bytes) s =
      match (List.range 32).find? fun k => (aget? x.pins k).isNone with
      | none => .next ((s.modContext w.ctx fun x => { x with pinRef := x.pinRef + 1 }).retire t (w.setS d.toNat (BitVec.allOnes 64)) e)
      | some k =>
        if 2 ^ 30 < z % 2 ^ 48 then
          .next ((s.modContext w.ctx fun x => { x with pinRef := x.pinRef + 1 }).retire t (w.setS d.toNat (BitVec.allOnes 64)) e)
        else if ¬ ∀ j, j < z % 2 ^ 48 / 65536 → s.walkReached w.mmu w.ctx (a + BitVec.ofNat 64 (65536 * j)) = true then .next (s.stallHere t w)
        else if s.pinFits w.die w.ctx x a (z % 2 ^ 48) = true then
          .next ((((s.noteMalformed w (pinWalks e a (z % 2 ^ 48))).pinPages w.ctx k (s.pinPas w (pinWalks e a (z % 2 ^ 48)))).modContext w.ctx
            fun y => { y with pins := aset y.pins k ⟨a, z % 2 ^ 48, z / 2 ^ 56, z / 2 ^ 56, false, s.time⟩ }).retire t
              (w.setS d.toNat (BitVec.ofNat 64 k)) e)
        else .next (((s.noteMalformed w (pinWalks e a (z % 2 ^ 48))).modContext w.ctx fun x => { x with pinRef := x.pinRef + 1 }).retire t
          (w.setS d.toNat (BitVec.allOnes 64)) e)) := by
  have hlt : z < 2 ^ 64 := hz ▸ (w.sreg bytes.toNat).isLt
  have hfade : bits z 56 8 = z / 2 ^ 56 := by rw [bits, Nat.shiftRight_eq_div_pow]; omega
  have hres : bits z 48 8 = z / 2 ^ 48 % 256 := by rw [bits, Nat.shiftRight_eq_div_pow]; rfl
  have hwalk : (pinWalks e a (z % 2 ^ 48)).all (fun y => s.walkReached w.mmu w.ctx y.2) = true
      ↔ ∀ j, j < z % 2 ^ 48 / 65536 → s.walkReached w.mmu w.ctx (a + BitVec.ofNat 64 (65536 * j)) = true := by
    rw [pinWalks, List.all_map, List.all_eq_true]
    simp only [List.mem_range, Function.comp_apply]
  have hgo : exec (.pin d base bytes) s = _ := (issue_next h _ : execPin d base bytes s = _)
  simp only [ha, hz, hfade, hres, hx, pinTooLarge, decide_eq_true_eq, Bool.not_eq_true', ← Bool.not_eq_true, hwalk] at hgo
  exact ⟨fun hb => hgo.trans (if_pos hb), fun hb => hgo.trans (if_neg hb)⟩
end

/-- Settles O31: the branches of PIN, and UNPIN. -/
theorem pins : Obligations.Pins := by
  unfold Obligations.Pins
  intro s t w e c x hx
  refine ⟨?_, fun a h => ?_⟩
  · intro d base bytes i a z n fade bad h
    obtain ⟨hbad, hgood⟩ := pin_goes hx h rfl rfl
    refine ⟨fun hb => traps_of (hbad hb), fun hb hfull => ?_, ?_⟩
    · refine performs_retire h rfl rfl ((hgood hb).trans ?_)
      rw [modContext_eq hx]
      split
      · rfl
      · next k hk =>
        rcases hfull with hall | hlarge
        · rw [freePin_none hall] at hk
          cases hk
        · exact if_pos hlarge
    · intro hb hsize k hk hfree hlow walked changes
      have hgo := hgood hb
      simp only [freePin_some hk hfree hlow] at hgo
      have hgo := hgo.trans (if_neg (Nat.not_lt.mpr hsize))
      refine ⟨fun hw => stalls_of (hgo.trans (if_pos hw)), fun hw hfit => ?_, fun hw hfit => ?_⟩
      · exact performs_retire h rfl rfl ((hgo.trans (if_neg (not_not_intro hw))).trans (if_pos hfit))
      · exact performs_retire h rfl rfl ((hgo.trans (if_neg (not_not_intro hw))).trans (if_neg (by rw [hfit]; decide)))
  · intro k
    have hgo : exec (.unpin a) s = _ := (issue_next h _ : execUnpin a s = _)
    have hk := modContext_eq (s := s.unpinPages fun c n => c == w.ctx && n == k) hx fun x => { x with pins := adel x.pins k }
    refine performs_retire h rfl rfl (hgo.trans ?_)
    rw [← hk]

end Sys2Proof.Machine
end

section
/-! SUPPORT (09 R200, R201). The checks that the instructions of the grate and fibre family share. -/

namespace Sys2Proof.Machine

section
variable {s : State} {i : Instr} {t : Nat} {w : Thread} {e : Entry} {c : Clause} {g : Grid} {p : Group}

theorem atGrate_iff (o : Owed) : o.atGrate = true ↔ ∃ k, o.due = .grate k := by
  unfold Owed.atGrate
  cases o.due <;> simp

/-- An instruction of the family to which nothing earlier matters. -/
theorem grateOp_next {k : State → Nat → Thread → Entry → Clause → Grid → Group → Out} (h : Issues s i t w e c) (hg : s.grid? w.grid = some g)
    (hp : s.group? w.group = some p) (howed : ∀ o ∈ w.owed, ∀ k, o.due = .grate k → w.handler = true) (hu : s.grateUnread t w = false) :
    grateOp i s k = k s t w e c g p := by
  have hnone : firstOwed (w.owed.filter fun o => !w.handler && o.atGrate) = none := by
    refine firstOwed_eq_none_iff.mpr (List.filter_eq_nil_iff.mpr fun o ho hb => ?_)
    obtain ⟨h1, h2⟩ := Bool.and_eq_true_iff.mp hb
    obtain ⟨k, hk⟩ := (atGrate_iff o).mp h2
    rw [howed o ho k hk] at h1
    cases h1
  unfold grateOp
  rw [issue_next h]
  simp only [hg, hp, hnone, hu, Bool.false_eq_true, if_false]

/-- A gate with nothing in the way. -/
theorem gate_pass_ok {l : List Chk} (hl : l = []) (k : Out) : (Gate.of l).pass s t w e c k = k := by
  subst hl
  rfl

/-- A gate that meets one cause. -/
theorem gate_traps {l : List Chk} {x : Cause} {a : DWord} (hl : l = [(x, a)]) (hx : x ≠ .page) {k : Out}
    (he : exec i s = (Gate.of l).pass s t w e c k) : Traps s i t w c ⟨x, a, e.mask⟩ := by
  subst hl
  exact traps_of_trapAt hx he

theorem chkIf_false {b : Bool} (h : b = false) (x : Cause) (a : Nat) : chkIf b x a = [] := by rw [h]; rfl
theorem chkIf_true {b : Bool} (h : b = true) (x : Cause) (a : Nat) : chkIf b x a = [(x, BitVec.ofNat 64 a)] := by rw [h]; rfl

theorem anyGlobal_one (f : BitVec 256) : anyGlobal [some f] = (fbOpen f && !fbStash f) := Bool.or_false _
theorem anyStash_one (f : BitVec 256) : anyStash [some f] = (fbOpen f && fbStash f) := Bool.or_false _
end

end Sys2Proof.Machine
end

section
/-! OBLIGATION O37. -/

namespace Sys2Proof.Machine

/-- Reads of the stash of which no word is lost change nothing. -/
theorem stashReads_found {s : State} {w : Thread} {e : Entry} {l : List (Nat × LaneRead)} (hl : ∀ x ∈ l, x.2.lost = none ∧ x.2.uses = []) :
    (s.noteReads w e l).touched w (farSpans (s.farOf w l)) = s := by
  have huses : laneUses l = [] := List.flatMap_eq_nil_iff.mpr fun x hx => by rw [(hl x hx).2]; rfl
  rw [noteReads_found fun x hx => (hl x hx).1, farSpans_laneUses, huses]
  exact touched_nil s w

/-- A read of stash bytes of which none is lost. -/
def stashRead (s : State) (w : Thread) (p : Group) (r : Nat × Nat) : LaneRead :=
  ⟨(List.range r.2).map fun b => tget 0#8 p.stash (r.1 + b), none, s.strict w.ctx, false, BitVec.ofNat 64 r.1, BitVec.ofNat 64 r.1, []⟩

theorem stashLost_whole {p : Group} (hbad : p.badStash = []) (o n : Nat) : p.stashLost o n = false := by
  simp [Group.stashLost, hbad]

/-- The coordinates of a stash fibre. -/
theorem crdReads_stash {s : State} {w : Thread} {p : Group} {f : BitVec 256} (hs : fbStash f = true) (hbad : p.badStash = []) :
    s.crdReads w p f = (List.range (fbCount f)).map fun i => (fbPos f + i, stashRead s w p (crdRange f (fbPos f + i) 1)) := by
  unfold State.crdReads
  refine List.map_congr_left fun i _ => ?_
  simp only [hs, if_true, stashLost_whole hbad, Bool.false_eq_true, if_false, stashBytes_whole (stashLost_whole hbad _ _), stashRead]

/-- The first of numbers from `a` up to `b` at which something holds, or `b`. -/
theorem find_from {α : Type} {a b k : Nat} (hak : a ≤ k) (hkb : k ≤ b) {g : Nat → α} {q : α → Bool} (hno : ∀ j, a ≤ j → j < k → q (g j) = false)
    (hyes : k = b ∨ q (g k) = true) :
    ((((List.range (b - a)).map fun i => (a + i, g (a + i))).find? fun y => q y.2).map (·.1)).getD b = k := by
  rw [List.find?_map, Option.map_map]
  by_cases hk : k < b
  · have hfind : (List.range (b - a)).find? ((fun y : Nat × α => q y.2) ∘ fun i => (a + i, g (a + i))) = some (k - a) := by
      refine List.find?_range_eq_some.mpr ⟨?_, List.mem_range.mpr (by omega), fun j hj => ?_⟩
      · simp only [Function.comp_apply, show a + (k - a) = k by omega]
        exact hyes.resolve_left (by omega)
      · simp only [Function.comp_apply, hno (a + j) (by omega) (by omega), Bool.not_false]
    rw [hfind]
    show a + (k - a) = k
    omega
  · have hfind : (List.range (b - a)).find? ((fun y : Nat × α => q y.2) ∘ fun i => (a + i, g (a + i))) = none := by
      refine List.find?_eq_none.mpr fun j hj => ?_
      have := List.mem_range.mp hj
      simp only [Function.comp_apply, hno (a + j) (by omega) (by omega), Bool.false_eq_true, not_false_iff]
    rw [hfind]
    show b = k
    omega

theorem setF_stack (w : Thread) (k : Nat) (x : BitVec 256) : (w.setF k x).stack = w.stack := rfl
theorem setF_spilled (w : Thread) (k : Nat) (x : BitVec 256) : (w.setF k x).spilled = w.spilled := rfl

section
variable {s : State} {t : Nat} {w : Thread} {e : Entry} {c : Clause} {g : Grid} {p : Group}
variable (hg : s.grid? w.grid = some g) (hp : s.group? w.group = some p)
variable (howed : ∀ o ∈ w.owed, ∀ k, o.due = .grate k → w.handler = true) (hu : s.grateUnread t w = false)
include hg hp howed hu

/-- FBOPEN (09 R223). -/
theorem fbopen_performs {wide stash : Bool} {vt : BitVec 4} {d : FReg} {crd val len : SReg} (h : Issues s (.fbopen wide stash vt d crd val len) t w e c)
    {ca va n : Nat} (hca : (w.sreg crd.toNat).toNat = ca) (hva : (w.sreg val.toNat).toNat = va) (hn : (w.sreg len.toNat).toNat = n)
    (hlen : n < 2 ^ 32) (hc : ca % (if wide = true then 4 else 2) = 0) (hv : va % max 1 (fibBits vt.toNat / 8) = 0)
    (hfit : stash = true → n ≠ 0 → ca + (if wide = true then 4 else 2) * n ≤ g.stashBytes ∧ 8 * va + n * fibBits vt.toNat ≤ 8 * g.stashBytes) :
    Performs s (.fbopen wide stash vt d crd val len) s t (w.setF d.toNat (fibreOf ca va n 0 true stash wide vt.toNat)) e id := by
  have hx : exec (.fbopen wide stash vt d crd val len) s = _ :=
    (grateOp_next h hg hp howed hu : execFbopen wide stash vt d crd val len s = _)
  simp only [hca, hva, hn] at hx
  have hbits : ∀ b : Bool, ((stash && n != 0) = true → b = false) → (stash && n != 0 && b) = false := fun b hb => by
    cases h : (stash && n != 0) with
    | false => rfl
    | true => rw [hb h]; rfl
  have hstash : (stash && n != 0) = true → ca + (if wide = true then 4 else 2) * n ≤ g.stashBytes ∧ 8 * va + n * fibBits vt.toNat ≤ 8 * g.stashBytes :=
    fun h => hfit (Bool.and_eq_true_iff.mp h).1 (bne_iff_ne.mp (Bool.and_eq_true_iff.mp h).2)
  refine performs_retire h (setF_stack w _ _) (setF_spilled w _ _) (hx.trans (gate_pass_ok ?_ _))
  rw [chkIf_false (decide_eq_false (Nat.not_le.mpr hlen)), chkIf_false (by rw [hc]; rfl), chkIf_false (by rw [hv]; rfl),
    chkIf_false (hbits _ fun h => decide_eq_false (Nat.not_lt.mpr (hstash h).1)), chkIf_false (hbits _ fun h => decide_eq_false (Nat.not_lt.mpr (hstash h).2))]
  rfl

/-- FBEND (09 R225). -/
theorem fbend_writes {d : PReg} {a : FReg} (h : Issues s (.fbend d a) t w e c) : WritesP s (.fbend d a) t w e ⟨false, 0⟩ d
    (fun _ => fbOpen (w.freg a.toNat) = false ∨ fbPos (w.freg a.toNat) = fbLen (w.freg a.toNat)) flNone := by
  have hx : exec (.fbend d a) s = _ := (grateOp_next h hg hp howed hu : execFbend d a s = _)
  simp only [] at hx
  generalize hm : (if (!fbOpen (w.freg a.toNat) || fbPos (w.freg a.toNat) == fbLen (w.freg a.toNat)) = true then BitVec.allOnes 128 else 0#128) = m at hx
  have hbit : ∀ l, l < 128 → (m.getLsbD l = true ↔ fbOpen (w.freg a.toNat) = false ∨ fbPos (w.freg a.toNat) = fbLen (w.freg a.toNat)) := fun l hl => by
    rw [← hm]
    split
    · next hc => exact ⟨fun _ => by simpa using hc, fun _ => by rw [BitVec.getLsbD_allOnes, decide_eq_true hl]⟩
    · next hc => exact ⟨fun hb => absurd hb (by rw [BitVec.getLsbD_zero]; decide), fun hb => absurd (by simpa using hb) hc⟩
  obtain ⟨x, hr, h1, h2, h3⟩ := retire_writes (t := t) (w.setPred d.toNat e.mask m) (fun y => y.raise flNone) h.path
    (by unfold Thread.setPred; split <;> rfl) fun _ => rfl
  refine ⟨_, x, hx.trans (by rw [retire_fl]), by rw [retireFl_eq]; exact hr, fun r l hl => ?_, fun r => ?_, fun r l => ?_⟩
  · rw [h3, setPred_preg _ _ _ _ _ _ hl]
    have hpart : TakesPart w e ⟨false, 0⟩ l = (e.mask.getLsbD l && w.launched.getLsbD l) := by simp [TakesPart, Thread.preg]
    rw [hpart]
    cases hmask : e.mask.getLsbD l with
    | false => simp
    | true =>
      cases hlaunch : w.launched.getLsbD l with
      | true => simp [hbit l hl]
      | false =>
        have hpreg : (w.preg r).getLsbD l = false := by
          unfold Thread.preg
          split <;> simp [hlaunch]
        simp [hpreg]
  · rw [h1]; unfold Thread.setPred; split <;> rfl
  · rw [h2]; unfold Thread.setPred; split <;> rfl

theorem fbclose_performs {d : FReg} (h : Issues s (.fbclose d) t w e c) :
    Performs s (.fbclose d) s t (w.setF d.toNat (fbSetOpen (w.freg d.toNat) false)) e id :=
  performs_retire h (setF_stack w _ _) (setF_spilled w _ _) (grateOp_next h hg hp howed hu : execFbclose d s = _)

section
variable {d : FReg} {n : SSrc}

theorem fbadv_closed {upTo : Bool} (h : Issues s (.fbadv upTo d n) t w e c) (ho : fbOpen (w.freg d.toNat) = false) :
    Traps s (.fbadv upTo d n) t w c ⟨.fibreRange, 0#64, e.mask⟩ := by
  have hx : exec (.fbadv upTo d n) s = _ := (grateOp_next h hg hp howed hu : execFbadv upTo d n s = _)
  simp only [anyGlobal_one, anyStash_one, ho, Bool.false_and, Bool.or_false, Bool.and_false, Bool.false_eq_true, if_false] at hx
  refine gate_traps ?_ Cause.noConfusion hx
  cases upTo <;> simp [State.fibrePages, Group.fibreBusy, fibreClosed, chkIf, ho]

theorem fbadv_moves (h : Issues s (.fbadv false d n) t w e c) (ho : fbOpen (w.freg d.toNat) = true) :
    Performs s (.fbadv false d n) s t
      (w.setF d.toNat (fbSetPos (w.freg d.toNat) (min (fbPos (w.freg d.toNat) + (n.value w).toNat) (fbLen (w.freg d.toNat))))) e id := by
  have hx : exec (.fbadv false d n) s = _ := (grateOp_next h hg hp howed hu : execFbadv false d n s = _)
  have hclosed : fibreClosed (some (w.freg d.toNat)) = [] := chkIf_false (by rw [ho]; rfl) _ _
  simp only [Bool.false_and, Bool.false_eq_true, if_false, Bool.not_false, if_true, List.nil_append, hclosed, gate_pass_ok rfl] at hx
  exact performs_retire h (setF_stack w _ _) (setF_spilled w _ _) hx

variable (h : Issues s (.fbadv true d n) t w e c) {f : BitVec 256} (hf : w.freg d.toNat = f) (ho : fbOpen f = true) (hs : fbStash f = true)
include h hf ho hs

/-- FBADV.TO of a stash fibre once nothing is waited for. -/
theorem fbadvTo_goes (hw : s.groupReadWaits w e = false) : exec (.fbadv true d n) s =
    (Gate.of (chkIf (p.rangeBusy (fbC f + fbCs f * fbPos f) (fbCs f * (fbLen f - fbPos f))) .tileBusy (fbC f + fbCs f * fbPos f))).pass s t w e c
      (let l := s.crdReads w p f
        let hit := l.find? fun y => decide ((n.value w).toNat ≤ leNat y.2.bytes)
        let seen := l.takeWhile (fun y => decide (leNat y.2.bytes < (n.value w).toNat)) ++ hit.toList
        let reads := seen.map fun y => (lowestLane e.mask % 128, y.2)
        match seen.find? fun y => y.2.lost.isSome && y.2.strict with
        | some y => .next (s.trapOver (s.noteReads w e reads) t w c ⟨.memerr, y.2.addr, e.mask⟩)
        | none =>
          let far := s.farOf w reads
          let s' := (s.noteReads w e reads).touched w (farSpans far)
          let late := (reads.filter fun y => y.2.lost == some 2).flatMap fun y => y.2.uses.map (·.pa)
          .next ((if late.isEmpty then s' else s'.dropLate w late).retire t (w.setF d.toNat (fbSetPos f ((hit.map (·.1)).getD (fbLen f)))) e)) := by
  have hx : exec (.fbadv true d n) s = _ := (grateOp_next h hg hp howed hu : execFbadv true d n s = _)
  have hbusy : p.fibreBusy (some f) false
      = chkIf (p.rangeBusy (fbC f + fbCs f * fbPos f) (fbCs f * (fbLen f - fbPos f))) .tileBusy (fbC f + fbCs f * fbPos f) := by
    simp only [Group.fibreBusy, ho, hs, Bool.not_true, Bool.or_false, Bool.false_eq_true, if_false, Bool.false_and, chkIf_false rfl, List.append_nil]
    rfl
  have hclosed : fibreClosed (some f) = [] := chkIf_false (by rw [ho]; rfl) _ _
  have hpages : s.fibrePages w (some f) false = [] := by simp [State.fibrePages, hs]
  simp only [hf, anyGlobal_one, anyStash_one, ho, hs, hw, Bool.not_true, Bool.and_false, Bool.false_and, Bool.or_false, Bool.false_eq_true, if_false,
    if_true, hbusy, hclosed, hpages, List.append_nil, List.nil_append] at hx
  exact hx

theorem fbadvTo_stalls (hw : s.groupReadWaits w e = true) : Stalls s (.fbadv true d n) t w := by
  have hx : exec (.fbadv true d n) s = _ := (grateOp_next h hg hp howed hu : execFbadv true d n s = _)
  simp only [hf, anyGlobal_one, anyStash_one, ho, hs, hw, Bool.and_true, Bool.true_and, Bool.or_true, Bool.true_or, if_true] at hx
  exact stalls_of hx

theorem fbadvTo_busy (hw : s.groupReadWaits w e = false)
    (hb : p.rangeBusy (fbC f + fbCs f * fbPos f) (fbCs f * (fbLen f - fbPos f)) = true) :
    Traps s (.fbadv true d n) t w c ⟨.tileBusy, BitVec.ofNat 64 (fbC f + fbCs f * fbPos f), e.mask⟩ :=
  gate_traps (chkIf_true hb _ _) Cause.noConfusion (fbadvTo_goes hg hp howed hu h hf ho hs hw)

theorem fbadvTo_finds (hw : s.groupReadWaits w e = false)
    (hb : p.rangeBusy (fbC f + fbCs f * fbPos f) (fbCs f * (fbLen f - fbPos f)) = false) (hbad : p.badStash = []) {k : Nat}
    (hlo : fbPos f ≤ k) (hhi : k ≤ fbLen f) {crd : Nat → Nat}
    (hcrd : (fun j => leNat ((List.range (fbCs f)).map fun b => tget 0#8 p.stash (fbC f + fbCs f * j + b))) = crd)
    (hbelow : ∀ j, fbPos f ≤ j → j < k → crd j < (n.value w).toNat) (hend : k = fbLen f ∨ (n.value w).toNat ≤ crd k) :
    Performs s (.fbadv true d n) s t (w.setF d.toNat (fbSetPos f k)) e id := by
  have hx := fbadvTo_goes hg hp howed hu h hf ho hs hw
  rw [gate_pass_ok (chkIf_false hb _ _), crdReads_stash hs hbad] at hx
  simp only [] at hx
  have hbytes : ∀ j, leNat (stashRead s w p (crdRange f j 1)).bytes = crd j := fun j => by
    rw [← hcrd]
    simp only [stashRead, crdRange, Nat.mul_one]
  have hfound := find_from hlo hhi (g := fun j => stashRead s w p (crdRange f j 1)) (q := fun y => decide ((n.value w).toNat ≤ leNat y.bytes))
    (fun j h1 h2 => decide_eq_false (by rw [hbytes]; exact Nat.not_le.mpr (hbelow j h1 h2)))
    (hend.imp_right fun h => decide_eq_true (by rw [hbytes]; exact h))
  generalize hl : ((List.range (fbCount f)).map fun i => (fbPos f + i, stashRead s w p (crdRange f (fbPos f + i) 1))) = l at hx
  have hl' : ((List.range (fbLen f - fbPos f)).map fun i => (fbPos f + i, stashRead s w p (crdRange f (fbPos f + i) 1))) = l := hl
  have hall : ∀ y ∈ l, y.2.lost = none ∧ y.2.uses = [] := fun y hy => by
    rw [← hl] at hy
    obtain ⟨i, -, rfl⟩ := List.mem_map.mp hy
    exact ⟨rfl, rfl⟩
  rw [hl'] at hfound
  rw [hfound] at hx
  generalize hseen : List.takeWhile _ l ++ Option.toList _ = seen at hx
  have hsub : ∀ y ∈ seen, y ∈ l := fun y hy => by
    rw [← hseen] at hy
    rcases List.mem_append.mp hy with hy | hy
    · exact (List.takeWhile_prefix _).subset hy
    · exact List.mem_of_find?_eq_some (Option.mem_toList.mp hy)
  have hlost : seen.find? (fun y => y.2.lost.isSome && y.2.strict) = none :=
    List.find?_eq_none.mpr fun y hy => by simp [(hall y (hsub y hy)).1]
  have hreads : ∀ y ∈ seen.map fun y => (lowestLane e.mask % 128, y.2), y.2.lost = none ∧ y.2.uses = [] := fun y hy => by
    obtain ⟨z, hz, rfl⟩ := List.mem_map.mp hy
    exact hall z (hsub z hz)
  have hlate : (seen.map fun y => (lowestLane e.mask % 128, y.2)).filter (fun y => y.2.lost == some 2) = [] :=
    List.filter_eq_nil_iff.mpr fun y hy => by rw [(hreads y hy).1]; decide
  rw [hlost] at hx
  simp only [stashReads_found hreads, hlate, List.flatMap_nil, List.isEmpty_nil, if_true] at hx
  exact performs_retire h (setF_stack w _ _) (setF_spilled w _ _) hx
end

/-! ## FBRD -/

section
variable {val q : Bool} {d : VReg} {a : FReg} (h : Issues s (.fbrd val q d a) t w e c) {f : BitVec 256} (hf : w.freg a.toNat = f)
include h hf

theorem fbrd_closed (ho : fbOpen f = false) : Traps s (.fbrd val q d a) t w c ⟨.fibreRange, BitVec.ofNat 64 (fbC f), e.mask⟩ := by
  have hx : exec (.fbrd val q d a) s = _ := (grateOp_next h hg hp howed hu : execFbrd val q d a s = _)
  simp only [hf, anyGlobal_one, anyStash_one, ho, Bool.false_and, Bool.false_eq_true, if_false, List.isEmpty_nil, Bool.not_true, Bool.not_false,
    Bool.true_or, chkIf_false rfl, chkIf_true rfl, List.append_nil, List.nil_append] at hx
  exact gate_traps rfl Cause.noConfusion hx

variable (ho : fbOpen f = true) (hs : fbStash f = true)
include ho hs

theorem fbrd_stalls (hw : s.groupReadWaits w e = true) : Stalls s (.fbrd val q d a) t w := by
  have hx : exec (.fbrd val q d a) s = _ := (grateOp_next h hg hp howed hu : execFbrd val q d a s = _)
  simp only [hf, anyGlobal_one, anyStash_one, ho, hs, hw, Bool.not_true, Bool.and_false, Bool.and_true, Bool.false_and, Bool.false_eq_true, if_false,
    if_true] at hx
  exact stalls_of hx

variable {place : Nat → Nat × Nat} (hplace : (fun l => if val = true then valRange f (fbPos f + l) 1 else crdRange f (fbPos f + l) 1) = place)
include hplace

/-- FBRD of a stash fibre once its close is not waited for. -/
theorem fbrd_goes (hw : s.groupReadWaits w e = false) {busy : List Nat}
    (hb : (lanesOf e.mask).filter (fun l => decide (l < fbCount f) && p.busyAt w.wix (place l).1 (place l).2) = busy) :
    exec (.fbrd val q d a) s = (Gate.of (chkIf (fbPos f == fbLen f) .fibreRange (fbC f)
      ++ chkIf (!busy.isEmpty) .tileBusy (place (busy.headD 0)).1)).pass s t w e c
      (let rs := (lanesOf e.mask).map fun l => (l, s.fbrdLane w p f val l)
        let got := rs.filterMap fun x => x.2.map fun y => (x.1, y)
        let far := s.farOf w got
        let s := (s.noteReads w e got).touched w (farSpans far)
        let o : Op := { uid := s.uid, flag := (c.flag q).getD 0, regs := [d.toNat], sreg := none
                        kind := .load (rs.map fun x => (vix d.toNat x.1, fbrdWord f val x.1 x.2)), far := far, since := s.time }
        .next ({ s with uid := s.uid + 1 }.retire t ((w.addOp o).owe (owesOf got) (.flag o.flag)) e)) := by
  have hx : exec (.fbrd val q d a) s = _ := (grateOp_next h hg hp howed hu : execFbrd val q d a s = _)
  subst hplace
  simp only [hf, anyGlobal_one, anyStash_one, ho, hs, hw, hb, Bool.not_true, Bool.and_false, Bool.and_true, Bool.false_and, Bool.false_or,
    Bool.false_eq_true, if_false, if_true, List.nil_append] at hx
  exact hx

/-- A lane that reads a byte of a tile that moves or that another wave owns (07 R140). -/
theorem fbrd_traps (hw : s.groupReadWaits w e = false) {x : Cause} {y : DWord}
    (hcase : (fbPos f = fbLen f ∧ x = .fibreRange ∧ y = BitVec.ofNat 64 (fbC f))
      ∨ fbPos f ≠ fbLen f ∧ x = .tileBusy ∧ ∃ l, y = BitVec.ofNat 64 (place l).1
        ∧ (l ∈ lanesOf e.mask ∧ fbPos f + l < fbLen f ∧ p.busyAt w.wix (place l).1 (place l).2 = true)
        ∧ ∀ k, k < l → ¬ (k ∈ lanesOf e.mask ∧ fbPos f + k < fbLen f ∧ p.busyAt w.wix (place k).1 (place k).2 = true)) :
    Traps s (.fbrd val q d a) t w c ⟨x, y, e.mask⟩ := by
  have hx := fbrd_goes hg hp howed hu h hf ho hs hplace hw rfl
  have hmem : ∀ k, k ∈ (lanesOf e.mask).filter (fun l => decide (l < fbCount f) && p.busyAt w.wix (place l).1 (place l).2)
      ↔ k ∈ lanesOf e.mask ∧ fbPos f + k < fbLen f ∧ p.busyAt w.wix (place k).1 (place k).2 = true := fun k => by
    rw [List.mem_filter, Bool.and_eq_true, decide_eq_true_eq, fbCount, show k < fbLen f - fbPos f ↔ fbPos f + k < fbLen f by omega]
  rcases hcase with ⟨hend, rfl, rfl⟩ | ⟨hne, rfl, l, rfl, hl, hmin⟩
  · refine gate_traps ?_ Cause.noConfusion hx
    have hnone : (lanesOf e.mask).filter (fun l => decide (l < fbCount f) && p.busyAt w.wix (place l).1 (place l).2) = [] :=
      List.eq_nil_iff_forall_not_mem.mpr fun k hk => by have := ((hmem k).mp hk).2.1; omega
    rw [hnone, chkIf_true (beq_iff_eq.mpr hend)]
    rfl
  · refine gate_traps ?_ Cause.noConfusion hx
    have hasc : ((lanesOf e.mask).filter (fun l => decide (l < fbCount f) && p.busyAt w.wix (place l).1 (place l).2)).Pairwise (· < ·) :=
      (List.pairwise_lt_range.filter _).filter _
    have hin := (hmem l).mpr hl
    cases hlist : (lanesOf e.mask).filter (fun l => decide (l < fbCount f) && p.busyAt w.wix (place l).1 (place l).2) with
    | nil => rw [hlist] at hin; exact absurd hin List.not_mem_nil
    | cons z r =>
      have hz := (hmem z).mp (hlist ▸ List.mem_cons_self)
      rw [hlist] at hin hasc
      have hzl : z = l := by
        rcases List.mem_cons.mp hin with rfl | hr
        · rfl
        · exact absurd hz (hmin z (List.rel_of_pairwise_cons hasc hr))
      subst hzl
      rw [chkIf_false (beq_eq_false_iff_ne.mpr hne)]
      rfl

/-- The word that FBRD gives a lane (09 R227). -/
def fibreWord (p : Group) (f : BitVec 256) (val : Bool) (place : Nat → Nat × Nat) (l : Nat) : Word :=
  let k := fbPos f + l
  let b := fibBits (fbVt f)
  let at' := fun o n => leNat ((List.range n).map fun j => tget 0#8 p.stash (o + j))
  if fbLen f ≤ k then (if val = true then 0#32 else 0xFFFFFFFF#32)
  else if val = true then BitVec.ofNat 32 (at' (place l).1 (place l).2 / 2 ^ (k * b % 8) % 2 ^ b)
  else BitVec.ofNat 32 (at' (fbC f + fbCs f * k) (fbCs f))

theorem fbrd_brings (hw : s.groupReadWaits w e = false) (hbad : p.badStash = []) (hne : fbPos f ≠ fbLen f)
    (hno : ∀ l, ¬ (l ∈ lanesOf e.mask ∧ fbPos f + l < fbLen f ∧ p.busyAt w.wix (place l).1 (place l).2 = true)) {flag : Nat}
    (hflag : c.flag q = some flag) : Performs s (.fbrd val q d a) { s with uid := s.uid + 1 } t
      (w.addOp { uid := s.uid, flag := flag, regs := [d.toNat], sreg := none, far := [], since := s.time
                 kind := .load ((lanesOf e.mask).map fun l => (vix d.toNat l, fibreWord p f val place l)) }) e id := by
  have hnone : (lanesOf e.mask).filter (fun l => decide (l < fbCount f) && p.busyAt w.wix (place l).1 (place l).2) = [] :=
    List.filter_eq_nil_iff.mpr fun l hl hb => by
      rw [Bool.and_eq_true, decide_eq_true_eq, fbCount] at hb
      exact hno l ⟨hl, by omega, hb.2⟩
  have hx := fbrd_goes hg hp howed hu h hf ho hs hplace hw hnone
  rw [gate_pass_ok (by rw [chkIf_false (beq_eq_false_iff_ne.mpr hne)]; rfl)] at hx
  have hlane : ∀ l, s.fbrdLane w p f val l = if fbLen f ≤ fbPos f + l then none else some (stashRead s w p (place l)) := fun l => by
    subst hplace
    simp only [State.fbrdLane, hs, if_true, stashLost_whole hbad, Bool.false_eq_true, if_false, stashBytes_whole (stashLost_whole hbad _ _), stashRead]
  have hword : ∀ l, fbrdWord f val l (if fbLen f ≤ fbPos f + l then none else some (stashRead s w p (place l))) = fibreWord p f val place l := fun l => by
    subst hplace
    unfold fibreWord
    simp only []
    split
    · rfl
    · cases val with
      | true => simp only [fbrdWord, if_true, bits, Nat.shiftRight_eq_div_pow, valShift, stashRead]
      | false => simp only [fbrdWord, Bool.false_eq_true, if_false, stashRead, crdRange, Nat.mul_one]
  simp only [hlane, List.map_map, Function.comp_def, hword, hflag, Option.getD_some] at hx
  generalize hgot : List.filterMap _ _ = got at hx
  have hfound : ∀ y ∈ got, y.2.lost = none ∧ y.2.uses = [] ∧ y.2.past = false := fun y hy => by
    rw [← hgot] at hy
    obtain ⟨x, hx, hxy⟩ := List.mem_filterMap.mp hy
    obtain ⟨l, -, rfl⟩ := List.mem_map.mp hx
    simp only [Option.map_eq_some_iff] at hxy
    obtain ⟨r, hr, rfl⟩ := hxy
    split at hr
    · cases hr
    · obtain rfl := Option.some.inj hr
      exact ⟨rfl, rfl, rfl⟩
  have howe : ∀ (x : Thread) (k : Due), x.owe (owesOf got) k = x := fun x k => by
    rw [owesOf_found fun y hy => ⟨(hfound y hy).1, (hfound y hy).2.2⟩]
    simp [Thread.owe]
  rw [stashReads_found fun y hy => ⟨(hfound y hy).1, (hfound y hy).2.1⟩] at hx
  have hfar : s.farOf w got = [] := List.flatMap_eq_nil_iff.mpr fun y hy => by rw [(hfound y hy).2.1]; rfl
  rw [howe, hfar] at hx
  exact performs_retire h rfl rfl hx
end

end

/-- Settles O37: the instructions of fibres, case by case. -/
theorem fibres : Obligations.Fibres := by
  unfold Obligations.Fibres
  intro s t w e c g p hg hp howed hu
  refine ⟨?_, ?_, fun d a => fbend_writes hg hp howed hu, fun d => fbclose_performs hg hp howed hu, ?_⟩
  · intro wide stash vt d crd val len i ca va n cs vb h hlen hc hv hfit
    exact fbopen_performs hg hp howed hu h rfl rfl rfl hlen hc hv hfit
  · intro d n f x
    refine ⟨fbadv_moves hg hp howed hu, fun h ho hs hw => fbadvTo_stalls hg hp howed hu h rfl ho hs hw,
      fun h ho hs hw hb => fbadvTo_busy hg hp howed hu h rfl ho hs hw hb, ?_, fun upTo => fbadv_closed hg hp howed hu⟩
    intro h ho hs hw hb hbad k hlo hhi crd hbelow hend
    exact fbadvTo_finds hg hp howed hu h rfl ho hs hw hb hbad hlo hhi rfl hbelow hend
  · intro val q d a flag i f place busy h hflag
    refine ⟨fbrd_closed hg hp howed hu h rfl, fbrd_stalls hg hp howed hu h rfl, fun ho hs hw hbad => ⟨fun hend => ?_, fun l hne hl hmin => ?_, ?_⟩⟩
    · exact fbrd_traps hg hp howed hu h rfl ho hs rfl hw (.inl ⟨hend, rfl, rfl⟩)
    · exact fbrd_traps hg hp howed hu h rfl ho hs rfl hw (.inr ⟨hne, rfl, l, rfl, hl, hmin⟩)
    · intro hne hno word
      exact fbrd_brings hg hp howed hu h rfl ho hs rfl hw hbad hne hno hflag

end Sys2Proof.Machine
end

section
/-! SUPPORT (07 R142, R143, 08 R172, R173). The record of a thread set again, and what a STEP leaves. -/

namespace Sys2Proof.Machine

theorem aset_aset {α : Type} (l : List (Nat × α)) (k : Nat) (v v' : α) : aset (aset l k v) k v' = aset l k v' := by
  induction l with
  | nil => simp [aset]
  | cons y r ih =>
    obtain ⟨i, x⟩ := y
    by_cases hk : k = i
    · simp [aset, hk]
    · by_cases hlt : k < i
      · simp [aset, hk, hlt]
      · simp [aset, hk, hlt, ih]

theorem setThread_setThread (s : State) (t : Nat) (w x : Thread) : (s.setThread t w).setThread t x = s.setThread t x := by
  simp only [State.setThread, aset_aset]

section
variable {s : State} {t : Nat} {w : Thread}

theorem grateUnread_setThread (x : Thread) : (s.setThread t x).grateUnread t w = s.grateUnread t w := rfl
theorem groupReadWaits_setThread (x : Thread) (e : Entry) : (s.setThread t x).groupReadWaits w e = s.groupReadWaits w e := rfl
theorem gridReadWaits_setThread (x : Thread) (e : Entry) : (s.setThread t x).gridReadWaits w e = s.gridReadWaits w e := rfl

/-! Translations look at no thread. -/

variable (l : List (Nat × Thread))

theorem clean64_threads (a : Nat) : State.clean64 { s with threads := l } a = s.clean64 a := rfl

theorem walk_threads (va table level fuel : Nat) : State.walk { s with threads := l } va table level fuel = s.walk va table level fuel := by
  induction fuel generalizing table level with
  | zero => rfl
  | succ n ih => simp only [State.walk, clean64_threads, ih]; rfl

theorem walkReads_threads (va table level fuel : Nat) :
    State.walkReads { s with threads := l } va table level fuel = s.walkReads va table level fuel := by
  induction fuel generalizing table level with
  | zero => rfl
  | succ n ih => simp only [State.walkReads, clean64_threads, ih]

theorem translate_threads (place c : Nat) (va : DWord) : State.translate { s with threads := l } place c va = s.translate place c va := by
  simp only [State.translate, walk_threads]
  rfl

theorem walkReached_threads (place c : Nat) (va : DWord) : State.walkReached { s with threads := l } place c va = s.walkReached place c va := by
  simp only [State.walkReached, walkReads_threads]
  rfl

theorem pageReached_threads (place c : Nat) (va : DWord) : State.pageReached { s with threads := l } place c va = s.pageReached place c va := by
  simp only [State.pageReached, translate_threads, walkReached_threads]
  rfl

theorem l1Hit_threads (u : LineUse) : State.l1Hit { s with threads := l } u = s.l1Hit u := rfl

theorem privReached_threads (a : DWord) (n : Nat) : State.privReached { s with threads := l } w a n = s.privReached w a n := by
  simp only [State.privReached, translate_threads, walkReached_threads, l1Hit_threads]
  rfl

theorem refillReached_setThread (x : Thread) : (s.setThread t x).refillReached w = s.refillReached w := by
  simp only [State.refillReached, State.setThread, pageReached_threads]
  rfl

theorem trapReached_setThread (x : Thread) (k : Cause) : (s.setThread t x).trapReached w k = s.trapReached w k := by
  simp only [State.trapReached, State.frameReached, State.setThread, privReached_threads]
  rfl
end

/-! ## What is kept -/

theorem Kept.threads {s s' : State} (h : Kept s s') (l : List (Nat × Thread)) (k : Option Nat) : Kept s { s' with threads := l, cur := k } :=
  ⟨h.rest, h.contexts, h.grids, h.groups⟩

theorem Kept.of_threads {s s' : State} {l : List (Nat × Thread)} (h : Kept { s with threads := l } s') : Kept s s' := by
  refine ⟨?_, h.contexts, h.grids, h.groups⟩
  have := h.rest
  exact congrArg (fun x : State => { x with threads := s.threads }) this

theorem modGrid_some {s : State} {c k : Nat} {f : Grid → Grid} {y : Grid} (h : (s.modGrid c f).grid? k = some y) :
    ∃ x, s.grid? k = some x ∧ y = if k = c then f x else x := by
  cases hk : s.grid? k with
  | some x => exact ⟨x, rfl, Option.some.inj (h.symm.trans (modGrid_grid s c f k x hk))⟩
  | none =>
    exfalso
    cases hc : s.grid? c with
    | none =>
      rw [State.modGrid, hc] at h
      cases h.symm.trans hk
    | some z =>
      have hne : k ≠ c := fun e => by rw [e, hc] at hk; cases hk
      rw [State.modGrid, hc] at h
      exact absurd ((aget_aset_ne s.grids (f z) hne).symm.trans h) (by rw [show aget? s.grids k = none from hk]; exact nofun)

theorem modGroup_some {s : State} {c k : Nat} {f : Group → Group} {y : Group} (h : (s.modGroup c f).group? k = some y) :
    ∃ x, s.group? k = some x ∧ y = if k = c then f x else x := by
  cases hk : s.group? k with
  | some x => exact ⟨x, rfl, Option.some.inj (h.symm.trans (modGroup_group s c f k x hk))⟩
  | none =>
    exfalso
    cases hc : s.group? c with
    | none =>
      rw [State.modGroup, hc] at h
      cases h.symm.trans hk
    | some z =>
      have hne : k ≠ c := fun e => by rw [e, hc] at hk; cases hk
      rw [State.modGroup, hc] at h
      exact absurd ((aget_aset_ne s.groups (f z) hne).symm.trans h) (by rw [show aget? s.groups k = none from hk]; exact nofun)

/-- A change of a grid that leaves the watchdog's count alone. -/
theorem Kept.modGrid {s s' : State} (h : Kept s s') (c : Nat) {f : Grid → Grid}
    (hf : ∀ x n, f { x with watch := n } = { f x with watch := n }) : Kept (s.modGrid c f) (s'.modGrid c f) := by
  obtain ⟨l, hl⟩ := modGrid_rest s c f
  obtain ⟨l', hl'⟩ := modGrid_rest s' c f
  refine ⟨?_, ?_, fun k x hx => ?_, ?_⟩
  · rw [hl, hl']
    exact congrArg (fun x : State => { x with grids := l }) h.rest
  · rw [hl, hl']
    exact h.contexts
  · obtain ⟨y, hy, rfl⟩ := modGrid_some hx
    obtain ⟨n, hn⟩ := h.grids k y hy
    refine ⟨n, (modGrid_grid _ _ _ _ _ hn).trans ?_⟩
    split
    · rw [hf]
    · rfl
  · rw [hl, hl']
    exact h.groups

/-- A change of a group that leaves the watchdog's count alone. -/
theorem Kept.modGroup {s s' : State} (h : Kept s s') (c : Nat) {f : Group → Group}
    (hf : ∀ x n, f { x with watch := n } = { f x with watch := n }) : Kept (s.modGroup c f) (s'.modGroup c f) := by
  obtain ⟨l, hl⟩ := modGroup_rest s c f
  obtain ⟨l', hl'⟩ := modGroup_rest s' c f
  refine ⟨?_, ?_, ?_, fun k x hx => ?_⟩
  · rw [hl, hl']
    exact congrArg (fun x : State => { x with groups := l }) h.rest
  · rw [hl, hl']
    exact h.contexts
  · rw [hl, hl']
    exact h.grids
  · obtain ⟨y, hy, rfl⟩ := modGroup_some hx
    obtain ⟨n, hn⟩ := h.groups k y hy
    refine ⟨n, (modGroup_group _ _ _ _ _ hn).trans ?_⟩
    split
    · rw [hf]
    · rfl

/-! ## What a retirement leaves, from a state where the thread's record stands already, and with other counts of its steps -/

theorem path_held_stack (s : State) {x : Thread} (h : x.spilled = 0) : s.path? x = running? x.stack := by
  simp [State.path?, State.entries, h, State.spilledFrom]

section
variable {s s' : State} {t : Nat} {w x : Thread} {e : Entry} {f : Entry → Entry}

theorem RunsOn.of_setThread {y : Thread} (h : RunsOn (s.setThread t y) s' t w x e f) : RunsOn s s' t w x e f := by
  refine ⟨Kept.of_threads h.kept, h.runs.thread, h.runs.rest, h.runs.path, h.runs.memory, h.runs.units, fun u z hu hz => ?_⟩
  exact h.runs.others u z hu ((aget_aset_ne s.threads y hu).trans hz)

theorem RunsOn.modGrid (h : RunsOn s s' t w x e f) (hx : w.stackHeld → x.spilled = 0) (c : Nat) {F : Grid → Grid}
    (hF : ∀ x n, F { x with watch := n } = { F x with watch := n }) : RunsOn (s.modGrid c F) (s'.modGrid c F) t w x e f := by
  have hk := h.kept.modGrid c hF
  obtain ⟨l, hl⟩ := modGrid_rest s c F
  obtain ⟨l', hl'⟩ := modGrid_rest s' c F
  rw [hl, hl'] at hk ⊢
  refine ⟨hk, h.runs.thread, h.runs.rest, fun k => ?_, h.runs.memory, h.runs.units, h.runs.others⟩
  rw [← h.runs.path k, path_held_stack _ (hx k), path_held_stack _ (hx k)]

theorem RunsOn.modGroup (h : RunsOn s s' t w x e f) (hx : w.stackHeld → x.spilled = 0) (c : Nat) {F : Group → Group}
    (hF : ∀ x n, F { x with watch := n } = { F x with watch := n }) : RunsOn (s.modGroup c F) (s'.modGroup c F) t w x e f := by
  have hk := h.kept.modGroup c hF
  obtain ⟨l, hl⟩ := modGroup_rest s c F
  obtain ⟨l', hl'⟩ := modGroup_rest s' c F
  rw [hl, hl'] at hk ⊢
  refine ⟨hk, h.runs.thread, h.runs.rest, fun k => ?_, h.runs.memory, h.runs.units, h.runs.others⟩
  rw [← h.runs.path k, path_held_stack _ (hx k), path_held_stack _ (hx k)]

/-- A change of the thread's record that no statement about it sees. -/
theorem RunsOn.modThread (h : RunsOn s s' t w x e f) (hx : w.stackHeld → x.spilled = 0) {F : Thread → Thread}
    (hF : (F x).rest = x.rest) (hst : (F x).stack = x.stack) (hsp : (F x).spilled = x.spilled) :
    RunsOn s (s'.modThread t F) t w (F x) e f := by
  have hm : s'.modThread t F = s'.setThread t (F x) := by rw [State.modThread, h.runs.thread]
  rw [hm]
  refine ⟨Kept.threads h.kept _ s'.cur, ?_, hF.trans h.runs.rest, fun k => ?_, h.runs.memory, h.runs.units, fun u z hu hz => ?_⟩
  · simp [State.thread?, State.setThread]
  · rw [← h.runs.path k, path_held_stack _ (hx k), path_held_stack _ (hsp.trans (hx k)), hst]
  · obtain ⟨n, hn⟩ := h.runs.others u z hu hz
    exact ⟨n, (aget_aset_ne s'.threads (F x) hu).trans hn⟩
end


/-! ## The state after a retirement, and after select(), of a thread that holds its whole stack -/

theorem putEntries_held (s : State) (t : Nat) (w : Thread) {es : List Entry} (h : es.length ≤ 16) :
    s.putEntries t w es = s.setThread t { w with stack := es, spilled := 0 } := by
  rw [State.putEntries, List.drop_eq_nil_of_le h, State.writeSpill, List.take_of_length_le h, Nat.sub_eq_zero_of_le h]

/-- The thread that a retirement leaves, past its instruction. -/
def Thread.after (w : Thread) (f : Entry → Entry) : Thread :=
  { w.advance with stack := onRunning (fun y => f { y with icnt := y.icnt + 1 }) w.stack, spilled := 0 }

theorem retirePath_held (s : State) (t : Nat) {w : Thread} (e : Entry) (f : Entry → Entry) (h : w.stackHeld) :
    ∃ k, s.retirePath t w e f = { (s.countRetire w e).setThread t (w.after f) with cur := k } := by
  have hs : (s.countRetire w e).setPath t w.advance (fun y => f { y with icnt := y.icnt + 1 })
      = (s.countRetire w e).setThread t (w.after f) := setPath_held _ (show w.advance.stackHeld from h)
  rw [State.retirePath]
  simp only [hs]
  split
  · exact ⟨none, rfl⟩
  · exact ⟨(s.countRetire w e).cur, rfl⟩

theorem noteSpill_held (s : State) {w : Thread} {n : Nat} (h : w.spilled = 0) (hn : n ≤ 16) : s.noteSpill w n = s := by
  rw [State.noteSpill, Thread.spillMoves, h, Nat.sub_eq_zero_of_le hn]
  rfl

theorem reach_setThread (s : State) (t : Nat) (x w : Thread) (g n : Word) (l : List Entry) :
    (s.setThread t x).reach w g n l = (s.reach w g n l).setThread t x := by
  have hg : ∀ f, (s.setThread t x).modGrid w.grid f = (s.modGrid w.grid f).setThread t x := fun f => by
    simp only [State.modGrid, show (s.setThread t x).grid? w.grid = s.grid? w.grid from rfl]
    split <;> rfl
  have hp : ∀ (s : State) f, (s.setThread t x).modGroup w.group f = (s.modGroup w.group f).setThread t x := fun s f => by
    simp only [State.modGroup, show (s.setThread t x).group? w.group = s.group? w.group from rfl]
    split <;> rfl
  rw [State.reach, hg, hp, State.reach]

/-- A wave in which a path runs takes no trap on a trap path. -/
theorem takeWaiting_runs {s s' : State} {t : Nat} {x : Thread} (hs : s' = s.setThread t x) (hx : x.spilled = 0) {y : Entry}
    (hy : running? x.stack = some y) : s'.takeWaiting t = s.setThread t x := by
  have ht : s'.thread? t = some x := by rw [hs, setThread_thread_same]
  rw [← hs, State.takeWaiting, ht]
  simp only [path_held_stack _ hx, hy, Option.isSome_some, Bool.or_true, if_true]

/-- What select() leaves where a path of the wave runs: its counts, its stack, and where its grid and its group have come to. -/
theorem reselect_runs (s : State) (t : Nat) {w : Thread} {es : List Entry} {p : PathSet} (hm : w.ember = none) (hs : w.spilled = 0)
    (hp : PathSet.select ⟨es, w.gcnt, w.wcnt⟩ = p) (hl : p.es.length ≤ 16) {y : Entry} (hy : running? p.es = some y) :
    s.reselect t w es = (s.reach w p.gcnt p.wcnt es).setThread t
      { w with gcnt := p.gcnt, wcnt := p.wcnt, rejoinCount := 0, stack := p.es, spilled := 0 } := by
  have hedge : (p.gcnt != w.gcnt && es.any fun e => e.st == .arrived && e.gstep == p.gcnt)
      = decide (p.gcnt ≠ w.gcnt ∧ ∃ z ∈ es, z.st = .arrived ∧ z.gstep = p.gcnt) := by
    rw [Bool.eq_iff_iff]
    simp
  unfold State.reselect
  simp only [hm, Option.isSome_none, hp, noteSpill_held s hs hl, putEntries_held _ _ _ hl, hy, Option.isSome_some, if_true, hedge,
    decide_eq_true_eq, Bool.false_eq_true, if_false]
  exact takeWaiting_runs (by rw [← reach_setThread]; rfl) rfl hy

/-! ## select() after an arrival -/

/-- No entry that select() looks at is spent. -/
theorem sweep_kept (k : Bool) (n : Nat) (es : List Entry) (h : ∀ z ∈ es, z.mask ≠ 0#128 ∨ z.st = .parked) : sweep k n es = es := by
  induction n generalizing es with
  | zero => rfl
  | succ n ih =>
    cases es with
    | nil => rfl
    | cons z r =>
      have hz : z.spent k = false := by
        obtain hm | hp := h z List.mem_cons_self
        · simp [Entry.spent, hm]
        · simp [Entry.spent, hp]
      rw [sweep, hz, ih r fun y hy => h y (List.mem_cons_of_mem _ hy)]
      rfl

theorem dropEmpty_kept (n : Nat) {z : Entry} {r : List Entry} (h : z.mask ≠ 0#128) : dropEmpty n (z :: r) = z :: r := by
  cases n with
  | zero => rfl
  | succ n => rw [dropEmpty, if_neg fun hc => h hc.1]

theorem select_kept (p : PathSet) {z : Entry} {r : List Entry} (hp : p.es = z :: r) (hz : z.mask ≠ 0#128)
    (hr : ∀ y ∈ r, y.mask ≠ 0#128 ∨ y.st = .parked) :
    p.select = match p.choose with
      | some q => q
      | none => if p.es.any (fun e => e.st == .arrived) then (p.arrive.choose).getD p.arrive else p := by
  have hk : ∀ y ∈ p.es, y.mask ≠ 0#128 ∨ y.st = .parked := by
    rw [hp]
    intro y hy
    obtain rfl | hy := List.mem_cons.1 hy
    · exact .inl hz
    · exact hr y hy
  have hd : dropEmpty p.es.length p.es = p.es := by rw [hp, dropEmpty_kept _ hz]
  unfold PathSet.select
  simp only [sweep_kept false _ _ hk, hd] <;> rfl

/-- The only path of a wave arrives, so that the wave does, and goes on. -/
theorem select_alone {z : Entry} {g n : Word} (hz : z.mask ≠ 0#128) (ha : z.st = .arrived) (hj : z.ej = false)
    (hg : z.gstep = g ∨ z.gstep = g + 1) : PathSet.select ⟨[z], g, n⟩
      = ⟨[{ z with st := .running, wstep := n + 1 }], z.gstep, n + 1⟩ := by
  have hc : PathSet.choose ⟨[z], g, n⟩ = none := by simp [PathSet.choose, runWaiting, ha]
  have hga : (if z.gstep = g + 1#32 then g + 1#32 else g) = z.gstep := by
    split
    · next h => exact h.symm
    · next h => exact (hg.resolve_right h).symm
  have harr : PathSet.arrive ⟨[z], g, n⟩ = ⟨[{ z with st := .waiting, wstep := n + 1 }], z.gstep, n + 1⟩ := by
    simp [PathSet.arrive, ha, hga]
  rw [select_kept _ rfl hz (by simp), hc, harr]
  simp [ha, PathSet.choose, runWaiting, hj, hz]

/-- A path arrives while another of its wave waits: that one runs. -/
theorem select_waiting {z y : Entry} {r : List Entry} {g n : Word} (hz : z.mask ≠ 0#128) (ha : z.st = .arrived) (hy : y.st = .waiting)
    (hj : y.ej = false) (hm : y.mask ≠ 0#128) (hr : ∀ x ∈ r, x.mask ≠ 0#128 ∨ x.st = .parked) :
    PathSet.select ⟨z :: y :: r, g, n⟩ = ⟨z :: { y with st := .running } :: r, g, n⟩ := by
  have hc : PathSet.choose ⟨z :: y :: r, g, n⟩ = some ⟨z :: { y with st := .running } :: r, g, n⟩ := by
    simp [PathSet.choose, runWaiting, ha, hy, hj, hm]
  rw [select_kept _ rfl hz, hc]
  intro x hx
  obtain rfl | hx := List.mem_cons.1 hx
  · exact .inl hm
  · exact hr x hx

/-! ## The arrival of a path (07 R142, 08 R173) -/

section
variable {s : State} {t : Nat} {w : Thread} {e : Entry} {F : Entry → Entry} {p : PathSet}

theorem reach_congr (s : State) (w : Thread) (g n : Word) {l l' : List Entry}
    (h : g ≠ w.gcnt → ((∃ z ∈ l, z.st = .arrived ∧ z.gstep = g) ↔ ∃ z ∈ l', z.st = .arrived ∧ z.gstep = g)) :
    s.reach w g n l = s.reach w g n l' := by
  have hh : (g ≠ w.gcnt ∧ ∃ z ∈ l, z.st = .arrived ∧ z.gstep = g) = (g ≠ w.gcnt ∧ ∃ z ∈ l', z.st = .arrived ∧ z.gstep = g) :=
    propext (and_congr_right h)
  simp only [State.reach, hh]

/-- What a thread is after its path has arrived and select() has left `p`. -/
def Thread.selected (w : Thread) (p : PathSet) : Thread :=
  { w.advance with clause := none, gcnt := p.gcnt, wcnt := p.wcnt, rejoinCount := 0, stack := p.es, spilled := 0 }

/-- The state after the arrival: the counts of a retirement, and where the grid and the group have come to. -/
def State.arrived (s : State) (t : Nat) (w : Thread) (e : Entry) (p : PathSet) (l : List Entry) : State :=
  { ((s.countRetire w e).reach w p.gcnt p.wcnt l).setThread t (w.selected p) with cur := none }

theorem reach_cur (s : State) (k : Option Nat) (w : Thread) (g n : Word) (l : List Entry) :
    State.reach { s with cur := k } w g n l = { s.reach w g n l with cur := k } := by
  have hg : ∀ f, State.modGrid { s with cur := k } w.grid f = { s.modGrid w.grid f with cur := k } := fun f => by
    simp only [State.modGrid, show State.grid? { s with cur := k } w.grid = s.grid? w.grid from rfl]
    split <;> rfl
  have hp : ∀ (s : State) f, State.modGroup { s with cur := k } w.group f = { s.modGroup w.group f with cur := k } := fun s f => by
    simp only [State.modGroup, show State.group? { s with cur := k } w.group = s.group? w.group from rfl]
    split <;> rfl
  rw [State.reach, hg, hp, State.reach]

/-- The path retires with `F` applied to it, and select() looks at the stack (08 R172). -/
def State.arriveAt (s : State) (t : Nat) (w : Thread) (e : Entry) (F : Entry → Entry) : Out :=
  match (s.retirePath t w e F).thread? t with
  | none => .next (s.retirePath t w e F)
  | some x => .next { (s.retirePath t w e F).reselect t { x with clause := none } ((s.retirePath t w e F).entries x) with cur := none }

theorem arrives_eq (hh : w.stackHeld) (hm : w.ember = none)
    (hp : PathSet.select ⟨onRunning (fun y => F { y with icnt := y.icnt + 1 }) w.stack, w.gcnt, w.wcnt⟩ = p)
    (hl : p.es.length ≤ 16) {y : Entry} (hy : running? p.es = some y) :
    s.arriveAt t w e F
      = .next (s.arrived t w e p (onRunning (fun y => F { y with icnt := y.icnt + 1 }) w.stack)) := by
  obtain ⟨k, hk⟩ := retirePath_held s t e F hh
  have ht : (s.retirePath t w e F).thread? t = some (w.after F) := by rw [hk]; exact setThread_thread_same _ _ _
  have hen : (s.retirePath t w e F).entries (w.after F) = (w.after F).stack := by
    simp [State.entries, Thread.after, State.spilledFrom]
  have hem : ({ w.after F with clause := none } : Thread).ember = none := by simp [Thread.after, Thread.advance, hm]
  have key : (s.retirePath t w e F).reselect t { w.after F with clause := none } (w.after F).stack
      = ((s.retirePath t w e F).reach w p.gcnt p.wcnt (w.after F).stack).setThread t (w.selected p) := reselect_runs _ t hem rfl hp hl hy
  rw [State.arriveAt, ht]
  dsimp only
  rw [hen]
  have hs : s.retirePath t w e F = State.setThread { s.countRetire w e with cur := k } t (w.after F) := hk
  rw [hs, reach_setThread, setThread_setThread, reach_cur] at key
  rw [hs]
  refine (congrArg (fun z : State => (.next { z with cur := none } : Out)) key).trans ?_
  rfl

/-- What the arrival leaves beside its own thread. -/
theorem arrived_runsOn (hm : w.ember = none) {l l' : List Entry} {y : Entry} (hy : running? p.es = some y) {f : Entry → Entry}
    (hf : f { e with icnt := e.icnt + 1 } = y)
    (hll : p.gcnt ≠ w.gcnt → ((∃ z ∈ l, z.st = .arrived ∧ z.gstep = p.gcnt) ↔ ∃ z ∈ l', z.st = .arrived ∧ z.gstep = p.gcnt)) :
    RunsOn (s.reach w p.gcnt p.wcnt l) ((s.setThread t w).arrived t w e p l') t (w.counted p.gcnt p.wcnt) (w.selected p) e f := by
  rw [reach_congr s w _ _ hll]
  obtain ⟨⟨a, b, c, d, hc⟩, kept, others⟩ := countRetire_counted (s.setThread t w) w e
  have hkept : Kept (s.reach w p.gcnt p.wcnt l') (((s.setThread t w).countRetire w e).reach w p.gcnt p.wcnt l') :=
    (kept.of_threads.modGrid w.grid fun x n => by split <;> rfl).modGroup w.group fun x n => rfl
  have hmem : ∀ s : State, ∃ x z, s.reach w p.gcnt p.wcnt l' = { s with grids := x, groups := z } := fun s => by
    obtain ⟨x, hx⟩ := modGrid_rest s w.grid fun x => if x.desc.stepping then { x with reached := maxWord x.reached p.gcnt } else x
    unfold State.reach
    rw [hx]
    obtain ⟨z, hz⟩ := modGroup_rest { s with grids := x } w.group fun q => { q with
      reached := maxWord q.reached p.wcnt
      edge := if p.gcnt ≠ w.gcnt ∧ ∃ z ∈ l', z.st = .arrived ∧ z.gstep = p.gcnt then maxWord q.edge p.wcnt else q.edge }
    exact ⟨x, z, hz⟩
  obtain ⟨g1, p1, h1⟩ := hmem s
  obtain ⟨g2, p2, h2⟩ := hmem ((s.setThread t w).countRetire w e)
  have h3 : (s.setThread t w).arrived t w e p l'
      = { s with contexts := a, grids := g2, groups := p2, threads := aset d t (w.selected p), cur := none } := by
    rw [State.arrived, h2, hc]
    rfl
  refine ⟨hkept.threads _ _, ?_, ?_, fun _ => ?_, fun _ x => ?_, fun _ => ?_, fun u z hu hz => ?_⟩
  · exact setThread_thread_same _ _ _
  · simp [Thread.rest, Thread.selected, Thread.counted, Thread.advance, hm]
  · rw [path_held_stack _ rfl, hf]
    exact hy
  · rw [h3, h1]
    rfl
  · rw [h3, h1]
    exact ⟨rfl, rfl, rfl, rfl, rfl⟩
  · have hz' : s.thread? u = some z := by rw [h1] at hz; exact hz
    obtain ⟨n, hn⟩ := others u z ((aget_aset_ne s.threads w hu).trans hz')
    refine ⟨n, ?_⟩
    rw [State.arrived, h2]
    exact (aget_aset_ne _ _ hu).trans hn

/-- An instruction that leaves its thread to select() with a path to run. -/
theorem arriveAt_leaves {i : Instr} {f : Entry → Entry} {l : List Entry} {y : Entry} (hx : exec i s = (s.setThread t w).arriveAt t w e F)
    (hh : w.stackHeld) (hm : w.ember = none)
    (hp : PathSet.select ⟨onRunning (fun y => F { y with icnt := y.icnt + 1 }) w.stack, w.gcnt, w.wcnt⟩ = p)
    (hl : p.es.length ≤ 16) (hy : running? p.es = some y) (hf : f { e with icnt := e.icnt + 1 } = y)
    (hll : p.gcnt ≠ w.gcnt → ((∃ z ∈ l, z.st = .arrived ∧ z.gstep = p.gcnt) ↔
      ∃ z ∈ onRunning (fun y => F { y with icnt := y.icnt + 1 }) w.stack, z.st = .arrived ∧ z.gstep = p.gcnt)) :
    ∃ s' x, exec i s = .next s' ∧ s'.cur = none ∧ x.sameRegs w ∧ x.stack = p.es
      ∧ RunsOn (s.reach w p.gcnt p.wcnt l) s' t (w.counted p.gcnt p.wcnt) x e f :=
  ⟨_, w.selected p, hx.trans (arrives_eq hh hm hp hl hy), rfl, ⟨fun _ => rfl, fun _ _ => rfl, fun _ => rfl, fun _ => rfl, rfl⟩, rfl,
    arrived_runsOn hm hy hf hll⟩
end

end Sys2Proof.Machine
end

section
/-! OBLIGATION O44 (07 R142, R143, 08 R173, 23 R355). -/

namespace Sys2Proof.Machine

/-- STEPG, or STEPW. -/
abbrev stepInstr (grid : Bool) : Instr := if grid = true then .stepg else .stepw

/-- The path as it arrives at its STEP. -/
def Entry.arrive (e : Entry) (grid : Bool) : Entry := { e.step grid with st := .arrived }

section
variable {s : State} {t : Nat} {w : Thread} {e : Entry} {c : Clause} {grid : Bool}

theorem flushHeld_nil (h : w.held = []) : s.flushHeld t w grid = (s.setThread t w, w, none) := by
  have hw : { w with held := [] } = w := by rw [← h]
  simp [State.flushHeld, h, heldOrder, hw]

/-- The checks of a STEP with no record held, once its frame stands. -/
theorem step_next (h : Issues s (stepInstr grid) t w e c) (hheld : w.held = []) :
    exec (stepInstr grid) s =
      match firstOwed (w.owed.filter (·.atStep grid)) with
      | some o => .next ((s.setThread t w).takeOwed t w o c.here c.hdr)
      | none =>
        if grid && (match s.grid? w.grid with | some g => !g.desc.stepping | none => false) then
          .next ((s.setThread t w).trapHere t w c ⟨.reservedEnc, 0#64, e.mask⟩)
        else if s.grateUnread t w || s.groupReadWaits w e || (grid && s.gridReadWaits w e)
            || (w.ember.isNone && !s.refillReached w) then .next ((s.setThread t w).stallHere t w)
        else if w.ember.isSome then .next ((s.setThread t w).emberStep t w e grid)
        else
          (s.setThread t w).arriveAt t w e (·.arrive grid) := by
  have hx : exec (stepInstr grid) s = stepOp (stepInstr grid) s grid := by cases grid <;> rfl
  have hr : s.heldReached w grid = true := by simp [State.heldReached, hheld]
  rw [hx, stepOp, issue_next h]
  simp only [hr, flushHeld_nil hheld, grateUnread_setThread, groupReadWaits_setThread, gridReadWaits_setThread, refillReached_setThread,
    Bool.not_true, Bool.false_eq_true, if_false] <;> rfl

/-- The grid, and the group, of an ember lane that arrives (10 R231). -/
def gridComesTo (e : Entry) (g : Grid) : Grid := { g with reached := maxWord g.reached (e.gstep + 1) }
def groupComesTo (e : Entry) (grid : Bool) (p : Group) : Group :=
  { p with reached := maxWord p.reached (e.wstep + 1)
           edge := if grid = true then maxWord p.edge (e.wstep + 1) else p.edge }

/-- What the STEP of an ember lane leaves (10 R231). -/
theorem emberStep_performs (h : Issues s (stepInstr grid) t w e c)
    (hx : exec (stepInstr grid) s = .next ((s.setThread t w).emberStep t w e grid)) :
    Performs s (stepInstr grid)
      ((if grid = true then s.modGrid w.grid fun g => { g with reached := maxWord g.reached (e.gstep + 1) } else s).modGroup w.group
        fun p => { p with
          reached := maxWord p.reached (e.wstep + 1)
          edge := if grid = true then maxWord p.edge (e.wstep + 1) else p.edge }) t w e (·.step grid) := by
  obtain ⟨st, n, hr⟩ := retirePath_runsOn (s.setThread t w) t w w e (·.step grid) (path_held h.path) rfl rfl fun _ => rfl
  have hr := hr.of_setThread
  have hn : w.stackHeld → ({ w.advance with stack := st, spilled := n } : Thread).spilled = 0 := fun hh => by
    obtain ⟨k, hk⟩ := retirePath_held (s.setThread t w) t e (·.step grid) hh
    have ht := hr.runs.thread
    rw [hk] at ht
    have := Option.some.inj ((setThread_thread_same _ t (w.after fun y => y.step grid)).symm.trans ht)
    rw [← this]
    rfl
  have hm := hr.modThread (F := fun w => { w with ember := w.ember.map fun x => { x with atStepg := grid } }) hn
    (by simp [Thread.rest, Thread.advance]; cases w.ember <;> rfl) rfl rfl
  cases grid with
  | false => exact ⟨_, _, hx, hm.modGroup hn w.group (F := groupComesTo e false) fun _ _ => rfl, fun _ => rfl, fun _ _ => rfl, fun _ => rfl⟩
  | true =>
    have hg := hm.modGrid hn w.grid (F := gridComesTo e) fun _ _ => rfl
    exact ⟨_, _, hx, hg.modGroup hn w.group (F := groupComesTo e true) fun _ _ => rfl, fun _ => rfl, fun _ _ => rfl, fun _ => rfl⟩
end

/-- The trap of a STEP is taken where the thread's record stands already. -/
theorem trapsOver_setThread {s : State} {i : Instr} {t : Nat} {w : Thread} {c : Clause} {k : TrapInfo}
    (he : exec i s = .next ((s.setThread t w).trapHere t w c k)) : TrapsOver s i (s.setThread t w) t w c k := by
  unfold TrapsOver Stalls
  rw [he]
  simp only [State.trapHere, State.trapAt, trapReached_setThread, State.stallHere, setThread_setThread]
  constructor <;> intro h <;> simp only [h] <;> rfl

theorem running_head {e : Entry} {r : List Entry} (h : running? (e :: r) = some e) : e.st = .running := by
  simpa using List.find?_some h

/-- The only path of a wave at its STEP. -/
theorem arrives_alone {w : Thread} {e : Entry} {grid : Bool} (hst : w.stack = [e]) (hr : e.st = .running) (hmask : e.mask ≠ 0#128)
    (hej : e.ej = false) (hg : e.gstep = w.gcnt) :
    PathSet.select ⟨onRunning (fun y => Entry.arrive { y with icnt := y.icnt + 1 } grid) w.stack, w.gcnt, w.wcnt⟩
      = ⟨[{ e with icnt := e.icnt + 1, gstep := if grid = true then w.gcnt + 1 else w.gcnt, wstep := w.wcnt + 1 }],
          if grid = true then w.gcnt + 1 else w.gcnt, w.wcnt + 1⟩ := by
  rw [hst, onRunning, if_pos hr]
  refine (select_alone (z := Entry.arrive { e with icnt := e.icnt + 1 } grid) hmask rfl hej ?_).trans ?_
  · cases grid
    · exact .inl hg
    · exact .inr (congrArg (· + 1) hg)
  · simp [Entry.arrive, Entry.step, hr, hg]

/-- A path at its STEP, over one that waits. -/
theorem arrives_waiting {w : Thread} {e y : Entry} {r : List Entry} {grid : Bool} (hst : w.stack = e :: y :: r) (hrun : e.st = .running)
    (hmask : e.mask ≠ 0#128) (hy : y.st = .waiting) (hj : y.ej = false) (hm : y.mask ≠ 0#128)
    (hr : ∀ x ∈ r, x.mask ≠ 0#128 ∨ x.st = .parked) :
    PathSet.select ⟨onRunning (fun y => Entry.arrive { y with icnt := y.icnt + 1 } grid) w.stack, w.gcnt, w.wcnt⟩
      = ⟨{ e.step grid with icnt := e.icnt + 1, st := .arrived } :: { y with st := .running } :: r, w.gcnt, w.wcnt⟩ := by
  rw [hst, onRunning, if_pos hrun]
  exact select_waiting (z := Entry.arrive { e with icnt := e.icnt + 1 } grid) hmask rfl hy hj hm hr

/-- Settles O44: what is owed, the RESERVED_ENC and the stall come before the arrival, which select() then looks at. -/
theorem steps : Obligations.Steps := by
  unfold Obligations.Steps
  intro s t w e c grid i h hheld skips waits kept
  have hx := step_next h hheld
  have hskips : (grid && (match s.grid? w.grid with | some g => !g.desc.stepping | none => false)) = true ↔ skips := by
    cases hg : s.grid? w.grid <;> simp [skips, hg]
  refine ⟨fun o ho => ?_, fun hno => ?_⟩
  · rw [ho] at hx
    exact hx
  have hf : w.owed.filter (·.atStep grid) = [] := by simpa using hno
  rw [hf] at hx
  simp only [firstOwed] at hx
  refine ⟨fun hs => ?_, fun hs hw => ?_, fun hs hw => ⟨fun hm => ?_, fun hm hsp hst hmask hej hg hn => ?_, ?_⟩⟩
  · rw [if_pos (hskips.2 hs)] at hx
    exact trapsOver_setThread hx
  · rw [if_neg (mt hskips.1 hs), if_pos hw] at hx
    rw [Stalls, hx, State.stallHere, setThread_setThread]
  · rw [if_neg (mt hskips.1 hs), if_neg (by rw [← Bool.not_eq_true] at hw; exact hw), if_pos hm] at hx
    exact emberStep_performs h hx
  · intro g
    have hh : w.stackHeld := ⟨hsp, by simp [hst]⟩
    have hr : e.st = .running := running_head (hst ▸ path_held h.path hh)
    rw [if_neg (mt hskips.1 hs), if_neg (by rw [← Bool.not_eq_true] at hw; exact hw), if_neg (by rw [hm]; decide)] at hx
    have hp := arrives_alone (grid := grid) hst hr hmask hej hg
    refine arriveAt_leaves hx hh hm hp (by simp) (by simp [running?, hr]; rfl) ?_ fun _ => ?_
    · simp [Entry.step, hg, hn, hr]
    · simp [hst, onRunning, hr, Entry.arrive, Entry.step]
  · intro y r hm hsp hst hlen hmask hy hj hym hr y'
    have hh : w.stackHeld := ⟨hsp, by simp only [hst, List.length_cons]; omega⟩
    have hrun : e.st = .running := running_head (hst ▸ path_held h.path hh)
    rw [if_neg (mt hskips.1 hs), if_neg (by rw [← Bool.not_eq_true] at hw; exact hw), if_neg (by rw [hm]; decide)] at hx
    have hp := arrives_waiting (grid := grid) hst hrun hmask hy hj hym hr
    exact arriveAt_leaves hx hh hm hp (by simp; omega) (by simp [running?]; rfl) rfl fun hne => absurd rfl hne

end Sys2Proof.Machine
end

section
/-! OBLIGATION O46. -/

namespace Sys2Proof.Machine
open Sys2Proof.Tests

/-- The group of `pending`, as if of a grid that is not there. -/
def strayGroup : Group := { benchGroup with grid := 9 }

/-- The state `pending`, whose grid 1 has a store of its step pending and can close, with a stray record before that of group 1, under
the same number. -/
def doubled : State := { pending with groups := (1, strayGroup) :: pending.groups }

/-- The count of steps closed of group 1 once the step of grid 1 closes. -/
def closedThen : Option Word :=
  match exec (.gridStepClose 1) doubled with
  | .next s' => (s'.group? 1).map (·.closed)
  | .fault _ => none
  | .refused _ => none

theorem doubled_closes : doubled.gridArrived 1 = true ∧ doubled.gridHeld 1 (gridOf doubled) = false ∧ doubled.openGroups 1 = [1]
    ∧ doubled.grid? 1 = some (gridOf doubled) := by
  and_intros <;> decide +kernel

theorem closedThen_eq : closedThen = some 0#32 := by decide +kernel

/-- Refutes O46, by its clause for the groups whose step the grid's close closes. `openGroups` looks at the records of the groups, and
the close, like `group?`, at the first record under a number. No run puts two records under one number, but the clause is for every state:
in `doubled` the second record under 1 is of grid 1 and at the boundary of its step, and the first, which is of no grid, stays as it is. -/
theorem not_stepCloses : ¬ Obligations.StepCloses := by
  unfold Obligations.StepCloses
  intro ⟨_, grids⟩
  obtain ⟨arrived, held, opened, found⟩ := doubled_closes
  obtain ⟨-, closes⟩ := grids doubled 1 _ found
  obtain ⟨⟨s', b, run, -, -, shut, -⟩, -⟩ := closes arrived held
  have after : (s'.group? 1).map (·.closed) = some 0#32 := by
    have h := closedThen_eq
    rw [closedThen, run] at h
    exact h
  cases hq : s'.group? 1 with
  | none =>
    rw [hq] at after
    cases after
  | some q' =>
    rw [hq] at after
    have counted : q'.closed = strayGroup.closed + 1 := (shut 1 strayGroup q' opened rfl hq).counts.1
    rw [Option.map_some, counted] at after
    exact absurd after (by decide)

end Sys2Proof.Machine
end

section
/-! OBLIGATION O28 (07 R154, R155, 13 R274, 22 R338). -/

namespace Sys2Proof.Machine

section
variable {s : State} {h : Nat} {x : Copy} {line va pa : Nat} {bs : List Byte} {w : Thread} {p : Group} {owed : List TrapInfo}

theorem copyLine_mem (hl : s.copyLine? h x.uid line = some (x, va, pa, bs)) : x ∈ (s.hearth h).copies := by
  obtain ⟨y, hy, hl⟩ := Option.bind_eq_some_iff.1 hl
  obtain ⟨l, -, he⟩ := Option.map_eq_some_iff.1 hl
  exact (Prod.mk.inj he).1 ▸ List.mem_of_find?_eq_some hy

theorem modHearth_hearth (s : State) (h : Nat) (f : Hearth → Hearth) : (s.modHearth h f).hearth h = f (s.hearth h) := by
  simp [State.modHearth, State.setHearth, State.hearth]

/-- A group's record changes, and nothing else. -/
theorem modGroup_of_some {c : Nat} {f : Group → Group} (hp : s.group? c = some p) : s.modGroup c f = s.setGroup c (f p) := by
  rw [State.modGroup, hp]

/-! ## A copy that completes -/

/-- What publication of a CPOUT's lines leaves alone: they are among the pending writes of its grid, or its TWIN lines'. -/
structure Published (s s' : State) : Prop where
  threads : s'.threads = s.threads
  groups : s'.groups = s.groups
  hearths : s'.hearths = s.hearths

theorem publish_published (s : State) (c : Copy) (w : Thread) (rule : Rule) : Published s (s.publish c w rule) := by
  unfold State.publish
  generalize s.publishFrom c w = n
  dsimp only
  refine List.foldlRecOn c.landed _ (motive := Published s) ⟨rfl, rfl, rfl⟩ fun z hz l _ => ?_
  split
  · exact ⟨hz.threads, hz.groups, hz.hearths⟩
  · obtain ⟨k, hk⟩ := modGrid_rest { z with uid := z.uid + 1 } w.grid fun g => { g with pend := g.pend ++
      [{ step := n, va := l.1, pa := l.2.1, nib := none, data := l.2.2, rule := rule, sum := none, w := c.w, stf := none, order := z.uid
         die := w.die, strict := c.far.any fun f => f.va.toNat == l.1 && f.strict }] }
    rw [hk]
    exact ⟨hz.threads, hz.groups, hz.hearths⟩

/-- A group as a copy's last line leaves it: its tiles have the states of 07 Table 7.6. -/
def Copy.complete (x : Copy) (wix : Nat) (q : Group) : Group :=
  match x.kind with
  | .cpin => q.complete x.tile wix .ready
  | .cpout _ free => q.complete x.tile wix (if free then .empty else .ready)
  | .cptt src => (q.complete x.tile wix .ready).complete src wix .ready

/-- A group as a line of a copy leaves it. -/
def Copy.put (x : Copy) (va : Nat) (bs : List Byte) (q : Group) : Group :=
  match x.kind with
  | .cpin => q.writeStash va bs
  | .cptt _ => q.writeStash va bs
  | .cpout _ _ => q

/-- A copy less one of its lines, which of a CPOUT waits for publication. -/
def Copy.less (x : Copy) (line va pa : Nat) (bs : List Byte) : Copy :=
  { x with
    lines := x.lines.filter (·.1 ≠ line)
    landed := match x.kind with
      | .cpout _ _ => if isPeer pa then x.landed else x.landed ++ [(va, pa, bs)]
      | .cpin => x.landed
      | .cptt _ => x.landed }

/-- The end of a copy whose wave is there and has not ended. -/
theorem finishCopy_leaves {w' : Thread} (ht : s.thread? x.t = some w') (hend : w'.ended = false) (hgr : w'.group = x.group)
    (hp : s.group? x.group = some p) :
    (s.finishCopy x w).thread? x.t = some w' ∧ (s.finishCopy x w).group? x.group = some (x.complete w.wix p)
      ∧ ((s.finishCopy x w).hearth w.home).copies = (s.hearth w.home).copies.filter (·.uid ≠ x.uid) := by
  let s1 := s.modGroup x.group (x.complete w.wix)
  let s2 := match x.kind with
    | .cpin => s1
    | .cpout rule _ => s1.publish x w rule
    | .cptt _ => s1
  let s3 := s2.modHearth w.home fun h => { h with copies := h.copies.filter (·.uid ≠ x.uid) }
  have hs1 : s1 = s.setGroup x.group (x.complete w.wix p) := modGroup_of_some hp
  have hs2 : Published s1 s2 := by
    simp only [s2]
    cases x.kind with
    | cpin => exact ⟨rfl, rfl, rfl⟩
    | cptt _ => exact ⟨rfl, rfl, rfl⟩
    | cpout rule _ => exact publish_published s1 x w rule
  have ht3 : s3.thread? x.t = some w' := by
    rw [← ht]
    exact congrArg (aget? · x.t) (hs2.threads.trans (by rw [hs1]; rfl))
  have hg3 : s3.group? x.group = some (x.complete w.wix p) := by
    have : s3.groups = aset s.groups x.group (x.complete w.wix p) := hs2.groups.trans (by rw [hs1]; rfl)
    rw [State.group?, this, aget_aset_same]
  have hreap : s3.reap x.t = s3 := by simp [State.reap, ht3, hend]
  have hthere : s3.threads.any (fun y => y.2.group == x.group) = true :=
    List.any_eq_true.2 ⟨(x.t, w'), mem_of_aget ht3, by simp [hgr]⟩
  have hreapG : s3.reapGroup x.group = s3 := by simp [State.reapGroup, hg3, hthere]
  have hfin : s.finishCopy x w = s3 := (congrArg (State.reapGroup · x.group) hreap).trans hreapG
  rw [hfin]
  refine ⟨ht3, hg3, ?_⟩
  have hh : s2.hearth w.home = s.hearth w.home :=
    congrArg (fun l => (aget? l w.home).getD Hearth.idle) (hs2.hearths.trans (by rw [hs1]; rfl))
  rw [modHearth_hearth, hh]

/-! ## A line that lands -/

theorem less_complete (x : Copy) (line va pa : Nat) (bs : List Byte) (n : Nat) (q : Group) :
    (x.less line va pa bs).complete n q = x.complete n q := rfl

theorem charged_ended (w : Thread) (f n : Nat) (l : List TrapInfo) (d : Due) : ((w.setFc f n).owe l d).ended = w.ended := rfl
theorem charged_group (w : Thread) (f n : Nat) (l : List TrapInfo) (d : Due) : ((w.setFc f n).owe l d).group = w.group := rfl

/-- What a line leaves that lands: `owed` is what its wave owes for it. -/
structure Lands (s s' : State) (h : Nat) (x : Copy) (line va : Nat) (bs : List Byte) (w : Thread) (p : Group) (owed : List TrapInfo) : Prop where
  thread : s'.thread? x.t = some ((w.setFc x.fc (w.fcount x.fc - 128)).owe owed (.cwait x.fc))
  group : s'.group? x.group = some (if x.lines.filter (fun l => l.1 ≠ line) = [] then x.complete w.wix (x.put va bs p) else x.put va bs p)
  ends : x.lines.filter (fun l => l.1 ≠ line) = [] → ∀ y ∈ (s'.hearth h).copies, y.uid ≠ x.uid
  goesOn : x.lines.filter (fun l => l.1 ≠ line) ≠ [] →
    ∃ y ∈ (s'.hearth h).copies, y.uid = x.uid ∧ y.lines = x.lines.filter fun l => l.1 ≠ line

theorem landLine_lands (hc : x ∈ (s.hearth h).copies) (ht : s.thread? x.t = some w) (hp : s.group? x.group = some p)
    (hgr : w.group = x.group) (hend : w.ended = false) (hhome : w.home = h) :
    Lands s (s.landLine h x line va pa bs owed) h x line va bs w p owed := by
  let w' := (w.setFc x.fc (w.fcount x.fc - 128)).owe owed (.cwait x.fc)
  let s1 := match x.kind with
    | .cpin => s.modGroup x.group fun p => p.writeStash va bs
    | .cptt _ => s.modGroup x.group fun p => p.writeStash va bs
    | .cpout _ _ => s
  let c := x.less line va pa bs
  let s3 := (s1.setThread x.t w').modHearth h fun q => { q with copies := q.copies.map fun y => if y.uid = x.uid then c else y }
  have hs1 : s1.hearths = s.hearths ∧ s1.group? x.group = some (x.put va bs p) := by
    simp only [s1]
    unfold Copy.put
    cases x.kind with
    | cpin => exact ⟨by rw [modGroup_of_some hp]; rfl, by rw [modGroup_of_some hp]; exact aget_aset_same _ _ _⟩
    | cptt _ => exact ⟨by rw [modGroup_of_some hp]; rfl, by rw [modGroup_of_some hp]; exact aget_aset_same _ _ _⟩
    | cpout _ _ => exact ⟨rfl, hp⟩
  have hland : s.landLine h x line va pa bs owed = if c.lines = [] then s3.finishCopy c w else s3 := by
    rw [State.landLine, ht]
    rfl
  have ht3 : s3.thread? x.t = some w' := setThread_thread_same s1 x.t w'
  have hg3 : s3.group? x.group = some (x.put va bs p) := hs1.2
  have hh3 : (s3.hearth h).copies = (s.hearth h).copies.map fun y => if y.uid = x.uid then c else y := by
    have hh : (s1.setThread x.t w').hearth h = s.hearth h := congrArg (fun l => (aget? l h).getD Hearth.idle) hs1.1
    rw [modHearth_hearth, hh]
  rw [hland]
  by_cases hr : x.lines.filter (fun l => l.1 ≠ line) = []
  · have hend' : w'.ended = false := (charged_ended w _ _ _ _).trans hend
    have hgr' : w'.group = c.group := (charged_group w _ _ _ _).trans hgr
    obtain ⟨hft, hfg, hfh⟩ := finishCopy_leaves (s := s3) (x := c) (w := w) (w' := w') ht3 hend' hgr' hg3
    rw [if_pos (show c.lines = [] from hr)]
    refine ⟨hft, by rw [if_pos hr, ← less_complete x line va pa bs]; exact hfg, fun _ y hy => ?_, fun h => absurd hr h⟩
    rw [← hhome, hfh] at hy
    have hne : ¬ y.uid = c.uid := by simpa using (List.mem_filter.1 hy).2
    exact hne
  · rw [if_neg (show c.lines ≠ [] from hr)]
    refine ⟨ht3, by rw [if_neg hr]; exact hg3, fun h => absurd h hr, fun _ => ?_⟩
    refine ⟨c, ?_, rfl, rfl⟩
    rw [hh3]
    exact List.mem_map.2 ⟨x, hc, if_pos rfl⟩

/-- The copies that can move a line now, and the one among them whose turn it is (13 R274). -/
def State.movable (s : State) (h : Nat) : List Copy := (s.hearth h).copies.filter fun y => y.lines.any (s.canMove h y)

/-- The turn is the first movable copy's after the one that moved the last, or the first's where there is none after it. -/
theorem copyTurn_eq {before' after : List Copy} {y : Copy} (hm : s.movable h = before' ++ y :: after)
    (ht : ((∀ z ∈ before', z.uid ≤ (s.hearth h).copyTurn) ∧ (s.hearth h).copyTurn < y.uid)
      ∨ (before' = [] ∧ ∀ z ∈ s.movable h, z.uid ≤ (s.hearth h).copyTurn)) : s.copyTurn h = some y := by
  have hc : s.copyTurn h = match (s.movable h).find? fun c => decide ((s.hearth h).copyTurn < c.uid) with
    | some c => some c
    | none => (s.movable h).head? := rfl
  rw [hc]
  obtain ⟨hb, hy⟩ | ⟨rfl, hall⟩ := ht
  · have hnone : before'.find? (fun c => decide ((s.hearth h).copyTurn < c.uid)) = none := by
      simpa using hb
    rw [hm, List.find?_append, hnone]
    simp [hy]
  · have hnone : (s.movable h).find? (fun c => decide ((s.hearth h).copyTurn < c.uid)) = none := by
      simpa using hall
    rw [hnone, hm]
    rfl
end

/-- Settles O28: each event lets its line land, where the line can move and, of the engine's own, where it is its copy's turn. -/
theorem linesLand : Obligations.LinesLand := by
  unfold Obligations.LinesLand
  intro s h x line va pa bs w p hl ht hp hgr hend hhome rest q done lands movable last
  have hc := copyLine_mem hl
  have landed : ∀ {i : Instr} {s0 : State} {owed : List TrapInfo}, exec i s = .next (s0.landLine h x line va pa bs owed) →
      (s0.hearth h).copies = (s.hearth h).copies → s0.threads = s.threads → s0.groups = s.groups → lands i owed := by
    intro i s0 owed hx hh hth hg
    obtain ⟨thread, group, ends, goesOn⟩ := landLine_lands (s := s0) (line := line) (va := va) (pa := pa) (bs := bs) (owed := owed)
      (hh ▸ hc) ((congrArg (aget? · x.t) hth).trans ht) ((congrArg (aget? · x.group) hg).trans hp) hgr hend hhome
    have hq : x.put va bs p = q := by
      simp only [q, Copy.put] <;> cases x.kind <;> rfl
    have hd : x.complete w.wix q = done := by
      simp only [done, Copy.complete] <;> cases x.kind <;> rfl
    exact ⟨_, hx, thread, by rw [group, hq, hd], ends, goesOn⟩
  refine ⟨fun hpeer hr => ⟨fun before' after hm hturn => ?_, fun y before' after hm hy hturn => ?_⟩, fun hpeer => ⟨fun hr => ?_, fun hr => ?_, ?_⟩⟩
  · have hx : exec (.copyLineLands h x.uid line) s = .next ((s.modHearth h fun q => { q with copyTurn := x.uid }).landLine h x line va pa bs []) := by
      refine (show exec (.copyLineLands h x.uid line) s = execCopyLineLands h x.uid line s from rfl).trans ?_
      simp [execCopyLineLands, hl, State.canMove, hpeer, hr, copyTurn_eq hm hturn]
    exact landed hx (by rw [modHearth_hearth]) rfl rfl
  · refine (show exec (.copyLineLands h x.uid line) s = execCopyLineLands h x.uid line s from rfl).trans ?_
    simp [execCopyLineLands, hl, copyTurn_eq hm hturn, hy]
  · have hx : exec (.peerLineAck h x.uid line) s = .next (s.landLine h x line va pa bs []) := by
      refine (show exec (.peerLineAck h x.uid line) s = execPeerLineAck h x.uid line s from rfl).trans ?_
      simp [execPeerLineAck, hl, hpeer, hr]
    exact landed hx rfl rfl rfl
  · refine (show exec (.peerLineAck h x.uid line) s = execPeerLineAck h x.uid line s from rfl).trans ?_
    simp [execPeerLineAck, hl, hr]
  intro refused ends
  refine ⟨fun he => ?_, fun he => ?_⟩
  · have hx : exec (.peerLineTimeout h x.uid ⟨line, refused⟩) s = .next ((s.uncorrected w.die 4 (BitVec.ofNat 64 pa) x.gstep 0 1 w.ctx).landLine
        h x line va pa bs (if s.strict w.ctx = true then [⟨.memerr, BitVec.ofNat 64 va, x.mask⟩] else [])) := by
      refine (show exec (.peerLineTimeout h x.uid ⟨line, refused⟩) s = execPeerLineTimeout h x.uid ⟨line, refused⟩ s from rfl).trans ?_
      simp only [execPeerLineTimeout, hl, ht, hpeer]
      rw [show (if refused = true then s.lineReached h x line else s.msPassed x.since (s.flue (h / 512)).peertmo) = true from he]
      rfl
    obtain ⟨m, hm, d, b, l3, ca, hu⟩ := stored_uncorrected s w.die 4 (BitVec.ofNat 64 pa) x.gstep 0 1 w.ctx
    exact landed hx (by rw [hu]; rfl) (by rw [hu]) (by rw [hu])
  · refine (show exec (.peerLineTimeout h x.uid ⟨line, refused⟩) s = execPeerLineTimeout h x.uid ⟨line, refused⟩ s from rfl).trans ?_
    simp only [execPeerLineTimeout, hl, ht]
    rw [show (if refused = true then s.lineReached h x line else s.msPassed x.since (s.flue (h / 512)).peertmo) = false from he]
    simp

end Sys2Proof.Machine
end

section
/-! OBLIGATION O27. -/

namespace Sys2Proof.Machine
open Sys2Proof.Tests

/-- A tile of no bytes, at a base that no descriptor of TDEF has (07 R149). -/
def bareTile : Tile := ⟨true, 2#128, .ready, .ready, none, none⟩

/-- Tile 8 is the bare one, and the stash word in which its base lies is lost; the context is STRICT. -/
def copyingBare : State :=
  (strictly (tiled (bench 3))).modGroup 1 fun p => { p.setTile 8 bareTile with badStash := [0] }

/-- What the wave owes after CPTT of the bare tile to tile 7. -/
def owedThen : Option (List Owed) :=
  match exec (.cptt 7 8 0) copyingBare with
  | .next s' => (s'.thread? 1).map (·.owed)
  | .fault _ => none
  | .refused _ => none

theorem copyingBare_on : On copyingBare (.cptt 7 8 0) := on (by decide +kernel)

theorem owedThen_eq : owedThen = some [⟨⟨.memerr, 0#64, 0xFFFFFFFF#128⟩, .cwait 0⟩] := by decide +kernel

/-- What CPTT asks of its tiles holds: the ranges are apart, both tiles fit, and no byte of the source is lost, since it has none. -/
theorem copyingBare_fits :
    let s := copyingBare
    let w := wv s
    let p := group1 s
    s.grid? w.grid = some benchGrid ∧ s.group? w.group = some p ∧ w.wix = benchGrid.copywave ∧ s.groupReadWaits w (path s) = false
      ∧ (s.hearth w.home).copies.length < 64 ∧ (p.tile 8).bytes ≤ (p.tile 7).bytes ∧ tilesOverlap (p.tile 7) (p.tile 8) = false
      ∧ s.changeFit w (path s) p [(7, notMoving), (8, isReadyTile)] = .ok ()
      ∧ p.stashLost (p.tile 8).base (p.tile 8).bytes = false ∧ w.owed = [] := by
  intro s w p
  and_intros <;> decide +kernel

/-- Refutes O27, by its clause for CPTT: where no byte of the source tile is lost, the copy is to owe nothing. The model's copy looks for
lost words that lie across the source's base as well as in its bytes. TDEF makes no tile of no bytes, nor one at a base that 128 does not
divide, but the clause is for every state: in `copyingBare` the source has no bytes and stands in the middle of a lost word, and the wave
owes MEMERR for it. -/
theorem not_copiesStart : ¬ Obligations.CopiesStart := by
  unfold Obligations.CopiesStart
  intro h
  obtain ⟨grid, group, copywave, closed, room, sizes, apart, fit, whole, owes⟩ := copyingBare_fits
  obtain ⟨-, -, cptt⟩ := h copyingBare 1 (wv copyingBare) (path copyingBare) (clause copyingBare) 0 benchGrid _ grid group
  obtain ⟨-, starts⟩ := cptt 7 8
  obtain ⟨-, starts⟩ := starts copyingBare_on ⟨copywave, closed, room⟩
  obtain ⟨cp, -, -, -, -, -, -, -, -, -, -, -, -, -, s', x, run, on, -⟩ := starts (by decide) sizes apart fit whole
  have after : (s'.thread? 1).map (·.owed) = some [⟨⟨.memerr, 0#64, 0xFFFFFFFF#128⟩, .cwait 0⟩] := by
    have h := owedThen_eq
    rw [owedThen, run] at h
    exact h
  have kept := congrArg Thread.owed on.runs.rest
  have kept : x.owed = (wv copyingBare).owed := kept
  rw [on.runs.thread, Option.map_some, kept, owes] at after
  exact absurd after (by decide)

end Sys2Proof.Machine
end

section
/-! SUPPORT (07 R369, 09 R200). What the checks of a matrix engine's instruction find, operand by operand. -/

namespace Sys2Proof.Machine

/-! ## The first cause -/

theorem firstChk_spec {l : List Chk} {x : Chk} (h : firstChk l = some x) : x ∈ l ∧ ∀ y ∈ l, x.1.own ≤ y.1.own := by
  cases l with
  | nil => cases h
  | cons a r =>
    have hc : r.foldl (fun m y : Chk => if decide (y.1.own < m.1.own) = true then y else m) a = x := by
      simpa [firstChk] using h
    subst hc
    refine ⟨mem_foldl_choice (fun y m : Chk => decide (y.1.own < m.1.own)) a r, ?_⟩
    refine rank_foldl_choice_le (fun y m : Chk => decide (y.1.own < m.1.own)) (fun y => y.1.own) ?_ ?_ a r
    · intro y m hb
      exact (of_decide_eq_true hb).le
    · intro y m hb
      exact Nat.not_lt.mp (of_decide_eq_false hb)

theorem firstChk_eq_none_iff {l : List Chk} : firstChk l = none ↔ l = [] := by
  cases l <;> simp [firstChk]

section
variable {s : State} {i : Instr} {t : Nat} {w : Thread} {e : Entry} {c : Clause} {x : Gate} {k : Out} {err : Cause → DWord → Prop} {moving : Prop}
variable (herr : ∀ k a, (k, a) ∈ x.errs ↔ err k a) (hmove : x.stall = true ↔ moving) (hx : exec i s = x.pass s t w e c k)
include herr hmove hx

/-- The checks of an instruction that meets a cause: the first in the order of 07 R369 traps, unless it comes after TILE_STATE and a tile
is moving. -/
theorem pass_traps (hsome : ∃ k a, err k a) : ∃ k a, err k a ∧ (∀ k' a', err k' a' → k.own ≤ k'.own)
    ∧ (¬ (moving ∧ Cause.own .tileState < k.own) → ∃ l, (∀ x ∈ l, x.1 = lowestLane e.mask ∧ err .page x.2)
      ∧ (∀ b, err .page b → (lowestLane e.mask, b) ∈ l) ∧ TrapsAt s i t w c ⟨k, a, e.mask⟩ l)
    ∧ (moving ∧ Cause.own .tileState < k.own → Stalls s i t w) := by
  cases hf : firstChk x.errs with
  | none =>
    obtain ⟨k, a, hk⟩ := hsome
    have := (herr k a).mpr hk
    rw [firstChk_eq_none_iff.mp hf] at this
    cases this
  | some y =>
    obtain ⟨k, a⟩ := y
    obtain ⟨hmem, hle⟩ := firstChk_spec hf
    rw [Gate.pass, hf] at hx
    refine ⟨k, a, (herr k a).mp hmem, fun k' a' h => hle _ ((herr k' a').mpr h), fun hm => ?_, fun ⟨hm, hk⟩ => ?_⟩
    · refine ⟨_, fun z hz => ?_, fun b hb => ?_, trapsAt_of (hx.trans (if_neg fun hc => hm ?_))⟩
      · obtain ⟨y, hy, rfl⟩ := List.mem_map.mp hz
        obtain ⟨hy, hpage⟩ := List.mem_filter.mp hy
        refine ⟨rfl, (herr _ _).mp ?_⟩
        rw [← eq_of_beq hpage]
        exact hy
      · exact List.mem_map.mpr ⟨(.page, b), List.mem_filter.mpr ⟨(herr _ _).mpr hb, rfl⟩, rfl⟩
      · obtain ⟨h1, h2⟩ := Bool.and_eq_true_iff.mp hc
        exact ⟨hmove.mp h1, of_decide_eq_true h2⟩
    · exact stalls_of (hx.trans (if_pos (Bool.and_eq_true_iff.mpr ⟨hmove.mpr hm, decide_eq_true hk⟩)))

omit hmove in
/-- The checks of an instruction that meets none. -/
theorem pass_goes (hnone : ∀ k a, ¬ err k a) : exec i s = if x.stall = true then .next (s.stallHere t w) else k := by
  have hl : x.errs = [] := List.eq_nil_iff_forall_not_mem.mpr fun y hy => hnone y.1 y.2 ((herr y.1 y.2).mp hy)
  rw [hx, Gate.pass, hl]
  rfl
end

/-! ## Causes by operand -/

/-- The pages of a range that cannot be read. -/
def PageErr (s : State) (w : Thread) (r : Nat × Nat) (k : Cause) (a : DWord) : Prop :=
  ∃ va len, (va, len, .error k) ∈ s.spanOf w r ∧ a = BitVec.ofNat 64 va

/-- A fibre that is closed, of another type, or in a moving tile. -/
def FibErr (p : Group) (f : BitVec 256 × Option Nat × Bool) (k : Cause) (a : DWord) : Prop :=
  (fbOpen f.1 = false ∧ k = .fibreRange ∧ a = 0#64)
    ∨ (∃ code, f.2.1 = some code ∧ fbOpen f.1 = true ∧ fbVt f.1 ≠ code ∧ k = .tileState ∧ a = 0#64)
    ∨ ∃ r, fbOpen f.1 = true ∧ fbStash f.1 = true
      ∧ (r = crdRange f.1 (fbPos f.1) (fbCount f.1) ∨ (f.2.2 = true ∧ r = valRange f.1 (fbPos f.1) (fbCount f.1)))
      ∧ p.rangeBusy r.1 r.2 = true ∧ k = .tileBusy ∧ a = BitVec.ofNat 64 r.1

/-- A tile that is read: its state, its shape, and whether it lies in a moving one. -/
def SrcErr (s : State) (w : Thread) (p : Group) (x : TileNo × Prop) (k : Cause) (a : DWord) : Prop :=
  (s.tileFit w p x.1.toNat isReadyTile false false = .trap a ∧ k = .tileState)
    ∨ (s.tileFit w p x.1.toNat isReadyTile false false = .ok ∧ ¬ x.2 ∧ k = .tileState ∧ a = BitVec.ofNat 64 (p.tile x.1.toNat).base)
    ∨ ((p.tile x.1.toNat).defined = true ∧ p.rangeBusy (p.tile x.1.toNat).base (p.tile x.1.toNat).bytes = true ∧ k = .tileBusy
      ∧ a = BitVec.ofNat 64 (p.tile x.1.toNat).base)

/-- A tile that is written: its state, its shape, another moving tile in it, and the stores that wait there. -/
def DstErr (s : State) (w : Thread) (e : Entry) (p : Group) (x : TileNo × Prop) (k : Cause) (a : DWord) : Prop :=
  (s.tileFit w p x.1.toNat notMoving true false = .trap a ∧ k = .tileState)
    ∨ (s.tileFit w p x.1.toNat notMoving true false = .ok
      ∧ (¬ x.2 ∨ p.overlapsMoving x.1.toNat (p.tile x.1.toNat).base (p.tile x.1.toNat).bytes = true) ∧ k = .tileState
      ∧ a = BitVec.ofNat 64 (p.tile x.1.toNat).base)
    ∨ ((p.tile x.1.toNat).defined = true ∧ p.pendingIn e.wstep (p.tile x.1.toNat).base (p.tile x.1.toNat).bytes = true ∧ k = .tileBusy
      ∧ a = BitVec.ofNat 64 (p.tile x.1.toNat).base)

/-- A vector in the stash: its alignment, its end, and whether it lies in a moving tile. -/
def VecErr (g : Grid) (p : Group) (x : Nat × Nat × Nat) (k : Cause) (a : DWord) : Prop :=
  (x.1 % x.2.2 ≠ 0 ∧ k = .align ∧ a = BitVec.ofNat 64 x.1)
    ∨ (g.stashBytes < x.1 + x.2.1 ∧ k = .prot ∧ a = BitVec.ofNat 64 x.1)
    ∨ (p.rangeBusy x.1 x.2.1 = true ∧ k = .tileBusy ∧ a = BitVec.ofNat 64 x.1)

section
variable {s : State} {w : Thread} {e : Entry} {g : Grid} {p : Group} {i : Instr} {n : GrateNeeds} {k : Cause} {a : DWord}

/-- The causes that an instruction meets are those of what is reserved and of its operands. -/
theorem grateErr_iff : GrateErr s w e g p i n k a ↔ (n.reserved ∧ k = .reservedEnc ∧ a = 0#64)
    ∨ (¬ n.resident ∧ k = .tileState ∧ a = 0#64)
    ∨ (∃ x ∈ n.aligned, x.1 % x.2 ≠ 0 ∧ k = .align ∧ a = BitVec.ofNat 64 x.1)
    ∨ (∃ x ∈ n.vecs, VecErr g p x k a) ∨ (∃ r ∈ grateSlots w i, PageErr s w r k a) ∨ (∃ f ∈ n.fibres, FibErr p f k a)
    ∨ (∃ x ∈ n.sources, SrcErr s w p x k a) ∨ ∃ x ∈ n.dests, DstErr s w e p x k a := by
  constructor
  · intro h
    cases h with
    | reserved h => exact .inl ⟨h, rfl, rfl⟩
    | noResident h => exact .inr (.inl ⟨h, rfl, rfl⟩)
    | alignGlobal a k hx h => exact .inr (.inr (.inl ⟨_, hx, h, rfl, rfl⟩))
    | align a l k hx h => exact .inr (.inr (.inr (.inl ⟨_, hx, .inl ⟨h, rfl, rfl⟩⟩)))
    | prot a l k hx h => exact .inr (.inr (.inr (.inl ⟨_, hx, .inr (.inl ⟨h, rfl, rfl⟩)⟩)))
    | vecBusy a l k hx h => exact .inr (.inr (.inr (.inl ⟨_, hx, .inr (.inr ⟨h, rfl, rfl⟩)⟩)))
    | page r va len k hr h => exact .inr (.inr (.inr (.inr (.inl ⟨r, hr, va, len, h, rfl⟩))))
    | closed f hf h => exact .inr (.inr (.inr (.inr (.inr (.inl ⟨f, hf, .inl ⟨h, rfl, rfl⟩⟩)))))
    | type f code v hf h hn => exact .inr (.inr (.inr (.inr (.inr (.inl ⟨_, hf, .inr (.inl ⟨code, rfl, h, hn, rfl, rfl⟩)⟩)))))
    | fibreBusy f code v r hf h hs hr hb =>
      exact .inr (.inr (.inr (.inr (.inr (.inl ⟨_, hf, .inr (.inr ⟨r, h, hs, hr, hb, rfl, rfl⟩)⟩)))))
    | source n shape a hx h => exact .inr (.inr (.inr (.inr (.inr (.inr (.inl ⟨_, hx, .inl ⟨h, rfl⟩⟩))))))
    | sourceShape n shape hx h hs => exact .inr (.inr (.inr (.inr (.inr (.inr (.inl ⟨_, hx, .inr (.inl ⟨h, hs, rfl, rfl⟩)⟩))))))
    | sourceBusy n shape hx h hb => exact .inr (.inr (.inr (.inr (.inr (.inr (.inl ⟨_, hx, .inr (.inr ⟨h, hb, rfl, rfl⟩)⟩))))))
    | dest n shape a hx h => exact .inr (.inr (.inr (.inr (.inr (.inr (.inr ⟨_, hx, .inl ⟨h, rfl⟩⟩))))))
    | destShape n shape hx h hs => exact .inr (.inr (.inr (.inr (.inr (.inr (.inr ⟨_, hx, .inr (.inl ⟨h, hs, rfl, rfl⟩)⟩))))))
    | destBusy n shape hx h hb => exact .inr (.inr (.inr (.inr (.inr (.inr (.inr ⟨_, hx, .inr (.inr ⟨h, hb, rfl, rfl⟩)⟩))))))
  · rintro (⟨h, rfl, rfl⟩ | ⟨h, rfl, rfl⟩ | ⟨x, hx, h, rfl, rfl⟩ | ⟨x, hx, h⟩ | ⟨r, hr, va, len, h, rfl⟩
      | ⟨f, hf, h⟩ | ⟨x, hx, h⟩ | ⟨x, hx, h⟩)
    · exact .reserved h
    · exact .noResident h
    · exact .alignGlobal _ _ hx h
    · obtain ⟨h, rfl, rfl⟩ | ⟨h, rfl, rfl⟩ | ⟨h, rfl, rfl⟩ := h
      · exact .align _ _ _ hx h
      · exact .prot _ _ _ hx h
      · exact .vecBusy _ _ _ hx h
    · exact .page r va len _ hr h
    · obtain ⟨f, code, v⟩ := f
      obtain ⟨h, rfl, rfl⟩ | ⟨code, rfl, h, hn, rfl, rfl⟩ | ⟨r, h, hs, hr, hb, rfl, rfl⟩ := h
      · exact .closed _ hf h
      · exact .type f code v hf h hn
      · exact .fibreBusy f code v r hf h hs hr hb
    · obtain ⟨h, rfl⟩ | ⟨h, hs, rfl, rfl⟩ | ⟨h, hb, rfl, rfl⟩ := h
      · exact .source _ _ _ hx h
      · exact .sourceShape _ _ hx h hs
      · exact .sourceBusy _ _ hx h hb
    · obtain ⟨h, rfl⟩ | ⟨h, hs, rfl, rfl⟩ | ⟨h, hb, rfl, rfl⟩ := h
      · exact .dest _ _ _ hx h
      · exact .destShape _ _ hx h hs
      · exact .destBusy _ _ hx h hb

/-! ## The checks of the model, by operand -/

theorem mem_chkIf {b : Bool} {x : Cause} {m : Nat} : (k, a) ∈ chkIf b x m ↔ b = true ∧ k = x ∧ a = BitVec.ofNat 64 m := by
  cases b <;> simp [chkIf]

theorem mem_spanErrs {l : List (Nat × Nat × Except Cause (Nat × DWord))} :
    (k, a) ∈ spanErrs l ↔ ∃ va len, (va, len, .error k) ∈ l ∧ a = BitVec.ofNat 64 va := by
  simp only [spanErrs, List.mem_filterMap]
  constructor
  · rintro ⟨⟨va, len, r⟩, hx, h⟩
    cases r with
    | error k' =>
      cases h
      exact ⟨va, len, hx, rfl⟩
    | ok _ => cases h
  · rintro ⟨va, len, hx, rfl⟩
    exact ⟨_, hx, rfl⟩

theorem mem_pageErrs {r : Nat × Nat} : (k, a) ∈ spanErrs (s.spanOf w r) ↔ PageErr s w r k a := mem_spanErrs

/-- A range of no bytes has no pages. -/
theorem not_pageErr_empty (b : Nat) : ¬ PageErr s w (b, 0) k a := by
  rintro ⟨va, len, h, -⟩
  simp [State.spanOf, State.span] at h

theorem mem_fibrePages {f : Option (BitVec 256)} {v : Bool} :
    (k, a) ∈ s.fibrePages w f v ↔ ∃ r ∈ fibreSlots f false v, PageErr s w r k a := by
  have h0 := not_pageErr_empty (s := s) (w := w) (k := k) (a := a) 0
  cases f with
  | none => simp [State.fibrePages, fibreSlots, h0]
  | some f =>
    cases ho : fbOpen f <;> cases hs : fbStash f <;> cases v <;>
      simp [State.fibrePages, fibreSlots, ho, hs, h0, mem_pageErrs]

/-- The pages of the operands' ranges are those of the fibres', slot by slot. -/
theorem pages_globalSlots {fa fb fr : Option (BitVec 256)} : (∃ r ∈ globalSlots fa fb fr, PageErr s w r k a)
    ↔ (k, a) ∈ s.fibrePages w fa true ∨ (k, a) ∈ s.fibrePages w fb true ∨ (k, a) ∈ s.fibrePages w fr false := by
  have h0 := not_pageErr_empty (s := s) (w := w) (k := k) (a := a) 0
  have hr : (∃ r ∈ (fibreSlots fr false false).take 1, PageErr s w r k a) ↔ ∃ r ∈ fibreSlots fr false false, PageErr s w r k a := by
    cases fr with
    | none => simp [fibreSlots, h0]
    | some f => cases ho : fbOpen f <;> cases hs : fbStash f <;> simp [fibreSlots, ho, hs, h0]
  simp only [mem_fibrePages, globalSlots, List.mem_append, or_and_right, exists_or, hr, or_assoc]

/-- A fibre operand, as the instructions' needs list it. -/
def fibreRole (f : Option (BitVec 256)) (code : Option Nat) (v : Bool) : List (BitVec 256 × Option Nat × Bool) :=
  f.toList.map fun f => (f, code, v)

theorem gsrcFibre_eq (x : GSrc) (code : Option Nat) : gsrcFibre w x code = fibreRole (srcFib w x) code true := by
  cases x <;> rfl

theorem indexFibre_eq (ri : Option FReg) : indexFibre w ri = fibreRole (ri.map fun r => w.freg r.toNat) none false := by
  cases ri <;> rfl

theorem mem_fibreBusy {f : BitVec 256} {v : Bool} : (k, a) ∈ p.fibreBusy (some f) v ↔ ∃ r, fbOpen f = true ∧ fbStash f = true
    ∧ (r = crdRange f (fbPos f) (fbCount f) ∨ (v = true ∧ r = valRange f (fbPos f) (fbCount f)))
    ∧ p.rangeBusy r.1 r.2 = true ∧ k = .tileBusy ∧ a = BitVec.ofNat 64 r.1 := by
  cases ho : fbOpen f with
  | false => simp [Group.fibreBusy, ho]
  | true =>
    cases hs : fbStash f with
    | false => simp [Group.fibreBusy, ho, hs]
    | true =>
      simp only [Group.fibreBusy, ho, hs, Bool.not_true, Bool.or_self, Bool.false_eq_true, if_false, List.mem_append, mem_chkIf,
        Bool.and_eq_true, true_and, or_and_right, exists_or, exists_eq_left, and_assoc, exists_and_left]

/-- What a fibre operand of a type meets. -/
theorem fibreRole_errs {f : Option (BitVec 256)} {code : Nat} {v : Bool} : (∃ x ∈ fibreRole f (some code) v, FibErr p x k a)
    ↔ (k, a) ∈ fibreClosed f ∨ (k, a) ∈ fibreType f code ∨ (k, a) ∈ p.fibreBusy f v := by
  cases f with
  | none => simp [fibreRole, fibreClosed, fibreType, Group.fibreBusy]
  | some f =>
    simp only [fibreRole, Option.toList_some, List.map_cons, List.map_nil, List.mem_singleton, exists_eq_left, FibErr, fibreClosed,
      fibreType, mem_chkIf, mem_fibreBusy, Bool.not_eq_true', Option.some.injEq, exists_eq_left', Bool.and_eq_true, bne_iff_ne, ne_eq,
      and_assoc]

/-- What a row index meets. -/
theorem indexRole_errs {f : Option (BitVec 256)} {v : Bool} : (∃ x ∈ fibreRole f none v, FibErr p x k a)
    ↔ (k, a) ∈ fibreClosed f ∨ (k, a) ∈ p.fibreBusy f v := by
  cases f with
  | none => simp [fibreRole, fibreClosed, Group.fibreBusy]
  | some f =>
    simp [fibreRole, FibErr, fibreClosed, mem_chkIf, mem_fibreBusy]

theorem mem_tileGate {m : Nat} {need : TileState → Bool} {change bad : Bool} : (k, a) ∈ (s.tileGate w p m need change bad).errs
    ↔ (s.tileFit w p m need change false = .trap a ∧ k = .tileState)
      ∨ (s.tileFit w p m need change false = .ok ∧ bad = true ∧ k = .tileState ∧ a = BitVec.ofNat 64 (p.tile m).base) := by
  unfold State.tileGate
  cases hf : s.tileFit w p m need change false with
  | trap b => simp [and_comm, eq_comm]
  | stall => simp
  | ok => simp [Gate.of, mem_chkIf]

theorem tileGate_stall {m : Nat} {need : TileState → Bool} {change bad : Bool} :
    (s.tileGate w p m need change bad).stall = true ↔ s.tileFit w p m need change false = .stall := by
  unfold State.tileGate
  cases hf : s.tileFit w p m need change false <;> simp [Gate.of]

theorem mem_sourceGate {m : TileNo} {shape : Prop} {bad : Bool} (hb : bad = true ↔ ¬ shape) :
    (k, a) ∈ (s.sourceGate w p m.toNat bad).errs ↔ SrcErr s w p (m, shape) k a := by
  simp only [State.sourceGate, Gate.join, Gate.of, List.mem_append, mem_tileGate, mem_chkIf, Bool.and_eq_true, hb, SrcErr, or_assoc, and_assoc]

theorem sourceGate_stall {m : Nat} {bad : Bool} :
    (s.sourceGate w p m bad).stall = true ↔ s.tileFit w p m isReadyTile false false = .stall := by
  simp only [State.sourceGate, Gate.join, Gate.of, Bool.or_false, tileGate_stall]

theorem mem_destGate {m : TileNo} {shape : Prop} {bad : Bool} (hb : bad = true ↔ ¬ shape) :
    (k, a) ∈ (s.destGate w e p m.toNat bad).errs ↔ DstErr s w e p (m, shape) k a := by
  simp only [State.destGate, Gate.join, Gate.of, List.mem_append, mem_tileGate, mem_chkIf, Bool.and_eq_true, Bool.or_eq_true, hb, DstErr,
    or_assoc, and_assoc]

theorem destGate_stall {m : Nat} {bad : Bool} :
    (s.destGate w e p m bad).stall = true ↔ s.tileFit w p m notMoving true false = .stall := by
  simp only [State.destGate, Gate.join, Gate.of, Bool.or_false, tileGate_stall]
end

end Sys2Proof.Machine
end

section
/-! OBLIGATION O33 (07 R369, 09 R198 to R202). -/

namespace Sys2Proof.Machine

section
variable {s : State} {i : Instr} {t : Nat} {w : Thread} {e : Entry} {c : Clause} {g : Grid} {p : Group} {q : Bool} {dests : List Nat}

/-- An instruction that issues has the flag that it names (05 R87). -/
theorem flag_of_issues (h : Issues s i t w e c) (hg : s.grid? w.grid = some g) (hq : qselOf i = some q) : ∃ k, c.flag q = some k := by
  have hr : ¬ reservedHere g.desc c i = true := fun hr => by
    have hp := h.passes
    rw [issueTrap_reserved hg hr] at hp
    cases hp
  cases hf : c.flag q with
  | some k => exact ⟨k, rfl⟩
  | none => exact absurd (by simp [reservedHere, hq, hf]) hr

theorem stored_logWords (s : State) (w : Thread) (step : Word) (l : List LaneRead) : Stored s (s.logWords w step l) := by
  have hlog := stored_foldl (fun (s : State) (x : Nat × Nat) => s.uncorrected w.die x.1 (BitVec.ofNat 64 x.2) step 0 1 w.ctx)
    (fun s x => stored_uncorrected s _ _ _ _ _ _ _)
  have hdrop := stored_foldl (fun (s : State) (r : LaneRead) => s.dropLost r) fun s r => by
    unfold State.dropLost
    split
    · split
      · exact stored_dropL3 s _ _
      · exact Stored.refl s
    · exact Stored.refl s
  unfold State.logWords
  dsimp only
  split
  · exact hlog _ s
  · exact (hlog _ s).trans (hdrop _ _)

theorem stored_noteEngine (s : State) (w : Thread) (step : Word) (uses : List LineUse) (l : List LaneRead) :
    Stored s (s.noteEngine w step uses l) := (stored_fills s w step _).trans (stored_logWords _ w step l)

/-- Capture (09 R198, R199). -/
theorem enqueue_captured (h : Issues s i t w e c) (hg : s.grid? w.grid = some g) (hp : s.group? w.group = some p) (hq : qselOf i = some q)
    {x : Capture} (hglob : x.glob = grateSlots w i) (hd : x.dests = dests) (hx : exec i s = .next (s.enqueue t w e c i q p x)) :
    Captured s i t w e c q dests := by
  obtain ⟨k, hk⟩ := flag_of_issues h hg hq
  let s2 := (s.noteEngine w e.gstep ((grateSlots w i).flatMap (s.spanUses w)) ((grateSlots w i).map (s.slotReads w)).flatten).touched w
    (grateSlots w i)
  have hkept : s2.uid = s.uid ∧ s2.time = s.time := by
    have hl := looked_touched (s.noteEngine w e.gstep ((grateSlots w i).flatMap (s.spanUses w)) ((grateSlots w i).map (s.slotReads w)).flatten)
      w (grateSlots w i)
    obtain ⟨_, _, _, _, _, _, hs⟩ := stored_noteEngine s w e.gstep
      ((grateSlots w i).flatMap (s.spanUses w)) ((grateSlots w i).map (s.slotReads w)).flatten
    exact ⟨hl.uid.trans (by rw [hs]), hl.time.trans (by rw [hs])⟩
  have henq : ∃ o : GrateOp, o.flag = (c.flag q).getD 0
      ∧ (o.i = i ∧ o.t = t ∧ o.fmt = e.fmt ∧ o.exec = e.mask ∧ o.icnt = e.icnt ∧ o.gstep = e.gstep ∧ o.wstep = e.wstep)
      ∧ o.bytes = ((grateSlots w i).map (s.slotReads w)).map (fun l => l.flatMap (·.bytes)) ∧ o.since = s2.time
      ∧ o.prior = dests.map (fun n => (n, (p.tile n).actual))
      ∧ s.enqueue t w e c i q p x = ({ (s2.setGroup w.group
          (dests.foldl (fun p n => p.setTile n ((p.tile n).change w.wix .draining)) p)) with uid := s2.uid + 1 }.modHearth w.home
            fun h => { h with grate := h.grate ++ [o] }).retire t w e := by
    rw [← hd]
    simp only [State.enqueue, hglob, List.flatMap_id]
    exact ⟨_, rfl, ⟨rfl, rfl, rfl, rfl, rfl, rfl, rfl⟩, rfl, rfl, rfl, rfl⟩
  obtain ⟨o, hflag, hsame, hbytes, hsince, hprior, henq⟩ := henq
  rw [henq, hkept.1] at hx
  refine ⟨o, p, hp, by rw [hflag, hk]; rfl, hsame, hbytes, hsince.trans hkept.2, fun n hn => ⟨_, ?_, rfl⟩, performs_retire h rfl rfl hx⟩
  rw [hprior]
  exact List.mem_map.mpr ⟨n, hn, rfl⟩

/-- How an instruction of the family runs once nothing that an earlier one owes is in the way: it waits, or its checks decide, or it
waits for room and for its global operands' homes, or it is captured. -/
structure GrateRun (s : State) (i : Instr) (t : Nat) (w : Thread) (e : Entry) (c : Clause) (g : Grid) (p : Group) (q : Bool)
    (dests : List Nat) (k : State → Nat → Thread → Entry → Clause → Grid → Group → Out) (x : Gate) (y : Capture) : Prop where
  op : exec i s = grateOp i s k
  qsel : qselOf i = some q
  glob : y.glob = grateSlots w i
  dests : y.dests = dests
  errs : ∀ k a, (k, a) ∈ x.errs ↔ GrateErr s w e g p i (s.grateNeeds t w e p i) k a
  moves : x.stall = true ↔ s.grateMoving w p (s.grateNeeds t w e p i)
  stalls : s.grateWaits w e i (s.grateNeeds t w e p i) → k s t w e c g p = .next (s.stallHere t w)
  goes : ¬ s.grateWaits w e i (s.grateNeeds t w e p i) → k s t w e c g p = x.pass s t w e c
    (if (s.grateFull w || !s.rangesReached w (grateSlots w i)) = true then .next (s.stallHere t w) else .next (s.enqueue t w e c i q p y))

section
variable {k : State → Nat → Thread → Entry → Clause → Grid → Group → Out} {x : Gate} {y : Capture}

/-- The outcomes of an instruction that runs so (07 R369, 09 R200). -/
theorem GrateRun.outcomes (r : GrateRun s i t w e c g p q dests k x y) (h : Issues s i t w e c) (hg : s.grid? w.grid = some g)
    (hp : s.group? w.group = some p) :
    let owes := w.handler = false ∧ ∃ o ∈ w.owed, ∃ k, o.due = .grate k
    let n := s.grateNeeds t w e p i
    let err := GrateErr s w e g p i n
    (owes → ∃ o ∈ w.owed, ∃ k, o.due = .grate k ∧ exec i s = .next (s.takeOwed t w o c.here c.hdr))
    ∧ (¬ owes → s.grateUnread t w = true ∨ s.grateWaits w e i n → Stalls s i t w)
    ∧ (¬ owes → s.grateUnread t w = false → ¬ s.grateWaits w e i n →
      ((∃ k a, err k a) → ∃ k a, err k a ∧ (∀ k' a', err k' a' → k.own ≤ k'.own)
        ∧ (¬ (s.grateMoving w p n ∧ Cause.own .tileState < k.own) → ∃ l, (∀ x ∈ l, x.1 = lowestLane e.mask ∧ err .page x.2)
          ∧ (∀ b, err .page b → (lowestLane e.mask, b) ∈ l) ∧ TrapsAt s i t w c ⟨k, a, e.mask⟩ l)
        ∧ (s.grateMoving w p n ∧ Cause.own .tileState < k.own → Stalls s i t w))
      ∧ ((∀ k a, ¬ err k a) →
        let ready := ¬ s.grateMoving w p n ∧ (s.hearth w.home).grate.length < 16 ∧ s.rangesReached w (grateSlots w i) = true
        (ready → Captured s i t w e c q dests) ∧ (¬ ready → Stalls s i t w))) := by
  intro owes n err
  have hx : exec i s = match firstOwed (w.owed.filter fun o => !w.handler && o.atGrate) with
      | some o => .next (s.takeOwed t w o c.here c.hdr)
      | none => if s.grateUnread t w = true then .next (s.stallHere t w) else k s t w e c g p := by
    rw [r.op, grateOp, issue_next h]
    simp only [hg, hp] <;> rfl
  have hnone : ¬ owes → firstOwed (w.owed.filter fun o => !w.handler && o.atGrate) = none := fun ho => by
    refine firstOwed_eq_none_iff.mpr (List.filter_eq_nil_iff.mpr fun o hm hb => ho ?_)
    obtain ⟨h1, h2⟩ := Bool.and_eq_true_iff.mp hb
    exact ⟨by simpa using h1, o, hm, (atGrate_iff o).mp h2⟩
  refine ⟨fun ⟨hh, o, ho, k, hk⟩ => ?_, fun ho hw => ?_, fun ho hu hw => ?_⟩
  · cases hf : firstOwed (w.owed.filter fun o => !w.handler && o.atGrate) with
    | none =>
      have hm : o ∈ w.owed.filter fun o => !w.handler && o.atGrate :=
        List.mem_filter.mpr ⟨ho, by rw [hh, (atGrate_iff o).mpr ⟨k, hk⟩]; rfl⟩
      rw [firstOwed_eq_none_iff.mp hf] at hm
      cases hm
    | some o =>
      obtain ⟨hm, hb⟩ := List.mem_filter.mp (firstOwed_spec hf).1
      obtain ⟨k, hk⟩ := (atGrate_iff o).mp (Bool.and_eq_true_iff.mp hb).2
      rw [hf] at hx
      exact ⟨o, hm, k, hk, hx⟩
  · rw [hnone ho] at hx
    cases hu : s.grateUnread t w with
    | true =>
      rw [hu] at hx
      exact stalls_of hx
    | false =>
      rw [hu] at hx hw
      exact stalls_of (hx.trans (r.stalls (hw.resolve_left Bool.false_ne_true)))
  · rw [hnone ho, hu] at hx
    have hx := Eq.trans hx (r.goes hw)
    refine ⟨pass_traps r.errs r.moves hx, fun hno => ?_⟩
    have hx := pass_goes r.errs hx hno
    have hready : ((s.grateFull w || !s.rangesReached w (grateSlots w i)) = true)
        ↔ ¬ ((s.hearth w.home).grate.length < 16 ∧ s.rangesReached w (grateSlots w i) = true) := by
      simp only [State.grateFull, Bool.or_eq_true, decide_eq_true_eq, Bool.not_eq_true', not_and_or, Nat.not_lt, Bool.not_eq_true]
    refine ⟨fun ⟨hm, hroom⟩ => ?_, fun hn => ?_⟩
    · rw [if_neg (mt r.moves.mp hm), if_neg (fun hc => hready.mp hc hroom)] at hx
      exact enqueue_captured h hg hp r.qsel r.glob r.dests hx
    · by_cases hm : x.stall = true
      · rw [if_pos hm] at hx
        exact stalls_of hx
      · rw [if_neg hm, if_pos (hready.mpr fun hroom => hn ⟨mt r.moves.mpr hm, hroom⟩)] at hx
        exact stalls_of hx
end
end

end Sys2Proof.Machine
end

section
/-! OBLIGATION O33: the forms one by one (09 R215 to R222). -/

namespace Sys2Proof.Machine

section
variable {s : State} {t : Nat} {w : Thread} {e : Entry} {c : Clause} {g : Grid} {p : Group} {q : Bool}

theorem spansWalked_nil : s.spansWalked w [] = true := rfl
theorem rangesReached_nil : s.rangesReached w [] = true := rfl

/-- An instruction without fibres, vectors or global operands, that asks nothing of its tiles' shapes but what it lists. -/
theorem mmzero_run (d : AReg) : ∃ k x y, GrateRun s (.mmzero q d) t w e c g p q [] k x y := by
  have hn : s.grateNeeds t w e p (.mmzero q d) = {} := rfl
  have hnw : ¬ s.grateWaits w e (.mmzero q d) {} := by
    simp [State.grateWaits, grateSlots, spansWalked_nil]
  refine ⟨_, Gate.of [], { fa := none, fb := none, fr := none, sv := [], glob := [], stash := [], dests := [], mayErr := false },
    { op := (rfl : execMmzero q d s = grateOp (.mmzero q d) s _), qsel := rfl, glob := rfl, dests := rfl
      errs := fun k a => ?_, moves := ?_, stalls := fun h => absurd (hn ▸ h) hnw, goes := fun _ => ?_ }⟩
  · rw [grateErr_iff, hn]
    simp [Gate.of, grateSlots]
  · rw [hn]
    simp [Gate.of, State.grateMoving]
  · simp only [grateSlots, rangesReached_nil, Bool.not_true, Bool.or_false]
    rfl

/-- VQLUT (09 R221): its image's alignment and pages. -/
theorem vqlut_run (tbl : Bool) (a : SReg) : ∃ k x y, GrateRun s (.vqlut tbl q a) t w e c g p q [] k x y := by
  generalize hva : (w.sreg a.toNat).toNat = va
  have hslots : grateSlots w (.vqlut tbl q a) = [(0, 0), (va, 1024)] := by rw [← hva]; rfl
  have hn : s.grateNeeds t w e p (.vqlut tbl q a) = { aligned := [(va, 128)] } := by rw [← hva]; rfl
  have hspan : s.spanOf w (0, 0) = [] := rfl
  have hwalk : s.spansWalked w [(0, 0), (va, 1024)] = s.spansWalked w [(va, 1024)] := by simp [State.spansWalked, hspan]
  have hreach : s.rangesReached w [(0, 0), (va, 1024)] = s.rangesReached w [(va, 1024)] := by
    simp [State.rangesReached, State.spanUses, hspan]
  have hwaits : s.grateWaits w e (.vqlut tbl q a) { aligned := [(va, 128)] }
      ↔ (s.gridReadWaits w e || !s.spansWalked w [(va, 1024)]) = true := by
    simp [State.grateWaits, hslots, hwalk]
  refine ⟨_, Gate.of (chkIf (va % 128 != 0) .align va ++ spanErrs (s.spanOf w (va, 1024))),
    { fa := none, fb := none, fr := none, sv := [], glob := [(0, 0), (va, 1024)], stash := [], dests := [], mayErr := false },
    { op := (rfl : execVqlut tbl q a s = grateOp (.vqlut tbl q a) s _), qsel := rfl, glob := hslots.symm, dests := rfl
      errs := fun k a => ?_, moves := ?_, stalls := fun h => ?_, goes := fun h => ?_ }⟩
  · rw [grateErr_iff, hn, hslots]
    have h0 := not_pageErr_empty (s := s) (w := w) (k := k) (a := a) 0
    simp [Gate.of, mem_chkIf, mem_pageErrs, h0]
  · rw [hn]
    simp [Gate.of, State.grateMoving]
  · rw [hn] at h
    simp only [hva]
    rw [if_pos (hwaits.mp h)]
  · rw [hn] at h
    simp only [hva]
    rw [if_neg (mt hwaits.mpr h), hslots, hreach]

/-- MMDRAIN (09 R219, R220): its vectors and its destination. -/
theorem mmdrain_run (rnd : Rnd) (relu : Bool) (bias : Option SReg) (d : TileNo) (a : AReg) (sa sb : Option SReg) :
    ∃ k x y, GrateRun s (.mmdrain rnd relu bias q d a sa sb) t w e c g p q [d.toNat] k x y := by
  generalize hv : drainVecs e.fmt w bias sa sb = vs
  let sh : Prop := (p.tile d.toNat).ef ≠ 7 ∧ 64 ≤ (p.tile d.toNat).rows ∧ (p.tile d.toNat).wide64 (p.tile d.toNat).ef = true
  have hn : s.grateNeeds t w e p (.mmdrain rnd relu bias q d a sa sb) =
      { reserved := 2 ≤ fmtAcc e.fmt, vecs := vs.filterMap id, dests := [(d, sh)] } := by rw [← hv]; rfl
  have hslots : grateSlots w (.mmdrain rnd relu bias q d a sa sb) = [] := rfl
  have hwaits : s.grateWaits w e (.mmdrain rnd relu bias q d a sa sb) { reserved := 2 ≤ fmtAcc e.fmt, vecs := vs.filterMap id, dests := [(d, sh)] }
      ↔ s.groupReadWaits w e = true := by
    simp [State.grateWaits, hslots, spansWalked_nil]
  have hbad : ((p.tile d.toNat).ef == 7 || decide ((p.tile d.toNat).rows < 64) || !(p.tile d.toNat).wide64 (p.tile d.toNat).ef) = true ↔ ¬ sh := by
    simp only [sh, Bool.or_eq_true, beq_iff_eq, decide_eq_true_eq, Bool.not_eq_true', not_and_or, not_not, Nat.not_le,
      Bool.not_eq_true, ne_eq, or_assoc]
  refine ⟨_, (Gate.of (chkIf (decide (2 ≤ fmtAcc e.fmt)) .reservedEnc 0
        ++ (vs.filterMap id).flatMap (fun v => chkIf (v.1 % v.2.2 != 0) .align v.1)
        ++ (vs.filterMap id).flatMap (fun v => chkIf (decide (g.stashBytes < v.1 + v.2.1)) .prot v.1))).join
      ((s.destGate w e p d.toNat
        ((p.tile d.toNat).ef == 7 || decide ((p.tile d.toNat).rows < 64) || !(p.tile d.toNat).wide64 (p.tile d.toNat).ef)).join
        (Gate.of ((vs.filterMap id).flatMap fun v => chkIf (p.rangeBusy v.1 v.2.1) .tileBusy v.1))),
    { fa := none, fb := none, fr := none, sv := [], glob := [], stash := stashSlots p none none none none none none (vs.map vecRange)
      dests := [d.toNat], mayErr := false },
    { op := (rfl : execMmdrain rnd relu bias q d a sa sb s = grateOp (.mmdrain rnd relu bias q d a sa sb) s _)
      qsel := rfl, glob := rfl, dests := rfl
      errs := fun k a => ?_, moves := ?_, stalls := fun h => ?_, goes := fun h => ?_ }⟩
  · rw [grateErr_iff, hn, hslots]
    simp only [Gate.join, Gate.of, List.mem_append, List.mem_flatMap, mem_chkIf, mem_destGate hbad, VecErr, bne_iff_ne, decide_eq_true_eq,
      and_or_left, exists_or, List.mem_singleton, exists_eq_left, List.not_mem_nil, false_and, exists_false, false_or, not_true]
    exact iff_of_eq (by ac_rfl)
  · rw [hn]
    simp [Gate.join, Gate.of, State.grateMoving, destGate_stall]
  · rw [hn] at h
    exact if_pos (hwaits.mp h)
  · rw [hn] at h
    simp only [hv]
    rw [if_neg (mt hwaits.mpr h), hslots, rangesReached_nil]
    simp only [Bool.not_true, Bool.or_false]

/-- Two tiles that the model's check finds the same or overlapping are not apart. -/
theorem not_apart (a b : TileNo) : (a == b || tilesOverlap (p.tile a.toNat) (p.tile b.toNat)) = true ↔ ¬ p.apart a b := by
  simp only [Group.apart, Bool.or_eq_true, beq_iff_eq, not_and_or, ne_eq, not_not, Bool.not_eq_false]

/-- SPDG (09 R222): its mask, weights and gradients. -/
theorem spdg_run (m n gr : TileNo) (z : SSrc) : ∃ k x y, GrateRun s (.spdg q m n gr z) t w e c g p q [m.toNat, n.toNat] k x y := by
  let X := p.tile m.toNat
  let Y := p.tile n.toNat
  let Z := p.tile gr.toNat
  let shm : Prop := 64 ≤ X.rows ∧ 8 ≤ X.pitch ∧ 64 * X.pitch + 8 ≤ X.bytes ∧ p.apart m n
  let shn : Prop := Y.ef ≠ 7 ∧ 64 ≤ Y.rows ∧ Y.wide64 Y.ef = true ∧ p.apart m n
  let shg : Prop := (Z.ef < 5 ∨ Z.ef = 8) ∧ 64 ≤ Z.rows ∧ Z.wide64 Z.ef = true ∧ p.apart m gr ∧ p.apart n gr
  have hn : s.grateNeeds t w e p (.spdg q m n gr z) = { dests := [(m, shm), (n, shn)], sources := [(gr, shg)] } := rfl
  have hslots : grateSlots w (.spdg q m n gr z) = [] := rfl
  have hwaits : s.grateWaits w e (.spdg q m n gr z) { dests := [(m, shm), (n, shn)], sources := [(gr, shg)] } ↔ s.groupReadWaits w e = true := by
    simp [State.grateWaits, hslots, spansWalked_nil]
  let mw : Bool := m == n || tilesOverlap X Y
  let gOver : Bool := m == gr || n == gr || tilesOverlap X Z || tilesOverlap Y Z
  have hmw : mw = true ↔ ¬ p.apart m n := not_apart m n
  have hgo : gOver = true ↔ ¬ p.apart m gr ∨ ¬ p.apart n gr := by
    rw [← not_apart, ← not_apart]
    simp only [gOver, X, Y, Z, Bool.or_eq_true]
    exact iff_of_eq (by ac_rfl)
  let bm : Bool := decide (X.rows < 64) || decide (X.pitch < 8) || decide (X.bytes < 64 * X.pitch + 8) || mw
  let bn : Bool := Y.ef == 7 || decide (Y.rows < 64) || !Y.wide64 Y.ef || mw
  let bg : Bool := (decide (5 ≤ Z.ef) && Z.ef != 8) || decide (Z.rows < 64) || !Z.wide64 Z.ef || gOver
  have hbm : bm = true ↔ ¬ shm := by
    simp only [bm, shm, Bool.or_eq_true, decide_eq_true_eq, hmw, not_and_or, Nat.not_le, or_assoc]
  have hbn : bn = true ↔ ¬ shn := by
    simp only [bn, shn, Bool.or_eq_true, beq_iff_eq, decide_eq_true_eq, Bool.not_eq_true', hmw, not_and_or, Nat.not_le, ne_eq, not_not,
      Bool.not_eq_true, or_assoc]
  have hbg : bg = true ↔ ¬ shg := by
    simp only [bg, shg, Bool.or_eq_true, Bool.and_eq_true, bne_iff_ne, decide_eq_true_eq, Bool.not_eq_true', hgo, not_and_or, not_or, Nat.not_le,
      Nat.not_lt, ne_eq, Bool.not_eq_true, or_assoc]
  refine ⟨_, ((s.destGate w e p m.toNat bm).join (s.destGate w e p n.toNat bn)).join (s.sourceGate w p gr.toNat bg),
    { fa := none, fb := none, fr := none, sv := [z.value w], glob := []
      stash := stashSlots p none none none (some gr.toNat) (some n.toNat) (some m.toNat) [], dests := [m.toNat, n.toNat], mayErr := false },
    { op := (rfl : execSpdg q m n gr z s = grateOp (.spdg q m n gr z) s _), qsel := rfl, glob := rfl, dests := rfl, errs := fun k a => ?_
      moves := ?_, stalls := fun h => ?_, goes := fun h => ?_ }⟩
  · rw [grateErr_iff, hn, hslots]
    simp only [Gate.join, List.mem_append, mem_destGate hbm, mem_destGate hbn, mem_sourceGate hbg, List.mem_cons, or_and_right, exists_or,
      exists_eq_left, List.not_mem_nil, false_and, exists_false, false_or, or_false, not_true]
    exact iff_of_eq (by ac_rfl)
  · rw [hn]
    simp only [Gate.join, Bool.or_eq_true, destGate_stall, sourceGate_stall, State.grateMoving, List.mem_cons, or_and_right, exists_or,
      exists_eq_left, List.not_mem_nil, or_false]
    exact iff_of_eq (by ac_rfl)
  · rw [hn] at h
    exact if_pos (hwaits.mp h)
  · rw [hn] at h
    refine (if_neg (mt hwaits.mpr h)).trans ?_
    rw [hslots, rangesReached_nil]
    simp only [Bool.not_true, Bool.or_false]
    rfl

/-! ## Operands that are a tile or a fibre -/

/-- The checks of a tile, where the operand is one. -/
def optGate (n : Option Nat) (f : Nat → Gate) : Gate :=
  match n with
  | some n => f n
  | none => Gate.of []

section
variable {k : Cause} {a : DWord} {x : GSrc} {shape : TileNo → Prop} {bad : Nat → Bool} {f : Option (BitVec 256)} {code : Option Nat} {v : Bool}

theorem optSource_errs (hb : ∀ n : TileNo, bad n.toNat = true ↔ ¬ shape n) :
    (k, a) ∈ (optGate (srcTile x) fun n => s.sourceGate w p n (bad n)).errs ↔ ∃ y ∈ gsrcTile x shape, SrcErr s w p y k a := by
  cases x with
  | fib _ => simp [srcTile, optGate, gsrcTile, Gate.of]
  | tile n =>
    simp only [srcTile, optGate, gsrcTile, List.mem_singleton, exists_eq_left]
    exact mem_sourceGate (hb n)

theorem optSource_stall (shape : TileNo → Prop) : (optGate (srcTile x) fun n => s.sourceGate w p n (bad n)).stall = true
    ↔ ∃ y ∈ gsrcTile x shape, s.tileFit w p y.1.toNat isReadyTile false false = .stall := by
  cases x with
  | fib _ => simp [srcTile, optGate, gsrcTile, Gate.of]
  | tile n => simp [srcTile, optGate, gsrcTile, sourceGate_stall]

theorem gsrcTile_ne_nil : gsrcTile x shape ≠ [] ↔ (srcFib w x).isNone = true := by
  cases x <;> simp [gsrcTile, srcFib]

theorem anyGlobal_cons (code : Option Nat) (v : Bool) (l : List (Option (BitVec 256))) : anyGlobal (f :: l) = true
    ↔ (∃ x ∈ fibreRole f code v, fbOpen x.1 = true ∧ fbStash x.1 = false) ∨ anyGlobal l = true := by
  cases f <;> simp [anyGlobal, fibreRole]

theorem anyStash_cons (code : Option Nat) (v : Bool) (l : List (Option (BitVec 256))) : anyStash (f :: l) = true
    ↔ (∃ x ∈ fibreRole f code v, fbOpen x.1 = true ∧ fbStash x.1 = true) ∨ anyStash l = true := by
  cases f <;> simp [anyStash, fibreRole]

theorem anyGlobal_nil : anyGlobal [] = false := rfl
theorem anyStash_nil : anyStash [] = false := rfl

theorem fibreNarrow_role (code : Option Nat) : fibreNarrow f = true ↔ narrowFibre (fibreRole f code true) := by
  cases f <;> simp [fibreNarrow, narrowFibre, fibreRole]

theorem narrowFibre_append (l m : List (BitVec 256 × Option Nat × Bool)) : narrowFibre (l ++ m) ↔ narrowFibre l ∨ narrowFibre m := by
  simp only [narrowFibre, List.mem_append, or_and_right, exists_or]
end

/-- Waits that lead to one stall are one wait. -/
theorem waits_three (c1 c2 c3 : Bool) (a b : Out) :
    (if c1 = true then a else if c2 = true then a else if c3 = true then a else b) = if (c1 || c2 || c3) = true then a else b := by
  cases c1 <;> cases c2 <;> rfl

theorem waits_four (c1 c2 c3 c4 : Bool) (a b : Out) :
    (if c1 = true then a else if c2 = true then a else if c3 = true then a else if c4 = true then a else b)
      = if (c1 || c2 || c3 || c4) = true then a else b := by
  cases c1 <;> cases c2 <;> cases c3 <;> rfl

/-- MMLDB (09 R217). -/
theorem mmldb_run (a : GSrc) : ∃ k x y, GrateRun s (.mmldb q a) t w e c g p q [] k x y := by
  let bf := fmtBf e.fmt
  let f := srcFib w a
  let sh : TileNo → Prop := fun n => (p.tile n.toNat).ef = bf ∧ (p.tile n.toNat).rows ≤ (if bf = 2 ∨ bf = 6 ∨ bf = 7 then 128 else 64)
    ∧ (p.tile n.toNat).wide64 bf = true
  let bad : Nat → Bool := fun n => (p.tile n).ef != bf || decide (residentRows bf < (p.tile n).rows) || !(p.tile n).wide64 bf
  have hn : s.grateNeeds t w e p (.mmldb q a) =
      { reserved := 8 ≤ bf ∨ narrowFibre (fibreRole f (some bf) true), fibres := fibreRole f (some bf) true, sources := gsrcTile a sh } := by
    rw [← gsrcFibre_eq]
    rfl
  have hslots : grateSlots w (.mmldb q a) = globalSlots none f none := rfl
  have hbad : ∀ n : TileNo, bad n.toNat = true ↔ ¬ sh n := fun n => by
    have hrows : residentRows bf = if bf = 2 ∨ bf = 6 ∨ bf = 7 then 128 else 64 := by
      simp [residentRows, halfClock, or_assoc]
    simp only [bad, sh, hrows, Bool.or_eq_true, bne_iff_ne, decide_eq_true_eq, Bool.not_eq_true', not_and_or, Nat.not_le, ne_eq, Bool.not_eq_true,
      or_assoc]
  have hwaits : s.grateWaits w e (.mmldb q a) (s.grateNeeds t w e p (.mmldb q a))
      ↔ (anyGlobal [f] && s.gridReadWaits w e || (f.isNone || anyStash [f]) && s.groupReadWaits w e
        || !s.spansWalked w (globalSlots none f none)) = true := by
    simp only [Bool.or_eq_true, Bool.and_eq_true, anyGlobal_cons (some bf) true, anyStash_cons (some bf) true, anyGlobal_nil, anyStash_nil, hn,
      State.grateWaits, hslots, Bool.not_eq_true', ne_eq, not_true, false_or, or_false, Bool.false_eq_true, reduceCtorEq, exists_false, false_and]
    rw [← gsrcTile_ne_nil (w := w) (shape := sh)]
    simp only [or_assoc, ne_eq]
  refine ⟨_, ((Gate.of (chkIf (decide (8 ≤ bf) || fibreNarrow f) .reservedEnc 0 ++ s.fibrePages w f true ++ fibreClosed f ++ fibreType f bf)).join
      (optGate (srcTile a) fun n => s.sourceGate w p n (bad n))).join (Gate.of (p.fibreBusy f true)),
    { fa := none, fb := f, fr := none, sv := [], glob := globalSlots none f none, stash := stashSlots p none f none none (srcTile a) none []
      dests := [], mayErr := f.isSome },
    { op := (rfl : execMmldb q a s = grateOp (.mmldb q a) s _), qsel := rfl, glob := rfl, dests := rfl, errs := fun k x => ?_
      moves := ?_, stalls := fun h => ?_, goes := fun h => ?_ }⟩
  · rw [grateErr_iff, hn, hslots]
    have hnone : ∀ v, ¬ (k, x) ∈ s.fibrePages w none v := fun v => List.not_mem_nil
    simp only [Gate.join, Gate.of, List.mem_append, optSource_errs hbad, mem_chkIf, Bool.or_eq_true, decide_eq_true_eq, fibreNarrow_role (some bf),
      fibreRole_errs, pages_globalSlots, hnone, List.not_mem_nil, false_and, exists_false, false_or, or_false, not_true]
    exact iff_of_eq (by ac_rfl)
  · rw [hn]
    simp only [Gate.join, Gate.of, optSource_stall sh, State.grateMoving, List.not_mem_nil, false_and, exists_false, or_false, Bool.or_false,
      Bool.false_or]
  · exact (waits_three _ _ _ _ _).trans (if_pos (hwaits.mp h))
  · exact (waits_three _ _ _ _ _).trans (if_neg (mt hwaits.mpr h))

/-- MMLDA (09 R218). -/
theorem mmlda_run (df : Flow) (a : GSrc) (ri : Option FReg) : ∃ k x y, GrateRun s (.mmlda df q a ri) t w e c g p q [] k x y := by
  let af := fmtAf e.fmt
  let f := srcFib w a
  let fr := ri.map fun r => w.freg r.toNat
  let sh : TileNo → Prop := fun n => (p.tile n.toNat).ef = af
  let bad : Nat → Bool := fun n => (p.tile n).ef != af
  have hn : s.grateNeeds t w e p (.mmlda df q a ri) =
      { reserved := 8 ≤ af ∨ narrowFibre (fibreRole f (some af) true) ∨ (f.isSome = true ∧ ri.isSome = true)
          ∨ (df = .fmt ∧ bits e.fmt.toNat 11 2 = 3)
        fibres := fibreRole f (some af) true ++ fibreRole fr none false, sources := gsrcTile a sh } := by
    rw [← gsrcFibre_eq, ← indexFibre_eq]
    rfl
  have hslots : grateSlots w (.mmlda df q a ri) = globalSlots f none fr := rfl
  have hbad : ∀ n : TileNo, bad n.toNat = true ↔ ¬ sh n := fun n => by simp only [bad, sh, bne_iff_ne, ne_eq]
  have hri : fr.isSome = ri.isSome := Option.isSome_map
  have hwaits : s.grateWaits w e (.mmlda df q a ri) (s.grateNeeds t w e p (.mmlda df q a ri))
      ↔ (anyGlobal [f, fr] && s.gridReadWaits w e || (f.isNone || anyStash [f, fr]) && s.groupReadWaits w e
        || !s.spansWalked w (globalSlots f none fr)) = true := by
    rw [Bool.or_eq_true, Bool.or_eq_true, Bool.and_eq_true, Bool.and_eq_true, Bool.or_eq_true, anyGlobal_cons (some af) true,
      anyStash_cons (some af) true, anyGlobal_cons none false, anyStash_cons none false, ← gsrcTile_ne_nil (w := w) (shape := sh)]
    simp only [anyGlobal_nil, anyStash_nil, hn, State.grateWaits, hslots, List.mem_append, or_and_right, exists_or, Bool.not_eq_true', ne_eq,
      not_true, false_or, or_false, Bool.false_eq_true, reduceCtorEq, exists_false, false_and, or_assoc]
  refine ⟨_, ((Gate.of (chkIf (decide (8 ≤ af) || fibreNarrow f || (f.isSome && fr.isSome) || (df == .fmt && bits e.fmt.toNat 11 2 == 3))
        .reservedEnc 0 ++ s.fibrePages w f true ++ s.fibrePages w fr false ++ fibreClosed f ++ fibreClosed fr ++ fibreType f af)).join
      (optGate (srcTile a) fun n => s.sourceGate w p n (bad n))).join (Gate.of (p.fibreBusy f true ++ p.fibreBusy fr false)),
    { fa := f, fb := none, fr := fr, sv := [], glob := globalSlots f none fr, stash := stashSlots p f none fr (srcTile a) none none []
      dests := [], mayErr := f.isSome || fr.isSome },
    { op := (rfl : execMmlda df q a ri s = grateOp (.mmlda df q a ri) s _), qsel := rfl, glob := rfl, dests := rfl, errs := fun k x => ?_
      moves := ?_, stalls := fun h => ?_, goes := fun h => ?_ }⟩
  · rw [grateErr_iff, hn, hslots]
    have hnone : ∀ v, ¬ (k, x) ∈ s.fibrePages w none v := fun v => List.not_mem_nil
    simp only [Gate.join, Gate.of, List.mem_append, optSource_errs hbad, mem_chkIf, Bool.or_eq_true, Bool.and_eq_true, beq_iff_eq,
      decide_eq_true_eq, fibreNarrow_role (some af), hri, or_and_right, exists_or, fibreRole_errs, indexRole_errs, pages_globalSlots, hnone,
      List.not_mem_nil, false_and, exists_false, false_or, or_false, not_true]
    exact iff_of_eq (by ac_rfl)
  · rw [hn]
    simp only [Gate.join, Gate.of, optSource_stall sh, State.grateMoving, List.not_mem_nil, false_and, exists_false, or_false, Bool.or_false,
      Bool.false_or]
  · exact (waits_three _ _ _ _ _).trans (if_pos (hwaits.mp h))
  · exact (waits_three _ _ _ _ _).trans (if_neg (mt hwaits.mpr h))
end

end Sys2Proof.Machine
end

section
/-! OBLIGATION O33: MMIP, MMOP and MMRW (09 R203 to R216). -/

namespace Sys2Proof.Machine

/-- What a matrix instruction asks of the tile of operand A, of K with a resident B, of operand B, and of its destination (09 R205 to R208);
and what the model finds wrong with each. -/
def Group.aShape (p : Group) (af kk : Nat) (r : Bool) (n : TileNo) : Prop :=
  (p.tile n.toNat).ef = af ∧ (r = true → (p.tile n.toNat).kOf af = kk)
def Group.aBad (p : Group) (af kk : Nat) (r : Bool) (n : Nat) : Bool := (p.tile n).ef != af || (r && (p.tile n).kOf af != kk)
def Group.bShape (p : Group) (bf kk : Nat) (n : TileNo) : Prop :=
  (p.tile n.toNat).ef = bf ∧ (p.tile n.toNat).rows = kk ∧ (p.tile n.toNat).wide64 bf = true
def Group.bBad (p : Group) (bf kk n : Nat) : Bool := (p.tile n).ef != bf || (p.tile n).rows != kk || !(p.tile n).wide64 bf
def Group.cShape (p : Group) (m : MForm) (acc : Nat) (sparse : Prop) (n : TileNo) : Prop :=
  (p.tile n.toNat).ef = 8 + acc ∧ 64 ≤ (p.tile n.toNat).rows ∧ (sparse → 520 ≤ (p.tile n.toNat).pitch) ∧ 256 ≤ (p.tile n.toNat).pitch
    ∧ ∀ x, x = m.a ∨ m.b = some x → ∀ k, srcTile x = some k → k ≠ n.toNat ∧ tilesOverlap (p.tile n.toNat) (p.tile k) = false
def Group.cBad (p : Group) (m : MForm) (acc : Nat) (sparse : Bool) (n : Nat) : Bool :=
  (p.tile n).ef != 8 + acc || decide ((p.tile n).rows < 64) || decide ((p.tile n).pitch < (if sparse then 520 else 256))
    || [srcTile m.a, m.b.bind srcTile].any fun y => y.any fun k => k == n || tilesOverlap (p.tile n) (p.tile k)

/-- What a matrix instruction asks of its operands, where `res` is the resident B that it uses. -/
def matrixNeedsOf (w : Thread) (e : Entry) (p : Group) (m : MForm) (res : Option ResB) (d : Option TileNo) : GrateNeeds :=
  let af := fmtAf e.fmt
  let acc := fmtAcc e.fmt
  let bf := bfOf m res e.fmt
  let k := kShared p m res af
  let fibs := fibreRole (srcFib w m.a) (some af) true ++ fibreRole (m.b.bind (srcFib w)) (some bf) true
  let sparse := fibs ≠ [] ∨ ∃ r, res = some r ∧ r.sparse = true
  { reserved := accLegal acc af = false ∨ ((m.b.isSome = true ∨ res.isSome = true) ∧ accLegal acc bf = false)
      ∨ ((srcFib w m.a).isSome = true ∧ m.ri.isSome = true) ∨ narrowFibre fibs
    fibres := fibs ++ fibreRole (m.ri.map fun r => w.freg r.toNat) none false
    sources := gsrcTile m.a (p.aShape af k res.isSome) ++ m.b.toList.flatMap fun x => gsrcTile x (p.bShape bf k)
    dests := d.toList.map fun n => (n, p.cShape m acc sparse n)
    resident := m.b.isSome = true ∨ res.isSome = true }

/-- The resident B that a matrix instruction uses. -/
def State.resOf (s : State) (t : Nat) (w : Thread) (m : MForm) : Option ResB := if m.b.isNone = true then s.residentOf t w else none

section
variable {s : State} {t : Nat} {w : Thread} {e : Entry} {c : Clause} {g : Grid} {p : Group} {q : Bool} {m : MForm} {d : Option TileNo}

theorem matrixNeeds_eq : s.matrixNeeds t w e p m.a m.b m.ri d = matrixNeedsOf w e p m (s.resOf t w m) d := by
  obtain ⟨a, b, ri, dest, outer⟩ := m
  unfold State.matrixNeeds matrixNeedsOf State.resOf
  generalize s.residentOf t w = r
  simp only [gsrcFibre_eq, indexFibre_eq]
  cases b with
  | none => cases a <;> cases r <;> rfl
  | some b =>
    simp only [Option.toList_some, List.flatMap_cons, List.flatMap_nil, List.append_nil]
    cases a <;> cases b <;> rfl

/-- The checks of a matrix instruction, operand by operand. -/
theorem matrixGate_eq : s.matrixGate t w e p m =
    let res := s.resOf t w m
    let af := fmtAf e.fmt
    let acc := fmtAcc e.fmt
    let bf := bfOf m res e.fmt
    let fa := srcFib w m.a
    let fb := m.b.bind (srcFib w)
    let fr := m.ri.map fun r => w.freg r.toNat
    let kk := kShared p m res af
    let early := chkIf (!accLegal acc af || ((m.b.isSome || res.isSome) && !accLegal acc bf) || (fa.isSome && fr.isSome)
        || fibreNarrow fa || fibreNarrow fb) .reservedEnc 0
      ++ s.fibrePages w fa true ++ s.fibrePages w fb true ++ s.fibrePages w fr false
      ++ fibreClosed fa ++ fibreClosed fb ++ fibreClosed fr
      ++ chkIf (m.b.isNone && res.isNone) .tileState 0
      ++ fibreType fa af ++ fibreType fb bf
    (((Gate.of early).join (optGate (srcTile m.a) fun n => s.sourceGate w p n (p.aBad af kk res.isSome n))).join
      (optGate (m.b.bind srcTile) fun n => s.sourceGate w p n (p.bBad bf kk n))).join
      ((optGate m.dest fun n => s.destGate w e p n (p.cBad m acc (sparseC fa fb m res) n)).join
        (Gate.of (p.fibreBusy fa true ++ p.fibreBusy fb true ++ p.fibreBusy fr false))) := by
  dsimp only [State.matrixGate, State.resOf, Group.aBad, Group.bBad, Group.cBad]
  generalize srcTile m.a = ta
  generalize m.b.bind srcTile = tb
  generalize m.dest = td
  cases ta <;> cases tb <;> cases td <;> rfl
/-- The destination is sparse where an operand is a fibre or the resident B is sparse (09 Table 9.2). -/
theorem sparseC_iff (code code' : Option Nat) {res : Option ResB} (hres : m.b.isSome = true → res = none) :
    sparseC (srcFib w m.a) (m.b.bind (srcFib w)) m res = true
      ↔ fibreRole (srcFib w m.a) code true ++ fibreRole (m.b.bind (srcFib w)) code' true ≠ [] ∨ ∃ r, res = some r ∧ r.sparse = true := by
  have hrole : ∀ (f : Option (BitVec 256)) (code : Option Nat), fibreRole f code true ≠ [] ↔ f.isSome = true := fun f _ => by
    cases f <;> simp [fibreRole]
  have hr : (m.b.isNone && res.any fun r => r.sparse) = true ↔ ∃ r, res = some r ∧ r.sparse = true := by
    cases res with
    | none => simp
    | some r =>
      cases hb : m.b with
      | none => simp
      | some b => cases hres (by rw [hb]; rfl)
  have hs : ∀ fa fb, sparseC fa fb m res = (fa.isSome || fb.isSome || (m.b.isNone && res.any fun r => r.sparse)) := fun _ _ => by
    cases res <;> rfl
  rw [hs, Bool.or_eq_true, Bool.or_eq_true, hr, ← hrole _ code, ← hrole _ code']
  simp only [ne_eq, List.append_eq_nil_iff, not_and_or]

/-- An operand tile is the destination, or overlaps it. -/
theorem overlaps_iff (n : Nat) : ([srcTile m.a, m.b.bind srcTile].any fun y => y.any fun k => k == n || tilesOverlap (p.tile n) (p.tile k)) = true
    ↔ ¬ ∀ x, x = m.a ∨ m.b = some x → ∀ k, srcTile x = some k → k ≠ n ∧ tilesOverlap (p.tile n) (p.tile k) = false := by
  have hone : ∀ y : Option Nat, (y.any fun k => k == n || tilesOverlap (p.tile n) (p.tile k)) = true
      ↔ ¬ ∀ k, y = some k → k ≠ n ∧ tilesOverlap (p.tile n) (p.tile k) = false := fun y => by
    cases y <;> simp [imp_iff_not_or]
  cases hb : m.b <;> simp [hone, imp_iff_not_or]

theorem aBad_iff (af kk : Nat) (r : Bool) (n : TileNo) : p.aBad af kk r n.toNat = true ↔ ¬ p.aShape af kk r n := by
  simp only [Group.aBad, Group.aShape, Bool.or_eq_true, Bool.and_eq_true, bne_iff_ne, ne_eq, not_and_or, Classical.not_imp]

theorem bBad_iff (bf kk : Nat) (n : TileNo) : p.bBad bf kk n.toNat = true ↔ ¬ p.bShape bf kk n := by
  simp only [Group.bBad, Group.bShape, Bool.or_eq_true, bne_iff_ne, ne_eq, Bool.not_eq_true', not_and_or, Bool.not_eq_true, or_assoc]

theorem cBad_iff (acc : Nat) {sp : Bool} {sparse : Prop} (hsp : sp = true ↔ sparse) (n : TileNo) :
    p.cBad m acc sp n.toNat = true ↔ ¬ p.cShape m acc sparse n := by
  have hpitch : ∀ x : Nat, decide (x < if sp = true then 520 else 256) = true ↔ ¬ ((sparse → 520 ≤ x) ∧ 256 ≤ x) := fun x => by
    rw [← hsp]
    cases sp <;> simp
    omega
  rw [Group.cBad, Group.cShape, Bool.or_eq_true, overlaps_iff, Bool.or_eq_true, hpitch, Bool.or_eq_true, bne_iff_ne, decide_eq_true_eq,
    ← Nat.not_le]
  simp only [ne_eq, not_and_or, or_assoc]

theorem optDest_errs {k : Cause} {a : DWord} {bad : Nat → Bool} {shape : TileNo → Prop} (hb : ∀ n : TileNo, bad n.toNat = true ↔ ¬ shape n) :
    (k, a) ∈ (optGate (d.map (·.toNat)) fun n => s.destGate w e p n (bad n)).errs
      ↔ ∃ y ∈ d.toList.map fun n => (n, shape n), DstErr s w e p y k a := by
  cases d with
  | none => simp [optGate, Gate.of]
  | some n =>
    simp only [Option.map_some, optGate, Option.toList_some, List.map_cons, List.map_nil, List.mem_singleton, exists_eq_left]
    exact mem_destGate (hb n)

theorem optDest_stall {bad : Nat → Bool} (shape : TileNo → Prop) : (optGate (d.map (·.toNat)) fun n => s.destGate w e p n (bad n)).stall = true
    ↔ ∃ y ∈ d.toList.map fun n => (n, shape n), s.tileFit w p y.1.toNat notMoving true false = .stall := by
  cases d with
  | none => simp [optGate, Gate.of]
  | some n => simp [optGate, destGate_stall]

theorem optSources_errs {k : Cause} {a : DWord} {b : Option GSrc} {bad : Nat → Bool} {shape : TileNo → Prop}
    (hb : ∀ n : TileNo, bad n.toNat = true ↔ ¬ shape n) : (k, a) ∈ (optGate (b.bind srcTile) fun n => s.sourceGate w p n (bad n)).errs
      ↔ ∃ y ∈ b.toList.flatMap fun x => gsrcTile x shape, SrcErr s w p y k a := by
  cases b with
  | none => simp [optGate, Gate.of]
  | some x =>
    simp only [Option.bind_some, Option.toList_some, List.flatMap_cons, List.flatMap_nil, List.append_nil]
    exact optSource_errs hb

theorem optSources_stall {b : Option GSrc} {bad : Nat → Bool} (shape : TileNo → Prop) :
    (optGate (b.bind srcTile) fun n => s.sourceGate w p n (bad n)).stall = true
      ↔ ∃ y ∈ b.toList.flatMap fun x => gsrcTile x shape, s.tileFit w p y.1.toNat isReadyTile false false = .stall := by
  cases b with
  | none => simp [optGate, Gate.of]
  | some x =>
    simp only [Option.bind_some, Option.toList_some, List.flatMap_cons, List.flatMap_nil, List.append_nil]
    exact optSource_stall shape

/-- The checks find what the instruction's needs say. -/
theorem matrixGate_errs (hd : m.dest = d.map (·.toNat)) {i : Instr}
    (hslots : grateSlots w i = globalSlots (srcFib w m.a) (m.b.bind (srcFib w)) (m.ri.map fun r => w.freg r.toNat)) (k : Cause) (a : DWord) :
    (k, a) ∈ (s.matrixGate t w e p m).errs ↔ GrateErr s w e g p i (matrixNeedsOf w e p m (s.resOf t w m) d) k a := by
  have hres : m.b.isSome = true → s.resOf t w m = none := fun h => by
    cases hb : m.b with
    | none => rw [hb] at h; cases h
    | some b => simp [State.resOf, hb]
  rw [grateErr_iff, hslots, matrixGate_eq]
  generalize s.resOf t w m = res at hres ⊢
  dsimp only [matrixNeedsOf]
  generalize bfOf m res e.fmt = bf
  generalize kShared p m res (fmtAf e.fmt) = kk
  generalize fmtAf e.fmt = af
  generalize fmtAcc e.fmt = acc
  have hsp := sparseC_iff (w := w) (m := m) (some af) (some bf) hres
  have hresident : (m.b.isNone && res.isNone) = true ↔ ¬ (m.b.isSome = true ∨ res.isSome = true) := by
    cases m.b <;> cases res <;> simp
  simp only [Gate.join, Gate.of, List.mem_append, optSource_errs (aBad_iff af kk res.isSome), optSources_errs (bBad_iff bf kk), hd,
    optDest_errs (cBad_iff acc hsp), mem_chkIf, Bool.or_eq_true,
    Bool.and_eq_true, fibreNarrow_role (f := srcFib w m.a) (some af), fibreNarrow_role (f := m.b.bind (srcFib w)) (some bf), narrowFibre_append,
    or_and_right, exists_or, fibreRole_errs,
    indexRole_errs, pages_globalSlots, Option.isSome_map, hresident, List.not_mem_nil, false_and, exists_false, false_or, Bool.not_eq_true']
  exact iff_of_eq (by ac_rfl)

/-- The checks find a moving tile as the instruction's needs do. -/
theorem matrixGate_moves (hd : m.dest = d.map (·.toNat)) :
    (s.matrixGate t w e p m).stall = true ↔ s.grateMoving w p (matrixNeedsOf w e p m (s.resOf t w m) d) := by
  rw [matrixGate_eq]
  generalize s.resOf t w m = res
  dsimp only [matrixNeedsOf, State.grateMoving]
  generalize bfOf m res e.fmt = bf
  generalize kShared p m res (fmtAf e.fmt) = kk
  generalize fmtAf e.fmt = af
  generalize fmtAcc e.fmt = acc
  generalize (_ ≠ [] ∨ ∃ r, res = some r ∧ r.sparse = true) = sparse
  simp only [Gate.join, Gate.of, Bool.or_eq_true, optSource_stall (p.aShape af kk res.isSome), optSources_stall (p.bShape bf kk), hd,
    optDest_stall (p.cShape m acc sparse), List.mem_append, or_and_right, exists_or, Bool.false_eq_true, false_or, or_false]

theorem sources_ne_nil {ra : TileNo → Prop} {rb : TileNo → Prop} : gsrcTile m.a ra ++ m.b.toList.flatMap (fun x => gsrcTile x rb) ≠ []
    ↔ (srcTile m.a).isSome = true ∨ (m.b.bind srcTile).isSome = true := by
  have hone : ∀ (x : GSrc) (r : TileNo → Prop), gsrcTile x r = [] ↔ (srcTile x).isSome = false := fun x r => by
    cases x <;> simp [gsrcTile, srcTile]
  cases m.b with
  | none => simp [hone, Option.isSome_iff_ne_none]
  | some b => simp [hone, Option.isSome_iff_ne_none, imp_iff_not_or]

/-- What a matrix instruction waits for. -/
theorem matrixNeeds_waits {i : Instr}
    (hlut : ¬ ∃ b q a, i = .vqlut b q a) (hmrw : (∃ q d a r, i = .mmrw q d a r) ↔ m.b.isNone = true)
    (htiles : (uses i).t ≠ [] ↔ (srcTile m.a).isSome = true ∨ (m.b.bind srcTile).isSome = true ∨ d.isSome = true) :
    let fs := [srcFib w m.a, m.b.bind (srcFib w), m.ri.map fun r => w.freg r.toNat]
    s.grateWaits w e i (matrixNeedsOf w e p m (s.resOf t w m) d) ↔ (anyGlobal fs && s.gridReadWaits w e
      || (!(uses i).t.isEmpty || anyStash fs) && s.groupReadWaits w e || !s.spansWalked w (grateSlots w i)
      || m.b.isNone && s.loadingB w) = true := by
  generalize s.resOf t w m = res
  have hdest : ∀ r : TileNo → Prop, (d.toList.map fun n => (n, r n)) ≠ [] ↔ d.isSome = true := fun r => by cases d <;> simp
  have ht : (!(uses i).t.isEmpty) = true ↔ (uses i).t ≠ [] := by simp
  dsimp only [State.grateWaits, matrixNeedsOf]
  generalize bfOf m res e.fmt = bf
  generalize fmtAf e.fmt = af
  simp only [sources_ne_nil, hdest, hlut, hmrw, Bool.or_eq_true, Bool.and_eq_true, ht, htiles, anyGlobal_cons (f := srcFib w m.a) (some af) true,
    anyGlobal_cons (f := m.b.bind (srcFib w)) (some bf) true, anyGlobal_cons (f := m.ri.map fun r => w.freg r.toNat) none false,
    anyStash_cons (f := srcFib w m.a) (some af) true, anyStash_cons (f := m.b.bind (srcFib w)) (some bf) true,
    anyStash_cons (f := m.ri.map fun r => w.freg r.toNat) none false, anyGlobal_nil, anyStash_nil, List.mem_append, or_and_right, exists_or,
    Bool.not_eq_true', Bool.false_eq_true, or_false, or_assoc]

/-- MMIP, MMOP and MMRW (09 R203 to R216), as one operation. -/
theorem matrix_run {i : Instr} (hd : m.dest = d.map (·.toNat)) (hop : exec i s = matrixOp i q m s) (hq : qselOf i = some q)
    (hslots : grateSlots w i = globalSlots (srcFib w m.a) (m.b.bind (srcFib w)) (m.ri.map fun r => w.freg r.toNat))
    (hneeds : s.grateNeeds t w e p i = s.matrixNeeds t w e p m.a m.b m.ri d) (hlut : ¬ ∃ b q a, i = .vqlut b q a)
    (hmrw : (∃ q d a r, i = .mmrw q d a r) ↔ m.b.isNone = true)
    (htiles : (uses i).t ≠ [] ↔ (srcTile m.a).isSome = true ∨ (m.b.bind srcTile).isSome = true ∨ d.isSome = true) :
    ∃ k x y, GrateRun s i t w e c g p q (d.toList.map (·.toNat)) k x y := by
  have hn : s.grateNeeds t w e p i = matrixNeedsOf w e p m (s.resOf t w m) d := hneeds.trans matrixNeeds_eq
  have hwaits := matrixNeeds_waits (s := s) (t := t) (w := w) (e := e) (p := p) (d := d) hlut hmrw htiles
  rw [← hn, hslots] at hwaits
  let fa := srcFib w m.a
  let fb := m.b.bind (srcFib w)
  let fr := m.ri.map fun r => w.freg r.toNat
  refine ⟨_, s.matrixGate t w e p m,
    { fa := fa, fb := fb, fr := fr, sv := [], glob := globalSlots fa fb fr
      stash := stashSlots p fa fb fr (srcTile m.a) (m.b.bind srcTile) m.dest [], dests := m.dest.toList
      mayErr := fa.isSome || fb.isSome || fr.isSome || (m.dest.isSome && sparseC fa fb m (s.resOf t w m)) },
    { op := hop, qsel := hq, glob := hslots.symm, dests := ?_, errs := fun k a => ?_, moves := ?_, stalls := fun h => ?_, goes := fun h => ?_ }⟩
  · simp only [hd]
    cases d <;> rfl
  · rw [hn]
    exact matrixGate_errs hd hslots k a
  · rw [hn]
    exact matrixGate_moves hd
  · exact (waits_four _ _ _ _ _ _).trans (if_pos (hwaits.mp h))
  · rw [hslots]
    exact (waits_four _ _ _ _ _ _).trans (if_neg (mt hwaits.mpr h))

theorem gT_ne_nil (x : GSrc) : gT x ≠ [] ↔ (srcTile x).isSome = true := by
  cases x <;> simp [gT, srcTile]

theorem mmip_run (d : AReg) (a b : GSrc) (ri : Option FReg) : ∃ k x y, GrateRun s (.mmip q d a b ri) t w e c g p q [] k x y :=
  matrix_run (m := { a := a, b := some b, ri := ri, dest := none, outer := false }) (d := none) rfl rfl rfl rfl rfl
    (fun ⟨_, _, _, h⟩ => nomatch h) ⟨fun ⟨_, _, _, _, h⟩ => (nomatch h), fun h => (nomatch h)⟩ (by
      change gT a ++ gT b ≠ [] ↔ _
      simp only [ne_eq, List.append_eq_nil_iff, not_and_or, Option.bind_some, ← gT_ne_nil, Option.isSome_none, Bool.false_eq_true, or_false])

theorem mmop_run (d : TileNo) (a b : GSrc) (ri : Option FReg) : ∃ k x y, GrateRun s (.mmop q d a b ri) t w e c g p q [d.toNat] k x y :=
  matrix_run (m := { a := a, b := some b, ri := ri, dest := some d.toNat, outer := true }) (d := some d) rfl rfl rfl rfl rfl
    (fun ⟨_, _, _, h⟩ => nomatch h) ⟨fun ⟨_, _, _, _, h⟩ => (nomatch h), fun h => (nomatch h)⟩
    (iff_of_true (List.cons_ne_nil _ _) (.inr (.inr rfl)))

theorem mmrw_run (d : TileNo) (a : GSrc) (ri : Option FReg) : ∃ k x y, GrateRun s (.mmrw q d a ri) t w e c g p q [d.toNat] k x y :=
  matrix_run (m := { a := a, b := none, ri := ri, dest := some d.toNat, outer := false }) (d := some d) rfl rfl rfl rfl rfl
    (fun ⟨_, _, _, h⟩ => nomatch h) ⟨fun _ => rfl, fun _ => ⟨_, _, _, _, rfl⟩⟩ (iff_of_true (List.cons_ne_nil _ _) (.inr (.inr rfl)))

/-- An instruction of the matrix engine, of any form, runs as the family does. -/
theorem grateRun_of_form {i : Instr} {dests : List Nat} (h : grateForm i = some (q, dests)) :
    ∃ k x y, GrateRun s i t w e c g p q dests k x y := by
  unfold grateForm at h
  split at h <;> cases h
  · exact mmip_run _ _ _ _
  · exact mmop_run _ _ _ _
  · exact mmrw_run _ _ _
  · exact mmldb_run _
  · exact mmzero_run _
  · exact mmlda_run _ _ _
  · exact mmdrain_run _ _ _ _ _ _ _
  · exact vqlut_run _ _
  · exact spdg_run _ _ _ _
end

/-- Settles O33: each form's checks find what its operands meet, and the family's order of owed errors, waits, causes and capture
decides. -/
theorem grateIssues : Obligations.GrateIssues := by
  unfold Obligations.GrateIssues
  intro s i t w e c g p q dests h hi hg hp
  obtain ⟨k, x, y, r⟩ := grateRun_of_form (s := s) (t := t) (w := w) (e := e) (c := c) (g := g) (p := p) hi
  exact r.outcomes h hg hp

end Sys2Proof.Machine
end

section
/-! OBLIGATION O40. -/

namespace Sys2Proof.Machine
open Sys2Proof.Tests

/-- An EXIT that no owed trap keeps waits until the entries that another path of its wave may refill are reached, whatever its guard
passes (22 R337). -/
theorem exit_waits {s : State} {t : Nat} {w : Thread} {e : Entry} {c : Clause} {g : Guard} (h : Issues s (.exit g) t w e c)
    (howed : w.owed = []) (hfar : s.exitReached w = false) : Stalls s (.exit g) t w := by
  refine stalls_of ((issue_next h _ : execExit g s = _).trans ?_)
  rw [howed, hfar, Bool.not_false, Bool.or_true]
  rfl

/-- A wave that holds 16 entries, the running one above the joins that it is nested in, and whose base entry stands in the spill area
(03 R44), of which neither the tables nor the home are reached. -/
def spilledFar : State :=
  afar (tweak (bench 0) fun w => { w with stack := benchEntry :: List.replicate 15 joining, spilled := 1 })

/-- p1, which holds in no lane of it. -/
def noLane : Guard := ⟨false, 1⟩

theorem spilledFar_on : On spilledFar (.exit noLane) := on (by decide +kernel)

theorem spilledFar_waits : (wv spilledFar).owed = [] ∧ spilledFar.grateUnread 1 (wv spilledFar) = false ∧ (wv spilledFar).handler = false
    ∧ (wv spilledFar).stalled = false ∧ spilledFar.exitReached (wv spilledFar) = false := by
  and_intros <;> decide +kernel

theorem spilledFar_exits_none : maskOf ((lanesOf (path spilledFar).mask).filter fun l =>
    ((wv spilledFar).preg noLane.p.toNat).getLsbD l != noLane.neg) &&& (wv spilledFar).launched = 0#128 := by decide +kernel

/-- Refutes O40, by its clause for an EXIT whose guard passes in no lane: it is to retire. The model's EXIT waits first for the entries
that its wave's stack may refill (22 R337), without a look at its guard, and so one that ends no lane waits too: in `spilledFar` it
stalls. -/
theorem not_joinAndExit : ¬ Obligations.JoinAndExit := by
  unfold Obligations.JoinAndExit
  intro h
  obtain ⟨owed, read, handler, running, far⟩ := spilledFar_waits
  obtain ⟨-, exits⟩ := h spilledFar 1 (wv spilledFar) (path spilledFar) (clause spilledFar)
  have none : ∀ o ∈ (wv spilledFar).owed, o.atExit = false := by rw [owed]; exact nofun
  obtain ⟨retires, -⟩ := exits noLane spilledFar_on (.inr ⟨none, read⟩)
  rw [handler] at retires
  obtain ⟨s', x, run, on, -⟩ := retires spilledFar_exits_none
  have stall : exec (.exit noLane) spilledFar = .next (spilledFar.stallHere 1 (wv spilledFar)) := exit_waits spilledFar_on owed far
  obtain rfl : spilledFar.stallHere 1 (wv spilledFar) = s' := Host.Outcome.next.inj (stall.symm.trans run)
  have stalled : { wv spilledFar with stalled := true } = x :=
    Option.some.inj ((setThread_thread_same spilledFar 1 _).symm.trans on.runs.thread)
  have kept : x.rest.stalled = (wv spilledFar).rest.stalled := congrArg Thread.stalled on.runs.rest
  have kept : x.stalled = (wv spilledFar).stalled := kept
  rw [← stalled, running] at kept
  cases kept

end Sys2Proof.Machine
end

section
/-! OBLIGATION O42. -/

namespace Sys2Proof.Machine
open Sys2Proof.Tests

/-- A running entry whose ICNT is one less than the leaf that maps 64 MiB at 0x4000000. -/
def belowLeaf : Entry := { benchEntry with mask := 0xF#128, icnt := leaf - 1#64 }

/-- A wave in its handler, whose running path stands in the spill area, beneath 16 paths that have arrived. Its context maps the area to
the page table at 0x20000: the entry's image lies over the table's first eight entries, ICNT over the one for the frames' 64 MiB at
0x14000000, and the ninth maps the area itself. -/
def overTable : State :=
  tweak (((bench 5).writeBytes 0x20000 (belowLeaf.image ++ leBytes 8 0xC000000000000000)).setGrid 1
    { benchGrid with pkt := { benchPacket with pbase := 0x14000000#64, privsz := 0x60100, spilln := 1 } }) fun w =>
      { w with handler := true, stack := List.replicate 16 { benchEntry with st := .arrived }, spilled := 1 }

/-- Why the wave's frame cannot be read. -/
def frameError (s : State) : Option Cause :=
  match s.framePas (wv s) (wv s).tsp.toNat .read with
  | .error k => some k
  | .ok _ => none

theorem framePas_of_frameError {s : State} {k : Cause} (h : frameError s = some k) :
    s.framePas (wv s) (wv s).tsp.toNat .read = .error k := by
  unfold frameError at h
  split at h
  next hk => rw [hk, Option.some.inj h]
  next => cases h

theorem overTable_on : On overTable .rte := on (by decide +kernel)

theorem overTable_frame : (wv overTable).ended = false ∧ overTable.frameReached (wv overTable) (wv overTable).tsp.toNat = true
    ∧ overTable.refillReached (wv overTable) = true ∧ frameError overTable = some .page
    ∧ (overTable.context? (wv overTable).ctx).isSome = true := by
  and_intros <;> decide +kernel

/-- The retirement makes ICNT a leaf, so that the frame can be read. -/
theorem overTable_returns : ((next .rte overTable).context? (wv overTable).ctx).map (·.status) = some .running := by decide +kernel

/-- Refutes O42, by its clause for a frame that cannot be read: its context is to be faulted. The model's RTE retires first, which writes
a running entry that stands in the spill area there, with ICOUNT one higher (03 R42, R44), and then reads the frame. No
sensible host maps a spill area over page tables, but the clause is for every state: in `overTable` that write makes the entry of the
frames' page a leaf, and the RTE returns. -/
theorem not_returns : ¬ Obligations.Returns := by
  unfold Obligations.Returns
  intro h
  obtain ⟨lives, near, refilled, unmapped, found⟩ := overTable_frame
  obtain ⟨-, -, faults⟩ := h overTable 1 (wv overTable) (path overTable) (clause overTable) overTable_on lives
  obtain ⟨s', run, x, hx, faulted⟩ := faults .page near refilled (framePas_of_frameError unmapped) found
  have after := overTable_returns
  rw [next, run] at after
  change (s'.context? (wv overTable).ctx).map (·.status) = some .running at after
  rw [hx, Option.map_some, faulted] at after
  exact absurd after (by decide)

end Sys2Proof.Machine
end

section
/-! SUPPORT (for O43). The bits of the number that bytes name, and the bytes of a range that meets two pages. -/

namespace Sys2Proof.Machine

/-- Bit `r` of the number is bit `r % 8` of its byte `r / 8` (02 R12). -/
theorem testBit_leNat (bs : List Byte) (r : Nat) : (leNat bs).testBit r = (bs.getD (r / 8) 0#8).getLsbD (r % 8) := by
  induction bs generalizing r with
  | nil => simp [leNat]
  | cons b bs ih =>
    have split := Nat.testBit_two_pow_mul_add (leNat bs) b.isLt r
    rw [leNat, Nat.add_comm, split]
    by_cases low : r < 8
    · rw [if_pos low, Nat.div_eq_of_lt low, Nat.mod_eq_of_lt low]
      rfl
    · obtain ⟨q, rfl⟩ : ∃ q, r = q + 8 := ⟨r - 8, by omega⟩
      rw [if_neg low, Nat.add_sub_cancel, ih, Nat.add_div_right q (by decide), Nat.add_mod_right, List.getD_cons_succ]

theorem cleanBytes_length (s : State) (n pa : Nat) : (s.cleanBytes pa n).length = n := by
  induction n generalizing pa with
  | zero => rfl
  | succ n ih => rw [State.cleanBytes, List.length_cons, ih]

section
variable {s : State} {w : Thread} {a : DWord} {n : Nat} {bs : List Byte}

/-- A range that is read has its bytes from the page where it begins and, where it meets two, from the page where the second begins. -/
theorem ctxBytes_ok (h : s.ctxBytes w a n = .ok bs) :
    let k := min n (65536 - a.toNat % 65536)
    (∃ pa leaf, s.access w.mmu w.ctx a .read = .ok (pa, leaf) ∧ bs.take k = s.cleanBytes pa k)
    ∧ (k < n → ∃ pa leaf, s.access w.mmu w.ctx (a + BitVec.ofNat 64 k) .read = .ok (pa, leaf) ∧ bs.drop k = s.cleanBytes pa (n - k)) := by
  intro k
  unfold State.ctxBytes at h
  cases first : s.access w.mmu w.ctx a .read with
  | error => simp only [first, reduceCtorEq] at h
  | ok p =>
    simp only [first] at h
    split at h
    next whole =>
      cases h
      have hk : k = n := by omega
      refine ⟨⟨p.1, p.2, rfl, ?_⟩, fun less => absurd less (by omega)⟩
      rw [hk, List.take_of_length_le (cleanBytes_length s n p.1).le]
    next =>
      cases second : s.access w.mmu w.ctx (a + BitVec.ofNat 64 k) .read with
      | error => simp only [k, second, reduceCtorEq] at h
      | ok q =>
        simp only [k, second, Except.ok.injEq] at h
        cases h
        exact ⟨⟨p.1, p.2, rfl, List.take_left' (cleanBytes_length s k p.1)⟩,
          fun _ => ⟨q.1, q.2, rfl, List.drop_left' (cleanBytes_length s k p.1)⟩⟩
end

end Sys2Proof.Machine
end

section
/-! OBLIGATION O43. -/

namespace Sys2Proof.Machine

/-! ## Liveness table entries (08 Table 8.4) -/

theorem liveOf_vmap (bs : List Byte) {r : Nat} (hr : r < 256) :
    (liveOf bs).vmap.getLsbD r = (bs.getD (r / 8) 0#8).getLsbD (r % 8) := by
  rw [liveOf, BitVec.getLsbD_ofNat, bits, Nat.testBit_mod_two_pow, Nat.shiftRight_zero, testBit_leNat]
  simp [hr]

/-- An entry's ranges are those of its four words that have a size. -/
theorem mem_liveOf_ranges (bs : List Byte) (o z : Nat) : (o, z) ∈ (liveOf bs).ranges ↔
    z ≠ 0 ∧ ∃ k, k < 4 ∧ o = bits (leNat bs) (256 + 64 * k) 19 ∧ z = bits (leNat bs) (256 + 64 * k + 32) 20 := by
  simp only [liveOf, List.mem_filter, List.mem_map, List.mem_range, Prod.mk.injEq, decide_eq_true_eq]
  constructor
  · rintro ⟨⟨k, hk, ho, hz⟩, sized⟩
    exact ⟨sized, k, hk, ho.symm, hz.symm⟩
  · rintro ⟨sized, k, hk, ho, hz⟩
    exact ⟨⟨k, hk, ho.symm, hz.symm⟩, sized⟩

/-- A range of the entry ends beyond the group's stash. -/
def LiveSet.beyond (l : LiveSet) (n : Nat) : Bool := l.ranges.any fun r => decide (n < r.1 + r.2)

theorem liveOf_beyond_iff (bs : List Byte) (n : Nat) : (liveOf bs).beyond n = true ↔
    ∃ k, k < 4 ∧ bits (leNat bs) (256 + 64 * k + 32) 20 ≠ 0
      ∧ n < bits (leNat bs) (256 + 64 * k) 19 + bits (leNat bs) (256 + 64 * k + 32) 20 := by
  simp only [LiveSet.beyond, List.any_eq_true, decide_eq_true_eq, Prod.exists, mem_liveOf_ranges]
  constructor
  · rintro ⟨_, _, ⟨sized, k, hk, rfl, rfl⟩, past⟩
    exact ⟨k, hk, sized, past⟩
  · rintro ⟨k, hk, sized, past⟩
    exact ⟨_, _, ⟨sized, k, hk, rfl, rfl⟩, past⟩

/-! ## LIVE -/

/-- The address of entry `n` of the grid's liveness table. -/
def Grid.liveAddr (g : Grid) (n : BitVec 8) : DWord := g.desc.ltab + BitVec.ofNat 64 (64 * n.toNat)

/-- The state past the reads of the pages that a liveness table entry meets. -/
def State.readLive (s : State) (w : Thread) (e : Entry) (a : DWord) : State :=
  (rangePages a 64).foldl (fun s p => s.noteRead w e p.1 p.2) s

/-- The thread past a LIVE that sets its live set: it stops here where its grid is being pre-empted (19 R310). -/
def Thread.pastLive (w : Thread) (l : LiveSet) (g : Grid) : Thread :=
  { ({ w with live := some l } : Thread).advance with stopped := w.stopped || (g.stopLive && !w.handler) }

/-- The state in which a thread that a LIVE has set goes on. -/
def State.goOnLive (s : State) (t : Nat) (x : Thread) : State :=
  if x.clause.isNone || x.stopped then { s.setThread t x with cur := none } else s.setThread t x

theorem goOnLive_eq (s : State) (t : Nat) (x : Thread) :
    s.goOnLive t x = { s.setThread t x with cur := (s.goOnLive t x).cur } := by
  unfold State.goOnLive
  split <;> rfl

/-- What a LIVE does with its entry, once the entry's pages are reached. -/
def State.liveOutcome (s : State) (t : Nat) (w : Thread) (e : Entry) (c : Clause) (g : Grid) (a : DWord) :
    Except (Cause × DWord) (List Byte) → Out
  | .error k => .next (s.trapHere t w c ⟨k.1, k.2, e.mask⟩)
  | .ok bs =>
    if (liveOf bs).beyond g.stashBytes then .next (s.trapOver (s.readLive w e a) t w c ⟨.reservedEnc, 0#64, e.mask⟩)
    else .next ((s.readLive w e a).goOnLive t (w.pastLive (liveOf bs) g))

section
variable {s : State} {n : BitVec 8} {t : Nat} {w : Thread} {e : Entry} {c : Clause} {g : Grid}
  (h : Issues s (.live n) t w e c) (hg : s.grid? w.grid = some g)
include h hg

/-- The ways a LIVE goes, in the order in which they are looked at. -/
theorem exec_live : exec (.live n) s =
    if g.desc.lcount ≤ n.toNat then .next (s.trapHere t w c ⟨.reservedEnc, 0#64, e.mask⟩)
    else if !((rangePages (g.liveAddr n) 64).all fun p => s.pageReached w.mmu w.ctx p.1) then .next (s.stallHere t w)
    else s.liveOutcome t w e c g (g.liveAddr n) (s.ctxBytes w (g.liveAddr n) 64) := by
  refine (issue_next h _ : execLive n s = _).trans ?_
  rw [hg]
  rfl

theorem live_outside (ho : g.desc.lcount ≤ n.toNat) : Traps s (.live n) t w c ⟨.reservedEnc, 0#64, e.mask⟩ :=
  traps_of ((exec_live h hg).trans (if_pos ho))

variable (hin : n.toNat < g.desc.lcount)
include hin

theorem live_waits (far : ¬ ∀ p ∈ rangePages (g.liveAddr n) 64, s.pageReached w.mmu w.ctx p.1 = true) : Stalls s (.live n) t w := by
  refine stalls_of ((exec_live h hg).trans ?_)
  rw [if_neg (Nat.not_le.mpr hin), if_pos]
  rwa [Bool.not_eq_true', ← Bool.not_eq_true, List.all_eq_true]

variable (near : ∀ p ∈ rangePages (g.liveAddr n) 64, s.pageReached w.mmu w.ctx p.1 = true)
include near

theorem exec_live_near :
    exec (.live n) s = s.liveOutcome t w e c g (g.liveAddr n) (s.ctxBytes w (g.liveAddr n) 64) := by
  rw [exec_live h hg, if_neg (Nat.not_le.mpr hin), if_neg]
  rw [List.all_eq_true.mpr near]
  decide

theorem live_unmapped {k : Cause} {b : DWord} (hb : s.ctxBytes w (g.liveAddr n) 64 = .error (k, b)) :
    Traps s (.live n) t w c ⟨k, b, e.mask⟩ := traps_of ((exec_live_near h hg hin near).trans (by rw [hb]; rfl))

variable {bs : List Byte} (hb : s.ctxBytes w (g.liveAddr n) 64 = .ok bs)
include hb

theorem live_beyond (hl : (liveOf bs).beyond g.stashBytes = true) :
    TrapsOver s (.live n) (s.readLive w e (g.liveAddr n)) t w c ⟨.reservedEnc, 0#64, e.mask⟩ :=
  trapsOver_of ((exec_live_near h hg hin near).trans (by rw [hb, State.liveOutcome, if_pos hl]))

theorem live_sets (hl : (liveOf bs).beyond g.stashBytes = false) :
    exec (.live n) s = .next ((s.readLive w e (g.liveAddr n)).goOnLive t (w.pastLive (liveOf bs) g)) :=
  (exec_live_near h hg hin near).trans (by rw [hb, State.liveOutcome, if_neg (Bool.not_eq_true _ ▸ hl)])
end

theorem pastLive_stopped_iff (w : Thread) (l : LiveSet) (g : Grid) :
    (w.pastLive l g).stopped = true ↔ w.stopped = true ∨ g.stopLive = true ∧ w.handler = false := by
  simp [Thread.pastLive]

/-- LIVE leaves the path as it is: ICOUNT does not count it (08 R188). -/
theorem pastLive_path {s s' : State} {w : Thread} {e : Entry} (h : s.path? w = some e) (l : LiveSet) (g : Grid) (held : w.stackHeld) :
    s'.path? (w.pastLive l g) = some e := by
  rw [path_held_stack s' (x := w.pastLive l g) held.1]
  exact (path_held h held :)

/-! ## The other registers, PRIV and MARK -/

section
variable {s : State} {t : Nat} {w : Thread} {e : Entry} {c : Clause}

/-- What needs handler mode, or writes a register of the host, traps PRIV where the checks before pass (05 R87). -/
theorem traps_priv {i : Instr} {g : Grid} (at' : AtIssue s t w e c) (hg : s.grid? w.grid = some g)
    (h1 : reservedHere g.desc c i = false) (h2 : emberIllegal w i = false) (hi : i.encoded = true) (h : privHere w i = true) :
    Traps s i t w c ⟨.priv, 0#64, e.mask⟩ :=
  traps_of_issueTrap at' hi nofun (issueTrap_priv hg h1 h2 h)

theorem encoded_of_needsHandler {i : Instr} (h : needsHandler i = true) : i.encoded = true := by
  cases i with
  | rte | csrw | sset => rfl
  | _ => cases h

/-- The record of a MARK (20 Table 20.7). -/
def State.markRecord (s : State) (v : Word) (w : Thread) (e : Entry) : List Byte :=
  leBytes 8 (0x22 * 2 ^ 56 + w.ctx % 65536 * 2 ^ 32)
    ++ leBytes 8 (v.toNat * 2 ^ 32 + s.gkey w (lowestLane e.mask % 128) % 2 ^ 32)
    ++ leBytes 8 e.icnt.toNat ++ leBytes 8 (e.wstep.toNat * 2 ^ 32 + e.gstep.toNat)

theorem exec_mark {v : Word} (h : Issues s (.mark v) t w e c) : exec (.mark v) s =
    if !s.recording w.ctx then .next (s.retire t w e)
    else if !s.ringOpen w.die .resolution then .next (s.stallHere t w)
    else if s.ringFull w.die 32 then .next (s.trapHere t w c ⟨.rlogFull, (s.die w.die).rring.base, e.mask⟩)
    else .next ((s.ringPut w.die .resolution (s.markRecord v w e)).retire t w e) := (issue_next h _ : execMark v s = _)
end

/-- Settles O43: each register, LIVE by the ways it can go, and MARK. -/
theorem systemRegisters : Obligations.SystemRegisters := by
  unfold Obligations.SystemRegisters
  intro s t w e c
  refine ⟨fun d r x h hx => ?csrr, fun a h => ?tsp, fun a h => ?tscratch, fun i g hcur ht hp hc hg h1 h2 hi => ?priv,
    fun n g h hg => ?live, fun v h => ?mark⟩
  case csrr =>
    refine scalar_writes h.path h.soundS d _ ((issue_next h _ : execCsrr d r s = _).trans ?_)
    rw [State.csrValue, hx]
  case tsp =>
    have run := (issue_next h _ : execCsrw .tsp a s = _)
    exact ⟨fun aligned => performs_retire h rfl rfl (run.trans (if_neg (not_not.mpr aligned))),
      fun odd => traps_of (run.trans (if_pos odd))⟩
  case tscratch => exact performs_retire h rfl rfl (issue_next h _ : execCsrw .tscratch a s = _)
  case priv =>
    rcases hi with ⟨needs, out⟩ | ⟨r, a, rfl, other⟩
    · exact traps_priv ⟨hcur, ht, hp, hc⟩ hg h1 h2 (encoded_of_needsHandler needs) (privHere_iff.mpr (.inl ⟨needs, out⟩))
    · exact traps_priv ⟨hcur, ht, hp, hc⟩ hg h1 h2 rfl (privHere_iff.mpr (.inr (.inr ⟨r, a, rfl, other⟩)))
  case live =>
    refine ⟨live_outside h hg, live_waits h hg, fun hin near => ⟨fun k b => live_unmapped h hg hin near, fun bs hb => ?_⟩⟩
    obtain ⟨⟨pa, leaf, hpa, first⟩, rest⟩ := ctxBytes_ok hb
    refine ⟨fun pa' leaf' hpa' => ?_, fun pa' leaf' two hpa' => ?_, fun past => ?_, fun inside => ?_⟩
    · cases hpa.symm.trans hpa'
      exact first
    · obtain ⟨pb, leaf2, hpb, second⟩ := rest two
      cases hpb.symm.trans hpa'
      exact second
    · exact live_beyond h hg hin near hb ((liveOf_beyond_iff bs _).mpr past)
    · have within : (liveOf bs).beyond g.stashBytes = false := by
        rw [← Bool.not_eq_true, liveOf_beyond_iff]
        rintro ⟨k, hk, sized, past⟩
        exact absurd (inside k hk sized) (Nat.not_le.mpr past)
      exact ⟨_, w.pastLive (liveOf bs) g, liveOf bs, live_sets h hg hin near hb within, goOnLive_eq _ t _, rfl, rfl,
        ⟨fun _ => rfl, fun _ _ => rfl, fun _ => rfl, fun _ => rfl, rfl⟩,
        pastLive_path h.path _ g, fun r => liveOf_vmap bs, mem_liveOf_ranges bs, pastLive_stopped_iff w _ g⟩
  case mark =>
    have run := exec_mark h
    refine ⟨fun off => ?_, fun on far => ?_, fun on near full => ?_, fun on near room => ?_⟩
    · exact performs_retire h rfl rfl (run.trans (by rw [off]; rfl))
    · exact stalls_of (run.trans (by rw [on, far]; rfl))
    · exact traps_of (run.trans (by rw [on, near, full]; rfl))
    · exact performs_retire h rfl rfl (run.trans (by rw [on, near, room]; rfl))

end Sys2Proof.Machine
end

section
/-! SUPPORT (for O39). The targets of a list of lanes in ascending order, and the entries that a divergent branch of two targets pushes. -/

namespace Sys2Proof.Machine

/-! ## Lists without repeats -/

theorem mem_nub {α : Type} [DecidableEq α] {l : List α} {x : α} : x ∈ nub l ↔ x ∈ l := by
  induction l with
  | nil => rfl
  | cons a r ih =>
    simp only [nub, List.mem_cons, List.mem_filter, ih, decide_eq_true_eq]
    by_cases h : x = a <;> simp [h]

theorem nodup_nub {α : Type} [DecidableEq α] (l : List α) : (nub l).Nodup := by
  induction l with
  | nil => exact List.nodup_nil
  | cons a r ih =>
    rw [nub, List.nodup_cons]
    exact ⟨by simp, ih.filter _⟩

/-- The only member of a list, each at its first place. -/
theorem nub_eq_singleton {α : Type} [DecidableEq α] {l : List α} {a : α} (ha : a ∈ l) (h : ∀ x ∈ l, x = a) : nub l = [a] := by
  refine List.perm_singleton.mp ((List.perm_ext_iff_of_nodup (nodup_nub l) (List.nodup_singleton a)).mpr fun x => ?_)
  rw [mem_nub, List.mem_singleton]
  exact ⟨h x, fun hx => hx ▸ ha⟩

/-- The two members of a list, in one order or the other. -/
theorem nub_eq_pair {α : Type} [DecidableEq α] {l : List α} {a b : α} (ha : a ∈ l) (hb : b ∈ l) (hab : a ≠ b)
    (h : ∀ x ∈ l, x = a ∨ x = b) : nub l = [a, b] ∨ nub l = [b, a] := by
  have perm : (nub l).Perm [a, b] := by
    refine (List.perm_ext_iff_of_nodup (nodup_nub l) (by simp [hab])).mpr fun x => ?_
    rw [mem_nub, List.mem_pair]
    exact ⟨h x, by rintro (rfl | rfl) <;> assumption⟩
  obtain ⟨x, y, hxy⟩ := List.length_eq_two.mp perm.length_eq
  rw [hxy] at perm ⊢
  have distinct : x ≠ y := by
    have := perm.nodup_iff.mpr (by simp [hab])
    simpa using this
  have hx : x = a ∨ x = b := by simpa using perm.mem_iff.mp (List.mem_cons_self : x ∈ [x, y])
  have hy : y = a ∨ y = b := by simpa using perm.mem_iff.mp (by simp : y ∈ [x, y])
  rcases hx with rfl | rfl <;> rcases hy with rfl | rfl
  · exact absurd rfl distinct
  · exact .inl rfl
  · exact .inr rfl
  · exact absurd rfl distinct

/-! ## The arms of a branch -/

theorem lanesOf_zero : lanesOf 0#128 = [] := by simp [lanesOf]

theorem lanesOf_ne_nil {m : Mask} (h : m ≠ 0#128) : lanesOf m ≠ [] := by
  intro none
  refine h (BitVec.eq_of_getLsbD_eq fun i hi => ?_)
  have out : ¬ m.getLsbD i = true := fun bit => by
    have : i ∈ lanesOf m := (mem_lanesOf m i).mpr ⟨hi, bit⟩
    rw [none] at this
    exact List.not_mem_nil this
  simpa using out

section
variable {e : Entry} {to' : Nat → BitVec 56}

theorem exists_lane_of_lanesTo {p : BitVec 56} (h : lanesTo e to' p ≠ 0#128) : ∃ l ∈ lanesOf e.mask, to' l = p := by
  by_contra none
  push Not at none
  refine h ?_
  rw [lanesTo, List.filter_eq_nil_iff.mpr fun l hl => by simpa using none l hl]
  rfl

/-- The lanes of a path, each with its target. -/
def Entry.sends (e : Entry) (to' : Nat → BitVec 56) : List (Nat × BitVec 56) := (lanesOf e.mask).map fun l => (l, to' l)

theorem mem_targets {p : BitVec 56} : p ∈ (e.sends to').map (·.2) ↔ ∃ l ∈ lanesOf e.mask, to' l = p := by
  simp [Entry.sends]

/-- An arm has the lanes whose target is its own. -/
theorem armsOf_sends : armsOf (e.sends to')
    = (sortBy (fun a b => decide (a.toNat ≤ b.toNat)) (nub ((e.sends to').map (·.2)))).map fun p => ⟨p, lanesTo e to' p⟩ := by
  refine List.map_congr_left fun p _ => ?_
  rw [Entry.sends, List.filter_map, List.map_map, lanesTo]
  exact congrArg (fun l => (⟨p, maskOf l⟩ : Arm)) (List.map_id _)

theorem armsOf_none (h : e.mask = 0#128) : armsOf (e.sends to') = [] := by
  rw [Entry.sends, h, lanesOf_zero]
  rfl

/-- Every lane goes to the same target. -/
theorem armsOf_one {p : BitVec 56} (h : e.mask ≠ 0#128) (hp : ∀ l ∈ lanesOf e.mask, to' l = p) :
    armsOf (e.sends to') = [⟨p, lanesTo e to' p⟩] := by
  obtain ⟨l, hl⟩ := List.exists_mem_of_ne_nil _ (lanesOf_ne_nil h)
  have one : nub ((e.sends to').map (·.2)) = [p] := by
    refine nub_eq_singleton (mem_targets.mpr ⟨l, hl, hp l hl⟩) fun x hx => ?_
    obtain ⟨k, hk, rfl⟩ := mem_targets.mp hx
    exact hp k hk
  rw [armsOf_sends, one]
  rfl

/-- The lanes go to two targets: the arms stand in their order. -/
theorem armsOf_two {a b : BitVec 56} (hab : a.toNat < b.toNat) (ht : ∀ l ∈ lanesOf e.mask, to' l = a ∨ to' l = b)
    (ha : lanesTo e to' a ≠ 0#128) (hb : lanesTo e to' b ≠ 0#128) :
    armsOf (e.sends to') = [⟨a, lanesTo e to' a⟩, ⟨b, lanesTo e to' b⟩] := by
  have ne : a ≠ b := fun h => absurd (h ▸ hab) (Nat.lt_irrefl _)
  have two := nub_eq_pair (l := (e.sends to').map (·.2)) (mem_targets.mpr (exists_lane_of_lanesTo ha))
    (mem_targets.mpr (exists_lane_of_lanesTo hb)) ne fun x hx => by
      obtain ⟨k, hk, rfl⟩ := mem_targets.mp hx
      exact ht k hk
  have sorted : sortBy (fun a b => decide (a.toNat ≤ b.toNat)) (nub ((e.sends to').map (·.2))) = [a, b] := by
    rcases two with h | h
    · simp [h, sortBy, insertBy, Nat.le_of_lt hab]
    · simp [h, sortBy, insertBy, Nat.not_le.mpr hab]
  rw [armsOf_sends, sorted]
  rfl
end

/-! ## The entries that a branch with two targets pushes (08 R169) -/

section
variable {t : Entry} {A B : Arm} {jn : BitVec 56}

/-- The lower target runs first: the other one waits, or is the join. -/
theorem branchPushes_lower (hd : A.target ≠ B.target) (h : laneCount B.mask ≤ laneCount A.mask ∧ A.target ≠ jn ∨ B.target = jn) :
    branchPushes t [A, B] jn [] = t.child A jn .running false :: if B.target = jn then [] else [t.child B jn .waiting false] := by
  by_cases hb : B.target = jn
  · have ha : A.target ≠ jn := hb ▸ hd
    simp [branchPushes, firstArm, ha, hb]
  · obtain ⟨more, ha⟩ := h.resolve_right hb
    simp [branchPushes, firstArm, ha, hb, Nat.not_lt.mpr more, hd.symm]

/-- The upper target runs first. -/
theorem branchPushes_upper (hd : A.target ≠ B.target) (h : ¬ (laneCount B.mask ≤ laneCount A.mask ∧ A.target ≠ jn ∨ B.target = jn)) :
    branchPushes t [A, B] jn [] = t.child B jn .running false :: if A.target = jn then [] else [t.child A jn .waiting false] := by
  obtain ⟨few, hb⟩ := not_or.mp h
  by_cases ha : A.target = jn
  · simp [branchPushes, firstArm, ha, hb]
  · have more : laneCount A.mask < laneCount B.mask := by
      rw [← Nat.not_le]
      exact fun le => few ⟨le, ha⟩
    simp [branchPushes, firstArm, ha, hb, more, hd]

/-- Nothing that a branch pushes is ejected, where the branch ejects no target. -/
theorem branchPushes_kept (t : Entry) (arms : List Arm) (jn : BitVec 56) : (branchPushes t arms jn []).filter (·.ej) = [] := by
  rw [List.filter_eq_nil_iff]
  intro x hx
  simp only [branchPushes] at hx
  split at hx
  · cases hx
  · obtain rfl | hx := List.mem_cons.mp hx
    · exact Bool.false_ne_true
    · obtain ⟨a, -, rfl⟩ := List.mem_map.mp hx
      exact Bool.false_ne_true

/-- The pushes depend on the branching entry by its copies alone. -/
theorem branchPushes_length (t t' : Entry) (arms : List Arm) (jn : BitVec 56) (l : List (BitVec 56)) :
    (branchPushes t arms jn l).length = (branchPushes t' arms jn l).length := by
  simp only [branchPushes]
  split
  · rfl
  · simp

theorem branchPushes_length_two (hd : A.target ≠ B.target) : (branchPushes t [A, B] jn []).length ≤ 2 := by
  by_cases h : laneCount B.mask ≤ laneCount A.mask ∧ A.target ≠ jn ∨ B.target = jn
  · rw [branchPushes_lower hd h]
    split <;> simp
  · rw [branchPushes_upper hd h]
    split <;> simp

/-- The join entry takes the lanes of the target at the join. -/
theorem asJoin_pair : t.asJoin [A, B] jn
    = { t with mask := if A.target = jn then A.mask else if B.target = jn then B.mask else 0#128, pc := jn, st := .parked } := by
  unfold Entry.asJoin
  by_cases ha : A.target = jn
  · simp [ha]
  · by_cases hb : B.target = jn <;> simp [ha, hb]
end

theorem onRunning_onRunning (g f : Entry → Entry) (hf : ∀ y, y.st = .running → (f y).st = .running) (es : List Entry) :
    onRunning g (onRunning f es) = onRunning (fun y => g (f y)) es := by
  induction es with
  | nil => rfl
  | cons y r ih =>
    by_cases hy : y.st = .running
    · simp [onRunning, hy, hf y hy]
    · simp [onRunning, hy, ih]

theorem running_st {es : List Entry} {e : Entry} (h : running? es = some e) : e.st = .running := by
  simpa using List.find?_some h

/-! ## What a divergent branch leaves -/

section
variable {s : State} {t : Nat} {w x : Thread} {e : Entry} {c : Clause} {arms : List Arm} {jn : BitVec 56}

/-- What is left beside its own thread by an instruction whose retirement is counted, and which puts a thread that holds its whole
stack. -/
theorem runsOn_counted {f : Entry → Entry} {k : Option Nat} (hrest : x.rest = w.rest) (hx : x.spilled = 0)
    (hpath : running? x.stack = some (f { e with icnt := e.icnt + 1 })) :
    RunsOn s { (s.countRetire w e).setThread t x with cur := k } t w x e f := by
  obtain ⟨⟨a, b, c, d, hc⟩, kept, others⟩ := countRetire_counted s w e
  refine ⟨kept.threads _ k, setThread_thread_same _ _ _, hrest, fun _ => (path_held_stack _ hx).trans hpath, fun _ a => ?_, fun _ => ?_,
    fun u z hu hz => ?_⟩
  · rw [hc]
    rfl
  · rw [hc]
    exact ⟨rfl, rfl, rfl, rfl, rfl⟩
  · obtain ⟨n, hn⟩ := others u z hz
    exact ⟨n, (aget_aset_ne _ _ hu).trans hn⟩

/-- The thread after its path has split into arms none of which is ejected. -/
def Thread.split (w : Thread) (e : Entry) (arms : List Arm) (jn : BitVec 56) : Thread :=
  { w.advance with
    clause := none, spilled := 0
    stack := branchPushes { e with icnt := e.icnt + 1 } arms jn []
      ++ onRunning (fun _ => { e with icnt := e.icnt + 1 }.asJoin arms jn) w.stack }

theorem split_rest : (w.split e arms jn).rest = w.rest := (advance_rest w : _)

/-- A branch that ejects nothing, of a thread whose stack has room for what it pushes. -/
theorem diverge_held (he : e.st = .running) (hs : w.spilled = 0) (hl : w.stack.length + (branchPushes e arms jn []).length ≤ 16) :
    s.diverge t w e c arms jn [] [] = { (s.countRetire w e).setThread t (w.split e arms jn) with cur := none } := by
  have stack : branchStack (onRunning (fun _ => { e with icnt := e.icnt + 1 }) ((s.countRetire w e).entries w))
      { e with icnt := e.icnt + 1 } arms jn [] = (w.split e arms jn).stack := by
    rw [countRetire_entries s w w e hs]
    exact congrArg _ (onRunning_onRunning (·.asJoin arms jn) (fun _ => { e with icnt := e.icnt + 1 }) (fun _ _ => he) w.stack)
  have room : (w.split e arms jn).stack.length ≤ 16 := by
    rw [Thread.split, List.length_append, onRunning_length, branchPushes_length _ e, Nat.add_comm]
    exact hl
  unfold State.diverge
  simp only [stack, noteSpill_held _ hs room, putEntries_held _ _ _ room, branchPushes_kept, List.foldl_nil]
  rfl
end

end Sys2Proof.Machine
end

section
/-! OBLIGATION O39. -/

namespace Sys2Proof.Machine

variable {s s1 : State} {i : Instr} {t : Nat} {w : Thread} {e : Entry} {c : Clause} {to' : Nat → BitVec 56} {jn : BitVec 56}
  {ej : Bool}

/-! ## What a branch does with its arms -/

theorem branch_none (l : List (Nat × BitVec 56)) (h : armsOf l = []) : s1.branch t w e c l jn ej = s1.retire t w e := by
  rw [State.branch, h]

theorem branch_one (l : List (Nat × BitVec 56)) {A : Arm} (h : armsOf l = [A]) :
    s1.branch t w e c l jn ej = s1.retirePath t w e fun y => { y with pc := A.target } := by
  rw [State.branch, h]

/-- A branch that may eject nothing, of a thread whose stack has room for two entries more. -/
theorem branch_two (l : List (Nat × BitVec 56)) {A B : Arm} (h : armsOf l = [A, B]) (hd : A.target ≠ B.target)
    (hej : ej = false ∨ w.ember.isSome = true) (hs : w.spilled = 0) (hl : w.stack.length + 2 ≤ 16) :
    s1.branch t w e c l jn ej = s1.diverge t w e c [A, B] jn [] [] := by
  have may : (ej && w.ember.isNone) = false := by
    rcases hej with rfl | ember
    · rfl
    · rw [← Option.not_isSome, ember, Bool.not_true, Bool.and_false]
  have room : ¬ 16 < (s1.entries w).length + (branchPushes e [A, B] jn []).length := by
    have held : s1.entries w = w.stack := entries_held ⟨hs, by omega⟩
    have := branchPushes_length_two (t := e) (jn := jn) hd
    rw [held]
    omega
  rw [State.branch, h]
  simp only [may, Bool.false_and, Bool.false_eq_true, if_false, room, decide_false]

/-! ## Where BRC and JT send their lanes -/

theorem exec_brc {g : Guard} {tgt j : BitVec 20} (h : Issues s (.brc g tgt j ej) t w e c) :
    exec (.brc g tgt j ej) s = .next (s.branch t w e c
      (e.sends fun l => if ((w.preg g.p.toNat).getLsbD l != g.neg) = true then pcField (c.at8 tgt) else pcField (c.here + 8#64))
      (pcField (c.at8 j)) ej) := by
  refine (issue_next h _ : execBrc g tgt j ej s = _).trans ?_
  have lanes : ((lanesOf e.mask).map fun l => (l, if (g.lanes w).getLsbD l then fieldOf (c.target tgt) else fieldOf (c.here + 8#64)))
      = e.sends fun l => if ((w.preg g.p.toNat).getLsbD l != g.neg) = true then pcField (c.at8 tgt) else pcField (c.here + 8#64) := by
    refine List.map_congr_left fun l hl => ?_
    obtain ⟨lane, -⟩ := (mem_lanesOf _ _).mp hl
    have passes : (g.lanes w).getLsbD l = ((w.preg g.p.toNat).getLsbD l != g.neg) := by
      unfold Guard.lanes
      cases g.neg <;> simp [lane]
    rw [passes, target_eq_at8, pcField_eq_fieldOf, pcField_eq_fieldOf]
  rw [← lanes, pcField_eq_fieldOf, ← target_eq_at8]

theorem exec_jt {a : VReg} {tgt j : BitVec 20} (h : Issues s (.jt a tgt j ej) t w e c) (hm : e.mask ≠ 0#128) :
    exec (.jt a tgt j ej) s =
      if !s.pageReached w.mmu w.ctx (c.at8 tgt) then .next (s.stallHere t w)
      else match s.tableTargets w e a (c.at8 tgt) with
        | .error tr =>
          if tr.addr != c.at8 tgt && tr.cause != .reservedEnc && !s.tableReached w e a (c.at8 tgt) then .next (s.stallHere t w)
          else .next (s.trapOver (s.noteRead w e (c.at8 tgt) 8) t w c tr)
        | .ok l =>
          if s.tableReached w e a (c.at8 tgt) then
            .next ((s.noteTable w e a (c.at8 tgt)).branch t w e c l (pcField (c.at8 j)) ej)
          else .next (s.stallHere t w) := by
  refine (issue_next h _ : execJt a tgt j ej s = _).trans ?_
  simp only [target_eq_at8, pcField_eq_fieldOf]
  exact if_neg hm

/-- A path with no lane passes a JT (08 R179). -/
theorem exec_jt_empty {a : VReg} {tgt j : BitVec 20} (h : Issues s (.jt a tgt j ej) t w e c) (hm : e.mask = 0#128) :
    exec (.jt a tgt j ej) s = .next (s.retire t w e) :=
  (issue_next h _ : execJt a tgt j ej s = _).trans (if_pos hm)

/-! ## Jump tables (08 R179, R180) -/

/-- The head of a table is its count of entries, at most 4096, in the low 13 bits. -/
theorem tableHead {m : Nat} (hm : m ≤ 4096) : bits (BitVec.ofNat 64 m).toNat 0 13 = m ∧ bits (BitVec.ofNat 64 m).toNat 13 51 = 0 := by
  have value : (BitVec.ofNat 64 m).toNat = m := by
    rw [BitVec.toNat_ofNat]
    omega
  rw [value, bits_eq, bits_eq]
  omega

theorem mapM_ok {ε α β : Type} {l : List α} {f : α → Except ε β} {g : α → β} (h : ∀ x ∈ l, f x = .ok (g x)) :
    l.mapM f = .ok (l.map g) := by
  induction l with
  | nil => rfl
  | cons x r ih =>
    rw [List.mapM_cons, h x List.mem_cons_self, ih fun y hy => h y (List.mem_cons_of_mem _ hy)]
    rfl

/-- A table entry counts words from the table (08 R180). -/
theorem tableOffset (tab : DWord) (off : Word) : tab + (off.signExtend 64 <<< 3) = tab + BitVec.ofInt 64 (8 * off.toInt) := by
  rw [BitVec.shiftLeft_eq_mul_twoPow, BitVec.signExtend, show BitVec.twoPow 64 3 = BitVec.ofInt 64 8 from rfl, ← BitVec.ofInt_mul,
    Int.mul_comm]

section
variable {a : VReg} {tab : DWord} {m : Nat} (hd : s.codeWord w tab = .ok (BitVec.ofNat 64 m)) (h0 : 0 < m) (hm : m ≤ 4096)
include hd h0 hm

theorem tableTargets_range (hout : ((lanesOf e.mask).filter fun l => decide (m ≤ (w.vreg a.toNat l).toNat)) ≠ []) :
    s.tableTargets w e a tab
      = .error ⟨.jtRange, tab, maskOf ((lanesOf e.mask).filter fun l => decide (m ≤ (w.vreg a.toNat l).toNat))⟩ := by
  obtain ⟨count, clear⟩ := tableHead hm
  have good : ¬ ((0 : Nat) ≠ 0 ∨ m = 0 ∨ 4096 < m) := by omega
  rw [State.tableTargets, hd]
  simp only [count, clear, if_neg good]
  exact if_pos hout

theorem tableTargets_sends (hin : ∀ l ∈ lanesOf e.mask, (w.vreg a.toNat l).toNat < m)
    (hw : ∀ l ∈ lanesOf e.mask, ∃ pa leaf,
      s.access w.mmu w.ctx (tab + BitVec.ofNat 64 (8 + 4 * (w.vreg a.toNat l).toNat)) .read = .ok (pa, leaf)
        ∧ to' l = pcField (tab + BitVec.ofInt 64 (8 * (BitVec.ofNat 32 (leNat (s.cleanBytes pa 4)) : Word).toInt))) :
    s.tableTargets w e a tab = .ok (e.sends to') := by
  obtain ⟨count, clear⟩ := tableHead hm
  have good : ¬ ((0 : Nat) ≠ 0 ∨ m = 0 ∨ 4096 < m) := by omega
  have none : ((lanesOf e.mask).filter fun l => decide (m ≤ (w.vreg a.toNat l).toNat)) = [] :=
    List.filter_eq_nil_iff.mpr fun l hl => by simpa using hin l hl
  rw [State.tableTargets, hd]
  simp only [count, clear, if_neg good]
  rw [if_neg (not_not.mpr none)]
  refine mapM_ok fun l hl => ?_
  obtain ⟨pa, leaf, hpa, target⟩ := hw l hl
  simp only [hpa, target, tableOffset, pcField_eq_fieldOf]
end

/-- A conditional branch gives its lanes' targets to the path's branch. -/
theorem exec_sendsLanes (h : Issues s i t w e c) (hs : SendsLanes s w e c i to' jn ej s1) :
    exec i s = .next (s1.branch t w e c (e.sends to') jn ej) := by
  cases hs with
  | brc => exact exec_brc h
  | jt a tgt j _ _ some' table =>
    obtain ⟨⟨near, reached⟩, ⟨m, hd, h0, hm, hin⟩, words⟩ := table
    rw [exec_jt h some', near, tableTargets_sends hd h0 hm hin words]
    simp only [Bool.not_true, Bool.false_eq_true, if_false, reached, if_true]

/-- A JT of an index that its table has no entry for (08 R179). -/
theorem jt_range {a : VReg} {tgt j : BitVec 20} {m : Nat} (h : Issues s (.jt a tgt j ej) t w e c)
    (hd : s.codeWord w (c.at8 tgt) = .ok (BitVec.ofNat 64 m)) (h0 : 0 < m) (hm : m ≤ 4096)
    (near : s.pageReached w.mmu w.ctx (c.at8 tgt) = true)
    (hout : ((lanesOf e.mask).filter fun l => decide (m ≤ (w.vreg a.toNat l).toNat)) ≠ []) :
    TrapsOver s (.jt a tgt j ej) (s.noteRead w e (c.at8 tgt) 8) t w c
      ⟨.jtRange, c.at8 tgt, maskOf ((lanesOf e.mask).filter fun l => decide (m ≤ (w.vreg a.toNat l).toNat))⟩ := by
  have lanes : e.mask ≠ 0#128 := fun zero => hout (by rw [zero, lanesOf_zero]; rfl)
  refine trapsOver_of ?_
  rw [exec_jt h lanes, near, tableTargets_range hd h0 hm hout]
  simp only [Bool.not_true, Bool.false_eq_true, if_false, bne_self_eq_false, Bool.false_and]

/-! ## The two paths of a split -/

/-- The path that runs first, or waits, after a split. -/
def Entry.forked (e : Entry) (to' : Nat → BitVec 56) (jn p : BitVec 56) (st : PathState) : Entry :=
  { e with mask := lanesTo e to' p, icnt := e.icnt + 1, pc := p, join := jn, st := st, ej := false }

/-- The stack in which the branching entry has become the join entry, with lanes `m`. -/
def Thread.joined (w : Thread) (e : Entry) (jn : BitVec 56) (m : Mask) : List Entry :=
  onRunning (fun _ => { e with mask := m, icnt := e.icnt + 1, pc := jn, st := .parked }) w.stack

section
variable {a b : BitVec 56} (hab : a ≠ b)
include hab

/-- The stack after a split, where `x` is the target that runs first, and `y` the other one. -/
theorem split_stack {x y : BitVec 56}
    (hx : x = if laneCount (lanesTo e to' b) ≤ laneCount (lanesTo e to' a) ∧ a ≠ jn ∨ b = jn then a else b)
    (hy : y = if x = a then b else a) :
    (w.split e [⟨a, lanesTo e to' a⟩, ⟨b, lanesTo e to' b⟩] jn).stack = e.forked to' jn x .running ::
      if y = jn then w.joined e jn (lanesTo e to' jn) else e.forked to' jn y .waiting :: w.joined e jn 0#128 := by
  have pushed : ∀ pushes, branchPushes { e with icnt := e.icnt + 1 } [⟨a, lanesTo e to' a⟩, ⟨b, lanesTo e to' b⟩] jn [] = pushes →
      (w.split e [⟨a, lanesTo e to' a⟩, ⟨b, lanesTo e to' b⟩] jn).stack = pushes
        ++ w.joined e jn (if a = jn then lanesTo e to' a else if b = jn then lanesTo e to' b else 0#128) := by
    rintro _ rfl
    rw [Thread.split, asJoin_pair]
    rfl
  by_cases lower : laneCount (lanesTo e to' b) ≤ laneCount (lanesTo e to' a) ∧ a ≠ jn ∨ b = jn
  · obtain rfl : x = a := hx.trans (if_pos lower)
    obtain rfl : y = b := hy.trans (if_pos rfl)
    have notJoin : x ≠ jn := lower.elim And.right fun join => join ▸ hab
    rw [pushed _ (branchPushes_lower hab lower), if_neg notJoin]
    by_cases join : y = jn
    · subst join
      simp only [if_true]
      rfl
    · simp only [if_neg join]
      rfl
  · obtain rfl : x = b := hx.trans (if_neg lower)
    obtain rfl : y = a := hy.trans (if_neg hab.symm)
    have notJoin : x ≠ jn := (not_or.mp lower).2
    rw [pushed _ (branchPushes_upper hab lower)]
    by_cases join : y = jn
    · subst join
      simp only [if_true]
      rfl
    · simp only [if_neg join, if_neg notJoin]
      rfl
end

/-- Settles O39: a branch by its arms, of which there are none, one or two, and JT's own ways to end. -/
theorem conditionalBranches : Obligations.ConditionalBranches := by
  unfold Obligations.ConditionalBranches
  refine ⟨fun s s1 i t w e c to' jn ej h hs => ?_, fun s t w e c a tgt j ej m h => ⟨?empty, ?far, ?range⟩⟩
  · have run := exec_sendsLanes h hs
    refine ⟨run, fun empty => ?none, fun p some agree => ?one, fun a b hab ht ha hb hej hspill hroom => ?two⟩
    case none => exact performs_retire h rfl rfl (run.trans (by rw [branch_none _ (armsOf_none empty)]))
    case one => exact performs_of w _ h.path rfl rfl (fun _ => rfl) (run.trans (by rw [branch_one _ (armsOf_one some agree)]))
    case two =>
      intro x y child join
      have distinct : a ≠ b := fun eq => absurd (eq ▸ hab) (Nat.lt_irrefl _)
      have runs : running? w.stack = some e := path_held h.path ⟨hspill, by omega⟩
      have room : w.stack.length + (branchPushes e [⟨a, lanesTo e to' a⟩, ⟨b, lanesTo e to' b⟩] jn []).length ≤ 16 :=
        (Nat.add_le_add_left (branchPushes_length_two distinct) _).trans hroom
      rw [branch_two _ (armsOf_two hab ht ha hb) distinct hej hspill hroom, diverge_held (running_st runs) hspill room] at run
      have stack := split_stack (w := w) (e := e) (to' := to') (jn := jn) distinct (x := x) (y := y) rfl rfl
      refine ⟨_, _, run, rfl, runsOn_counted split_rest rfl ?_, rfl, ⟨fun _ => rfl, fun _ _ => rfl, fun _ => rfl, fun _ => rfl, rfl⟩, stack⟩
      rw [stack]
      rfl
  case empty => exact fun empty => performs_retire h rfl rfl (exec_jt_empty h empty)
  case far => exact fun lanes far => stalls_of ((exec_jt h lanes).trans (by rw [far]; rfl))
  case range => exact fun hd h0 hm near => jt_range h hd h0 hm near

end Sys2Proof.Machine
end

section
/-! OBLIGATION O32 (09 R198, R200). -/

namespace Sys2Proof.Machine

section
variable {s : State} {i : Instr} {t : Nat} {w : Thread} {e : Entry} {c : Clause} {g : Grid} {p : Group} {q : Bool} {dests : List Nat}
  {n : GrateNeeds}

/-- The global operands of an instruction, by slot, are had: their pages may be read and are walked, and their homes are reached. -/
structure SlotsMet (s : State) (w : Thread) (l : List (Nat × Nat)) : Prop where
  pages : ∀ r ∈ l, spanErrs (s.spanOf w r) = []
  walked : s.spansWalked w l = true
  reached : s.rangesReached w l = true

theorem slotsMet_nil : SlotsMet s w [] := ⟨fun _ h => (List.not_mem_nil h).elim, rfl, rfl⟩

/-- A slot that is not read asks for nothing. -/
theorem SlotsMet.cons_empty {l : List (Nat × Nat)} (h : SlotsMet s w l) : SlotsMet s w ((0, 0) :: l) where
  pages := List.forall_mem_cons.mpr ⟨rfl, h.pages⟩
  walked := h.walked
  reached := h.reached

/-- An instruction whose operands are tiles and vectors has no global operand. -/
theorem slotsMet_tiles : SlotsMet s w (globalSlots none none none) :=
  slotsMet_nil.cons_empty.cons_empty.cons_empty.cons_empty.cons_empty

/-- What an instruction without fibres asks of its operands is met (09 R200), and it waits for nothing. -/
structure NeedsMet (s : State) (w : Thread) (e : Entry) (g : Grid) (p : Group) (i : Instr) (n : GrateNeeds) : Prop where
  reserved : ¬ n.reserved := by exact not_false
  resident : n.resident := by exact trivial
  fibres : n.fibres = [] := by rfl
  aligned : ∀ x ∈ n.aligned, x.1 % x.2 = 0 := by exact fun _ h => (List.not_mem_nil h).elim
  vecs : ∀ x ∈ n.vecs, x.1 % x.2.2 = 0 ∧ x.1 + x.2.1 ≤ g.stashBytes ∧ p.rangeBusy x.1 x.2.1 = false := by
    exact fun _ h => (List.not_mem_nil h).elim
  sources : ∀ x ∈ n.sources, s.operandTile w p x.1 (p.tile x.1.toNat).ef ∧ x.2 := by exact fun _ h => (List.not_mem_nil h).elim
  dests : ∀ x ∈ n.dests, s.targetTile w e p x.1 ∧ x.2 := by exact fun _ h => (List.not_mem_nil h).elim
  slots : SlotsMet s w (grateSlots w i)
  image : (∃ b q a, i = .vqlut b q a) → s.gridReadWaits w e = false := by exact fun ⟨_, _, _, h⟩ => nomatch h
  loaded : (∃ q d a r, i = .mmrw q d a r) → s.loadingB w = false := by exact fun ⟨_, _, _, _, h⟩ => nomatch h

/-- Operands that meet what is asked of them meet no cause. -/
theorem NeedsMet.no_err (h : NeedsMet s w e g p i n) (k : Cause) (a : DWord) : ¬ GrateErr s w e g p i n k a := by
  rw [grateErr_iff, h.fibres]
  rintro (⟨hr, -⟩ | ⟨hr, -⟩ | ⟨x, hx, ha, -⟩ | ⟨x, hx, hv⟩ | ⟨r, hr, hp⟩ | ⟨f, hf, -⟩ | ⟨x, hx, hs⟩ | ⟨x, hx, hd⟩)
  · exact h.reserved hr
  · exact hr h.resident
  · exact ha (h.aligned x hx)
  · obtain ⟨align, fits, free⟩ := h.vecs x hx
    obtain ⟨ha, -⟩ | ⟨hb, -⟩ | ⟨hb, -⟩ := hv
    · exact ha align
    · exact absurd fits (Nat.not_le.mpr hb)
    · exact Bool.false_ne_true (free.symm.trans hb)
  · have hp := mem_pageErrs.mpr hp
    rw [h.slots.pages r hr] at hp
    exact List.not_mem_nil hp
  · exact List.not_mem_nil hf
  · obtain ⟨⟨fit, -, free⟩, shape⟩ := h.sources x hx
    obtain ⟨ht, -⟩ | ⟨-, hs, -⟩ | ⟨-, hb, -⟩ := hs
    · exact nomatch fit.symm.trans ht
    · exact hs shape
    · exact Bool.false_ne_true (free.symm.trans hb)
  · obtain ⟨⟨fit, apart, free⟩, shape⟩ := h.dests x hx
    obtain ⟨ht, -⟩ | ⟨-, hs | ho, -⟩ | ⟨-, hb, -⟩ := hd
    · exact nomatch fit.symm.trans ht
    · exact hs shape
    · exact Bool.false_ne_true (apart.symm.trans ho)
    · exact Bool.false_ne_true (free.symm.trans hb)

theorem NeedsMet.not_moving (h : NeedsMet s w e g p i n) : ¬ s.grateMoving w p n := by
  rintro (⟨x, hx, hs⟩ | ⟨x, hx, hs⟩)
  · exact nomatch (h.sources x hx).1.1.symm.trans hs
  · exact nomatch (h.dests x hx).1.1.symm.trans hs

theorem NeedsMet.not_waits (h : NeedsMet s w e g p i n) (close : s.groupReadWaits w e = false) : ¬ s.grateWaits w e i n := by
  rw [State.grateWaits, h.fibres]
  rintro (⟨⟨f, hf, -⟩ | image, hw⟩ | ⟨-, hw⟩ | hw | ⟨mmrw, hw⟩)
  · exact List.not_mem_nil hf
  · exact Bool.false_ne_true ((h.image image).symm.trans hw)
  · exact Bool.false_ne_true (close.symm.trans hw)
  · exact Bool.false_ne_true (hw.symm.trans h.slots.walked)
  · exact Bool.false_ne_true ((h.loaded mmrw).symm.trans hw)

/-- An instruction whose needs are met is captured, or waits for room in the queue. -/
theorem NeedsMet.captures (h : NeedsMet s w e g p i (s.grateNeeds t w e p i)) (hi : Issues s i t w e c) (form : grateForm i = some (q, dests))
    (hg : s.grid? w.grid = some g) (hp : s.group? w.group = some p) (owed : ∀ o ∈ w.owed, ∀ k, o.due = .grate k → w.handler = true)
    (unread : s.grateUnread t w = false) (close : s.groupReadWaits w e = false) :
    ((s.hearth w.home).grate.length < 16 → Captured s i t w e c q dests) ∧ (16 ≤ (s.hearth w.home).grate.length → Stalls s i t w) := by
  obtain ⟨k, x, y, r⟩ := grateRun_of_form (s := s) (t := t) (w := w) (e := e) (c := c) (g := g) (p := p) form
  obtain ⟨-, -, free⟩ := r.outcomes hi hg hp
  have notOwed : ¬ (w.handler = false ∧ ∃ o ∈ w.owed, ∃ k, o.due = .grate k) := fun ⟨hh, o, ho, k, hk⟩ =>
    Bool.false_ne_true (hh.symm.trans (owed o ho k hk))
  obtain ⟨ready, full⟩ := (free notOwed unread (h.not_waits close)).2 h.no_err
  exact ⟨fun room => ready ⟨h.not_moving, room, h.slots.reached⟩, fun hf => full fun ⟨_, room, _⟩ => absurd room (Nat.not_lt.mpr hf)⟩

/-! ## The forms (09 R203 to R222) -/

theorem State.operandTile.self {m : TileNo} {code : Nat} (h : s.operandTile w p m code) : s.operandTile w p m (p.tile m.toNat).ef :=
  ⟨h.1, rfl, h.2.2⟩
theorem State.operandTile.format {m : TileNo} {code : Nat} (h : s.operandTile w p m code) : (p.tile m.toNat).ef = code := h.2.1

/-- A destination that is apart from an operand tile. -/
theorem Group.apart.operand {d a : TileNo} (h : p.apart d a) :
    ∀ k, srcTile (.tile a) = some k → k ≠ d.toNat ∧ tilesOverlap (p.tile d.toNat) (p.tile k) = false := by
  rintro _ ⟨⟩
  exact ⟨fun same => h.1 (BitVec.toNat_inj.mp same.symm), h.2⟩

theorem mmip_needsMet {d : AReg} {a b : TileNo} (h : s.grateFits t w e g p (.mmip q d (.tile a) (.tile b) none)) :
    NeedsMet s w e g p (.mmip q d (.tile a) (.tile b) none) (s.grateNeeds t w e p (.mmip q d (.tile a) (.tile b) none)) := by
  obtain ⟨ha, hb, accA, accB, rows, wide⟩ := h
  exact {
    reserved := by simp [State.grateNeeds, State.matrixNeeds, accA, accB, srcFib, gsrcFibre, narrowFibre]
    resident := .inl rfl
    sources := List.forall_mem_cons.mpr ⟨⟨ha.self, ha.format, nofun⟩, List.forall_mem_singleton.mpr ⟨hb.self, hb.format, rows, wide⟩⟩
    slots := slotsMet_tiles }

theorem mmop_needsMet {d a b : TileNo} (h : s.grateFits t w e g p (.mmop q d (.tile a) (.tile b) none)) :
    NeedsMet s w e g p (.mmop q d (.tile a) (.tile b) none) (s.grateNeeds t w e p (.mmop q d (.tile a) (.tile b) none)) := by
  obtain ⟨ha, hb, accA, accB, rows, wide, hd, format, rowsC, pitch, apartA, apartB⟩ := h
  exact {
    reserved := by simp [State.grateNeeds, State.matrixNeeds, accA, accB, srcFib, gsrcFibre, narrowFibre]
    resident := .inl rfl
    sources := List.forall_mem_cons.mpr ⟨⟨ha.self, ha.format, nofun⟩, List.forall_mem_singleton.mpr ⟨hb.self, hb.format, rows, wide⟩⟩
    dests := List.forall_mem_singleton.mpr ⟨hd, format, rowsC, by simp [gsrcFibre], pitch, by
      rintro _ (rfl | ⟨⟨⟩⟩)
      · exact apartA.operand
      · exact apartB.operand⟩
    slots := slotsMet_tiles }

theorem mmrw_needsMet {d a : TileNo} (h : s.grateFits t w e g p (.mmrw q d (.tile a) none)) :
    NeedsMet s w e g p (.mmrw q d (.tile a) none) (s.grateNeeds t w e p (.mmrw q d (.tile a) none)) := by
  obtain ⟨r, res, loaded, ha, accA, accB, kOf, hd, format, rowsC, pitch, apart⟩ := h
  let m : MForm := { a := .tile a, b := none, ri := none, dest := some d.toNat, outer := false }
  have needs : s.grateNeeds t w e p (.mmrw q d (.tile a) none) = matrixNeedsOf w e p m (some r) (some d) :=
    (matrixNeeds_eq (m := m)).trans (congrArg (matrixNeedsOf w e p m · (some d)) res)
  rw [needs]
  exact {
    reserved := by simp [matrixNeedsOf, m, bfOf, accA, accB, srcFib, fibreRole, narrowFibre]
    resident := .inr rfl
    sources := List.forall_mem_singleton.mpr ⟨ha.self, ha.format, fun _ => kOf⟩
    dests := List.forall_mem_singleton.mpr ⟨hd, format, rowsC, by
      rintro (fibres | ⟨_, ⟨⟩, sparse⟩)
      · exact absurd rfl fibres
      · rwa [if_pos sparse] at pitch, by split at pitch <;> omega, by
      rintro _ (rfl | ⟨⟨⟩⟩)
      exact apart.operand⟩
    slots := slotsMet_tiles
    loaded := fun _ => loaded }

theorem mmldb_needsMet {a : TileNo} (h : s.grateFits t w e g p (.mmldb q (.tile a))) :
    NeedsMet s w e g p (.mmldb q (.tile a)) (s.grateNeeds t w e p (.mmldb q (.tile a))) := by
  obtain ⟨legal, ha, rows, wide⟩ := h
  have limit : residentRows (fmtBf e.fmt) = if fmtBf e.fmt = 2 ∨ fmtBf e.fmt = 6 ∨ fmtBf e.fmt = 7 then 128 else 64 := by
    simp [residentRows, halfClock, or_assoc]
  exact {
    reserved := by simp [State.grateNeeds, gsrcFibre, narrowFibre, legal]
    sources := List.forall_mem_singleton.mpr ⟨ha.self, ha.format, limit ▸ rows, wide⟩
    slots := slotsMet_tiles }

theorem mmlda_needsMet {df : Flow} {a : TileNo} (h : s.grateFits t w e g p (.mmlda df q (.tile a) none)) :
    NeedsMet s w e g p (.mmlda df q (.tile a) none) (s.grateNeeds t w e p (.mmlda df q (.tile a) none)) := by
  obtain ⟨legal, ha, flow⟩ := h
  exact {
    reserved := by simpa [State.grateNeeds, gsrcFibre, narrowFibre, srcFib, legal] using flow
    sources := List.forall_mem_singleton.mpr ⟨ha.self, ha.format⟩
    slots := slotsMet_tiles }

theorem mmdrain_needsMet {rnd : Rnd} {relu : Bool} {bias : Option SReg} {d : TileNo} {a : AReg} {sa sb : Option SReg}
    (h : s.grateFits t w e g p (.mmdrain rnd relu bias q d a sa sb)) :
    NeedsMet s w e g p (.mmdrain rnd relu bias q d a sa sb) (s.grateNeeds t w e p (.mmdrain rnd relu bias q d a sa sb)) := by
  obtain ⟨acc, hd, format, rows, wide, vecs⟩ := h
  exact {
    reserved := Nat.not_le.mpr acc
    vecs := fun v hv => by
      obtain ⟨_, hv, rfl⟩ := List.mem_filterMap.mp hv
      exact vecs v hv
    dests := List.forall_mem_singleton.mpr ⟨hd, format, rows, wide⟩
    slots := slotsMet_nil }

theorem vqlut_needsMet {tbl : Bool} {a : SReg} (h : s.grateFits t w e g p (.vqlut tbl q a)) :
    NeedsMet s w e g p (.vqlut tbl q a) (s.grateNeeds t w e p (.vqlut tbl q a)) := by
  obtain ⟨close, align, pages, reached, walked⟩ := h
  exact {
    aligned := List.forall_mem_singleton.mpr align
    slots := SlotsMet.cons_empty ⟨List.forall_mem_singleton.mpr pages, walked, reached⟩
    image := fun _ => close }

theorem spdg_needsMet {m n gr : TileNo} {z : SSrc} (h : s.grateFits t w e g p (.spdg q m n gr z)) :
    NeedsMet s w e g p (.spdg q m n gr z) (s.grateNeeds t w e p (.spdg q m n gr z)) := by
  obtain ⟨hm, hn, hg, mn, mg, ng, rowsM, pitchM, bytesM, formatN, rowsN, wideN, formatG, rowsG, wideG⟩ := h
  exact {
    sources := List.forall_mem_singleton.mpr ⟨hg, formatG, rowsG, wideG, mg, ng⟩
    dests := List.forall_mem_cons.mpr ⟨⟨hm, rowsM, pitchM, bytesM, mn⟩, List.forall_mem_singleton.mpr ⟨hn, formatN, rowsN, wideN, mn⟩⟩
    slots := slotsMet_nil }

/-- A tile form whose tiles, vectors and formats fit has all that it asks for. -/
theorem needsMet_of_fits (fits : s.grateFits t w e g p i) : NeedsMet s w e g p i (s.grateNeeds t w e p i) := by
  unfold State.grateFits at fits
  split at fits
  · exact mmip_needsMet fits
  · exact mmop_needsMet fits
  · exact mmrw_needsMet fits
  · exact mmldb_needsMet fits
  · exact { slots := slotsMet_nil }
  · exact mmlda_needsMet fits
  · exact mmdrain_needsMet fits
  · exact vqlut_needsMet fits
  · exact spdg_needsMet fits
  · exact fits.elim
end

/-- Settles O32: a tile form that fits meets no cause and waits for nothing but room. -/
theorem grateCaptures : Obligations.GrateCaptures := by
  unfold Obligations.GrateCaptures
  intro s i t w e c g p q dests h form grid group owed unread close fits
  exact (needsMet_of_fits fits).captures h form grid group owed unread close

end Sys2Proof.Machine
end

section
/-! OBLIGATION O34 (09 R198, R199, R207). -/

namespace Sys2Proof.Machine
open Sys2Proof.Tests

/-- The bench with tiles, and a row index of one entry in the stash at 40960, which f1 names: operand row 0 is row 1 of the tile. The
first word of row 1 of tile 1, at 32, is uncorrectable. -/
def indexed : State :=
  (tweak (tiled (bench 4)) fun w => w.setF 1 (fibreOf 40960 0 1 0 true true false 0)).modGroup 1 fun p =>
    { p.writeStash 40960 [1#8] with badStash := [8] }

/-- MMLDA of the rows of tile 1 that the index names has issued. -/
def latching : State := next (.mmlda .fmt true (.tile 1) (some 1)) indexed

/-- What the queue has captured: no byte yet of the operands, which stand in the stash. -/
def latchOp : GrateOp where
  uid := 2
  join := BitVec.allOnes 56
  since := 0#64
  far := []
  t := 1
  i := .mmlda .fmt true (.tile 1) (some 1)
  fmt := 0#32
  flag := 1
  fa := none
  fb := none
  fr := some (fibreOf 40960 0 1 0 true true false 0)
  sv := []
  exec := 0xFFFFFFFF#128
  icnt := 0#64
  gstep := 0#32
  wstep := 0#32
  bytes := [[], [], [], [], []]
  stash := [(0, 0), (0, 2048), (0, 0), (0, 0), (40960, 2), (0, 0)]
  prior := []
  mayErr := true
  fail := none

theorem latching_queue : aget? latching.hearths 0 = some (latching.hearth 0) ∧ (latching.hearth 0).grate = [latchOp]
    ∧ (latching.hearth 0).running = false := by
  and_intros <;> decide +kernel

theorem latching_issuer : latching.thread? 1 = some (wv latching) ∧ (wv latching).home = 0 ∧ (wv latching).ended = false
    ∧ latching.grid? (wv latching).grid = some benchGrid ∧ latching.group? (wv latching).group = some (group1 latching) := by
  and_intros <;> decide +kernel

/-- Before the index is read it names row 0, and nothing that the instruction would read is lost; once it is, it names row 1. -/
theorem latchOp_lost : startLost latchOp (wv latching) (group1 latching) (latching.residentOf 1 (wv latching)) = []
    ∧ startLost { latchOp with bytes := latchOp.fill (group1 latching) } (wv latching) (group1 latching)
        (latching.residentOf 1 (wv latching)) = [(5, 32)] := by
  and_intros <;> decide +kernel

/-- The die's counts of uncorrectable errors (23 R351), now and after the start. -/
def lostCounts : Option (Tbl Nat) :=
  match exec (.grateStart 0) latching with
  | .next s' => some (s'.die 0).uncorrected
  | .fault _ => none
  | .refused _ => none

theorem lostCounts_eq : (latching.die 0).uncorrected = [] ∧ lostCounts = some [(5, 1)] := by
  and_intros <;> decide +kernel

theorem die_setThread_setHearth (s : State) (t h d : Nat) (w : Thread) (x : Hearth) : ((s.setThread t w).setHearth h x).die d = s.die d := rfl

/-- Refutes O34, by its clause for the start: where no word that the instruction reads is lost, the start is to change the thread and the
hearth alone. The clause asks this of the instruction as it stands in the queue, before its row index, or the counts of a sparse
destination's rows, have been read from the stash; the start looks at the rows that these name. In `latching` the index names row 1,
a word of which is lost, and the start counts the error at the die. -/
theorem not_grateRuns : ¬ Obligations.GrateRuns := by
  unfold Obligations.GrateRuns
  intro h
  obtain ⟨hearth, queue, idle⟩ := latching_queue
  obtain ⟨thread, home, alive, grid, group⟩ := latching_issuer
  obtain ⟨start, -⟩ := h latching 0 _ latchOp [] (wv latching) benchGrid _ hearth queue thread home alive grid group
  have run := start idle latchOp_lost.1
  have counts := lostCounts_eq.2
  rw [lostCounts, run] at counts
  simp only [die_setThread_setHearth, lostCounts_eq.1] at counts
  exact absurd counts (by decide)

end Sys2Proof.Machine
end

section
/-! OBLIGATION O35 (09 R203, R216). -/

namespace Sys2Proof.Machine

/-- Rows of equal length laid one after another hold entry (i, j) at i * n + j. -/
theorem getElem?_flatMap_rows {α : Type} (f : Nat → Nat → α) {m n i j : Nat} (hi : i < m) (hj : j < n) :
    ((List.range m).flatMap fun i => (List.range n).map (f i))[n * i + j]? = some (f i j) := by
  induction m with
  | zero => omega
  | succ m ih =>
    have hlen : ((List.range m).flatMap fun i => (List.range n).map (f i)).length = n * m := by
      simp [List.length_flatMap, Nat.mul_comm]
    rw [List.range_succ, List.flatMap_append]
    rcases Nat.lt_succ_iff_lt_or_eq.mp hi with h | rfl
    · have hrow : n * (i + 1) ≤ n * m := Nat.mul_le_mul_left n h
      rw [List.getElem?_append_left (by rw [Nat.mul_succ] at hrow; omega), ih h]
    · rw [List.getElem?_append_right (by omega), hlen]
      simp [hj]

/-- A pattern that supplies no member is the integer 0. -/
theorem gInt_of_gZero {code raw : Nat} (h : code = 5 ∨ code = 6) (hz : gZero code raw = true) : gInt code raw = 0 := by
  have hraw : raw = 0 := by rcases h with rfl | rfl <;> simpa [gZero] using hz
  rcases h with rfl | rfl <;> subst hraw <;> decide

/-- The product of an element of A with the one that it meets, 0 where there is none. -/
def gTerm (af bf : Nat) (b : Nat → Option Nat) (x : Nat × Nat) : Int := ((b x.1).map fun y => gInt af x.2 * gInt bf y).getD 0

theorem gMul_nonmember {af bf : Nat} (ha : af = 5 ∨ af = 6) (hb : bf = 5 ∨ bf = 6) {x y : Nat}
    (h : (gZero af x || gZero bf y) = true) : gInt af x * gInt bf y = 0 := by
  rcases Bool.or_eq_true_iff.mp h with h | h
  · rw [gInt_of_gZero ha h, zero_mul]
  · rw [gInt_of_gZero hb h, mul_zero]

section
variable {af bf k x y : Nat} {row : List (Nat × Nat)} {b : Nat → Option Nat}

theorem gMembers_cons_absent (hb : b k = none) : gMembers af bf ((k, x) :: row) b = gMembers af bf row b :=
  List.filterMap_cons_none (by simp only [hb])

theorem gMembers_cons_zero (hb : b k = some y) (hz : (gZero af x || gZero bf y) = true) :
    gMembers af bf ((k, x) :: row) b = gMembers af bf row b :=
  List.filterMap_cons_none (by simp only [hb, hz, if_true])

theorem gMembers_cons_member (hb : b k = some y) (hz : ¬ (gZero af x || gZero bf y) = true) :
    gMembers af bf ((k, x) :: row) b = (k / 32, x, y) :: gMembers af bf row b :=
  List.filterMap_cons_some (by simp only [hb, hz]; rfl)
end

/-- The members of an element add every product of its row to it: those left out are zero. -/
theorem foldl_gMembers {af bf : Nat} (ha : af = 5 ∨ af = 6) (hb : bf = 5 ∨ bf = 6) (b : Nat → Option Nat) (row : List (Nat × Nat))
    (c : Int) : (gMembers af bf row b).foldl (fun a m => a + gInt af m.2.1 * gInt bf m.2.2) c = c + (row.map (gTerm af bf b)).sum := by
  induction row generalizing c with
  | nil => exact (add_zero c).symm
  | cons e row ih =>
    obtain ⟨k, x⟩ := e
    rw [List.map_cons, List.sum_cons, ← add_assoc, ← ih]
    cases hk : b k with
    | none =>
      have hterm : gTerm af bf b (k, x) = 0 := by simp [gTerm, hk]
      rw [gMembers_cons_absent hk, hterm, add_zero]
    | some y =>
      have hterm : gTerm af bf b (k, x) = gInt af x * gInt bf y := by simp [gTerm, hk]
      by_cases hz : (gZero af x || gZero bf y) = true
      · rw [gMembers_cons_zero hk hz, hterm, gMul_nonmember ha hb hz, add_zero]
      · rw [gMembers_cons_member hk hz, hterm, List.foldl_cons]

/-- Settles O35: an element is its initial value and the sum of its row's products, of which those left out are zero. -/
theorem integerProducts : Obligations.IntegerProducts := by
  unfold Obligations.IntegerProducts
  intro af bf kk a b init i j ha hb hi hj m n
  rw [gMatrix, getElem?_flatMap_rows _ hi hj]
  have hrow : ((List.range kk).map fun k => (k, a i k)).map (gTerm af bf fun k => if k < kk then some (b k j) else none)
      = (List.range kk).map fun k => gInt af (a i k) * gInt bf (b k j) := by
    rw [List.map_map]
    refine List.map_congr_left fun k hk => ?_
    simp [gTerm, List.mem_range.mp hk]
  simp only [Option.map_some, gCell, if_true, m, n, foldl_gMembers ha hb, hrow, intCode, BitVec.toNat_ofInt]
  rfl

end Sys2Proof.Machine
end

section
/-! OBLIGATION O48. -/

namespace Sys2Proof.Machine
open Sys2Proof.Tests

/-- A record of a wave whose lanes have all exited: it has no path, is not in handler mode and owes nothing. -/
def exitedWave : Thread := { benchThread 0 with exited := BitVec.allOnes 128, stack := [] }

/-- The state `late` before its context is due as well, with the record of an ended wave before that of the late wave 1, under the same
number. -/
def lateTwice : State := { late with threads := (1, exitedWave) :: late.threads, time := 0#64 }

/-- The context of `late`, which allows five clocks. -/
def lateContext : Context := { benchContext with steplimit := 5#64, hanglimit := 1#64 }

theorem lateTwice_due : lateTwice.watchdogDue true 1 = [(1, 0xFFFFFFFF#128)] ∧ lateTwice.hangDue (lateTwice.domainCtx true 1) = false := by
  and_intros <;> decide

theorem lateTwice_wave : lateTwice.thread? 1 = some exitedWave ∧ lateTwice.path? exitedWave = none ∧ exitedWave.owed = []
    ∧ lateTwice.trapReached exitedWave .stepWatchdog = true ∧ lateTwice.context? exitedWave.ctx = some lateContext
    ∧ lateContext.fpolicy.getLsbD 0 = false := by
  and_intros <;> decide

/-- TRAPCAUSE of wave 1 after the step watchdog of grid 1. -/
def causeThen : Option DWord :=
  match exec (.stepWatchdog true 1) lateTwice with
  | .next s' => (s'.thread? 1).map (·.trapcause)
  | .fault _ => none
  | .refused _ => none

theorem causeThen_eq : causeThen = some 0#64 := by decide

/-- Refutes O48, by its clause for a wave that takes the trap at once because no path of it runs. `watchdogDue` looks at the records of
the threads, and the watchdog, like `thread?`, at the first record under a number. No run puts two records under one number, but the
clause is for every state: in `lateTwice` the second record under 1 is of a wave that is late, and the first is of a wave that has ended,
which takes no trap. -/
theorem not_watchdogs : ¬ Obligations.Watchdogs := by
  unfold Obligations.Watchdogs
  intro h
  obtain ⟨due, alone⟩ := lateTwice_due
  obtain ⟨wave, noPath, noneOwed, reached, context, policy⟩ := lateTwice_wave
  obtain ⟨steps, -⟩ := h lateTwice 1 1 exitedWave wave
  obtain ⟨-, -, fires⟩ := steps true
  obtain ⟨s', run, -, -, -, -, -, atOnce⟩ := fires _ due alone rfl
  obtain ⟨y, thread, cause, -⟩ := atOnce (by simp [noneOwed]) noPath rfl (by simp [noneOwed]) reached _ context policy
  have counts := causeThen_eq
  rw [causeThen, run] at counts
  simp only [thread, cause, Option.map_some] at counts
  exact absurd counts (by decide)

end Sys2Proof.Machine
end

section
/-! SUPPORT (19 R314, 25 R366). What the records of the part, and the end of a context's grids, leave of the dies, the flue dies and the
stacks. -/

namespace Sys2Proof.Machine

/-- The die runs, or has stopped, as before, and has its TLB. -/
structure Die.SameUnit (x y : Die) : Prop where
  mode : y.mode = x.mode
  trip : y.tripOver = x.tripOver
  tlb : y.tlb = x.tlb

theorem Die.SameUnit.refl (x : Die) : x.SameUnit x := ⟨rfl, rfl, rfl⟩

theorem Die.SameUnit.trans {x y z : Die} (h : x.SameUnit y) (k : y.SameUnit z) : x.SameUnit z :=
  ⟨k.mode.trans h.mode, k.trip.trans h.trip, k.tlb.trans h.tlb⟩

/-- Of the dies nothing changes but their rings, counts, interrupts and commands, and of the flue dies and their stacks nothing. -/
structure UnitsKept (s s' : State) : Prop where
  flues : s'.flues = s.flues
  hbm : s'.hbm = s.hbm
  count : s'.dies.length = s.dies.length
  unit : ∀ d, (s.die d).SameUnit (s'.die d)

theorem die_modDie (s : State) (d : Nat) (f : Die → Die) (k : Nat) :
    (s.modDie d f).die k = if k = d ∧ d < s.dies.length then f (s.die d) else s.die k := by
  by_cases hk : k = d
  · subst hk
    by_cases hl : k < s.dies.length <;> simp [State.modDie, State.setDie, State.die, hl]
  · have hd : d ≠ k := fun h => hk h.symm
    simp [State.modDie, State.setDie, State.die, hk, hd, List.getD_eq_getElem?_getD]

@[simp] theorem modDie_dies_length (s : State) (d : Nat) (f : Die → Die) : (s.modDie d f).dies.length = s.dies.length :=
  List.length_set

namespace UnitsKept

variable {a b s : State}

theorem of_dies (hf : b.flues = a.flues) (hh : b.hbm = a.hbm) (hd : b.dies = a.dies) : UnitsKept a b :=
  ⟨hf, hh, congrArg _ hd, fun d => by rw [State.die, State.die, hd]; exact .refl _⟩

theorem refl (s : State) : UnitsKept s s := of_dies rfl rfl rfl

theorem trans {c : State} (h : UnitsKept a b) (k : UnitsKept b c) : UnitsKept a c :=
  ⟨k.flues.trans h.flues, k.hbm.trans h.hbm, k.count.trans h.count, fun d => (h.unit d).trans (k.unit d)⟩

theorem ite {p : Prop} [Decidable p] (h : UnitsKept s a) (k : UnitsKept s b) : UnitsKept s (if p then a else b) := by
  split
  · exact h
  · exact k

theorem foldl {α : Type} {f : State → α → State} (hf : ∀ s x, UnitsKept s (f s x)) (l : List α) (s : State) :
    UnitsKept s (l.foldl f s) := by
  induction l generalizing s with
  | nil => exact .refl s
  | cons x r ih => exact (hf s x).trans (ih _)

theorem modDie (s : State) (d : Nat) {f : Die → Die} (hf : ∀ x : Die, x.SameUnit (f x)) : UnitsKept s (s.modDie d f) where
  flues := rfl
  hbm := rfl
  count := modDie_dies_length s d f
  unit k := by
    rw [die_modDie]
    split
    · next h => rw [h.1]; exact hf _
    · exact .refl _

end UnitsKept

variable (s : State) (die : Nat)

theorem unitsKept_writeBytes (pa : Nat) (bs : List Byte) : UnitsKept s (s.writeBytes pa bs) := by
  obtain ⟨m, h⟩ := writeBytes_rest bs s pa
  rw [h]
  exact .of_dies rfl rfl rfl

theorem unitsKept_writeByte (pa : Nat) (b : Byte) : UnitsKept s (s.writeByte pa b) := unitsKept_writeBytes s pa [b]

theorem unitsKept_writeAt (a : DWord) (bs : List Byte) : UnitsKept s (s.writeAt a bs) :=
  .ite (.of_dies rfl rfl rfl) (unitsKept_writeBytes s _ bs)

theorem unitsKept_setRingWord (r : Ring) (i x : Nat) : UnitsKept s (s.setRingWord r i x) := unitsKept_writeAt s _ _

theorem unitsKept_raise (v : Nat) : UnitsKept s (s.raise die v) :=
  .ite (.modDie s die (f := fun d => { d with msixPend := d.msixPend ||| BitVec.ofNat 4 (2 ^ v) }) fun _ => ⟨rfl, rfl, rfl⟩)
    (unitsKept_writeAt s _ _)

theorem unitsKept_ringAppend (r : Ring) (bs : List Byte) : UnitsKept s (s.ringAppend r bs) :=
  (unitsKept_writeAt s _ bs).trans (unitsKept_setRingWord _ r 0 _)

theorem unitsKept_post (p : Post) : UnitsKept s (s.post die p) := .modDie s die fun _ => ⟨rfl, rfl, rfl⟩

theorem unitsKept_loseNow (k : RingId) (n : Nat) : UnitsKept s (s.loseNow die k n) :=
  .ite (unitsKept_setRingWord s _ _ _) (.modDie s die fun _ => by cases k <;> exact ⟨rfl, rfl, rfl⟩)

theorem unitsKept_noticeNow (ty ctx info : Nat) (w1 w2 : DWord) : UnitsKept s (s.noticeNow die ty ctx info w1 w2) :=
  .ite (.ite (unitsKept_ringAppend s _ _) ((unitsKept_ringAppend s _ _).trans (unitsKept_raise _ die 1)))
    (unitsKept_loseNow s die .notify 1)

theorem unitsKept_notify (ty ctx info : Nat) (w1 w2 : DWord) : UnitsKept s (s.notify die ty ctx info w1 w2) := by
  have put := UnitsKept.ite (p := s.ringOpen die .notify = true) (unitsKept_noticeNow s die ty ctx info w1 w2)
    (unitsKept_post s die (.notice ty ctx info w1 w2))
  exact .ite (put.trans (unitsKept_raise _ die 3)) (.ite (put.trans (unitsKept_raise _ die 2)) put)

theorem unitsKept_notifyCtx (c ty info : Nat) (w1 w2 : DWord) : UnitsKept s (s.notifyCtx c ty info w1 w2) := by
  unfold State.notifyCtx
  split
  · exact .foldl (fun s d => unitsKept_notify s d _ _ _ _ _) _ s
  · exact .refl s

theorem unitsKept_ringCheck (k : RingId) (before : Nat) : UnitsKept s (s.ringCheck die k before) :=
  .ite (unitsKept_notify s die _ _ _ _ _) (.refl s)

theorem unitsKept_putNow (k : RingId) (bs : List Byte) : UnitsKept s (s.putNow die k bs) :=
  .ite ((unitsKept_ringAppend s _ bs).trans (unitsKept_ringCheck _ die k _)) (unitsKept_loseNow s die k 1)

theorem unitsKept_errRec (ty src : Nat) (addr : DWord) (step : Word) (key count ctx : Nat) :
    UnitsKept s (s.errRec die ty src addr step key count ctx) :=
  .ite (unitsKept_putNow s die _ _) (unitsKept_post s die _)

theorem unitsKept_uncorrected (src : Nat) (addr : DWord) (step : Word) (key count ctx : Nat) :
    UnitsKept s (s.uncorrected die src addr step key count ctx) :=
  (UnitsKept.modDie s die (f := fun d => { d with uncorrected := tset 0 d.uncorrected src (tget 0 d.uncorrected src + 1) })
    fun _ => ⟨rfl, rfl, rfl⟩).trans (unitsKept_errRec _ die _ _ _ _ _ _ _)

theorem unitsKept_dropL3 (pa n : Nat) : UnitsKept s (s.dropL3 pa n) := .ite (.of_dies rfl rfl rfl) (.refl s)

theorem unitsKept_noteLostAt (c : Nat) (step : Word) (key : Nat) (va : DWord) (pa n : Nat) :
    UnitsKept s (s.noteLostAt die c step key va pa n) := by
  refine .trans (.foldl (fun s a => ?_) _ s) (unitsKept_dropL3 _ pa n)
  split
  · exact unitsKept_uncorrected s _ _ _ _ _ _ _
  · exact .refl s

theorem unitsKept_noteWalk (c : Nat) (va : DWord) (step : Word) (key : Nat) : UnitsKept s (s.noteWalk die c va step key) :=
  (UnitsKept.foldl (fun s _ => unitsKept_errRec s _ _ _ _ _ _ _ _) _ s).trans
    (.foldl (fun s _ => (unitsKept_uncorrected s _ _ _ _ _ _ _).trans (unitsKept_dropL3 _ _ _)) _ _)

theorem unitsKept_touchPas (l : List (Nat × Nat)) : UnitsKept s (s.touchPas l) := .ite (.refl s) (.of_dies rfl rfl rfl)

theorem unitsKept_commitByte (pa : Nat) (b : Byte) : UnitsKept s (s.commitByte pa b) :=
  .ite (((UnitsKept.ite (unitsKept_writeBytes s _ _) (.refl s)).trans (unitsKept_writeByte _ pa b)).trans (.of_dies rfl rfl rfl))
    (unitsKept_writeByte s pa b)

theorem unitsKept_commitLines (pa : Nat) (bs : List Byte) : UnitsKept s (s.commitLines pa bs) :=
  (UnitsKept.foldl (fun s _ => unitsKept_commitByte s _ _) _ s).trans (.of_dies rfl rfl rfl)

theorem unitsKept_modContext (c : Nat) (f : Context → Context) : UnitsKept s (s.modContext c f) := .of_dies (by simp) (by simp) (by simp)

/-! ## The end of a grid -/

theorem unitsKept_completeLost (c : Nat) (a : DWord) (n : Word) (status : Nat) : UnitsKept s (s.completeLost die c a n status) :=
  .trans (b := { s with cplDropped := s.cplDropped + 1 }) (.of_dies rfl rfl rfl) (unitsKept_errRec _ _ _ _ _ _ _ _ _)

theorem unitsKept_completeNow (c : Nat) (a : DWord) (n : Word) (status : Nat) : UnitsKept s (s.completeNow die c a n status) := by
  unfold State.completeNow
  split
  · exact .ite (unitsKept_completeLost s _ _ _ _ _) ((unitsKept_touchPas s _).trans (unitsKept_commitLines _ _ _))
  · exact (unitsKept_noteWalk s _ _ _ _ _).trans (unitsKept_completeLost _ _ _ _ _ _)

theorem unitsKept_complete (c : Nat) (a : DWord) (n : Word) (status : Nat) : UnitsKept s (s.complete c a n status) :=
  .ite (.refl s) (.ite (unitsKept_completeNow s _ _ _ _ _) (unitsKept_post s _ _))

theorem unitsKept_releaseRing (l : List (Word × Nat × Nat)) : UnitsKept s (s.releaseRing l) :=
  .foldl (fun s _ => .ite (.ite (unitsKept_setRingWord s _ _ _) (.refl s)) (unitsKept_post s _ _)) l s

theorem unitsKept_releaseGroups (g : Nat) : UnitsKept s (s.releaseGroups g) :=
  .foldl (fun s _ => .ite (unitsKept_releaseRing s _) (.refl s)) _ s

theorem unitsKept_releaseSlots (c : Nat) (l : List SysOp) : UnitsKept s (s.releaseSlots c l) := by
  refine .foldl (fun s o => ?_) l s
  split
  · exact unitsKept_modContext s c _
  all_goals exact .refl s

theorem unitsKept_writeBack (bad : List Nat) (d : Dirty) : UnitsKept s (s.writeBack die bad d) := by
  have zeros (l : List Nat) : UnitsKept s (l.foldl (fun s a => s.writeBytes a (List.replicate 8 0#8)) s) :=
    .foldl (fun s a => unitsKept_writeBytes s a _) l s
  exact .ite ((unitsKept_writeBytes s _ _).trans (unitsKept_uncorrected _ die _ _ _ _ _ _))
    ((UnitsKept.ite (zeros _) ((zeros _).trans (unitsKept_uncorrected _ die _ _ _ _ _ _))).trans (.of_dies rfl rfl rfl))

theorem unitsKept_cleanLine (place : Nat) (l : L1Line) (mine : Dirty → Bool) : UnitsKept s (s.cleanLine place l mine).1 :=
  .foldl (fun s d => unitsKept_writeBack s _ l.bad d) _ s

theorem unitsKept_cleanPlace (place : Nat) (mine : Dirty → Bool) : UnitsKept s (s.cleanPlace place mine) := by
  have lines (l : List L1Line) : ∀ a : State × List L1Line, UnitsKept a.1 (l.foldl (fun (a : State × List L1Line) l =>
      let x := a.1.cleanLine place l mine
      (x.1, a.2 ++ [x.2])) a).1 := by
    induction l with
    | nil => exact fun a => .refl a.1
    | cons x r ih => exact fun a => (unitsKept_cleanLine a.1 place x mine).trans (ih (_, a.2 ++ [(a.1.cleanLine place x mine).2]))
  exact (lines _ (s, [])).trans (.of_dies rfl rfl rfl)

theorem unitsKept_writeBacks (mine : Nat → Dirty → Bool) : UnitsKept s (s.writeBacks mine) :=
  .foldl (fun s _ => unitsKept_cleanPlace s _ _) _ s

theorem unitsKept_dropGrid (g : Nat) : UnitsKept s (s.dropGrid g) := by
  have back := unitsKept_writeBacks (State.purgeTwins (s.purgeHearths fun t => match s.thread? t with
    | some w => w.grid == g
    | none => false) (· == g)) fun _ d => d.grid == g
  exact ⟨back.flues, back.hbm, back.count, back.unit⟩

theorem unitsKept_endGrid (g status : Nat) : UnitsKept s (s.endGrid g status) := by
  unfold State.endGrid
  split
  · exact .refl s
  · next x _ =>
    have completed := (((unitsKept_releaseRing s x.rlRes).trans (unitsKept_releaseGroups _ g)).trans
      (unitsKept_releaseSlots _ x.ctx x.sysops)).trans (unitsKept_complete _ x.ctx x.pkt.cpladdr x.closed status)
    exact (UnitsKept.ite completed (completed.trans (unitsKept_notifyCtx _ _ _ _ _ _))).trans (unitsKept_dropGrid _ g)

theorem unitsKept_endGrids (c status : Nat) : UnitsKept s (s.endGrids c status) :=
  .trans (b := s.recallGrids c) (.of_dies rfl rfl rfl) (.foldl (fun s g => unitsKept_endGrid s g status) _ _)

theorem unitsKept_loseContext (c reason : Nat) : UnitsKept s (s.loseContext c reason die) :=
  ((unitsKept_endGrids s c _).trans (unitsKept_modContext _ c _)).trans (unitsKept_notifyCtx _ _ _ _ _ _)

theorem unitsKept_clearCaches : UnitsKept s (s.clearCaches die) :=
  .trans (.foldl (fun s _ => .foldl (fun s _ => .foldl (fun s _ => unitsKept_writeBytes s _ _) _ s) _ s) _ s) (.of_dies rfl rfl rfl)

end Sys2Proof.Machine
end

section
/-! SUPPORT (19 R314). What the end of grids leaves of the grids and of the save images: the grids that end are gone, and no other comes
but those that an image of the context holds. A lost context stays lost, and gets no grid again. -/

namespace Sys2Proof.Machine

/-- Nothing changes but what `Stored` names, the contexts and the count of dropped completion records. -/
def Noted (s s' : State) : Prop := ∃ k n, Stored { s with contexts := k, cplDropped := n } s'

namespace Noted

variable {a b s : State}

theorem of_stored (h : Stored a b) : Noted a b := ⟨a.contexts, a.cplDropped, h⟩

theorem refl (s : State) : Noted s s := .of_stored (.refl s)

theorem trans {c : State} (h : Noted a b) (k : Noted b c) : Noted a c := by
  obtain ⟨x, n, m, h, d, l, y, z, rfl⟩ := h
  obtain ⟨x', n', m', h', d', l', y', z', rfl⟩ := k
  exact ⟨x', n', m', h', d', l', y', z', rfl⟩

theorem ite {p : Prop} [Decidable p] (h : Noted s a) (k : Noted s b) : Noted s (if p then a else b) := by
  split
  · exact h
  · exact k

theorem foldl {α : Type} {f : State → α → State} (hf : ∀ s x, Noted s (f s x)) (l : List α) (s : State) : Noted s (l.foldl f s) := by
  induction l generalizing s with
  | nil => exact .refl s
  | cons x r ih => exact (hf s x).trans (ih _)

theorem contexts (l : List (Nat × Context)) : Noted s { s with contexts := l } := ⟨l, s.cplDropped, .refl _⟩

theorem modContext (s : State) (c : Nat) (f : Context → Context) : Noted s (s.modContext c f) := by
  obtain ⟨l, h⟩ := modContext_rest s c f
  rw [h]
  exact contexts l

theorem grids (h : Noted a b) : b.grids = a.grids := by
  obtain ⟨k, n, m, h, d, l, y, z, rfl⟩ := h
  rfl

theorem saves (h : Noted a b) : b.saves = a.saves := by
  obtain ⟨k, n, m, h, d, l, y, z, rfl⟩ := h
  rfl

theorem groups (h : Noted a b) : b.groups = a.groups := by
  obtain ⟨k, n, m, h, d, l, y, z, rfl⟩ := h
  rfl

theorem threads (h : Noted a b) : b.threads = a.threads := by
  obtain ⟨k, n, m, h, d, l, y, z, rfl⟩ := h
  rfl

theorem events (h : Noted a b) : b.events = a.events := by
  obtain ⟨k, n, m, h, d, l, y, z, rfl⟩ := h
  rfl

theorem evSpill (h : Noted a b) : b.evSpill = a.evSpill := by
  obtain ⟨k, n, m, h, d, l, y, z, rfl⟩ := h
  rfl

theorem time (h : Noted a b) : b.time = a.time := by
  obtain ⟨k, n, m, h, d, l, y, z, rfl⟩ := h
  rfl

theorem peers (h : Noted a b) : b.peersIn = a.peersIn ∧ b.peerRefused = a.peerRefused := by
  obtain ⟨k, n, m, h, d, l, y, z, rfl⟩ := h
  exact ⟨rfl, rfl⟩

end Noted

variable (s : State)

theorem noted_touchPas (l : List (Nat × Nat)) : Noted s (s.touchPas l) := .ite (.refl s) (.contexts _)

theorem noted_completeLost (die c : Nat) (a : DWord) (n : Word) (status : Nat) : Noted s (s.completeLost die c a n status) :=
  ⟨s.contexts, s.cplDropped + 1, stored_errRec { s with cplDropped := s.cplDropped + 1 } _ _ _ _ _ _ _ _⟩

theorem noted_completeNow (die c : Nat) (a : DWord) (n : Word) (status : Nat) : Noted s (s.completeNow die c a n status) := by
  unfold State.completeNow
  split
  · exact .ite (noted_completeLost s _ _ _ _ _) ((noted_touchPas s _).trans (.of_stored (stored_commitLines _ _ _)))
  · exact .trans (.of_stored (stored_noteWalks s _ _ _ _)) (noted_completeLost _ _ _ _ _ _)

theorem noted_complete (c : Nat) (a : DWord) (n : Word) (status : Nat) : Noted s (s.complete c a n status) :=
  .ite (.refl s) (.ite (noted_completeNow s _ _ _ _ _) (.of_stored (stored_post s _ _)))

theorem noted_releaseSlots (c : Nat) (l : List SysOp) : Noted s (s.releaseSlots c l) := by
  refine .foldl (fun s o => ?_) l s
  split
  · exact .modContext s c _
  all_goals exact .refl s

theorem adel_of_aget_none {α : Type} {l : List (Nat × α)} {k : Nat} (h : aget? l k = none) : adel l k = l := by
  refine List.filter_eq_self.mpr fun x hx => ?_
  induction l with
  | nil => cases hx
  | cons y r ih =>
    unfold aget? at h
    split at h
    · cases h
    · next hk =>
      rcases List.mem_cons.mp hx with rfl | hx
      · simpa using fun h => hk h.symm
      · exact ih h hx

/-- A grid that ends leaves no record of it, and nothing else of grids and images changes. -/
theorem endGrid_leaves (g status : Nat) : (s.endGrid g status).grids = adel s.grids g ∧ (s.endGrid g status).saves = s.saves := by
  unfold State.endGrid
  split
  · next h => exact ⟨(adel_of_aget_none h).symm, rfl⟩
  · next x _ =>
    have dropped (s' : State) : (s'.dropGrid g).grids = adel s'.grids g ∧ (s'.dropGrid g).saves = s'.saves := by
      have back := Noted.of_stored (stored_writeBacks (State.purgeTwins (s'.purgeHearths fun t => match s'.thread? t with
        | some w => w.grid == g
        | none => false) (· == g)) fun _ d => d.grid == g)
      exact ⟨congrArg (adel · g) back.grids, back.saves⟩
    have completed := ((Noted.of_stored ((stored_releaseRing s x.rlRes).trans (stored_releaseGroups _ g))).trans
      (noted_releaseSlots _ x.ctx x.sysops)).trans (noted_complete _ x.ctx x.pkt.cpladdr x.closed status)
    have told := Noted.ite (p := status = 0) completed
      (completed.trans (.of_stored (stored_notifyCtx _ x.ctx 0x09 status x.pkt.kdesc x.pkt.cpladdr)))
    exact ⟨(dropped _).1.trans (congrArg (adel · g) told.grids), (dropped _).2.trans told.saves⟩

theorem mem_foldl_endGrid {status : Nat} {x : Nat × Grid} (l : List Nat)
    (h : x ∈ (l.foldl (fun s g => s.endGrid g status) s).grids) : x ∈ s.grids ∧ x.1 ∉ l := by
  induction l generalizing s with
  | nil => exact ⟨h, List.not_mem_nil⟩
  | cons g r ih =>
    obtain ⟨hx, hr⟩ := ih _ h
    rw [(endGrid_leaves s g status).1] at hx
    obtain ⟨hs, hg⟩ := List.mem_filter.mp hx
    exact ⟨hs, by simpa using ⟨by simpa using hg, hr⟩⟩

theorem foldl_endGrid_saves (status : Nat) (l : List Nat) : (l.foldl (fun s g => s.endGrid g status) s).saves = s.saves := by
  induction l generalizing s with
  | nil => rfl
  | cons g r ih => exact (ih _).trans (endGrid_leaves s g status).2

theorem mem_foldl_aset {α : Type} {x : Nat × α} (l m : List (Nat × α)) (h : x ∈ l.foldl (fun l g => aset l g.1 g.2) m) : x ∈ m ∨ x ∈ l := by
  induction l generalizing m with
  | nil => exact .inl h
  | cons y r ih =>
    rcases ih _ h with h | h
    · exact (mem_aset h).elim (fun h => .inr (h ▸ List.mem_cons_self)) .inl
    · exact .inr (List.mem_cons_of_mem _ h)

theorem mem_recallGrids {c : Nat} {x : Nat × Grid} (h : x ∈ (s.recallGrids c).grids) :
    x ∈ s.grids ∨ ∃ i ∈ s.saves, i.2.ctx = c ∧ x ∈ i.2.grids := by
  have images (l : List (Nat × SaveImage)) (m : List (Nat × Grid))
      (h : x ∈ l.foldl (fun m i => i.2.grids.foldl (fun l g => aset l g.1 g.2) m) m) : x ∈ m ∨ ∃ i ∈ l, x ∈ i.2.grids := by
    induction l generalizing m with
    | nil => exact .inl h
    | cons i r ih =>
      rcases ih _ h with h | ⟨j, hj, hx⟩
      · exact (mem_foldl_aset _ _ h).imp_right fun h => ⟨i, List.mem_cons_self, h⟩
      · exact .inr ⟨j, List.mem_cons_of_mem _ hj, hx⟩
  refine (images _ _ h).imp_right fun ⟨i, hi, hx⟩ => ?_
  obtain ⟨his, hic⟩ := List.mem_filter.mp hi
  exact ⟨i, his, by simpa using hic, hx⟩

/-- Of a context whose grids have ended no grid is left. -/
theorem mem_endGrids {c status : Nat} {x : Nat × Grid} (h : x ∈ (s.endGrids c status).grids) :
    x ∈ (s.recallGrids c).grids ∧ x.2.ctx ≠ c := by
  obtain ⟨hx, hl⟩ := mem_foldl_endGrid _ _ h
  refine ⟨hx, fun hc => hl ?_⟩
  exact List.mem_map.mpr ⟨x, List.mem_filter.mpr ⟨hx, by simpa using hc⟩, rfl⟩

theorem endGrids_saves (c status : Nat) : (s.endGrids c status).saves = s.saves.filter fun i => i.2.ctx != c :=
  foldl_endGrid_saves _ _ _

/-! ## Lost contexts -/

/-- The context is lost, and no record of a grid of it is left. -/
structure State.Lost (s : State) (c : Nat) : Prop where
  status : ∃ z, s.context? c = some z ∧ z.status = .lost
  grids : ∀ x ∈ s.grids, x.2.ctx ≠ c

variable {s} {s' : State} {c k reason die : Nat}

theorem State.Lost.lostNow (h : s.Lost c) : s.lostNow c := ⟨h.status, fun _ _ hg => h.grids _ (mem_of_aget hg)⟩

theorem State.Lost.mono (h : s.Lost c) (hk : StatusKept s s') (hg : ∀ x ∈ s'.grids, x ∈ s.grids) : s'.Lost c := by
  obtain ⟨z, hz, hl⟩ := h.status
  obtain ⟨y, hy, hs⟩ := hk c z hz
  exact ⟨⟨y, hy, hs.trans hl⟩, fun x hx => h.grids x (hg x hx)⟩

theorem State.Lost.stored (h : s.Lost c) (k : Stored s s') : s'.Lost c :=
  h.mono (.of_stored k) fun x hx => by rwa [(Noted.of_stored k).grids] at hx

/-- The grids that a lost context leaves to the others. -/
theorem loseContext_grids (x : Nat × Grid) (h : x ∈ (s.loseContext k reason die).grids) : x ∈ (s.recallGrids k).grids ∧ x.2.ctx ≠ k := by
  have hg : (s.loseContext k reason die).grids = (s.endGrids k 0x0021).grids :=
    ((Noted.modContext _ _ _).trans (.of_stored (stored_notifyCtx _ _ _ _ _ _))).grids
  rw [hg] at h
  exact mem_endGrids s h

theorem loseContext_saves (i : Nat × SaveImage) (h : i ∈ (s.loseContext k reason die).saves) : i ∈ s.saves := by
  have hi : (s.loseContext k reason die).saves = (s.endGrids k 0x0021).saves :=
    ((Noted.modContext _ _ _).trans (.of_stored (stored_notifyCtx _ _ _ _ _ _))).saves
  rw [hi, endGrids_saves] at h
  exact (List.mem_filter.mp h).1

/-- A context stays where another is lost; it is lost itself where it is that one, or was lost before. -/
theorem loseContext_context {x : Context} (h : s.context? c = some x) : ∃ y, (s.loseContext k reason die).context? c = some y
    ∧ (c = k ∨ x.status = .lost → y.status = .lost) := by
  obtain ⟨z, hz, hs⟩ := statusKept_endGrids s k 0x0021 c x h
  have hm := modContext_context _ k (fun x => { x with status := .lost, saving := none, restoring := false }) c z hz
  refine ⟨_, (congrArg (aget? · c) (stored_notifyCtx _ _ _ _ _ _).contexts).trans hm, fun hl => ?_⟩
  split
  · rfl
  · next hk => exact hs.trans (hl.resolve_left hk)

theorem loseContext_lost (h : (s.context? k).isSome = true) : (s.loseContext k reason die).Lost k := by
  obtain ⟨x, hx⟩ := Option.isSome_iff_exists.mp h
  obtain ⟨y, hy, hl⟩ := loseContext_context (k := k) (reason := reason) (die := die) hx
  exact ⟨⟨y, hy, hl (.inl rfl)⟩, fun x hx => (loseContext_grids x hx).2⟩

theorem State.ownImages.mono (h : s.ownImages) (hs : ∀ i ∈ s'.saves, i ∈ s.saves) : s'.ownImages := fun i hi => h i (hs i hi)

theorem State.Lost.loseContext (h : s.Lost c) (own : s.ownImages) : (s.loseContext k reason die).Lost c := by
  obtain ⟨z, hz, hl⟩ := h.status
  obtain ⟨y, hy, hs⟩ := loseContext_context (k := k) (reason := reason) (die := die) hz
  refine ⟨⟨y, hy, hs (.inr hl)⟩, fun x hx => ?_⟩
  obtain ⟨hr, hk⟩ := loseContext_grids x hx
  rcases mem_recallGrids s hr with hg | ⟨i, hi, hic, hxi⟩
  · exact h.grids x hg
  · rw [own i hi x hxi, hic] at hk
    exact absurd rfl hk

/-- Where contexts are lost one by one, each that is named and there is lost at the end, and those that were lost stay so. -/
theorem loseContexts_lost {α : Type} (l : List α) (key why : α → Nat) (own : s.ownImages)
    (h : s.Lost c ∨ (∃ x ∈ l, key x = c) ∧ (s.context? c).isSome = true) :
    (l.foldl (fun s x => s.loseContext (key x) (why x) die) s).Lost c := by
  induction l generalizing s with
  | nil => exact h.resolve_right fun ⟨⟨x, hx, _⟩, _⟩ => List.not_mem_nil hx
  | cons a r ih =>
    refine ih (own.mono loseContext_saves) ?_
    rcases h with h | ⟨⟨x, hx, hxc⟩, hc⟩
    · exact .inl (h.loseContext own)
    · by_cases ha : key a = c
      · exact .inl (ha ▸ loseContext_lost (ha ▸ hc))
      · rcases List.mem_cons.mp hx with rfl | hx
        · exact absurd hxc ha
        · obtain ⟨y, hy⟩ := Option.isSome_iff_exists.mp hc
          obtain ⟨z, hz, -⟩ := loseContext_context (k := key a) (reason := why a) (die := die) hy
          exact .inr ⟨⟨x, hx, hxc⟩, by rw [hz]; rfl⟩

theorem foldl_loseContext_saves {α : Type} (l : List α) (key why : α → Nat) (i : Nat × SaveImage)
    (h : i ∈ (l.foldl (fun s x => s.loseContext (key x) (why x) die) s).saves) : i ∈ s.saves := by
  induction l generalizing s with
  | nil => exact h
  | cons a r ih => exact loseContext_saves i (ih h)

end Sys2Proof.Machine
end

section
/-! SUPPORT (19 R310 to R313). What the steps of a save and of a restore leave: the image and what it takes out of the machine, the grids that are
told to stop, and the threads that resume. -/

namespace Sys2Proof.Machine

variable {s : State}

/-- Each grid of a list is changed once, where a second change adds nothing. -/
theorem foldl_modGrid_grid {f : Grid → Grid} (hf : ∀ x, f (f x) = f x) (l : List Nat) {g : Nat} {z : Grid} (hz : s.grid? g = some z) :
    (l.foldl (fun s g => s.modGrid g f) s).grid? g = some (if g ∈ l then f z else z) := by
  induction l generalizing s z with
  | nil => simpa using hz
  | cons a r ih =>
    rw [List.foldl_cons, ih (modGrid_grid s a f g z hz)]
    by_cases ha : g = a
    · simp [ha, hf]
    · simp [ha]

/-! ## The save -/

/-- A grid as PRETMO leaves it (19 R310). -/
def Grid.cutShort (g : Grid) : Grid := if g.desc.stepping = true then g else { g with stopNow := true }

theorem Grid.cutShort_twice (g : Grid) : g.cutShort.cutShort = g.cutShort := by
  unfold Grid.cutShort
  split <;> simp_all

/-- What a save takes out of the machine, and what it leaves alone. -/
theorem removeSaved_leaves (s : State) (c : Nat) (gs : List Nat) :
    (s.removeSaved c gs).threads = (s.threads.filter fun x => !gs.contains x.2.grid)
    ∧ (s.removeSaved c gs).groups = (s.groups.filter fun p => !gs.contains p.2.grid)
    ∧ (s.removeSaved c gs).grids = (s.grids.filter fun g => !gs.contains g.1)
    ∧ (s.removeSaved c gs).contexts = s.contexts ∧ (s.removeSaved c gs).time = s.time := by
  have back := Noted.of_stored (stored_writeBacks s fun _ d => gs.contains d.grid)
  exact ⟨rfl, rfl, rfl, (stored_writeBacks s _).contexts, back.time⟩

theorem aget_adel_same {α : Type} (l : List (Nat × α)) (k : Nat) : aget? (adel l k) k = none := by
  cases h : aget? (adel l k) k with
  | none => rfl
  | some v => simpa using (List.mem_filter.mp (mem_of_aget h)).2

theorem mem_of_aget_filter {α : Type} {l : List (Nat × α)} {p : Nat × α → Bool} {k : Nat} {v : α} (h : aget? (l.filter p) k = some v) :
    p (k, v) = true := (List.mem_filter.mp (mem_of_aget h)).2

section
variable {c : Nat} {x : Context} {v : Saving} (hx : s.context? c = some x) (hv : x.saving = some v)
include hx hv

theorem saving_bind : (s.context? c).bind (·.saving) = some v := by rw [hx]; exact hv

theorem exec_saveDone (hb : v.begun = true) (he : s.enginesBusy v.grids = false)
    (hr : s.areaReached v.dies v.area (s.imageBytes v.grids) = true) : ∃ s', exec (.saveDone c) s = .next s'
      ∧ aget? s'.saves v.area.toNat = some (s.imageOf c v)
      ∧ s'.threads = (s.threads.filter fun x => !v.grids.contains x.2.grid)
      ∧ s'.groups = (s.groups.filter fun p => !v.grids.contains p.2.grid)
      ∧ s'.grids = (s.grids.filter fun g => !v.grids.contains g.1)
      ∧ s'.context? c = some { x with saving := none, lastRetire := s.time } := by
  let wrote := s.writeAt v.area ((List.range (s.imageOf c v).bytes).map fun i => Config.freeByte s.tick i)
  let out := wrote.removeSaved c v.grids
  let kept : State := { out with saves := aset out.saves v.area.toNat (s.imageOf c v) }
  let freed := kept.modContext c fun x => { x with saving := none, lastRetire := kept.time }
  have hw := Noted.of_stored (stored_writeAt s v.area ((List.range (s.imageOf c v).bytes).map fun i => Config.freeByte s.tick i))
  obtain ⟨ht, hp, hg, hc, htime⟩ := removeSaved_leaves wrote c v.grids
  have hkept : kept.context? c = some x :=
    (congrArg (aget? · c) (hc.trans (stored_writeAt s _ _).contexts)).trans hx
  have told := Noted.of_stored (stored_notifyCtx freed c 0x04 0 v.area (BitVec.ofNat 64 (s.imageOf c v).bytes))
  refine ⟨freed.notifyCtx c 0x04 0 v.area (BitVec.ofNat 64 (s.imageOf c v).bytes), ?_, ?_, ?_, ?_, ?_, ?_⟩
  · have waits : (!v.begun || s.enginesBusy v.grids || !s.areaReached v.dies v.area (s.imageBytes v.grids)) = false := by
      rw [hb, he, hr]; rfl
    change execSaveDone c s = _
    unfold execSaveDone
    simp only [saving_bind hx hv, waits]
    rfl
  · rw [told.saves, State.modContext_saves]
    exact aget_aset_same _ _ _
  · rw [told.threads, State.modContext_threads]
    exact ht.trans (congrArg _ hw.threads)
  · rw [told.groups, State.modContext_groups]
    exact hp.trans (congrArg _ hw.groups)
  · rw [told.grids, State.modContext_grids]
    exact hg.trans (congrArg _ hw.grids)
  · have hf := modContext_context kept c (fun x => { x with saving := none, lastRetire := kept.time }) c x hkept
    refine (congrArg (aget? · c) (stored_notifyCtx freed _ _ _ _ _).contexts).trans (hf.trans ?_)
    rw [if_pos rfl, show kept.time = s.time from htime.trans hw.time]

theorem exec_pretmoExpiry (hb : v.begun = false) (hl : s.expired v (s.lowestOf v.dies (·.pretmo)) = true) :
    exec (.pretmoExpiry c) s = .next (v.grids.foldl (fun s g => s.modGrid g Grid.cutShort) s) := by
  change execPretmoExpiry c s = _
  unfold execPretmoExpiry
  simp only [saving_bind hx hv, hb, hl, Bool.not_true, Bool.or_false, Bool.false_eq_true, if_false]
  rfl

end

/-! ## The restore -/

/-- The threads of the grids of an image as they resume. -/
def State.resumed (s : State) (i : SaveImage) (w : Thread) : Thread :=
  if (i.grids.map (·.1)).contains w.grid then
    w.restored s.tick (match s.grid? w.grid with
      | some x => 8 * x.desc.vregs
      | none => 0) ((s.context? i.ctx).any fun x => x.status == .faulted)
  else w

/-- A grid that goes on: nothing of it waits for a pre-emption any more. -/
def Grid.goOn (g : Grid) : Grid := { g with stopAt := none, stopLive := false, stopNow := false }

theorem exec_restoreDone {base : Nat} {i : SaveImage} (hi : aget? s.saves base = some i) (hs : i.started = true) :
    ∃ s', exec (.restoreDone base) s = .next s' ∧ s'.saves = adel s.saves base
      ∧ s'.threads = (s.threads.map fun x => (x.1, s.resumed i x.2))
      ∧ s'.grids = (s.grids.map fun g => (g.1, if (i.grids.map (·.1)).contains g.1 then g.2.goOn else g.2))
      ∧ ∀ x, s.context? i.ctx = some x → s'.context? i.ctx = some { x with restoring := false, lastRetire := s.time } := by
  refine ⟨_, by
    change execRestoreDone base s = _
    unfold execRestoreDone
    simp only [hi, hs]
    rfl, ?_, ?_, ?_, fun x hx => ?_⟩
  · rw [(Noted.of_stored (stored_notifyCtx _ _ _ _ _ _)).saves, State.modContext_saves]
  · rw [(Noted.of_stored (stored_notifyCtx _ _ _ _ _ _)).threads, State.modContext_threads]
    refine List.map_congr_left fun y _ => ?_
    unfold State.resumed
    split <;> rfl
  · rw [(Noted.of_stored (stored_notifyCtx _ _ _ _ _ _)).grids, State.modContext_grids]
    refine List.map_congr_left fun y _ => ?_
    split <;> rfl
  · refine (congrArg (aget? · i.ctx) (stored_notifyCtx _ _ _ _ _ _).contexts).trans ?_
    refine (modContext_context _ i.ctx _ i.ctx x ?_).trans (by rw [if_pos rfl])
    exact hx

theorem tget_foldl_tset {α β : Type} [DecidableEq α] (d : α) (f : β → Nat) (g : β → α) {k : Nat} (l : List β) (h : ∀ b ∈ l, k ≠ f b)
    (t : List (Nat × α)) : tget d (l.foldl (fun t b => tset d t (f b) (g b)) t) k = tget d t k := by
  induction l generalizing t with
  | nil => rfl
  | cons b r ih => rw [List.foldl_cons, ih fun x hx => h x (List.mem_cons_of_mem _ hx), tget_tset_ne d t _ (h b List.mem_cons_self)]

/-- A v register that the save covers holds what it held (08 R190). -/
theorem restored_vreg (w : Thread) (tick n : Nat) (faulted : Bool) {r l : Nat} (hr : w.whole = true ∨ LiveSet.has w.live r = true) (hl : l < 128) :
    (w.restored tick n faulted).vreg r l = w.vreg r l := by
  have regs (rs : List Nat) (hrs : r ∉ rs) (v : List (Nat × Word)) :
      tget 0#32 (rs.foldl (fun v r => (lanesOf w.launched).foldl (fun v k => tset 0#32 v (vix r k) (Config.freeWord tick (vix r k))) v) v)
        (vix r l) = tget 0#32 v (vix r l) := by
    induction rs generalizing v with
    | nil => rfl
    | cons a as ih =>
      have ha : r ≠ a := fun h => hrs (h ▸ List.mem_cons_self)
      rw [List.foldl_cons, ih fun h => hrs (List.mem_cons_of_mem _ h)]
      exact tget_foldl_tset 0#32 (vix a) _ _ (fun k hk h => ha ((vix_inj hl ((mem_lanesOf _ k).mp hk).1).mp h).1) v
  have outside : r ∉ (List.range n).filter fun r => !(w.savedRegs n).contains r := by
    intro h
    obtain ⟨hn, hk⟩ := List.mem_filter.mp h
    have saved : r ∈ w.savedRegs n := List.mem_filter.mpr ⟨hn, by simpa using hr⟩
    simp [saved] at hk
  exact congrArg (fun y => if w.badV.contains (vix r l) = true then 0#32 else y) (regs _ outside w.v)

theorem faultedNow_iff (c : Nat) : ((s.context? c).any fun x => x.status == .faulted) = true ↔ s.faultedNow c := by
  unfold State.faultedNow
  cases s.context? c <;> simp

end Sys2Proof.Machine
end

section
/-! OBLIGATION O54. -/

namespace Sys2Proof.Machine

section
variable {s : State} {c : Nat} {x : Context} {v : Saving}

theorem expired_iff (v : Saving) (us : Nat) : s.expired v us = true ↔ us ≠ 0 ∧ us * 1000 ≤ s.time.toNat - v.since.toNat := by
  simp [State.expired]

variable (hx : s.context? c = some x) (hv : x.saving = some v)
include hx hv

/-- A save begins once its grids have stopped and no other is under way on their dies; before, and once it has begun, the event does
nothing. -/
theorem exec_saveBegin : exec (.saveBegin c) s = .next
    (if v.begun = false ∧ (v.grids.filter fun g => (s.grid? g).isSome).all s.gridStopped = true
        ∧ s.saveElsewhere c (v.grids.filter fun g => (s.grid? g).isSome) = false
      then s.setContext c { x with saving := some { v with
        grids := v.grids.filter fun g => (s.grid? g).isSome, begun := true, since := s.time } }
      else s) := by
  change execSaveBegin c s = _
  unfold execSaveBegin
  simp only [saving_bind hx hv, modContext_eq hx]
  cases v.begun <;> cases (v.grids.filter fun g => (s.grid? g).isSome).all s.gridStopped <;>
    cases s.saveElsewhere c (v.grids.filter fun g => (s.grid? g).isSome) <;> rfl

theorem exec_saveDone_waits (h : s.enginesBusy v.grids = true ∨ s.areaReached v.dies v.area (s.imageBytes v.grids) = false) :
    exec (.saveDone c) s = .next s := by
  change execSaveDone c s = _
  unfold execSaveDone
  rcases h with h | h <;> simp [saving_bind hx hv, h]

/-- CPYTMO and SAVETMO mean nothing to a save that has not begun. -/
theorem exec_timeouts_early (hb : v.begun = false) : exec (.cpytmoExpiry c) s = .next s ∧ exec (.savetmoExpiry c) s = .next s := by
  change execCpytmoExpiry c s = _ ∧ execSavetmoExpiry c s = _
  unfold execCpytmoExpiry execSavetmoExpiry
  simp [saving_bind hx hv, hb]

theorem exec_cpytmoExpiry (hb : v.begun = true) (hc : s.copiesOf v.grids = true)
    (hl : s.expired v (s.lowestOf v.dies (·.cpytmo)) = true) :
    exec (.cpytmoExpiry c) s = .next (s.loseContext c 1 ((s.lowestLiveIn v.dies).getD 0)) := by
  change execCpytmoExpiry c s = _
  unfold execCpytmoExpiry
  simp [saving_bind hx hv, hb, hc, hl]

theorem exec_savetmoExpiry (hb : v.begun = true) (hl : s.expired v (s.lowestOf v.dies (·.savetmo)) = true) :
    exec (.savetmoExpiry c) s = .next (s.loseContext c 0 ((s.lowestLiveIn v.dies).getD 0)) := by
  change execSavetmoExpiry c s = _
  unfold execSavetmoExpiry
  simp [saving_bind hx hv, hb, hl]

end

/-- The image of a save area in its places (19 R313). -/
def State.withImage (s : State) (base : Nat) (i : SaveImage) : State :=
  State.freshen { s with
    saves := aset s.saves base { i with queued := false, started := true }
    grids := i.grids.foldl (fun l g => aset l g.1 g.2) s.grids
    groups := i.groups.foldl (fun l p => aset l p.1 p.2) s.groups
    threads := i.threads.foldl (fun l x => aset l x.1 { x.2 with stopped := true }) s.threads
    hearths := i.hearths.foldl (fun l h => aset l h.1 ((s.hearth h.1).bring h.2)) s.hearths } fun _ => true

section
variable {s : State} {base : Nat} {i : SaveImage} (hi : aget? s.saves base = some i)
include hi

theorem exec_restoreStart (hq : i.queued = true) (hs : i.started = false) (hf : s.imageFits i = true)
    (hr : s.areaReached i.dies (BitVec.ofNat 64 base) i.bytes = true) : exec (.restoreStart base) s = .next (s.withImage base i) := by
  change execRestoreStart base s = _
  unfold execRestoreStart
  simp only [hi, hq, hs, hf, hr]
  rfl

theorem exec_restoreStart_waits (h : s.imageFits i = false ∨ s.areaReached i.dies (BitVec.ofNat 64 base) i.bytes = false) :
    exec (.restoreStart base) s = .next s := by
  change execRestoreStart base s = _
  unfold execRestoreStart
  rcases h with h | h <;> simp [hi, h]
end

theorem exec_invalidateComplete {s : State} {die : Nat} {v : Inval} (h : (s.die die).inval = some v) :
    exec (.invalidateComplete die) s =
      .next (if s.invalBusy v = true then s else (s.modDie die fun d => { d with inval := none }).finish die 0 []) := by
  change execInvalidateComplete die s = _
  unfold execInvalidateComplete
  simp only [h]
  split <;> rfl

/-- A circuit that drains goes DOWN once nothing is in flight on it (22 R337). -/
theorem exec_circuitDrained (s : State) (f p : Nat) : exec (.circuitDrained f p) s =
    .next (if ((s.flue f).entry p).state = .drain ∧ s.inFlight f p = false
      then s.modFlue f fun y => { y with conn := aset y.conn p ⟨.down, ((s.flue f).entry p).wl⟩ } else s) := by
  change execCircuitDrained f p s = _
  unfold execCircuitDrained
  simp only [Bool.and_eq_true, beq_iff_eq, Bool.not_eq_true']
  split <;> rfl

/-- A circuit that is being set up comes UP (22 R337). -/
theorem exec_circuitUp (s : State) (f p : Nat) : exec (.circuitUp f p) s =
    .next (if ((s.flue f).entry p).state = .setup
      then s.modFlue f fun y => { y with conn := aset y.conn p ⟨.up, ((s.flue f).entry p).wl⟩ } else s) := by
  change execCircuitUp f p s = _
  unfold execCircuitUp
  simp only [beq_iff_eq]
  split <;> rfl

/-- Settles O54: each event by the equation of its meaning, the images and the grids that are left by what the writes of records and the
end of grids leave alone. -/
theorem saves : Obligations.Saves := by
  unfold Obligations.Saves
  refine ⟨fun s c x v hx hv => ?_, fun s base i hi => ?_, fun s => ⟨fun die v h => ?_, fun f p => ?_, fun die p h => ?_⟩⟩
  · intro gs ready late
    have begins := exec_saveBegin hx hv
    refine ⟨fun hb hr => ?_, fun hb => ?_, fun _ h => exec_saveDone_waits hx hv h, fun hb he hr => ?_, fun hb hl => ?_, fun hb hc hl => ?_,
      fun hb hl => ?_, exec_timeouts_early hx hv⟩
    · rw [begins, if_pos ⟨hb, hr⟩]
    · rw [begins, if_neg fun ⟨h, hr⟩ => hb.elim (by simp [h]) fun hn => hn hr]
    · obtain ⟨s', he, hs, ht, hp, hg, hc⟩ := exec_saveDone hx hv hb he hr
      refine ⟨s', s.imageOf c v, _, he, hs, rfl, rfl, rfl, rfl, rfl, rfl, fun t w h => ?_, fun g hgs => ?_, fun p q h => ?_, hc, rfl, rfl⟩
      · rw [State.thread?, ht] at h
        simpa using mem_of_aget_filter h
      · cases h : s'.grid? g with
        | none => rfl
        | some z =>
          rw [State.grid?, hg] at h
          exact absurd hgs (by simpa using mem_of_aget_filter h)
      · rw [State.group?, hp] at h
        simpa using mem_of_aget_filter h
    · exact ⟨_, exec_pretmoExpiry hx hv hb ((expired_iff v _).mpr hl), fun g z hg hz => by
        rw [foldl_modGrid_grid Grid.cutShort_twice _ hz, if_pos hg]; rfl⟩
    · exact ⟨_, exec_cpytmoExpiry hx hv hb hc ((expired_iff v _).mpr hl), (loseContext_lost (by rw [hx]; rfl)).lostNow⟩
    · exact ⟨_, exec_savetmoExpiry hx hv hb ((expired_iff v _).mpr hl), (loseContext_lost (by rw [hx]; rfl)).lostNow⟩
  · refine ⟨fun hq hs hf hr => ?_, fun _ _ h => exec_restoreStart_waits hi h, fun hs => ?_⟩
    · refine ⟨_, exec_restoreStart hi hq hs hf hr, aget_aset_same _ _ _, fun g z h => ?_, fun p q h => ?_, fun t w h => ?_⟩
      all_goals
        simp only [State.withImage, State.freshen, State.grid?, State.group?, State.thread?, h, List.foldl_cons, List.foldl_nil]
        exact aget_aset_same _ _ _
    · obtain ⟨s', he, hsaves, ht, hg, hc⟩ := exec_restoreDone hi hs
      refine ⟨s', he, by rw [hsaves]; exact aget_adel_same _ _, hc, fun g z h y hy => ⟨?_, fun t w hw hwg => ?_⟩⟩
      · rw [State.grid?, hg, aget?_map (fun k (y : Grid) => if (i.grids.map (·.1)).contains k = true then y.goOn else y)]
        rw [show aget? s.grids g = some y from hy]
        simp [h, Grid.goOn]
      · refine ⟨s.resumed i w, ?_, ?_⟩
        · rw [State.thread?, ht, aget_map (fun x => s.resumed i x.2)]
          rw [show aget? s.threads t = some w from hw]
          rfl
        · have hr : s.resumed i w = w.restored s.tick _ _ := if_pos (by simp [h, hwg])
          rw [hr]
          exact ⟨faultedNow_iff i.ctx, rfl, fun _ => rfl, fun r l hr hl => restored_vreg w _ _ _ hr hl⟩
  · have he := exec_invalidateComplete h
    exact ⟨fun hb => by rw [he, if_pos hb], fun hb => by rw [EndsWith, he, if_neg (by simp [hb])]⟩
  · intro x sets
    have drained := exec_circuitDrained s f p
    have up := exec_circuitUp s f p
    refine ⟨fun hx hf => ?_, fun h => ?_, fun hx => ?_, fun hx => ?_⟩
    · exact drained.trans (by rw [if_pos ⟨hx, hf⟩])
    · rw [drained, if_neg fun ⟨hd, hn⟩ => h.elim (· hd) (by simp [hn])]
    · exact up.trans (by rw [if_pos hx])
    · rw [up, if_neg hx]
  · change execPstateChangeDone die s = _
    rw [execPstateChangeDone, h]

end Sys2Proof.Machine
end

section
/-! SUPPORT (22 R337, R345). How a command that the function of a die takes comes to its end. -/

namespace Sys2Proof.Machine

variable {s : State} {die : Nat} {c : Cmd} {i : Instr} {mine boot : Bool} {f : State → State × Reply}

theorem Accepts.command (h : Accepts s die) (hm : mine = true) : command die c mine boot s f = .next (s.runCmd die c f) := by
  simp [Machine.command, hm, h.answers, h.free, h.run]

theorem runCmd_done {s1 : State} {st : Nat} {res : List DWord} (hf : f (s.begun die c) = (s1, .done st res)) :
    s.runCmd die c f = s1.finish die st res := by
  have hf' : f (s.modDie die fun d => { d with cmdbuf := c, busy := true }) = _ := hf
  rw [State.runCmd, hf']

theorem runCmd_later {s1 : State} (hf : f (s.begun die c) = (s1, .later)) : s.runCmd die c f = s1 := by
  have hf' : f (s.modDie die fun d => { d with cmdbuf := c, busy := true }) = _ := hf
  rw [State.runCmd, hf']

theorem Accepts.endsWith (h : Accepts s die) (hm : mine = true) (he : exec i s = Machine.command die c mine boot s f) {s1 : State}
    {st : Nat} {res : List DWord} (hf : f (s.begun die c) = (s1, .done st res)) : EndsWith s i die s1 st res := by
  rw [EndsWith, he, h.command hm, runCmd_done hf]

/-- A command whose operand is not reached has not ended. -/
theorem Accepts.later (h : Accepts s die) (hm : mine = true) (he : exec i s = Machine.command die c mine boot s f) {s1 : State}
    (hf : f (s.begun die c) = (s1, .later)) : exec i s = .next s1 := by
  rw [he, h.command hm, runCmd_later hf]

theorem withCtx_none {s : State} {f : Nat → Context → State × Reply} (hx : s.context? (cmdCtx c) = none) :
    withCtx s die c f = (s, .done 0x0043 []) := by
  rw [withCtx, hx]
  rfl

theorem withCtx_some {s : State} {f : Nat → Context → State × Reply} {x : Context} (hx : s.context? (cmdCtx c) = some x)
    (hd : x.dieset.getLsbD die = true) : withCtx s die c f = f (cmdCtx c) x := by
  simp only [withCtx, hx, hd, if_true]

/-- A command that names a context of the die comes to its end as `f` says, where its operands are within their limits. -/
theorem Accepts.inContext (h : Accepts s die) {bad : Bool} {f : State → Nat → Context → State × Reply} {x : Context}
    (he : exec i s = Machine.command die c mine boot s fun s => if bad = true then ends s 0x0041 else withCtx s die c (f s))
    (hm : mine = true) (hb : bad = false) (hx : s.context? (cmdCtx c) = some x) (hd : x.dieset.getLsbD die = true) {s1 : State} {st : Nat}
    {res : List DWord} (hf : f (s.begun die c) (cmdCtx c) x = (s1, .done st res)) : EndsWith s i die s1 st res := by
  refine h.endsWith hm he ?_
  rw [if_neg (by simp [hb])]
  exact (withCtx_some (s := s.begun die c) hx hd).trans hf

theorem unitsKept_begun (s : State) (die : Nat) (c : Cmd) : UnitsKept s (s.begun die c) := .modDie s die fun _ => ⟨rfl, rfl, rfl⟩

theorem UnitsKept.live {s s' : State} (h : UnitsKept s s') (d : Nat) : (s'.die d).live = (s.die d).live := by
  rw [Die.live, Die.live, (h.unit d).mode]

theorem UnitsKept.allLive {s s' : State} (h : UnitsKept s s') (m : BitVec 16) : s'.allLive m = s.allLive m := by
  simp only [State.allLive, h.live]

theorem allLive_iff (m : BitVec 16) : s.allLive m = true ↔ ∀ d, d < 16 → m.getLsbD d = true → (s.die d).mode = .run := by
  have one (d : Nat) : (!m.getLsbD d || (s.die d).live) = true ↔ (m.getLsbD d = true → (s.die d).mode = .run) := by
    cases m.getLsbD d <;> simp [Die.live]
  simp only [State.allLive, List.all_eq_true, List.mem_range, one]

@[simp] theorem holdsMemory_begun (pa : Nat) : (s.begun die c).holdsMemory pa = s.holdsMemory pa := rfl

@[simp] theorem opReached_begun (a : DWord) : (s.begun die c).opReached die a = s.opReached die a := rfl

@[simp] theorem countsReached_begun (a : DWord) : (s.begun die c).countsReached die a = s.countsReached die a := rfl

@[simp] theorem cleanBytes_begun (pa n : Nat) : (s.begun die c).cleanBytes pa n = s.cleanBytes pa n := by
  induction n generalizing pa with
  | zero => rfl
  | succ n ih => exact congrArg (_ :: ·) (ih (pa + 1))

end Sys2Proof.Machine
end

section
/-! SUPPORT (22 R347). The creation of a context from its record. -/

namespace Sys2Proof.Machine

variable {s : State}

theorem bits_lt (x lo n : Nat) : bits x lo n < 2 ^ n := Nat.mod_lt _ (Nat.two_pow_pos n)

theorem recDies_eq (bs : List Byte) : recDies bs = BitVec.ofNat 16 (bits (recWord bs 0).toNat 16 16) := by
  apply BitVec.eq_of_toNat_eq
  simp [recDies, bits, BitVec.extractLsb'_toNat]

theorem recDies_eq_zero (bs : List Byte) : recDies bs = 0#16 ↔ bits (recWord bs 0).toNat 16 16 = 0 := by
  have hlt : bits (recWord bs 0).toNat 16 16 < 65536 := bits_lt _ 16 16
  rw [recDies_eq, ← BitVec.toNat_inj, BitVec.toNat_ofNat, Nat.mod_eq_of_lt hlt]
  rfl

theorem getLsbD_recDies (bs : List Byte) {d : Nat} (hd : d < 16) : (recDies bs).getLsbD d = (recWord bs 0).getLsbD (16 + d) := by
  simp [recDies, hd]

/-- What the read of a record brings about leaves the contexts but for their pins. -/
theorem noteOperand_noted (s : State) (die : Nat) (a : DWord) (n : Nat) : Noted s (s.noteOperand die a n) :=
  .ite (.refl s) ((Noted.of_stored (stored_noteLostAt s die _ _ _ _ _ _)).trans (noted_touchPas _ _))

theorem unitsKept_noteOperand (s : State) (die : Nat) (a : DWord) (n : Nat) : UnitsKept s (s.noteOperand die a n) :=
  .ite (.refl s) ((unitsKept_noteLostAt s die _ _ _ _ _ _).trans (unitsKept_touchPas _ _))

theorem touchPas_owner (s : State) (l : List (Nat × Nat)) (p : Nat) : (s.touchPas l).pageOwner p = s.pageOwner p := by
  unfold State.touchPas
  split
  · rfl
  · simp only [State.pageOwner, List.find?_map, Option.map_map]
    rfl

theorem touchPa_rest (s : State) (pa n : Nat) : ∃ k, s.touchPa pa n = { s with contexts := k } := by
  unfold State.touchPa State.touchPas
  split <;> exact ⟨_, rfl⟩

theorem noteOperand_owners (s : State) (die : Nat) (a : DWord) (n : Nat) :
    (∀ k, ((s.noteOperand die a n).context? k).isSome = (s.context? k).isSome)
    ∧ ∀ p, (s.noteOperand die a n).pageOwner p = s.pageOwner p := by
  unfold State.noteOperand
  split
  · exact ⟨fun _ => rfl, fun _ => rfl⟩
  · have hc := (stored_noteLostAt s die 0 0#32 0 a a.toNat n).contexts
    refine ⟨fun k => ?_, fun p => ?_⟩
    · obtain ⟨f, hf⟩ := (looked_touchPas (s.noteLostAt die 0 0#32 0 a a.toNat n) [(a.toNat, n)]).contexts k
      rw [State.touchPa, hf, Option.isSome_map, State.context?, hc, State.context?]
    · rw [State.touchPa, touchPas_owner, State.pageOwner, hc, State.pageOwner]

end Sys2Proof.Machine
end

section
/-! SUPPORT (19 R308, R310, R313, R314, R319, 22 R347, R350). The commands that concern a context, each in its outcomes. -/

namespace Sys2Proof.Machine

section
variable {s : State} {die : Nat} {c : Cmd} (h : Accepts s die)
include h

/-! ## CTX_CREATE (22 R347) -/

omit h in
/-- What CTX_CREATE answers to a record, in the order of its checks (log 52). -/
theorem createContext_eq (s : State) (bs : List Byte) (id : Nat) (hid : bits (recWord bs 0).toNat 0 16 = id) :
    (¬ (recordOk bs = true ∧ bits (recWord bs 0).toNat 16 16 ≠ 0) → s.createContext bs = (s, .done 0x0041 []))
    ∧ (recordOk bs = true ∧ bits (recWord bs 0).toNat 16 16 ≠ 0 →
      ((s.context? id).isSome = true ∨ (s.pageOwner (bits (recWord bs 0).toNat 32 12)).isSome = true →
        s.createContext bs = (s, .done 0x0044 []))
      ∧ (¬ ((s.context? id).isSome = true ∨ (s.pageOwner (bits (recWord bs 0).toNat 32 12)).isSome = true) →
        (s.allLive (recDies bs) = false → s.createContext bs = (s, .done 0x0047 []))
        ∧ (s.allLive (recDies bs) = true → s.createContext bs =
          ({ s with events := s.events.filter fun e => e.1 != id, evSpill := s.evSpill.filter fun e => e.1 != id }.setContext id
            (contextOf bs s.time), .done 0 [])))) := by
  subst hid
  have hz : (recDies bs == 0#16) = decide (bits (recWord bs 0).toNat 16 16 = 0) := by
    rw [Bool.eq_iff_iff, beq_iff_eq, decide_eq_true_iff, recDies_eq_zero]
  unfold State.createContext
  simp only [hz]
  refine ⟨fun hn => ?_, fun ⟨hok, hd⟩ => ⟨fun ht => ?_, fun ht => ⟨fun hl => ?_, fun hl => ?_⟩⟩⟩
  · rw [if_pos (by simpa [Classical.or_iff_not_imp_left] using hn)]; rfl
  · rw [if_neg (by simp [hok, hd]), if_pos (by simpa using ht)]; rfl
  · rw [if_neg (by simp [hok, hd]), if_neg (by simpa using ht), if_pos (by simp [hl])]; rfl
  · rw [if_neg (by simp [hok, hd]), if_neg (by simpa using ht), if_neg (by simp [hl])]; rfl


/-! ## COUNTS_READ (22 R350) -/

omit h in
theorem countBlock_spec (s : State) (die : Nat) (x : Context) : (s.countBlock die x).length = 64
    ∧ (∀ j, j < 14 → (s.countBlock die x).getD j 0 = tget 0 (s.die die).corrected j
      ∧ (s.countBlock die x).getD (14 + j) 0 = tget 0 (s.die die).uncorrected j)
    ∧ ((s.countBlock die x).drop 40).take 8 = [(s.die die).refused, (s.die die).dropped, s.evSpills, x.pinRel, x.pinRef, (s.die die).sumDropped,
        s.cplDropped, s.peerRefused] := by
  refine ⟨rfl, fun j hj => ?_, rfl⟩
  interval_cases j <;> exact ⟨rfl, rfl⟩

theorem countsRead_runs (hc : cmdCode c = 0x0B) (hr : cmdReserved c false wholeWord 0xFFFF#64 0#64 = false) (ha : c.w1.toNat % 64 = 0)
    (hm : c.w1.getLsbD 63 = true ∨ s.holdsMemory c.w1.toNat = true ∧ s.holdsMemory (c.w1.toNat + 511) = true) :
    (s.countsReached die c.w1 = false → exec (.countsRead die c) s = .next ((s.begun die c).post die (.command c)))
    ∧ ∀ s1 st, s.countsReached die c.w1 = true →
      (s.begun die c).countsAt die c.w1 (bits c.w2.toNat 0 16) = (s1, .done st []) → EndsWith s (.countsRead die c) die s1 st [] := by
  have runs : exec (.countsRead die c) s = execCountsRead die c s := rfl
  unfold execCountsRead at runs
  have here : (!c.w1.getLsbD 63 && !(s.holdsMemory c.w1.toNat && s.holdsMemory (c.w1.toNat + 511))) = false := by
    rcases hm with hm | ⟨hm, hm'⟩
    · simp [hm]
    · simp [hm, hm']
  have fits : (cmdReserved c false wholeWord 0xFFFF#64 0#64 || decide (c.w1.toNat % 64 ≠ 0)
      || (!c.w1.getLsbD 63 && !(s.holdsMemory c.w1.toNat && s.holdsMemory (c.w1.toNat + 511)))) = false := by
    rw [hr, here]
    simp [ha]
  refine ⟨fun hn => h.later (by simp [hc]) runs ?_, fun s1 st hy hk => h.endsWith (by simp [hc]) runs ?_⟩
  · simp only [holdsMemory_begun, fits, countsReached_begun, hn]
    rfl
  · simp only [holdsMemory_begun, fits, countsReached_begun, hy]
    exact hk

end

section
variable {s : State} {die : Nat} {c : Cmd} {x : Context} (h : Accepts s die) (hx : s.context? (cmdCtx c) = some x)
  (hd : x.dieset.getLsbD die = true)
include h hx hd

/-! ## CTX_DESTROY (19 R314, 22 R347) -/

theorem ctxDestroy_begun (hc : cmdCode c = 0x02) (hr : cmdReserved c true 0#64 0#64 0#64 = false)
    (hb : ((x.saving.any fun v => v.begun) || s.saves.any fun i => i.2.ctx == cmdCtx c && i.2.started) = true) :
    EndsWith s (.ctxDestroy die c) die (s.begun die c) 0x0046 [] :=
  h.inContext rfl (by simp [hc]) hr hx hd (if_pos hb)

/-- The context goes, with its grids, and with a pre-emption that has not begun its save (log 53). -/
theorem ctxDestroy_ends (hc : cmdCode c = 0x02) (hr : cmdReserved c true 0#64 0#64 0#64 = false)
    (hb : ((x.saving.any fun v => v.begun) || s.saves.any fun i => i.2.ctx == cmdCtx c && i.2.started) = false) :
    ∃ s1, EndsWith s (.ctxDestroy die c) die s1 0 [] ∧ s1.context? (cmdCtx c) = none ∧ ∀ g y, s1.grid? g = some y → y.ctx ≠ cmdCtx c := by
  let gone := ((s.begun die c).endGrids (cmdCtx c) 0x0020).clearContext (cmdCtx c)
  refine ⟨{ gone with contexts := adel gone.contexts (cmdCtx c), peersIn := gone.peersIn.filter fun l => l.ctx != cmdCtx c },
    h.inContext rfl (by simp [hc]) hr hx hd (if_neg (Bool.eq_false_iff.mp hb)), aget_adel_same _ _, fun g y hg => ?_⟩
  have hy := mem_of_aget (show aget? gone.grids g = some y from hg)
  rw [show gone.grids = ((s.begun die c).endGrids (cmdCtx c) 0x0020).grids from State.modContext_grids _ _ _] at hy
  exact (mem_endGrids _ hy).2

/-! ## QUEUE_SET, WAVE_RESUME, INVALIDATE (22 R347, 19 R308, R319) -/

/-- The queue that QUEUE_SET sets: slots that LAUNCHes have reserved stay reserved. -/
def newQueue (c : Cmd) (x : Context) : Queue where
  prio := bits c.w1.toNat 8 2
  base := c.w2
  log2 := bits c.w1.toNat 16 4
  widx := 0#32
  ridx := 0#32
  reserved := ((aget? x.queues (bits c.w1.toNat 0 6)).map (·.reserved)).getD 0
  enq := []

theorem queueSet_ends (hc : cmdCode c = 0x03) (hr : cmdReserved c true 0xF033F#64 wholeWord 0#64 = false) (hn : bits c.w1.toNat 16 4 ≤ 12)
    (ha : c.w2.toNat % 128 = 0) : EndsWith s (.queueSet die c) die ((s.begun die c).setContext (cmdCtx c) { x with
      queues := if bits c.w1.toNat 16 4 = 0 then adel x.queues (bits c.w1.toNat 0 6)
        else aset x.queues (bits c.w1.toNat 0 6) (newQueue c x) }) 0 [] := by
  refine h.inContext rfl (by simp [hc]) (by simp [hr, hn, ha]) hx hd ?_
  unfold newQueue
  dsimp only
  cases aget? x.queues (bits c.w1.toNat 0 6) <;> rfl

theorem waveResume_far (hc : cmdCode c = 0x07) (hr : cmdReserved c true 0x3FFFF#64 0#64 0#64 = false)
    (hn : ¬ (x.dieset.getLsbD (bits c.w1.toNat 0 4) = true ∧ (s.die (bits c.w1.toNat 0 4)).mode = .run)) :
    EndsWith s (.waveResume die c) die (s.begun die c) 0x0047 [] := by
  refine h.inContext rfl (by simp [hc]) hr hx hd (if_pos ?_)
  rw [(unitsKept_begun s die c).live, placeDie]
  simpa [Die.live, Classical.or_iff_not_imp_left] using hn

section
variable (hc : cmdCode c = 0x07) (hr : cmdReserved c true 0x3FFFF#64 0#64 0#64 = false)
  (hn : x.dieset.getLsbD (bits c.w1.toNat 0 4) = true ∧ (s.die (bits c.w1.toNat 0 4)).mode = .run)
include hc hr hn

theorem waveResume_near {s1 : State} {st : Nat} (hk : (if (x.status != .running) = true then ends (s.begun die c) 0x0041
      else match s.haltedAt (cmdCtx c) c.w1 with
        | some t => ends ((s.begun die c).modThread t fun w => { w with halted := false }) 0
        | none => ends (s.begun die c) 0x0041) = (s1, .done st [])) : EndsWith s (.waveResume die c) die s1 st [] := by
  refine h.inContext rfl (by simp [hc]) hr hx hd ((if_neg ?_).trans hk)
  rw [(unitsKept_begun s die c).live, placeDie]
  simp [Die.live, hn]

end

/-- INVALIDATE: the entries of the range leave every TLB, and the command has not ended. -/
theorem invalidate_starts (hc : cmdCode c = 0x06) (hr : cmdReserved c true wholeWord wholeWord 0#64 = false)
    (ha : c.w1.toNat % 65536 = 0) (hb : c.w2.toNat % 65536 = 0) {v : Inval} (hv : v = ⟨cmdCtx c, c.w1, c.w2, s.uid⟩) :
    exec (.invalidate die c) s = .next (State.modDie { s.begun die c with
      dies := (s.begun die c).dies.map fun d => { d with tlb := v.keep d.tlb }
      tlbs := s.tlbs.map fun x => (x.1, v.keep x.2) } die fun d => { d with inval := some v }) := by
  subst hv
  refine h.later (by simp [hc]) rfl ((if_neg (by simp [hr, ha, hb])).trans ?_)
  exact (withCtx_some (s := s.begun die c) hx hd).trans rfl

omit h hx hd in
theorem Inval.mem_keep {v : Inval} {l : List TlbEntry} {e : TlbEntry} (he : e ∈ v.keep l) :
    e ∈ l ∧ ¬ (e.ctx = v.ctx ∧ v.base.toNat < e.vbase + 2 ^ levelBits e.level ∧ e.vbase < v.base.toNat + v.bytes.toNat) := by
  obtain ⟨hl, hm⟩ := List.mem_filter.mp he
  exact ⟨hl, fun ⟨hc, hlo, hhi⟩ => by simp [Inval.meets, hc, hlo, hhi] at hm⟩

/-! ## PREEMPT and RESTORE (19 R310, R313) -/

omit h hx hd in
theorem foldl_modGrid_contexts (f : Grid → Grid) (l : List Nat) (s : State) :
    (l.foldl (fun s g => s.modGrid g f) s).contexts = s.contexts := by
  induction l generalizing s with
  | nil => rfl
  | cons g r ih => exact (ih _).trans (State.modGrid_contexts s g f)

omit h hx hd in
theorem foldl_modGrid_time (f : Grid → Grid) (l : List Nat) (s : State) : (l.foldl (fun s g => s.modGrid g f) s).time = s.time := by
  induction l generalizing s with
  | nil => rfl
  | cons g r ih => exact (ih _).trans (State.modGrid_time s g f)

omit h hx hd in
theorem Grid.stop_twice (g : Grid) : g.stop.stop = g.stop := by
  unfold Grid.stop
  split <;> simp_all

/-- The grids that a PREEMPT of the context on the dies of a mask stops. -/
def State.preempted (s : State) (k : Nat) (m : BitVec 16) : List Nat :=
  (s.grids.filter fun g => g.2.ctx == k && g.2.started && s.groups.any fun p => p.2.grid == g.1 && m.getLsbD p.2.die).map (·.1)

section
variable (hc : cmdCode c = 0x04) (hr : cmdReserved c true 0xFFFF#64 wholeWord wholeWord = false) (ha : c.w2.toNat % 4096 = 0)
include hc hr ha

theorem preempt_busy (hb : s.saveBusy (cmdCtx c) x = true) : EndsWith s (.preempt die c) die (s.begun die c) 0x0046 [] :=
  h.inContext rfl (by simp [hc]) (by simp [hr, ha]) hx hd (if_pos hb)

variable {m : BitVec 16} (hm : c.w1.extractLsb' 0 16 = m) (hb : s.saveBusy (cmdCtx c) x = false)
include hm hb

theorem preempt_dead (hl : s.allLive m = false ∨ m &&& ~~~x.dieset ≠ 0#16) : EndsWith s (.preempt die c) die (s.begun die c) 0x0047 [] := by
  subst hm
  refine h.inContext rfl (by simp [hc]) (by simp [hr, ha]) hx hd ((if_neg (Bool.eq_false_iff.mp hb)).trans (if_pos ?_))
  rw [(unitsKept_begun s die c).allLive]
  rcases hl with hl | hl
  · simp [hl]
  · simp [hl]

variable (hl : s.allLive m = true) (hin : m &&& ~~~x.dieset = 0#16)
include hl hin

omit hc hr ha h hx hd hm hb in
theorem preempt_alive : ¬ (!(s.begun die c).allLive m || m &&& ~~~x.dieset != 0#16) = true := by
  rw [(unitsKept_begun s die c).allLive]
  simp [hl, hin]

theorem preempt_small (hs : c.w3.toNat < s.saveBound (s.preempted (cmdCtx c) m)) :
    EndsWith s (.preempt die c) die (s.begun die c) 0x0041 [BitVec.ofNat 64 (s.saveBound (s.preempted (cmdCtx c) m))] := by
  subst hm
  exact h.inContext rfl (by simp [hc]) (by simp [hr, ha]) hx hd
    ((if_neg (Bool.eq_false_iff.mp hb)).trans ((if_neg (preempt_alive hl hin)).trans (if_pos hs)))

theorem preempt_ends (hs : s.saveBound (s.preempted (cmdCtx c) m) ≤ c.w3.toNat) (ht : s.taken = none) :
    ∃ s1 y, EndsWith s (.preempt die c) die s1 0 [] ∧ s1.context? (cmdCtx c) = some y
      ∧ y.saving = some ⟨c.w2, c.w3.toNat, m, s.preempted (cmdCtx c) m, false, s.time⟩
      ∧ ∀ g z, g ∈ s.preempted (cmdCtx c) m → s.grid? g = some z → s1.grid? g = some z.stop := by
  subst hm
  have untaken : (s.begun die c).returnTaken (cmdCtx c) (c.w1.extractLsb' 0 16) = s.begun die c := by
    rw [State.returnTaken, show (s.begun die c).taken = none from ht]
  let gs := s.preempted (cmdCtx c) (c.w1.extractLsb' 0 16)
  let told := gs.foldl (fun s g => s.modGrid g Grid.stop) (s.begun die c)
  have time : told.time = s.time := foldl_modGrid_time Grid.stop gs (s.begun die c)
  have hctx : told.context? (cmdCtx c) = some x := (congrArg (aget? · (cmdCtx c)) (foldl_modGrid_contexts Grid.stop gs (s.begun die c))).trans hx
  refine ⟨told.setContext (cmdCtx c) { x with saving := some ⟨c.w2, c.w3.toNat, c.w1.extractLsb' 0 16, gs, false, s.time⟩ }, _,
    h.inContext rfl (by simp [hc]) (by simp [hr, ha]) hx hd
      ((if_neg (Bool.eq_false_iff.mp hb)).trans ((if_neg (preempt_alive hl hin)).trans ((if_neg (Nat.not_lt.mpr hs)).trans ?_))),
    aget_aset_same _ _ _, rfl, fun g z hg hz => ?_⟩
  · dsimp only
    rw [untaken]
    refine congrArg (·, Reply.done 0 []) ((modContext_eq hctx _).trans ?_)
    rw [← time]
    rfl
  · exact (foldl_modGrid_grid (s := s.begun die c) Grid.stop_twice gs hz).trans (by rw [if_pos hg])

end

section
variable (hc : cmdCode c = 0x05) (hr : cmdReserved c true wholeWord 0#64 0#64 = false)
include hc hr

theorem restore_busy (hb : s.saveBusy (cmdCtx c) x = true) : EndsWith s (.restore die c) die (s.begun die c) 0x0046 [] :=
  h.inContext rfl (by simp [hc]) hr hx hd (if_pos hb)

theorem restore_queues (hb : s.saveBusy (cmdCtx c) x = false) {y : SaveImage} (hy : aget? s.saves c.w1.toNat = some y) (hk : y.ctx = cmdCtx c) :
    EndsWith s (.restore die c) die (State.setContext { s.begun die c with saves := aset s.saves c.w1.toNat { y with queued := true } }
      (cmdCtx c) { x with restoring := true }) 0 [] := by
  refine h.inContext rfl (by simp [hc]) hr hx hd ((if_neg (Bool.eq_false_iff.mp hb)).trans ?_)
  have hs : aget? (s.begun die c).saves c.w1.toNat = some y := hy
  simp only [hs]
  rw [if_neg (by simp [hk])]
  exact congrArg (·, Reply.done 0 [])
    (modContext_eq (s := { s.begun die c with saves := aset s.saves c.w1.toNat { y with queued := true } }) hx _)

/-- An area that holds no image of the context. -/
theorem restore_none (hb : s.saveBusy (cmdCtx c) x = false) (hy : ∀ y, aget? s.saves c.w1.toNat = some y → y.ctx ≠ cmdCtx c) :
    EndsWith s (.restore die c) die (s.begun die c) 0x0041 [] := by
  refine h.inContext rfl (by simp [hc]) hr hx hd ((if_neg (Bool.eq_false_iff.mp hb)).trans ?_)
  cases hs : aget? (s.begun die c).saves c.w1.toNat with
  | none => rfl
  | some y => exact if_pos (by simpa using hy y hs)

end

end

end Sys2Proof.Machine
end

section
/-! OBLIGATION O51. -/

namespace Sys2Proof.Machine

section
variable {s : State} {die : Nat} {c : Cmd} (h : Accepts s die)
include h

section
variable (hc : cmdCode c = 0x01)
include hc

theorem ctxCreate_unheld (hn : c.w1.toNat % 128 ≠ 0 ∨ s.holdsMemory c.w1.toNat = false) :
    EndsWith s (.ctxCreate die c) die (s.begun die c) 0x0041 [] := by
  have runs : exec (.ctxCreate die c) s = execCtxCreate die c s := rfl
  unfold execCtxCreate at runs
  refine h.endsWith (by simp [hc]) runs (if_pos ?_)
  rcases hn with hn | hn <;> simp [hn]

/-- A record in memory is read once it is reached. -/
theorem ctxCreate_runs (hr : cmdReserved c false wholeWord 0#64 0#64 = false) (ha : c.w1.toNat % 128 = 0) (hm : s.holdsMemory c.w1.toNat = true) :
    (s.opReached die c.w1 = false → exec (.ctxCreate die c) s = .next ((s.begun die c).post die (.command c)))
    ∧ ∀ s1 st, s.opReached die c.w1 = true →
      ((s.begun die c).noteOperand die c.w1 128).createContext (s.cleanBytes c.w1.toNat 128) = (s1, .done st []) →
      EndsWith s (.ctxCreate die c) die s1 st [] := by
  have runs : exec (.ctxCreate die c) s = execCtxCreate die c s := rfl
  unfold execCtxCreate at runs
  have fits : ¬ (cmdReserved c false wholeWord 0#64 0#64 || c.w1.toNat % 128 != 0 || !(s.begun die c).holdsMemory c.w1.toNat) = true := by
    simp [hr, ha, hm]
  refine ⟨fun hn => h.later (by simp [hc]) runs ((if_neg fits).trans ?_), fun s1 st hy hk =>
    h.endsWith (by simp [hc]) runs ((if_neg fits).trans ?_)⟩
  · rw [opReached_begun, hn]
    rfl
  · rw [opReached_begun, hy, ← hk, ← cleanBytes_begun (die := die) (c := c)]
    rfl

end

omit h in
/-- The dies of a record are live in the state that its read leaves. -/
theorem allLive_recDies (bs : List Byte) : ((s.begun die c).noteOperand die c.w1 128).allLive (recDies bs) = true
    ↔ ∀ d, d < 16 → (recWord bs 0).getLsbD (16 + d) = true → (s.die d).mode = .run := by
  rw [((unitsKept_begun s die c).trans (unitsKept_noteOperand _ die c.w1 128)).allLive, allLive_iff]
  exact forall₂_congr fun d hd => by rw [getLsbD_recDies bs hd]

end

section
variable {s : State} {die : Nat} {c : Cmd}

/-- The count block is of the die and the module as they stood before the command. -/
theorem countsAt_found {x : Context} (hx : s.context? (bits c.w2.toNat 0 16) = some x) : ∃ l : List Nat, l.length = 64
    ∧ (s.begun die c).countsAt die c.w1 (bits c.w2.toNat 0 16)
      = ((if c.w1.getLsbD 63 = true then s.begun die c else (s.begun die c).touchPa c.w1.toNat 512).writeAt c.w1 (l.flatMap (leBytes 8)), .done 0 [])
    ∧ (∀ j, j < 14 → l.getD j 0 = tget 0 (s.die die).corrected j ∧ l.getD (14 + j) 0 = tget 0 (s.die die).uncorrected j)
    ∧ (l.drop 40).take 8 = [(s.die die).refused, (s.die die).dropped, s.evSpills, x.pinRel, x.pinRef, (s.die die).sumDropped,
        s.cplDropped, s.peerRefused] := by
  generalize hT : (if c.w1.getLsbD 63 = true then s.begun die c else (s.begun die c).touchPa c.w1.toNat 512) = T
  obtain ⟨len, banks, rest⟩ := countBlock_spec T die x
  have touched : ∃ cs, T = { s.begun die c with contexts := cs } := by
    rw [← hT]
    split
    · exact ⟨_, rfl⟩
    · exact touchPa_rest _ _ _
  have hdie : (T.die die).corrected = (s.die die).corrected ∧ (T.die die).uncorrected = (s.die die).uncorrected
      ∧ (T.die die).refused = (s.die die).refused ∧ (T.die die).dropped = (s.die die).dropped
      ∧ (T.die die).sumDropped = (s.die die).sumDropped := by
    obtain ⟨cs, rfl⟩ := touched
    have : State.die { s.begun die c with contexts := cs } die = (s.begun die c).die die := rfl
    rw [this, State.begun, die_modDie]
    split <;> exact ⟨rfl, rfl, rfl, rfl, rfl⟩
  have hmod : T.evSpills = s.evSpills ∧ T.cplDropped = s.cplDropped ∧ T.peerRefused = s.peerRefused := by
    obtain ⟨cs, rfl⟩ := touched
    exact ⟨rfl, rfl, rfl⟩
  obtain ⟨hco, hun, href, hdr, hsum⟩ := hdie
  obtain ⟨hev, hcpl, hpeer⟩ := hmod
  rw [hco, hun] at banks
  rw [href, hdr, hsum, hev, hcpl, hpeer] at rest
  refine ⟨T.countBlock die x, len, ?_, banks, rest⟩
  unfold State.countsAt
  rw [show (s.begun die c).context? (bits c.w2.toNat 0 16) = some x from hx, ← hT]
  rfl

theorem countsAt_none (hx : s.context? (bits c.w2.toNat 0 16) = none) :
    (s.begun die c).countsAt die c.w1 (bits c.w2.toNat 0 16) = (s.begun die c, .done 0x0043 []) := by
  unfold State.countsAt
  rw [show (s.begun die c).context? (bits c.w2.toNat 0 16) = none from hx]
  rfl

theorem tlb_inval (v : Inval) (hdie : die < s.dies.length) :
    let s' := State.modDie { s.begun die c with
      dies := (s.begun die c).dies.map fun d => { d with tlb := v.keep d.tlb }
      tlbs := s.tlbs.map fun x => (x.1, v.keep x.2) } die fun d => { d with inval := some v }
    (s'.die die).busy = true ∧ (s'.die die).inval = some v ∧ ∀ d, (s'.die d).tlb = v.keep (s.die d).tlb := by
  have mapped (l : List Die) (d : Nat) : (l.map fun x => { x with tlb := v.keep x.tlb }).getD d Die.reset
      = { l.getD d Die.reset with tlb := v.keep (l.getD d Die.reset).tlb } := by
    simp only [List.getD_eq_getElem?_getD, List.getElem?_map]
    cases l[d]? <;> rfl
  have begun : (s.begun die c).die die = { s.die die with cmdbuf := c, busy := true } := by
    rw [State.begun, die_modDie, if_pos ⟨rfl, hdie⟩]
  have len : die < ((s.begun die c).dies.map fun d => { d with tlb := v.keep d.tlb }).length := by
    simpa [State.begun] using hdie
  refine ⟨?_, ?_, fun d => ?_⟩
  · rw [die_modDie, if_pos ⟨rfl, len⟩]
    exact (congrArg Die.busy (mapped _ _)).trans (congrArg Die.busy begun)
  · rw [die_modDie, if_pos ⟨rfl, len⟩]
  · rw [die_modDie]
    have same : ((s.begun die c).die d).tlb = (s.die d).tlb := ((unitsKept_begun s die c).unit d).tlb
    split
    next hd =>
      obtain ⟨rfl, -⟩ := hd
      exact (congrArg Die.tlb (mapped _ _)).trans (congrArg v.keep same)
    · exact (congrArg Die.tlb (mapped _ _)).trans (congrArg v.keep same)

end

/-- Settles O51: each command's outcomes are those of its lemma above, under the checks that a command passes first. -/
theorem contextCommands : Obligations.ContextCommands := by
  unfold Obligations.ContextCommands
  intro s die c h s0 k ends
  refine ⟨fun hc hr => ?create, fun hc hr ha hm => ?counts, fun hn hc hr => ?unknown, fun x hx hd =>
    ⟨fun hc hr => ?destroy, fun hc hr hn ha => queueSet_ends h hx hd hc hr hn ha,
      fun hc hr => ⟨waveResume_far h hx hd hc hr, fun hn hw => ?unhalted, fun t w hn hrun ht hw => ?resume⟩, fun hc hr ha hb => ?inval,
      fun hc hr ha => ?preempt, fun hc hr => ?restore⟩⟩
  case destroy => exact ⟨ctxDestroy_begun h hx hd hc hr, ctxDestroy_ends h hx hd hc hr⟩
  case preempt =>
    exact ⟨preempt_busy h hx hd hc hr ha, fun hb hl => preempt_dead h hx hd hc hr ha rfl hb hl, fun hb hl hin =>
      ⟨preempt_small h hx hd hc hr ha rfl hb hl hin, fun hs ht => preempt_ends h hx hd hc hr ha rfl hb hl hin hs ht⟩⟩
  case restore =>
    exact ⟨restore_busy h hx hd hc hr, fun hb =>
      ⟨fun y hy hk => restore_queues h hx hd hc hr hb hy hk, restore_none h hx hd hc hr hb⟩⟩
  case create =>
    refine ⟨ctxCreate_unheld h hc, fun ha hm => (ctxCreate_runs h hc hr ha hm).1, fun ha hm hy => ?_⟩
    have ends1 := fun s1 st => (ctxCreate_runs h hc hr ha hm).2 s1 st hy
    obtain ⟨hbad, hok⟩ := createContext_eq (s0.noteOperand die c.w1 128) (s.cleanBytes c.w1.toNat 128) _ rfl
    obtain ⟨hctx, hown⟩ := noteOperand_owners s0 die c.w1 128
    rw [hctx, hown] at hok
    refine ⟨fun hb => ends1 _ _ (hbad hb), fun ho ht => ends1 _ _ ((hok ho).1 ht), fun ho ht hl => ends1 _ _ (((hok ho).2 ht).1 ?dead),
      fun ho ht hl => ⟨contextOf (s.cleanBytes c.w1.toNat 128) (s0.noteOperand die c.w1 128).time, ends1 _ _ ?alive, recDies_eq _, ?fields⟩⟩
    case dead => exact Bool.eq_false_iff.mpr fun hy => hl ((allLive_recDies _).mp hy)
    case alive =>
      have noted := noteOperand_noted s0 die c.w1 128
      rw [((hok ho).2 ht).2 ((allLive_recDies _).mpr hl), noted.events, noted.evSpill]
      rfl
    case fields => exact ⟨rfl, rfl, rfl, rfl, rfl, rfl, rfl, rfl, rfl, rfl, rfl, rfl⟩
  case counts =>
    obtain ⟨hlater, hdone⟩ := countsRead_runs h hc hr ha hm
    refine ⟨hlater, fun hy hn => hdone _ _ hy (countsAt_none hn), fun x hy hx => ?_⟩
    obtain ⟨l, hlen, hk, hbanks, hrest⟩ := countsAt_found (die := die) hx
    exact ⟨l, hlen, hdone _ _ hy hk, hbanks, hrest⟩
  case unknown =>
    refine h.endsWith (by simp [hc]) (f := fun s => if cmdReserved c true 0#64 0#64 0#64 then Machine.ends s 0x0041 else _) rfl ?_
    rw [if_neg (by simp [hr])]
    exact withCtx_none (s := s0) hn
  case unhalted =>
    refine waveResume_near h hx hd hc hr hn ?_
    by_cases hs : x.status = .running
    · have hw : s0.haltedAt (cmdCtx c) c.w1 = none := hw.resolve_left (not_not_intro hs)
      have hw' : s.haltedAt (cmdCtx c) c.w1 = none := hw
      rw [if_neg (by simp [hs]), hw']
      rfl
    · rw [if_pos (by simpa using hs)]
      rfl
  case resume =>
    refine waveResume_near h hx hd hc hr hn ?_
    have ht' : s.haltedAt (cmdCtx c) c.w1 = some t := ht
    rw [if_neg (by simp [hrun]), ht']
    refine congrArg (·, Reply.done 0 []) ?_
    rw [State.modThread, show (s.begun die c).thread? t = some w from hw]
  case inval =>
    obtain ⟨hbusy, hinv, htlb⟩ := tlb_inval (c := c) ⟨k, c.w1, c.w2, s.uid⟩ h.there
    refine ⟨_, invalidate_starts h hx hd hc hr ha hb rfl, rfl, hbusy, hinv, fun d e he => ?_, fun n l' hl => ?_⟩
    · rw [htlb d] at he
      exact Inval.mem_keep he
    · have hmap := aget?_map (fun _ l => Inval.keep ⟨k, c.w1, c.w2, s.uid⟩ l) s.tlbs n
      obtain ⟨l, hs, rfl⟩ := Option.map_eq_some_iff.mp (hmap.symm.trans hl)
      exact ⟨l, hs, fun e he => Inval.mem_keep he⟩

end Sys2Proof.Machine
end

section
/-! SUPPORT (22 R338 to R341). The lines of peers: how they arrive, and how they are applied. -/

namespace Sys2Proof.Machine

variable {s : State}

/-- A line that is refused leaves the lines that have arrived, but for its own transfer's, and is counted. -/
theorem peers_noteInbox (s : State) (o : Nat) : (s.noteInbox o).peersIn = s.peersIn ∧ (s.noteInbox o).peerRefused = s.peerRefused := by
  unfold State.noteInbox
  split
  · split
    · exact ⟨rfl, rfl⟩
    · split
      · exact ⟨rfl, rfl⟩
      · exact (Noted.of_stored (stored_noteWalks s _ _ _ _)).peers
  · exact ⟨rfl, rfl⟩

section
variable {f : Nat} {o : BitVec 44} {d : PeerData}

theorem peerLine_shut (h : (s.flue f).peerUp = false ∨ s.flueRuns f = false ∨ d.bytes.length ≠ 128) :
    exec (.peerLineArrives f o d) s = .next s := by
  have runs : exec (.peerLineArrives f o d) s = execPeerLineArrives f o d s := rfl
  rw [runs, execPeerLineArrives, if_pos]
  rcases h with h | h | h <;> simp [h]

section
variable (hp : (s.flue f).peerUp = true) (hr : s.flueRuns f = true) (hb : d.bytes.length = 128)
include hp hr hb

theorem peerLine_placed {c : Nat} {va leaf : DWord} {pa : Nat} (hi : s.inboxPlace o.toNat = some (c, va, pa, leaf)) :
    exec (.peerLineArrives f o d) s = .next (if s.circuitUp f (homeFlue pa) = true then { s with
      peersIn := closeTransfer d (s.peersIn ++ [⟨c, va.toNat, pa, leaf.getLsbD 61, d.bytes, d.transfer, false⟩]) } else s) := by
  have runs : exec (.peerLineArrives f o d) s = execPeerLineArrives f o d s := rfl
  rw [runs, execPeerLineArrives, if_neg (by simp [hp, hr, hb]), hi]
  dsimp only
  split <;> rfl

theorem peerLine_refused (hi : s.inboxPlace o.toNat = none) : ∃ s', exec (.peerLineArrives f o d) s = .next s'
    ∧ s'.peerRefused = s.peerRefused + 1 ∧ s'.peersIn = closeTransfer d s.peersIn := by
  have runs : exec (.peerLineArrives f o d) s = execPeerLineArrives f o d s := rfl
  rw [runs, execPeerLineArrives, if_neg (by simp [hp, hr, hb]), hi]
  obtain ⟨hin, hno⟩ := peers_noteInbox s o.toNat
  let s1 := { s.noteInbox o.toNat with
    peersIn := closeTransfer d (s.noteInbox o.toNat).peersIn, peerRefused := (s.noteInbox o.toNat).peerRefused + 1 }
  obtain ⟨hin', hno'⟩ := (Noted.of_stored (stored_errRec s1 s1.lowestLive 0x10 4 (o.setWidth 64) 0#32 0 1 0)).peers
  exact ⟨_, rfl, hno'.trans (congrArg (· + 1) hno), hin'.trans (congrArg (closeTransfer d) hin)⟩

end

end

/-! ## Committed bytes, where no word is marked -/

/-- No word is marked, and the links and the memory are those of another state. -/
structure Unmarked (s s' : State) : Prop where
  badMem : s'.badMem = []
  badL3 : s'.badL3 = []
  ports : s'.ports = s.ports

namespace Unmarked

variable {a b c : State}

theorem trans (h : Unmarked a b) (k : Unmarked b c) : Unmarked a c := ⟨k.badMem, k.badL3, k.ports.trans h.ports⟩

theorem linkDown (h : Unmarked a b) (pa : Nat) : b.linkDown pa = a.linkDown pa := by
  simp only [State.linkDown, h.ports]

theorem holdsMemory (h : Unmarked a b) (pa : Nat) : b.holdsMemory pa = a.holdsMemory pa := by
  simp only [State.holdsMemory, h.ports]

end Unmarked

section
variable (hm : s.badMem = []) (hl : s.badL3 = [])
include hm hl

theorem unmarked_writeBytes (pa : Nat) (bs : List Byte) : Unmarked s (s.writeBytes pa bs) := by
  obtain ⟨m, h⟩ := writeBytes_rest bs s pa
  rw [h]
  exact ⟨hm, hl, rfl⟩

theorem commitByte_unmarked (pa : Nat) (b : Byte) : s.commitByte pa b = s.writeByte pa b := by
  rw [State.commitByte, if_neg (by simp [State.wordMarked, hm, hl])]

end

theorem foldl_commitByte (pa : Nat) (bs : List Byte) : ∀ (s : State) (k : Nat), s.badMem = [] → s.badL3 = [] →
    ((List.range' k bs.length).zip bs).foldl (fun s x => s.commitByte (pa + x.1) x.2) s = s.writeBytes (pa + k) bs := by
  induction bs with
  | nil => intro s k _ _; rfl
  | cons b r ih =>
    intro s k hm hl
    obtain ⟨m, hw⟩ := writeByte_rest s (pa + k) b
    rw [List.length_cons, List.range'_succ, List.zip_cons_cons, List.foldl_cons, commitByte_unmarked hm hl,
      ih _ _ (by rw [hw]; exact hm) (by rw [hw]; exact hl)]
    rfl

theorem commitBytes_unmarked (hm : s.badMem = []) (hl : s.badL3 = []) (pa : Nat) (bs : List Byte) :
    s.commitBytes pa bs = s.writeBytes pa bs := by
  rw [State.commitBytes, List.range_eq_range', foldl_commitByte pa bs s 0 hm hl, Nat.add_zero]

/-- A line that is applied is a write of its bytes. -/
theorem applyPeer_unmarked (hm : s.badMem = []) (hl : s.badL3 = []) {l : PeerLine} (hu : s.linkDown l.pa = false) :
    Unmarked s (s.applyPeer l) ∧ ∀ a, (s.applyPeer l).readByte a =
      if l.pa ≤ a ∧ a < l.pa + l.data.length ∧ s.holdsMemory a = true then l.data.getD (a - l.pa) 0#8 else s.readByte a := by
  obtain ⟨k, hk⟩ := touchPa_rest s l.pa 128
  let t := { s with contexts := k }
  have committed : t.commitLines l.pa l.data = (t.writeBytes l.pa l.data).noticeLines (linesIn l.pa l.data.length) := by
    rw [State.commitLines, commitBytes_unmarked (s := t) hm hl l.pa l.data]
  have written := unmarked_writeBytes (s := t) hm hl l.pa l.data
  have whole : Unmarked s (t.commitLines l.pa l.data) ∧ ∀ a, (t.commitLines l.pa l.data).readByte a =
      if l.pa ≤ a ∧ a < l.pa + l.data.length ∧ s.holdsMemory a = true then l.data.getD (a - l.pa) 0#8 else s.readByte a := by
    rw [committed]
    exact ⟨⟨written.badMem, written.badL3, written.ports⟩, read_after_writeBytes l.data t l.pa⟩
  unfold State.applyPeer
  rw [if_neg (by simp [hu]), hk]
  dsimp only
  split
  · split
    · exact ⟨⟨whole.1.badMem, whole.1.badL3, whole.1.ports⟩, whole.2⟩
    · exact whole
  · exact whole

/-- The lines of a context give memory their bytes in the order of their arrival. -/
theorem foldl_applyPeer_read (a : Nat) (ls : List PeerLine) : ∀ s : State, s.badMem = [] → s.badL3 = [] →
    (∀ l ∈ ls, l.data.length = 128 ∧ s.linkDown l.pa = false) → (ls.foldl (fun s l => s.applyPeer l) s).readByte a
      = ls.foldl (fun b l => if l.pa ≤ a ∧ a < l.pa + 128 ∧ s.holdsMemory a = true then l.data.getD (a - l.pa) 0#8 else b) (s.readByte a) := by
  induction ls with
  | nil => intro s _ _ _; rfl
  | cons l r ih =>
    intro s hm hl hall
    obtain ⟨hlen, hup⟩ := hall l List.mem_cons_self
    obtain ⟨hun, hread⟩ := applyPeer_unmarked hm hl hup
    rw [List.foldl_cons, ih _ hun.badMem hun.badL3 fun x hx => ?rest, hread, hlen, hun.holdsMemory]
    · rfl
    case rest =>
      rw [hun.linkDown]
      exact hall x (List.mem_cons_of_mem l hx)

theorem applyPeers_none {c : Nat} (h : ∀ l ∈ s.peersIn, l.ctx = c → l.whole = false) : s.applyPeers c = s := by
  have none : s.arrivedLines c = [] := List.filter_eq_nil_iff.mpr fun l hl hy => by
    obtain ⟨hc, hw⟩ := (Bool.and_eq_true _ _).mp hy
    rw [h l hl (beq_iff_eq.mp hc)] at hw
    cases hw
  unfold State.applyPeers
  rw [none]
  rfl

theorem arrived_iff (l : PeerLine) (c : Nat) : (l.ctx == c && l.whole) = decide (l.ctx = c ∧ l.whole = true) := by
  rw [Bool.eq_iff_iff]
  simp

theorem arrivedLines_eq (s : State) (c : Nat) : s.arrivedLines c = s.peersIn.filter fun l => decide (l.ctx = c ∧ l.whole = true) :=
  congrArg (s.peersIn.filter ·) (funext fun l => arrived_iff l c)

theorem applyPeers_peersIn (s : State) (c : Nat) :
    (s.applyPeers c).peersIn = s.peersIn.filter fun l => decide (¬ (l.ctx = c ∧ l.whole = true)) := by
  unfold State.applyPeers
  simp only [arrived_iff, ← decide_not]
  split
  next h =>
    refine (List.filter_eq_self.mpr fun l hl => ?_).symm
    rw [arrivedLines_eq, List.isEmpty_iff, List.filter_eq_nil_iff] at h
    exact decide_eq_true fun hp => h l hl (decide_eq_true hp)
  · rfl

theorem applyPeers_read (hm : s.badMem = []) (hl : s.badL3 = []) {c : Nat} {ls : List PeerLine}
    (hls : s.peersIn.filter (fun l => decide (l.ctx = c ∧ l.whole = true)) = ls)
    (hall : ∀ l ∈ ls, l.data.length = 128 ∧ s.linkDown l.pa = false) (a : Nat) : (s.applyPeers c).readByte a
      = ls.foldl (fun b l => if l.pa ≤ a ∧ a < l.pa + 128 ∧ s.holdsMemory a = true then l.data.getD (a - l.pa) 0#8 else b) (s.readByte a) := by
  have arrived : s.arrivedLines c = ls := (arrivedLines_eq s c).trans hls
  unfold State.applyPeers
  rw [arrived]
  dsimp only
  split
  next h => rw [List.isEmpty_iff.mp h]; rfl
  · exact foldl_applyPeer_read a ls s hm hl hall

end Sys2Proof.Machine
end

section
/-! SUPPORT (07 R126, 19 R318, 22 R335, R342). A load that times out, a page walk, and a pin that fades. -/

namespace Sys2Proof.Machine

variable {s : State}

/-! ## CXL_TIMEOUT of a load -/

section
variable {w : Thread} (o : Op) (l : List Far)

/-- What a load that times out makes of its thread. -/
def Thread.timedOut (w : Thread) (o : Op) (l : List Far) : Thread :=
  (w.cutOp o l).owe (timeoutOwes l (maskOf ((l.filter (·.strict)).map (·.lane)))) (.flag o.flag)

theorem timedOut_owed (hv : w.badV = []) : (w.timedOut o l).owed
    = w.owed ++ (timeoutOwes l (maskOf ((l.filter (·.strict)).map (·.lane)))).map fun i => ⟨i, .flag o.flag⟩ := by
  have cut : (w.cutOp o l).owed = w.owed := by
    unfold Thread.cutOp
    split
    · rw [setWords_eq w _ hv]
      rfl
    · rfl
    · rfl
  rw [Thread.timedOut, Thread.owe, cut]

theorem timeoutOwes_lax (h : ∀ x ∈ l, x.strict = false) (m : Mask) : timeoutOwes l m = [] := by
  have none : l.filter (·.strict) = [] := List.filter_eq_nil_iff.mpr fun x hx => by simp [h x hx]
  simp [timeoutOwes, none]

theorem timeoutOwes_strict {x : Far} (h : x.strict = true) :
    timeoutOwes [x] (maskOf (([x].filter (·.strict)).map (·.lane))) = [⟨.memerr, x.addr, maskOf [x.lane]⟩] := by
  simp [timeoutOwes, h, lowestAddr]

theorem timedOut_loadS {d : Nat} {v : DWord} (hk : o.kind = .loadS d v) (hs : w.badS = []) :
    (w.timedOut o l).ops = (w.ops.filter fun x => decide (x.uid ≠ o.uid))
    ∧ ∀ r, (w.timedOut o l).sreg r = if r = d then 0#64 else w.sreg r := by
  have cut : w.cutOp o l = (w.setS d 0#64).finish o := by rw [Thread.cutOp, hk]
  rw [Thread.timedOut, cut]
  exact ⟨rfl, fun r => sreg_setS w hs d 0#64 r⟩

theorem timedOut_load {k : Nat} {v : Word} (hk : o.kind = .load [(k, v)]) (hv : w.badV = []) :
    (w.timedOut o l).ops = (w.ops.filter fun x => decide (x.uid ≠ o.uid))
    ∧ ∀ r n, (w.timedOut o l).vreg r n = if vix r n = k then (if l.any fun f => f.lane == k % 128 then 0#32 else v) else w.vreg r n := by
  let y := if l.any fun f => f.lane == k % 128 then 0#32 else v
  have word : (if l.any fun f => f.lane == k % 128 then (k, 0#32) else (k, v)) = (k, y) := by
    dsimp only [y]
    split <;> rfl
  have cut : w.cutOp o l = (w.setWords [(k, y)]).finish o := by
    rw [Thread.cutOp, hk, ← word]
    rfl
  rw [Thread.timedOut, cut]
  refine ⟨?_, fun r n => ?_⟩
  · rw [setWords_eq w _ hv]
    rfl
  · refine (setWords_vreg w [(k, y)] hv r n).trans ?_
    by_cases h : vix r n = k
    · rw [if_pos h]
      simp [lastTo, h, y]
    · rw [if_neg h]
      simp [lastTo, Ne.symm h]

end

theorem cxlTimeout_runs {t : Nat} {w : Thread} {o : Op} (ht : s.thread? t = some w) (ho : (w.ops.find? fun x => x.uid == o.uid) = some o) :
    (s.cxlLate w.die o.since o.far = [] → exec (.cxlTimeout t o.uid) s = .next s)
    ∧ (s.cxlLate w.die o.since o.far ≠ [] → ∃ s', exec (.cxlTimeout t o.uid) s = .next s'
      ∧ s'.thread? t = some (w.timedOut o (s.cxlLate w.die o.since o.far))) := by
  have runs : exec (.cxlTimeout t o.uid) s = .next (s.timeoutLoad t w o) := by
    show execCxlTimeout t o.uid s = _
    unfold execCxlTimeout
    rw [ht]
    dsimp only
    rw [ho]
  rw [runs, State.timeoutLoad]
  refine ⟨fun h => by rw [if_pos (List.isEmpty_iff.mpr h)], fun h => ⟨_, rfl, ?_⟩⟩
  rw [if_neg (mt List.isEmpty_iff.mp h)]
  exact setThread_thread_same _ t _

/-! ## PAGE_WALK -/

/-- A walk that ends at a page has found its leaf, by which it translates. -/
theorem walk_leaf {va pa : Nat} {leaf : DWord} {lv : Nat} (fuel : Nat) : ∀ table level : Nat,
    s.walk va table level fuel = (.ok pa leaf, lv, leaf) → s.leafXlat va lv leaf = .ok pa leaf := by
  induction fuel with
  | zero =>
    intro table level h
    simp [State.walk] at h
  | succ n ih =>
    intro table level h
    simp only [State.walk] at h
    split at h
    · simp at h
    split at h
    · simp at h
    split at h
    · split at h
      · simp at h
      split at h
      · simp at h
      · simp only [Prod.mk.injEq] at h
        obtain ⟨hx, rfl, rfl⟩ := h
        exact hx
    split at h
    · simp at h
    split at h
    · simp at h
    split at h
    · simp at h
    · exact ih _ _ h

theorem die_putLast {die : Nat} (h : die < s.dies.length) (e : TlbEntry) :
    ((s.putLast die e).die die).tlb = tlbPut 12288 (s.die die).tlb e := by
  simp [State.putLast, State.die, List.getD_eq_getElem?_getD, h]

theorem tlbPut_short {n : Nat} {l : List TlbEntry} (h : l.length < n) (e : TlbEntry) : tlbPut n l e = l ++ [e] := by
  rw [tlbPut, Nat.sub_eq_zero_of_le (by omega), List.drop_zero]

/-- The entry that a walk fills stands for the translation that the walk has found. -/
theorem translate_putLast {die c : Nat} {va : DWord} {x : Context} {leaf : DWord} {lv pa : Nat} (hx : s.context? c = some x)
    (hva : va.toNat < 2 ^ 52) (hd : die < s.dies.length) (h16 : die < 16) (hlen : (s.die die).tlb.length < 12288)
    (hmiss : ((s.die die).tlb.any fun e => e.covers c va.toNat) = false) (hw : s.walk va.toNat x.root.toNat 0 4 = (.ok pa leaf, lv, leaf))
    {e : TlbEntry} (he : e.covers c va.toNat = true) (hlv : e.level = lv) (hleaf : e.leaf = leaf) :
    (s.putLast die e).translate die c va = s.translate die c va := by
  have miss : (s.die die).tlb.find? (·.covers c va.toNat) = none := List.find?_eq_none.mpr (List.any_eq_false.mp hmiss)
  have found : ((s.putLast die e).die (die % 16)).tlb.find? (·.covers c va.toNat) = some e := by
    rw [Nat.mod_eq_of_lt h16, die_putLast hd, tlbPut_short hlen, List.find?_append, miss]
    simp [he]
  have first : (s.putLast die e).tlbs = s.tlbs := rfl
  unfold State.translate State.tlbHit
  rw [found, Nat.mod_eq_of_lt h16, miss, first, if_neg (Nat.not_le.mpr hva), if_neg (Nat.not_le.mpr hva)]
  cases ((aget? s.tlbs die).getD []).find? (·.covers c va.toNat) with
  | some y => rfl
  | none =>
    subst hlv hleaf
    show s.leafXlat va.toNat e.level e.leaf = match s.context? c with
      | some x => (s.walk va.toNat x.root.toNat 0 4).1
      | none => .page
    rw [hx]
    exact (walk_leaf 4 _ 0 hw).trans (congrArg Prod.fst hw).symm

theorem pageWalk_fills {die c : Nat} {va : DWord} {x : Context} {leaf : DWord} {lv pa : Nat} (hx : s.context? c = some x)
    (hva : va.toNat < 2 ^ 52) (hd : die < s.dies.length) (h16 : die < 16) (hlen : (s.die die).tlb.length < 12288)
    (hmiss : ((s.die die).tlb.any fun e => e.covers c va.toNat) = false)
    (hw : s.walk va.toNat x.root.toNat 0 4 = (.ok pa leaf, lv, leaf)) : ∃ s' e, exec (.pageWalk die c va) s = .next s'
      ∧ (s'.die die).tlb = (s.die die).tlb ++ [e] ∧ e.covers c va.toNat = true ∧ e.leaf = leaf ∧ e.level = lv
      ∧ s'.mem = s.mem ∧ s'.translate die c va = s.translate die c va := by
  let e : TlbEntry := { ctx := c, level := lv, vbase := va.toNat / 2 ^ levelBits lv * 2 ^ levelBits lv, leaf := leaf }
  have he : e.covers c va.toNat = true := by simp [TlbEntry.covers, e]
  have runs : exec (.pageWalk die c va) s = .next (s.putLast die e) := by
    show execPageWalk die c va s = _
    unfold execPageWalk
    rw [hx]
    dsimp only
    rw [if_neg (not_or.mpr ⟨Nat.not_le.mpr hva, Bool.eq_false_iff.mp hmiss⟩), hw]
  exact ⟨_, e, runs, (die_putLast hd e).trans (tlbPut_short hlen e), he, rfl, rfl, rfl, translate_putLast hx hva hd h16 hlen hmiss hw he rfl rfl⟩

/-! ## PIN_FADE_PERIOD -/

theorem msPassed_iff (since : DWord) : s.msPassed since 1 = true ↔ 1000000 ≤ s.time.toNat - since.toNat := by
  simp [State.msPassed]

/-- A context at the end of a period of one of its pins. -/
def Context.faded (x : Context) (n : Nat) (p : Pin) : Context :=
  match p.fadeOnce with
  | some p => { x with pins := aset x.pins n p }
  | none => { x with pins := adel x.pins n, pinRel := x.pinRel + 1 }

section
variable {x : Context} {n : Nat} {p : Pin}

theorem faded_touched (ht : p.touched = true) :
    x.faded n p = { x with pins := aset x.pins n { { p with since := p.since + 1000000#64 } with count := p.fade, touched := false } } := by
  simp [Context.faded, Pin.fadeOnce, ht]

theorem faded_lower (ht : p.touched = false) (hc : 1 < p.count) :
    x.faded n p = { x with pins := aset x.pins n { { p with since := p.since + 1000000#64 } with count := p.count - 1 } } := by
  simp [Context.faded, Pin.fadeOnce, ht, Nat.not_le.mpr hc]

theorem faded_released (ht : p.touched = false) (hc : p.count ≤ 1) :
    x.faded n p = { x with pins := adel x.pins n, pinRel := x.pinRel + 1 } := by
  simp [Context.faded, Pin.fadeOnce, ht, hc]

theorem faded_isNone : (aget? (x.faded n p).pins n).isNone = p.fadeOnce.isNone := by
  unfold Context.faded
  cases p.fadeOnce with
  | none => exact congrArg Option.isNone (aget_adel_same x.pins n)
  | some q => exact congrArg Option.isNone (aget_aset_same x.pins n q)

end

theorem pinFadePeriod_runs {c n : Nat} {x : Context} {p : Pin} (hx : s.context? c = some x) (hp : aget? x.pins n = some p) {y : Context}
    (hy : y = if s.msPassed p.since 1 = true then x.faded n p else x) : exec (.pinFadePeriod c n) s = .next
      (if (aget? y.pins n).isNone = true then (s.setContext c y).unpinPages (fun a k => a == c && k == n) else s.setContext c y) := by
  have gone : (aget? y.pins n).isNone = (s.msPassed p.since 1 && p.fadeOnce.isNone) := by
    rw [hy]
    cases s.msPassed p.since 1 with
    | true => exact faded_isNone
    | false => exact congrArg Option.isNone hp
  show execPinFadePeriod c n s = _
  unfold execPinFadePeriod
  simp only [modContext_eq hx, hx, hp, Option.bind_some, Option.any_some]
  rw [gone, hy]
  cases s.msPassed p.since 1 <;> rfl

end Sys2Proof.Machine
end

section
/-! SUPPORT (24 R357 to R359). The banks of a stack: a request is served at rank 0 of the row buffers, or answered RETRY with a hint. -/

namespace Sys2Proof.Machine

namespace Stack

variable (x : Stack) (b : Nat)

@[simp] theorem bank_setBank (y : Bank) : (x.setBank b y).bank b = y := by
  simp [Stack.bank, Stack.setBank]

theorem bank_setBank_of_ne {c : Nat} (h : c ≠ b) (y : Bank) : (x.setBank b y).bank c = x.bank c := by
  rw [Stack.bank, Stack.setBank, aget_aset_ne x.banks y h, Stack.bank]

theorem waiting_setBank {y : Bank} {l : List Retry} (h : y.waiting = l) : ((x.setBank b y).bank b).waiting = l := by
  rw [bank_setBank, h]

/-- A precharge changes of its bank the counter of the row alone. -/
theorem precharge_keeps (row act : Nat) : (x.precharge b row act).retries = x.retries
    ∧ ((x.precharge b row act).bank b).waiting = (x.bank b).waiting
    ∧ ∀ c, c ≠ b → (x.precharge b row act).bank c = x.bank c := by
  unfold Stack.precharge
  dsimp only
  split
  · exact ⟨rfl, waiting_setBank x b rfl, fun c h => bank_setBank_of_ne x b h _⟩
  · split
    · exact ⟨rfl, waiting_setBank x b rfl, fun c h => bank_setBank_of_ne x b h _⟩
    · exact ⟨rfl, rfl, fun _ _ => rfl⟩

/-- A row that a bank holds at rank 0 of its buffers. -/
def Serves (row : Nat) : Prop := ∃ r ∈ (x.bank b).bufs, r.row = row ∧ r.rank = 0

theorem serves_touchBuf {l : List RowBuf} {row : Nat} (h : l.any (fun r => r.row == row) = true) (write : Bool) :
    ∃ r ∈ touchBuf l row write, r.row = row ∧ r.rank = 0 := by
  obtain ⟨r, hr, hrow⟩ := List.any_eq_true.mp h
  refine ⟨{ r with rank := 0, dirty := r.dirty || write }, List.mem_map.mpr ⟨r, hr, ?_⟩, beq_iff_eq.mp hrow, rfl⟩
  rw [if_pos (beq_iff_eq.mp hrow)]

/-- A bank that has taken a row into its buffers at rank 0. -/
theorem setBank_serves (z : Stack) {y : Bank} {row : Nat} (hr : z.retries = x.retries) (hw : y.waiting = (x.bank b).waiting)
    (hs : ∃ r ∈ y.bufs, r.row = row ∧ r.rank = 0) : (z.setBank b y).retries = x.retries
    ∧ ((z.setBank b y).bank b).waiting = (x.bank b).waiting ∧ (z.setBank b y).Serves b row := by
  refine ⟨hr, waiting_setBank z b hw, ?_⟩
  rwa [Serves, bank_setBank]

theorem serve_outcome (row : Nat) (write : Bool) (act : Nat) : (x.serve b row write act).retries = x.retries
    ∧ ((x.serve b row write act).bank b).waiting = (x.bank b).waiting ∧ (x.serve b row write act).Serves b row := by
  have newest (l : List RowBuf) : ∃ r ∈ l ++ [⟨row, write, 0⟩], r.row = row ∧ r.rank = 0 := ⟨⟨row, write, 0⟩, by simp, rfl, rfl⟩
  unfold Stack.serve
  dsimp only
  split
  next h => exact setBank_serves x b x rfl rfl (serves_touchBuf h write)
  next h =>
    split
    next v _ =>
      obtain ⟨hr, hw, -⟩ := precharge_keeps x b v.row act
      exact setBank_serves x b _ hr hw (newest _)
    · exact setBank_serves x b x rfl rfl (newest _)

/-! ## The flush of a stack -/

theorem foldl_precharge_other (act : Nat) {c : Nat} (h : c ≠ b) (l : List RowBuf) : ∀ x : Stack,
    (l.foldl (fun x r => x.precharge b r.row act) x).bank c = x.bank c := by
  induction l with
  | nil => exact fun _ => rfl
  | cons r l ih => exact fun x => (ih _).trans ((precharge_keeps x b r.row act).2.2 c h)

/-- One bank's part of a flush. -/
def flushBank (act : Nat) (x : Stack) (b : Nat) : Stack :=
  let x := (x.bank b).bufs.foldl (fun x r => x.precharge b r.row act) x
  x.setBank b { x.bank b with bufs := [] }

theorem flush_eq (act : Nat) : x.flush act = (x.banks.map (·.1)).foldl (flushBank act) x := rfl

theorem flushBank_bufs (act : Nat) {c : Nat} (h : c = b ∨ (x.bank c).bufs = []) : ((x.flushBank act b).bank c).bufs = [] := by
  unfold flushBank
  by_cases hc : c = b
  · rw [hc, bank_setBank]
  · rw [bank_setBank_of_ne _ b hc, foldl_precharge_other b act hc]
    exact h.resolve_left hc

theorem foldl_flushBank_bufs (act : Nat) {c : Nat} (l : List Nat) : ∀ x : Stack, (c ∈ l ∨ (x.bank c).bufs = []) →
    ((l.foldl (flushBank act) x).bank c).bufs = [] := by
  induction l with
  | nil => exact fun x h => h.resolve_left List.not_mem_nil
  | cons b l ih =>
    intro x h
    refine ih _ ?_
    rcases h with h | h
    · rcases List.mem_cons.mp h with h | h
      · exact .inr (flushBank_bufs x b act (.inl h))
      · exact .inl h
    · exact .inr (flushBank_bufs x b act (.inr h))

/-- A flush leaves no row in a buffer: a bank that the stack does not name holds none. -/
theorem flush_bufs (act c : Nat) : ((x.flush act).bank c).bufs = [] := by
  rw [flush_eq]
  refine foldl_flushBank_bufs act _ x ?_
  cases h : aget? x.banks c with
  | none =>
    right
    rw [Stack.bank, h]
    rfl
  | some y => exact .inl (List.mem_map.mpr ⟨_, mem_of_aget h, rfl⟩)

end Stack

theorem hint_bounds (y : Bank) (free : Nat) : 1 ≤ y.hint free ∧ y.hint free ≤ 1000
    ∧ ∀ h l, y.hints = h :: l → 1 ≤ h → h ≤ 1000 → y.hint free = h := by
  unfold Bank.hint
  refine ⟨?_, ?_, fun h l hl lo hi => ?_⟩
  · split
    · split <;> omega
    · omega
  · split
    · split <;> omega
    · omega
  · rw [hl]
    exact if_pos ⟨lo, hi⟩

section
variable {s : State} {k b : Nat}

/-- TIME at which a bank's RETRY has the request issued again. -/
theorem retryDue_hinted (y : Bank) : ∃ n, 1 ≤ n ∧ n ≤ 1000 ∧ s.retryDue k b y = s.time + BitVec.ofNat 64 n
    ∧ ∀ h l, y.hints = h :: l → 1 ≤ h → h ≤ 1000 → n = h := by
  obtain ⟨lo, hi, named⟩ := hint_bounds y (Config.freeHint s.tick k b)
  exact ⟨_, lo, hi, rfl, named⟩

theorem hbmStopped (h : s.flueRuns (k / 4) = false) (row : Nat) (write : Bool) :
    exec (.hbmAccess k b row write) s = .next s ∧ exec (.retryReissue k b) s = .next s :=
  ⟨if_pos (by simp [h]), if_pos (by simp [h])⟩

variable (s k b)

/-- A bank answers RETRY, with the requests that then wait. -/
def Stack.answersRetry (x : Stack) (waiting : List Retry) : Stack :=
  { x.setBank b { x.bank b with waiting := waiting, hints := (x.bank b).hints.tail } with retries := x.retries + 1 }

/-- What HBM_ACCESS makes of a stack whose flue die runs. -/
def Stack.accessed (row : Nat) (write : Bool) (x : Stack) : Stack :=
  let y := x.bank b
  if y.refreshing then x.answersRetry b (y.waiting ++ [⟨row, write, s.retryDue k b y⟩])
  else if !y.waiting.isEmpty then x.setBank b { y with waiting := y.waiting ++ [⟨row, write, s.time⟩] }
  else x.serve b row write (s.actmax k)

/-- What RETRY_REISSUE makes of a stack whose flue die runs. -/
def Stack.reissued (x : Stack) : Stack :=
  let y := x.bank b
  match y.waiting with
  | [] => x
  | q :: r =>
    if s.time.toNat < q.due.toNat then x
    else if y.refreshing then x.answersRetry b ({ q with due := s.retryDue k b y } :: r)
    else (x.setBank b { y with waiting := r }).serve b q.row q.write (s.actmax k)

variable {s k b}

theorem hbmAccess_runs (h : s.flueRuns (k / 4) = true) (row : Nat) (write : Bool) :
    exec (.hbmAccess k b row write) s = .next (s.modStack k (Stack.accessed s k b row write)) := if_neg (by simp [h])

theorem retryReissue_runs (h : s.flueRuns (k / 4) = true) :
    exec (.retryReissue k b) s = .next (s.modStack k (Stack.reissued s k b)) := if_neg (by simp [h])

/-- A RETRY is counted, and gives the time of its hint to the requests that then wait. -/
theorem answersRetry_outcome (x : Stack) (waiting : DWord → List Retry) :
    (x.answersRetry b (waiting (s.retryDue k b (x.bank b)))).retries = x.retries + 1
    ∧ ∃ a, (∃ n, 1 ≤ n ∧ n ≤ 1000 ∧ a = s.time + BitVec.ofNat 64 n ∧ ∀ h l, (x.bank b).hints = h :: l → 1 ≤ h → h ≤ 1000 → n = h)
      ∧ (x.answersRetry b (waiting (s.retryDue k b (x.bank b)))).bank b
        = { x.bank b with waiting := waiting a, hints := (x.bank b).hints.tail } :=
  ⟨rfl, _, retryDue_hinted (x.bank b), Stack.bank_setBank x b _⟩

section
variable {x : Stack}

theorem accessed_retry (hr : (x.bank b).refreshing = true) (row : Nat) (write : Bool) : x.accessed s k b row write
    = x.answersRetry b ((x.bank b).waiting ++ [⟨row, write, s.retryDue k b (x.bank b)⟩]) := if_pos hr

theorem accessed_behind (hr : (x.bank b).refreshing = false) (hw : (x.bank b).waiting ≠ []) (row : Nat) (write : Bool) :
    (x.accessed s k b row write).retries = x.retries
    ∧ (x.accessed s k b row write).bank b = { x.bank b with waiting := (x.bank b).waiting ++ [⟨row, write, s.time⟩] } := by
  have runs : x.accessed s k b row write = x.setBank b { x.bank b with waiting := (x.bank b).waiting ++ [⟨row, write, s.time⟩] } :=
    (if_neg (by simp [hr])).trans (if_pos (by simp [hw]))
  rw [runs]
  exact ⟨rfl, Stack.bank_setBank x b _⟩

theorem accessed_served (hr : (x.bank b).refreshing = false) (hw : (x.bank b).waiting = []) (row : Nat) (write : Bool) :
    (x.accessed s k b row write).retries = x.retries ∧ (x.accessed s k b row write).Serves b row := by
  have runs : x.accessed s k b row write = x.serve b row write (s.actmax k) := (if_neg (by simp [hr])).trans (if_neg (by simp [hw]))
  rw [runs]
  obtain ⟨hret, -, hserves⟩ := x.serve_outcome b row write (s.actmax k)
  exact ⟨hret, hserves⟩

theorem reissued_none (hw : (x.bank b).waiting = []) : x.reissued s k b = x := by
  rw [Stack.reissued, hw]

variable {q : Retry} {l : List Retry} (hw : (x.bank b).waiting = q :: l)
include hw

theorem reissued_early (hd : s.time.toNat < q.due.toNat) : x.reissued s k b = x := by
  rw [Stack.reissued, hw]
  exact if_pos hd

theorem reissued_retry (hd : q.due.toNat ≤ s.time.toNat) (hr : (x.bank b).refreshing = true) :
    x.reissued s k b = x.answersRetry b ({ q with due := s.retryDue k b (x.bank b) } :: l) := by
  rw [Stack.reissued, hw]
  exact (if_neg (Nat.not_lt.mpr hd)).trans (if_pos hr)

theorem reissued_served (hd : q.due.toNat ≤ s.time.toNat) (hr : (x.bank b).refreshing = false) :
    ((x.reissued s k b).bank b).waiting = l ∧ (x.reissued s k b).Serves b q.row := by
  have runs : x.reissued s k b = (x.setBank b { x.bank b with waiting := l }).serve b q.row q.write (s.actmax k) := by
    rw [Stack.reissued, hw]
    exact (if_neg (Nat.not_lt.mpr hd)).trans (if_neg (by simp [hr]))
  rw [runs]
  obtain ⟨-, hwait, hserves⟩ := (x.setBank b { x.bank b with waiting := l }).serve_outcome b q.row q.write (s.actmax k)
  exact ⟨hwait.trans (x.waiting_setBank b rfl), hserves⟩

end

end

end Sys2Proof.Machine
end

section
/-! SUPPORT (25 R366). A die that trips stops, is cleared and loses its contexts; of the other dies a trip changes nothing. -/

namespace Sys2Proof.Machine

/-- Of the dies but one nothing changes that `Die.SameUnit` names, and of the flue dies and the stacks nothing. -/
structure UnitsBut (die : Nat) (s s' : State) : Prop where
  flues : s'.flues = s.flues
  hbm : s'.hbm = s.hbm
  count : s'.dies.length = s.dies.length
  unit : ∀ d, d ≠ die → (s.die d).SameUnit (s'.die d)

/-- The die stands as a trip leaves it. -/
def State.Tripped (s : State) (current : Bool) (d : Nat) : Prop :=
  (s.die d).mode = .tripped ∧ (s.die d).tripOver = current ∧ (s.die d).tlb = []

theorem State.Tripped.same {s s' : State} {current : Bool} {d : Nat} (h : s.Tripped current d) (k : (s.die d).SameUnit (s'.die d)) :
    s'.Tripped current d := by
  obtain ⟨hmode, hover, htlb⟩ := h
  exact ⟨k.mode.trans hmode, k.trip.trans hover, k.tlb.trans htlb⟩

section
variable {s : State} {die c : Nat}

theorem stored_clearCaches (s : State) (die : Nat) : Stored s (s.clearCaches die) :=
  (stored_foldl _ (fun s _ => stored_foldl _ (fun s _ => stored_foldl _ (fun s _ => stored_writeBytes s _ _) _ s) _ s) _ s).trans
    (stored_caches _ _)

/-- The contexts that a trip of the die loses have been lost. -/
def State.tripLosses (s : State) (die : Nat) : State :=
  (s.lostOn die 3).foldl (fun s x => s.loseContext x.1 3 die) (s.clearCaches die)

theorem unitsKept_tripLosses (s : State) (die : Nat) : UnitsKept s (s.tripLosses die) := by
  have each (s : State) (x : Nat × Nat) : UnitsKept s (s.loseContext x.1 3 die) := unitsKept_loseContext s die x.1 3
  have all := UnitsKept.foldl each (s.lostOn die 3) (s.clearCaches die)
  have first := unitsKept_clearCaches s die
  exact first.trans all

theorem tripLosses_saves (i : Nat × SaveImage) (h : i ∈ (s.tripLosses die).saves) : i ∈ s.saves := by
  rw [← (Noted.of_stored (stored_clearCaches s die)).saves]
  exact foldl_loseContext_saves (s.lostOn die 3) (fun x => x.1) (fun _ => 3) i h

theorem tripLosses_lost (own : s.ownImages) (h : s.Lost c ∨ (∃ x ∈ s.lostOn die 3, x.1 = c) ∧ (s.context? c).isSome = true) :
    (s.tripLosses die).Lost c := by
  have cleared := stored_clearCaches s die
  have own' : (s.clearCaches die).ownImages := own.mono fun i hi => by rwa [(Noted.of_stored cleared).saves] at hi
  have there : (s.clearCaches die).context? c = s.context? c := congrArg (aget? · c) cleared.contexts
  refine loseContexts_lost (s.lostOn die 3) (fun x => x.1) (fun _ => 3) own' ?_
  rw [there]
  exact h.imp_left (·.stored cleared)

theorem tripDie_eq (s : State) (die : Nat) (current : Bool) : s.tripDie die current
    = ((s.tripLosses die).clearDie die).modDie die fun d => { d with mode := .tripped, tripOver := current } := rfl

/-- What a trip leaves of the contexts, the grids and the images is what the loss of its contexts leaves. -/
theorem tripDie_lost (own : s.ownImages) (current : Bool)
    (h : s.Lost c ∨ (∃ x ∈ s.lostOn die 3, x.1 = c) ∧ (s.context? c).isSome = true) : (s.tripDie die current).Lost c :=
  have lost := (tripLosses_lost own h).stored (stored_clearCaches _ die)
  ⟨lost.status, lost.grids⟩

theorem tripDie_saves (current : Bool) (i : Nat × SaveImage) (h : i ∈ (s.tripDie die current).saves) : i ∈ s.saves := by
  refine tripLosses_saves (die := die) i ?_
  rw [← (Noted.of_stored (stored_clearCaches (s.tripLosses die) die)).saves]
  exact h

theorem tripDie_units (current : Bool) : UnitsBut die s (s.tripDie die current)
    ∧ (die < s.dies.length → (s.tripDie die current).Tripped current die) := by
  have lost := (unitsKept_tripLosses s die).trans (unitsKept_clearCaches _ die)
  have count : ((s.tripLosses die).clearDie die).dies.length = s.dies.length := by
    rw [State.clearDie, modDie_dies_length]
    exact lost.count
  refine ⟨⟨lost.flues, lost.hbm, (modDie_dies_length _ _ _).trans count, fun d hd => ?_⟩, fun hlt => ?_⟩
  · rw [tripDie_eq, die_modDie, if_neg (fun h => hd h.1), State.clearDie, die_modDie, if_neg (fun h => hd h.1)]
    exact lost.unit d
  · unfold State.Tripped
    rw [tripDie_eq, die_modDie, if_pos ⟨rfl, count ▸ hlt⟩, State.clearDie, die_modDie, if_pos ⟨rfl, lost.count ▸ hlt⟩]
    exact ⟨rfl, rfl, rfl⟩

/-- A context with work on the die is among those that its trip loses. -/
theorem lostOn_of_holdsWork {x : Context} {k reason : Nat} (hx : s.context? k = some x) (hl : x.status ≠ .lost)
    (hw : s.holdsWork die (fun y => y == k) = true) : ∃ y ∈ s.lostOn die reason, y.1 = k := by
  have some : ∃ why, (if x.status == .lost then none
      else if s.threads.any fun y => y.2.ctx == k && y.2.die == die then some (k, reason)
      else if s.groups.any fun p => p.2.die == die && (match s.grid? p.2.grid with
        | some g => g.ctx == k
        | none => false) then some (k, reason)
      else if s.holdsWork die (· == k) then some (k, 4) else none) = some (k, why) := by
    rw [if_neg (by simpa using hl), if_pos hw]
    split
    · exact ⟨_, rfl⟩
    split <;> exact ⟨_, rfl⟩
  obtain ⟨why, hy⟩ := some
  exact ⟨(k, why), List.mem_filterMap.mpr ⟨(k, x), mem_of_aget hx, hy⟩, rfl⟩

end

/-! ## Four dies at once -/

section
variable {s : State} {current : Bool} {d : Nat}

/-- The dies of a list have tripped. -/
def State.tripDies (s : State) (current : Bool) (l : List Nat) : State := l.foldl (fun s d => s.tripDie d current) s

theorem tripDies_cons (s : State) (a : Nat) (l : List Nat) : s.tripDies current (a :: l) = (s.tripDie a current).tripDies current l := rfl

theorem tripDies_rest (l : List Nat) (s : State) : (s.tripDies current l).flues = s.flues ∧ (s.tripDies current l).hbm = s.hbm
    ∧ (s.tripDies current l).dies.length = s.dies.length := by
  induction l generalizing s with
  | nil => exact ⟨rfl, rfl, rfl⟩
  | cons a l ih =>
    obtain ⟨but, -⟩ := tripDie_units (s := s) (die := a) current
    obtain ⟨hflues, hhbm, hcount⟩ := ih (s.tripDie a current)
    rw [tripDies_cons]
    exact ⟨hflues.trans but.flues, hhbm.trans but.hbm, hcount.trans but.count⟩

theorem tripDies_tripped (l : List Nat) (s : State) (hd : d < s.dies.length) (h : d ∈ l ∨ s.Tripped current d) :
    (s.tripDies current l).Tripped current d := by
  induction l generalizing s with
  | nil => exact h.resolve_left List.not_mem_nil
  | cons a l ih =>
    obtain ⟨but, trips⟩ := tripDie_units (s := s) (die := a) current
    rw [tripDies_cons]
    refine ih _ (but.count ▸ hd) ?_
    by_cases ha : d = a
    · subst ha
      exact .inr (trips hd)
    · exact h.imp (fun h => (List.mem_cons.mp h).resolve_left ha) fun h => h.same (but.unit d ha)

theorem tripDies_lost {c : Nat} (l : List Nat) (s : State) (own : s.ownImages) (h : s.Lost c) : (s.tripDies current l).Lost c := by
  induction l generalizing s with
  | nil => exact h
  | cons a l ih =>
    rw [tripDies_cons]
    exact ih _ (own.mono (tripDie_saves current)) (tripDie_lost own current (.inl h))

theorem stack_modStack (s : State) (k : Nat) (f : Stack → Stack) (j : Nat) :
    (s.modStack k f).stack j = if j = k ∧ k < s.hbm.length then f (s.stack k) else s.stack j := by
  by_cases hj : j = k
  · subst hj
    by_cases hl : j < s.hbm.length <;> simp [State.modStack, State.stack, hl]
  · have hk : k ≠ j := fun h => hj h.symm
    simp [State.modStack, State.stack, hj, hk, List.getD_eq_getElem?_getD]

/-- The stacks of a list have been flushed. -/
def State.flushes (s : State) (l : List Nat) : State := l.foldl (fun s k => s.modStack k fun x => x.flush (s.actmax k)) s

theorem flushes_rest (l : List Nat) : ∀ s : State, ∃ h, s.flushes l = { s with hbm := h } := by
  induction l with
  | nil => exact fun s => ⟨_, rfl⟩
  | cons k l ih =>
    intro s
    obtain ⟨h, hs⟩ := ih (s.modStack k fun x => x.flush (s.actmax k))
    exact ⟨h, hs⟩

theorem flushes_lost {c : Nat} (l : List Nat) (h : s.Lost c) : (s.flushes l).Lost c := by
  obtain ⟨hbm, hs⟩ := flushes_rest l s
  rw [hs]
  exact ⟨h.status, h.grids⟩

theorem flushes_bufs (l : List Nat) : ∀ s : State, d < s.hbm.length → (d ∈ l ∨ ∀ b, ((s.stack d).bank b).bufs = []) →
    ∀ b, (((s.flushes l).stack d).bank b).bufs = [] := by
  induction l with
  | nil => exact fun s _ h => h.resolve_left List.not_mem_nil
  | cons k l ih =>
    intro s hd h
    refine ih (s.modStack k fun x => x.flush (s.actmax k)) (hd.trans_eq List.length_set.symm) ?_
    rw [stack_modStack]
    split
    · exact .inr fun b => Stack.flush_bufs _ _ b
    next hk =>
      refine h.imp_left fun h => (List.mem_cons.mp h).resolve_left fun hdk => hk ⟨hdk, hdk ▸ hd⟩

end

end Sys2Proof.Machine
end

section
/-! OBLIGATION O55. -/

namespace Sys2Proof.Machine

section
variable {s : State}

theorem ports_set (p : Nat) (hp : p < s.ports.length) (y : CxlPort) (k : Nat) :
    (s.ports.set p y).getD k ⟨false, 0⟩ = if k = p then y else s.ports.getD k ⟨false, 0⟩ := by
  by_cases h : k = p
  · subst h
    simp [hp]
  · have hk : p ≠ k := fun e => h e.symm
    simp [h, hk, List.getD_eq_getElem?_getD]

theorem cxlLinks (p : Nat) (hp : p < s.ports.length) : ∃ l u, exec (.cxlLinkDown p) s = .next { s with ports := l }
    ∧ exec (.cxlLinkUp p) s = .next { s with ports := u }
    ∧ ∀ k, ((l.getD k ⟨false, 0⟩).up = if k = p then false else (s.ports.getD k ⟨false, 0⟩).up)
      ∧ ((u.getD k ⟨false, 0⟩).up = if k = p then true else (s.ports.getD k ⟨false, 0⟩).up)
      ∧ (l.getD k ⟨false, 0⟩).cap = (s.ports.getD k ⟨false, 0⟩).cap
      ∧ (k ≠ p → (u.getD k ⟨false, 0⟩).cap = (s.ports.getD k ⟨false, 0⟩).cap) := by
  refine ⟨_, _, rfl, rfl, fun k => ?_⟩
  rw [ports_set p hp, ports_set p hp]
  by_cases h : k = p
  · subst h
    simp
  · simp [h]

/-- A trip of a die that is clocked. -/
theorem dieTrip_trips {die : Nat} (own : s.ownImages) (hd : die < s.dies.length) (hot : Bool)
    (hmode : (s.die die).mode = .run ∨ (s.die die).mode = .gated) : ∃ s', exec (.dieTrip die hot) s = .next s' ∧ s'.Tripped (!hot) die
      ∧ ∀ k x, s.context? k = some x → x.status ≠ .lost → s.holdsWork die (fun y => y == k) = true → s'.lostNow k := by
  have runs : exec (.dieTrip die hot) s
      = .next ((s.tripDie die !hot).notify die 0x08 0 (!hot).toNat (BitVec.ofNat 64 die) 0#64) := by
    show execDieTrip die hot s = _
    unfold execDieTrip
    rcases hmode with h | h <;> rw [h]
  obtain ⟨-, trips⟩ := tripDie_units (s := s) (die := die) !hot
  refine ⟨_, runs, (trips hd).same ((unitsKept_notify _ _ _ _ _ _ _).unit die), fun k x hx hl hw => ?_⟩
  have lost : (s.tripDie die !hot).Lost k := tripDie_lost own (!hot) (.inr ⟨lostOn_of_holdsWork hx hl hw, by rw [hx]; rfl⟩)
  exact (lost.stored (stored_notify _ _ _ _ _ _ _)).lostNow

theorem dieTrip_still {die : Nat} (hot : Bool) (hr : (s.die die).mode ≠ .run) (hg : (s.die die).mode ≠ .gated) :
    exec (.dieTrip die hot) s = .next s := by
  show execDieTrip die hot s = _
  unfold execDieTrip
  split
  · contradiction
  · contradiction
  all_goals rfl

end

/-! ## The trip of a flue die -/

section
variable (s : State) (f : Nat) (hot : Bool)

/-- The dies of a flue die. -/
def flueDies (f : Nat) : List Nat := (List.range 4).map (4 * f + ·)

theorem mem_flueDies {d : Nat} : d ∈ flueDies f ↔ 4 * f ≤ d ∧ d < 4 * f + 4 := by
  simp only [flueDies, List.mem_map, List.mem_range]
  exact ⟨fun ⟨i, hi, h⟩ => by omega, fun ⟨lo, hi⟩ => ⟨d - 4 * f, by omega, by omega⟩⟩

/-- Every context has been lost. -/
def State.losesAll : State :=
  ((s.contexts.filter fun c => c.2.status != .lost).map (·.1)).foldl (fun s c => s.loseContext c 3 (4 * f)) s

/-- The records of a flue die's trip. -/
def State.flueTripNotes : State :=
  (flueDies f).foldl (fun s d => s.notify d 0x08 0 ((!hot).toNat + 2) (BitVec.ofNat 64 f) 0#64) s

variable {s f hot}

theorem flueDieTrip_runs (h : (s.flue f).mode = .run) : exec (.flueDieTrip f hot) s = .next
    (((((s.losesAll f).tripDies (!hot) (flueDies f)).flushes (flueDies f)).flueTripNotes f hot).modFlue f
      fun y => { y with mode := .tripped }) :=
  if_neg (by simp [h])

theorem unitsKept_losesAll : UnitsKept s (s.losesAll f) := by
  have each (s : State) (c : Nat) : UnitsKept s (s.loseContext c 3 (4 * f)) := unitsKept_loseContext s (4 * f) c 3
  exact UnitsKept.foldl each _ s

theorem losesAll_ownImages (own : s.ownImages) : (s.losesAll f).ownImages :=
  own.mono fun i hi => foldl_loseContext_saves (α := Nat) _ (fun c => c) (fun _ => 3) i hi

theorem losesAll_lost (own : s.ownImages) {k : Nat} {x : Context} (hx : s.context? k = some x) (hl : x.status ≠ .lost) :
    (s.losesAll f).Lost k := by
  refine loseContexts_lost _ (fun c => c) (fun _ => 3) own (.inr ⟨⟨k, ?_, rfl⟩, by rw [hx]; rfl⟩)
  exact List.mem_map.mpr ⟨(k, x), List.mem_filter.mpr ⟨mem_of_aget hx, by simpa using hl⟩, rfl⟩

theorem unitsKept_flueTripNotes : UnitsKept s (s.flueTripNotes f hot) := by
  have each (s : State) (d : Nat) : UnitsKept s (s.notify d 0x08 0 ((!hot).toNat + 2) (BitVec.ofNat 64 f) 0#64) :=
    unitsKept_notify s d _ _ _ _ _
  exact UnitsKept.foldl each _ s

theorem stored_flueTripNotes : Stored s (s.flueTripNotes f hot) :=
  stored_foldl _ (fun s d => stored_notify s d _ _ _ _ _) _ s

theorem flueDieTrip_trips (own : s.ownImages) (hd : 4 * f + 3 < s.dies.length) (hf : f < s.flues.length) (hr : (s.flue f).mode = .run) :
    ∃ s', exec (.flueDieTrip f hot) s = .next s' ∧ (s'.flue f).mode = .tripped
      ∧ (∀ d, 4 * f ≤ d → d < 4 * f + 4 → s'.Tripped (!hot) d)
      ∧ (∀ d, 4 * f ≤ d → d < 4 * f + 4 → d < s.hbm.length → ∀ b, ((s'.stack d).bank b).bufs = [])
      ∧ ∀ k x, s.context? k = some x → x.status ≠ .lost → s'.lostNow k := by
  let s1 := s.losesAll f
  let s2 := s1.tripDies (!hot) (flueDies f)
  let s3 := s2.flushes (flueDies f)
  let s4 := s3.flueTripNotes f hot
  have k1 : UnitsKept s s1 := unitsKept_losesAll
  obtain ⟨flues2, hbm2, count2⟩ := tripDies_rest (current := !hot) (flueDies f) s1
  obtain ⟨h, h3⟩ : ∃ h, s3 = { s2 with hbm := h } := flushes_rest (flueDies f) s2
  have k4 : UnitsKept s3 s4 := unitsKept_flueTripNotes
  have flues3 : s3.flues = s2.flues := by rw [h3]
  have dies3 : s3.dies = s2.dies := by rw [h3]
  refine ⟨_, flueDieTrip_runs hr, ?flue, fun d lo hi => ?die, fun d lo hi hlen b => ?bank, fun k x hx hl => ?lost⟩
  case flue =>
    have len : f < s4.flues.length := by rwa [k4.flues, flues3, flues2, k1.flues]
    show ((s4.flues.set f _).getD f (Flue.reset f)).mode = .tripped
    simp [List.getD_eq_getElem?_getD, len]
  case die =>
    have hcount : d < s1.dies.length := by rw [k1.count]; omega
    have tripped : s2.Tripped (!hot) d := tripDies_tripped (flueDies f) s1 hcount (.inl ((mem_flueDies f).mpr ⟨lo, hi⟩))
    have tripped3 : s3.Tripped (!hot) d := tripped.same (by rw [State.die, State.die, dies3]; exact .refl _)
    exact tripped3.same (k4.unit d)
  case bank =>
    have hlen2 : d < s2.hbm.length := by rwa [hbm2, k1.hbm]
    have stack : s4.stack d = s3.stack d := congrArg (·.getD d Stack.reset) k4.hbm
    show ((s4.stack d).bank b).bufs = []
    rw [stack]
    exact flushes_bufs (flueDies f) s2 hlen2 (.inl ((mem_flueDies f).mpr ⟨lo, hi⟩)) b
  case lost =>
    have lost2 : s2.Lost k := tripDies_lost (flueDies f) s1 (losesAll_ownImages own) (losesAll_lost own hx hl)
    have lost3 : s3.Lost k := flushes_lost (flueDies f) lost2
    have lost4 : s4.Lost k := lost3.stored stored_flueTripNotes
    exact State.Lost.lostNow ⟨lost4.status, lost4.grids⟩

end

/-- Settles O55: each unit's outcomes are those of its lemma above. -/
theorem units : Obligations.Units := by
  unfold Obligations.Units
  intro s
  refine ⟨fun f o bs tr last => ?lines,
    fun c => ⟨applyPeers_none, applyPeers_peersIn s c, fun hm hl hall => applyPeers_read hm hl rfl hall⟩,
    fun t w o ht ho => ?timeout, cxlLinks, fun f => ⟨rfl, rfl⟩,
    fun die c va x leaf lv pa hx hva hd h16 hlen hmiss hw => pageWalk_fills hx hva hd h16 hlen hmiss hw, fun c n x p hx hp => ?pin,
    fun k b row write hs hk => ?bank, fun own die hot hd => ⟨dieTrip_trips own hd hot, dieTrip_still hot⟩,
    fun own f hot hd hf hr => flueDieTrip_trips own hd hf hr⟩
  case lines =>
    refine ⟨peerLine_shut (d := ⟨bs, tr, last⟩),
      fun hp hr hb => ⟨fun c va pa leaf hi => ⟨fun hcirc => ?_, fun hcirc => ?_⟩, peerLine_refused hp hr hb⟩⟩
    · exact (peerLine_placed hp hr hb hi).trans (by rw [if_neg (by simp [hcirc])])
    · exact (peerLine_placed hp hr hb hi).trans (by rw [if_pos hcirc]; rfl)
  case timeout =>
    obtain ⟨never, late⟩ := cxlTimeout_runs ht ho
    refine ⟨never, fun hl hv hs => ?_⟩
    obtain ⟨s', runs, ht'⟩ := late hl
    refine ⟨s', _, runs, ht', fun lax => ?_, fun x hx hstrict => ?_, fun d v hk => timedOut_loadS o _ hk hs, fun k v hk => ?_⟩
    · rw [timedOut_owed o _ hv, timeoutOwes_lax _ lax]
      exact List.append_nil _
    · rw [timedOut_owed o _ hv, hx, timeoutOwes_strict hstrict]
      rfl
    · obtain ⟨hops, hreg⟩ := timedOut_load o (s.cxlLate w.die o.since o.far) hk hv
      exact ⟨hops, fun r l _ => hreg r l⟩
  case pin =>
    refine ⟨_, pinFadePeriod_runs hx hp rfl, fun early => if_neg ?_, fun passed => ?_⟩
    · exact mt (msPassed_iff p.since).mp (Nat.not_le.mpr early)
    · rw [if_pos ((msPassed_iff p.since).mpr passed)]
      refine ⟨faded_touched, faded_lower, fun ht hc => ?_⟩
      rw [faded_released ht hc]
      exact ⟨aget_adel_same _ _, rfl⟩
  case bank =>
    refine ⟨⟨_, rfl, Stack.bank_setBank _ _ _, rfl⟩, ⟨_, rfl, Stack.bank_setBank _ _ _, rfl⟩, fun h => hbmStopped h row write,
      fun h => ⟨⟨_, hbmAccess_runs h row write, fun hr => ?_, fun hr hw => accessed_behind hr hw row write,
        fun hr hw => accessed_served hr hw row write⟩,
        _, retryReissue_runs h, reissued_none, fun q l hw => ⟨reissued_early hw, fun hd hr => ?_, reissued_served hw⟩⟩⟩
    · rw [accessed_retry hr]
      exact answersRetry_outcome (s.stack k) fun a => ((s.stack k).bank b).waiting ++ [⟨row, write, a⟩]
    · rw [reissued_retry hw hd hr]
      exact answersRetry_outcome (s.stack k) fun a => { q with due := a } :: l

end Sys2Proof.Machine
end
